-- ==== Sys2Proof/Word.lean ====
section
/-! DEFINITION. The word types of RLX-1 and their plainest arithmetic (R5, R39, R109 to R112). -/

namespace Sys2Proof

/-- A byte of memory. -/
abbrev Byte := BitVec 8
/-- A scalar register's contents. -/
abbrev W64 := BitVec 64
/-- A vector register's contents (1024 bits). -/
abbrev V1024 := BitVec 1024

/-- Cores 0 to 127 (R7). -/
abbrev CoreId := Fin 128
/-- Tenants 0 to 15 (R383). -/
abbrev TenantId := Fin 16
/-- Command queues cq0 to cq15 of one tenant (R346). -/
abbrev QueueId := Fin 16
/-- Samplers 0 to 7, one per cluster pair. -/
abbrev SamplerId := Fin 8

/-- The field of `len` bits of `w` that begins at bit `lo`. -/
def bits {n : Nat} (w : BitVec n) (lo len : Nat) : BitVec len := BitVec.extractLsb' lo len w

/-- The number that bits [lo + len - 1 : lo] of `w` spell. -/
def fieldNat {n : Nat} (w : BitVec n) (lo len : Nat) : Nat := (w.toNat >>> lo) % 2 ^ len

/-- Is bit `i` of `w` set? -/
def bitAt {n : Nat} (w : BitVec n) (i : Nat) : Bool := w.getLsbD i

/-- A one-bit vector from a truth value. -/
def bitOf (b : Bool) : BitVec 1 := if b then 1#1 else 0#1

/-- The 64-bit word that holds the number `n` modulo 2^64. -/
abbrev w64 (n : Nat) : W64 := BitVec.ofNat 64 n

end Sys2Proof
end

