-- ==== Sys2Proof/Machine/Crypto.lean ====
section
/-! DEFINITION. Byte strings as numbers (R5), AES-256 of one block in both directions (FIPS 197), as the generators of R261 use it,
AES-256-XTS of a 64-byte data unit (R391, R416), and SHA-384 and ECDSA over brainpoolP384r1 (R392). -/

namespace Sys2Proof.Machine

/-! ## Byte strings -/

/-- Element k of a list, or a default. -/
def nth {α : Type} (l : List α) (k : Nat) (d : α) : α := l.getD k d

/-- The number that bytes spell, least significant first (R5). -/
def leNat : List Byte → Nat
  | [] => 0
  | b :: bs => b.toNat + 256 * leNat bs

/-- The low `n` bytes of a number, least significant first (R5). -/
def toLe : Nat → Nat → List Byte
  | 0, _ => []
  | n + 1, v => BitVec.ofNat 8 v :: toLe n (v / 256)

/-- Bytes of a number, most significant first. -/
def toBe (n v : Nat) : List Byte := (toLe n v).reverse

/-! ## AES-256 -/

/-- Multiplication by x in GF(2^8). -/
def xtime (b : Byte) : Byte := if bitAt b 7 then (b <<< 1) ^^^ 0x1B else b <<< 1

/-- Product in GF(2^8), over `n` bits of the second factor. -/
def gmul : Nat → Byte → Byte → Byte
  | 0, _, _ => 0
  | n + 1, a, b => (if bitAt b 0 then a else 0) ^^^ gmul n (xtime a) (b >>> 1)

/-- The inverse in GF(2^8), 0 for 0: the 254th power. -/
def ginv (b : Byte) : Byte :=
  ((List.range 7).foldl (fun (r : Byte × Byte) _ => let sq := gmul 8 r.2 r.2; (gmul 8 r.1 sq, sq)) (1, b)).1

/-- The substitution of a byte. -/
def sbox (b : Byte) : Byte :=
  let i := ginv b
  i ^^^ i.rotateLeft 1 ^^^ i.rotateLeft 2 ^^^ i.rotateLeft 3 ^^^ i.rotateLeft 4 ^^^ 0x63

/-- The sum of two byte strings. -/
def xorBytes (a b : List Byte) : List Byte := List.zipWith (· ^^^ ·) a b

/-- Round constant `n`, from 1. -/
def rcon (n : Nat) : Byte := (List.range (n - 1)).foldl (fun b _ => xtime b) 1

/-- Word i of the key schedule from the words before it, newest first. -/
def nextWord (i : Nat) (ws : List (List Byte)) : List Byte :=
  let t := nth ws 0 []
  let t := if i % 8 = 0 then xorBytes (((t.drop 1) ++ t.take 1).map sbox) [rcon (i / 8), 0, 0, 0]
    else if i % 8 = 4 then t.map sbox else t
  xorBytes (nth ws 7 []) t

/-- The words of a list of bytes, newest first. -/
def keyWords (k : List Byte) : List (List Byte) := ((List.range 8).map fun i => (k.drop (4 * i)).take 4).reverse

/-- The 60 words of the key schedule, oldest first. -/
def schedule (k : List Byte) : List (List Byte) :=
  ((List.range 52).foldl (fun ws i => nextWord (i + 8) ws :: ws) (keyWords k)).reverse

/-- The round key of round r. -/
def roundKey (ws : List (List Byte)) (r : Nat) : List Byte := ((ws.drop (4 * r)).take 4).flatten

/-- The rows of a block, shifted. -/
def shiftRows (b : List Byte) : List Byte := (List.range 16).map fun i => nth b (i % 4 + 4 * ((i / 4 + i % 4) % 4)) 0

/-- One column, mixed. -/
def mixColumn (c : List Byte) : List Byte :=
  let a (i : Nat) : Byte := nth c (i % 4) 0
  (List.range 4).map fun i => xtime (a i) ^^^ (xtime (a (i + 1)) ^^^ a (i + 1)) ^^^ a (i + 2) ^^^ a (i + 3)

/-- The columns of a block, mixed. -/
def mixColumns (b : List Byte) : List Byte := (List.range 4).flatMap fun i => mixColumn ((b.drop (4 * i)).take 4)

/-- AES-256 of one block. -/
def aes256 (key block : List Byte) : List Byte :=
  let ws := schedule key
  let b := (List.range 13).foldl (fun b i => xorBytes (mixColumns (shiftRows (b.map sbox))) (roundKey ws (i + 1)))
    (xorBytes block (roundKey ws 0))
  xorBytes (shiftRows (b.map sbox)) (roundKey ws 14)

/-! ## The inverse cipher -/

/-- The inverse substitution of a byte. -/
def sboxInv (b : Byte) : Byte := ginv (b.rotateLeft 1 ^^^ b.rotateLeft 3 ^^^ b.rotateLeft 6 ^^^ 0x05)

/-- The rows of a block, shifted back. -/
def shiftRowsInv (b : List Byte) : List Byte :=
  (List.range 16).map fun i => nth b (i % 4 + 4 * ((i / 4 + 4 - i % 4) % 4)) 0

/-- One column, mixed back. -/
def mixColumnInv (c : List Byte) : List Byte :=
  let a (i : Nat) : Byte := nth c (i % 4) 0
  (List.range 4).map fun i => gmul 4 (a i) 14 ^^^ gmul 4 (a (i + 1)) 11 ^^^ gmul 4 (a (i + 2)) 13 ^^^ gmul 4 (a (i + 3)) 9

/-- The columns of a block, mixed back. -/
def mixColumnsInv (b : List Byte) : List Byte := (List.range 4).flatMap fun i => mixColumnInv ((b.drop (4 * i)).take 4)

/-- The inverse of AES-256 of one block. -/
def aes256Inv (key block : List Byte) : List Byte :=
  let ws := schedule key
  let b := ((shiftRowsInv (xorBytes block (roundKey ws 14))).map sboxInv)
  let b := (List.range 13).foldl (fun b i => (shiftRowsInv (mixColumnsInv (xorBytes b (roundKey ws (13 - i))))).map sboxInv) b
  xorBytes b (roundKey ws 0)

/-! ## XTS (R391, R416) -/

/-- A tweak times x, in the byte order of IEEE 1619. -/
def tweakNext (t : Nat) : Nat := (2 * t % 2 ^ 128) ^^^ (if 2 ^ 127 ≤ t then 0x87 else 0)

/-- The tweaks of the four blocks of a data unit: its offset in its tier, with the tier code in bits [127:126], under the tweak
key. -/
def tweaks (key : List Byte) (tier off : Nat) : List (List Byte) :=
  let t0 := leNat (aes256 (key.drop 32) (toLe 16 (off + tier * 2 ^ 126)))
  [t0, tweakNext t0, tweakNext (tweakNext t0), tweakNext (tweakNext (tweakNext t0))].map (toLe 16)

/-- A data unit of 64 bytes at offset `off` of a tier, each block passed through `f` under the data key. -/
def xtsUnit (f : List Byte → List Byte → List Byte) (key : BitVec 512) (tier off : Nat) (bs : List Byte) : List Byte :=
  let k := toLe 64 key.toNat
  (tweaks k tier off).zipIdx.flatMap fun t =>
    xorBytes (f (k.take 32) (xorBytes ((bs.drop (16 * t.2)).take 16) t.1)) t.1

/-- The ciphertext of a data unit. -/
def xtsEncrypt (key : BitVec 512) (tier off : Nat) (bs : List Byte) : List Byte := xtsUnit aes256 key tier off bs

/-- The plaintext of a data unit. -/
def xtsDecrypt (key : BitVec 512) (tier off : Nat) (bs : List Byte) : List Byte := xtsUnit aes256Inv key tier off bs

/-! ## SHA-384 (R392) -/

/-- The 80 round constants. -/
def shaK : List W64 :=
  [0x428A2F98D728AE22, 0x7137449123EF65CD, 0xB5C0FBCFEC4D3B2F, 0xE9B5DBA58189DBBC] ++
  [0x3956C25BF348B538, 0x59F111F1B605D019, 0x923F82A4AF194F9B, 0xAB1C5ED5DA6D8118] ++
  [0xD807AA98A3030242, 0x12835B0145706FBE, 0x243185BE4EE4B28C, 0x550C7DC3D5FFB4E2] ++
  [0x72BE5D74F27B896F, 0x80DEB1FE3B1696B1, 0x9BDC06A725C71235, 0xC19BF174CF692694] ++
  [0xE49B69C19EF14AD2, 0xEFBE4786384F25E3, 0x0FC19DC68B8CD5B5, 0x240CA1CC77AC9C65] ++
  [0x2DE92C6F592B0275, 0x4A7484AA6EA6E483, 0x5CB0A9DCBD41FBD4, 0x76F988DA831153B5] ++
  [0x983E5152EE66DFAB, 0xA831C66D2DB43210, 0xB00327C898FB213F, 0xBF597FC7BEEF0EE4] ++
  [0xC6E00BF33DA88FC2, 0xD5A79147930AA725, 0x06CA6351E003826F, 0x142929670A0E6E70] ++
  [0x27B70A8546D22FFC, 0x2E1B21385C26C926, 0x4D2C6DFC5AC42AED, 0x53380D139D95B3DF] ++
  [0x650A73548BAF63DE, 0x766A0ABB3C77B2A8, 0x81C2C92E47EDAEE6, 0x92722C851482353B] ++
  [0xA2BFE8A14CF10364, 0xA81A664BBC423001, 0xC24B8B70D0F89791, 0xC76C51A30654BE30] ++
  [0xD192E819D6EF5218, 0xD69906245565A910, 0xF40E35855771202A, 0x106AA07032BBD1B8] ++
  [0x19A4C116B8D2D0C8, 0x1E376C085141AB53, 0x2748774CDF8EEB99, 0x34B0BCB5E19B48A8] ++
  [0x391C0CB3C5C95A63, 0x4ED8AA4AE3418ACB, 0x5B9CCA4F7763E373, 0x682E6FF3D6B2B8A3] ++
  [0x748F82EE5DEFB2FC, 0x78A5636F43172F60, 0x84C87814A1F0AB72, 0x8CC702081A6439EC] ++
  [0x90BEFFFA23631E28, 0xA4506CEBDE82BDE9, 0xBEF9A3F7B2C67915, 0xC67178F2E372532B] ++
  [0xCA273ECEEA26619C, 0xD186B8C721C0C207, 0xEADA7DD6CDE0EB1E, 0xF57D4F7FEE6ED178] ++
  [0x06F067AA72176FBA, 0x0A637DC5A2C898A6, 0x113F9804BEF90DAE, 0x1B710B35131C471B] ++
  [0x28DB77F523047D84, 0x32CAAB7B40C72493, 0x3C9EBE0A15C9BEBC, 0x431D67C49C100D4C] ++
  [0x4CC5D4BECB3E42B6, 0x597F299CFC657E2A, 0x5FCB6FAB3AD6FAEC, 0x6C44198C4A475817]

/-- The initial hash value of SHA-384. -/
def shaInit : List W64 :=
  [0xCBBB9D5DC1059ED8, 0x629A292A367CD507, 0x9159015A3070DD17, 0x152FECD8F70E5939] ++
  [0x67332667FFC00B31, 0x8EB44A8768581511, 0xDB0C2E0D64F98FA7, 0x47B5481DBEFA4FA4]

/-- A padded message, in blocks of 128 bytes. -/
def shaPad (m : List Byte) : List Byte :=
  m ++ [0x80] ++ List.replicate ((239 - m.length % 128) % 128) 0 ++ toBe 16 (8 * m.length)

/-- The next word of the message schedule, from the 16 before it, newest first. -/
def shaWord (w : List W64) : W64 :=
  let a := nth w 14 0
  let b := nth w 1 0
  let s0 := a.rotateRight 1 ^^^ a.rotateRight 8 ^^^ (a >>> 7)
  let s1 := b.rotateRight 19 ^^^ b.rotateRight 61 ^^^ (b >>> 6)
  nth w 15 0 + s0 + nth w 6 0 + s1

/-- The 80 words of a block's schedule, oldest first. -/
def shaSchedule (block : List Byte) : List W64 :=
  let first := (List.range 16).map fun i => w64 (leNat ((block.drop (8 * i)).take 8).reverse)
  ((List.range 64).foldl (fun w _ => shaWord w :: w) first.reverse).reverse

/-- One round, on the eight working words. -/
def shaRound (v : List W64) (kw : W64 × W64) : List W64 :=
  let x (i : Nat) : W64 := nth v i 0
  let s1 := (x 4).rotateRight 14 ^^^ (x 4).rotateRight 18 ^^^ (x 4).rotateRight 41
  let ch := (x 4 &&& x 5) ^^^ (~~~(x 4) &&& x 6)
  let t1 := x 7 + s1 + ch + kw.1 + kw.2
  let s0 := (x 0).rotateRight 28 ^^^ (x 0).rotateRight 34 ^^^ (x 0).rotateRight 39
  let maj := (x 0 &&& x 1) ^^^ (x 0 &&& x 2) ^^^ (x 1 &&& x 2)
  [t1 + (s0 + maj), x 0, x 1, x 2, x 3 + t1, x 4, x 5, x 6]

/-- The hash value after one more block. -/
def shaBlock (h : List W64) (block : List Byte) : List W64 :=
  List.zipWith (· + ·) h ((shaK.zip (shaSchedule block)).foldl shaRound h)

/-- SHA-384 of a byte string: 48 bytes (FIPS 180-4). -/
def sha384 (m : List Byte) : List Byte :=
  let p := shaPad m
  let h := (List.range (p.length / 128)).foldl (fun h i => shaBlock h ((p.drop (128 * i)).take 128)) shaInit
  (h.take 6).flatMap fun w => toBe 8 w.toNat

/-! ## ECDSA over brainpoolP384r1 (R392; RFC 5639) -/

/-- The field's prime. -/
def ecP : Nat := 0x8CB91E82A3386D280F5D6F7E50E641DF152F7109ED5456B412B1DA197FB71123ACD3A729901D1A71874700133107EC53
/-- The curve's coefficient A. -/
def ecA : Nat := 0x7BC382C63D8C150C3C72080ACE05AFA0C2BEA28E4FB22787139165EFBA91F90F8AA5814A503AD4EB04A8C7DD22CE2826
/-- The curve's coefficient B. -/
def ecB : Nat := 0x04A8C7DD22CE28268B39B55416F0447C2FB77DE107DCD2A62E880EA53EEB62D57CB4390295DBC9943AB78696FA504C11
/-- The order of the base point. -/
def ecN : Nat := 0x8CB91E82A3386D280F5D6F7E50E641DF152F7109ED5456B31F166E6CAC0425A7CF3AB6AF6B7FC3103B883202E9046565

/-- A point of the curve; `none` is the point at infinity. -/
abbrev Point : Type := Option (Nat × Nat)

/-- The base point. -/
def ecG : Point := some
  (0x1D1C64F068CF45FFA2A63A81B7C13F6B8847A3E77EF14FE3DB7FCAFE0CBD10E8E826E03436D646AAEF87B2E247D4AF1E,
   0x8ABE1D7520F9C2A45CB1EB8E95CFD55262B70B29FEEC5864E19C054FF99129280E4646217791811142820341263C5315)

/-- `b` to the power `e`, modulo m, over `n` bits of the exponent. -/
def powMod (m : Nat) : Nat → Nat → Nat → Nat
  | 0, _, _ => 1 % m
  | n + 1, b, e => (if e % 2 = 1 then b else 1) * powMod m n (b * b % m) (e / 2) % m

/-- The inverse modulo a prime of 384 bits. -/
def invMod (m a : Nat) : Nat := powMod m 384 (a % m) (m - 2)

/-- The sum of two points. -/
def ecAdd : Point → Point → Point
  | none, q => q
  | p, none => p
  | some (x1, y1), some (x2, y2) =>
    if x1 = x2 ∧ (y1 + y2) % ecP = 0 then none
    else
      let l := if x1 = x2 then (3 * x1 * x1 + ecA) * invMod ecP (2 * y1) % ecP
        else (y2 + ecP - y1) * invMod ecP (x2 + ecP - x1) % ecP
      let x3 := (l * l + 2 * ecP - x1 - x2) % ecP
      some (x3, (l * (x1 + ecP - x3) + ecP - y1) % ecP)

/-- `k` times a point, over `n` bits of the factor. -/
def ecMul : Nat → Nat → Point → Point
  | 0, _, _ => none
  | n + 1, k, q => ecAdd (if k % 2 = 1 then q else none) (ecMul n (k / 2) (ecAdd q q))

/-- Is a pair of coordinates a point of the curve? -/
def ecOn (q : Nat × Nat) : Bool :=
  decide (q.1 < ecP) && decide (q.2 < ecP) && q.2 * q.2 % ecP == (q.1 * q.1 * q.1 + ecA * q.1 + ecB) % ecP

/-- The number that a message's hash stands for. -/
def ecHash (m : List Byte) : Nat := leNat (sha384 m).reverse

/-- Is (r, s) a signature of a message under a public key? -/
def ecdsaVerify (key : Nat × Nat) (m : List Byte) (r s : Nat) : Bool :=
  if r = 0 ∨ ecN ≤ r ∨ s = 0 ∨ ecN ≤ s ∨ ecOn key = false then false
  else
    let w := invMod ecN s
    match ecAdd (ecMul 384 (ecHash m * w % ecN) ecG) (ecMul 384 (r * w % ecN) (some key)) with
    | none => false
    | some q => q.1 % ecN == r

/-- The signature of a message by a private key, with the one-time number k. -/
def ecdsaSign (d k : Nat) (m : List Byte) : Nat × Nat :=
  match ecMul 384 k ecG with
  | none => (0, 0)
  | some q =>
    let r := q.1 % ecN
    (r, invMod ecN k * (ecHash m + r * d) % ecN)

/-! ## Random words -/

/-- The random word of a draw (R261, R416). -/
def drawWordOf (key : BitVec 256) (seqid step index : Nat) : BitVec 32 :=
  let block := toBe 4 seqid ++ toBe 4 step ++ toBe 4 index ++ toBe 4 0
  BitVec.ofNat 32 (leNat (((aes256 (toLe 32 key.toNat) block).drop 12).reverse))

end Sys2Proof.Machine
end

