-- ==== Sys2Proof/Syntax.lean ====
section
/-! DEFINITION. The instructions, commands, Pip instructions and events of the opcode table: one constructor of
`Instr` for each row of spec/opcode_table.json. -/

namespace Sys2Proof

/-- A guard of a lent byte: predicate `p`, complemented when `neg` (R107). -/
structure Guard where
  neg : Bool
  p : BitVec 4
deriving DecidableEq, Repr

/-- The lent byte of a syllable (R107): its guard, if any, and its immediate-extension bits.
With a guard only bits [1:0] of `ix` exist. -/
structure Lent where
  guard : Option Guard
  ix : BitVec 7
deriving DecidableEq, Repr

/-- A 7-bit scalar source: s0 to s63, y0 or y1 (R109). -/
inductive SSrc where
  | s (r : BitVec 6)
  | y (n : BitVec 1)
deriving DecidableEq, Repr

/-- A 7-bit scalar destination with its no-write-back bit N (R109, R111). -/
structure SDst where
  n : Bool
  r : BitVec 6
deriving DecidableEq, Repr

/-- A 6-bit vector source: v0 to v31, y2 (`y 0`) or y3 (`y 1`) (R110). -/
inductive VSrc where
  | v (r : BitVec 5)
  | y (n : BitVec 1)
deriving DecidableEq, Repr

/-- A 6-bit vector destination with its no-write-back bit N (R110, R111). -/
structure VDst where
  n : Bool
  r : BitVec 5
deriving DecidableEq, Repr

/-- The width of a vector syllable (R110). -/
inductive Width where
  | w256 | w512 | w1024
deriving DecidableEq, Repr

/-- The trip count of `loop`: a register or TRIP10 (R122). -/
inductive LoopCount where
  | reg (a : SSrc)
  | imm (n : BitVec 10)
deriving DecidableEq, Repr

/-- The count of `pause`: a register or N16 (R122). -/
inductive PauseCount where
  | reg (a : SSrc)
  | imm (n : BitVec 16)
deriving DecidableEq, Repr

/-- What Hazel sets with a partition beside TPART (R322, R355, R384, R386): the translation registers, the windows as pairs
of LO and HI, DSCTL (R369), the resources of R355 as masks, and SLOTMAPk with USEDk of the classes. -/
structure Grant where
  troot : BitVec 64
  kvdt : BitVec 64
  wins : List (BitVec 64 × BitVec 64)
  dsctl : BitVec 64
  hq : BitVec 256
  dn : BitVec 256
  hb : BitVec 64
  sg : BitVec 32
  pz : BitVec 64
  fring : BitVec 256
  streams : BitVec 256
  maps : List (BitVec 64 × BitVec 16)
deriving DecidableEq, Repr

/-- How the training of bring-up ends (R406): the stage that fails (3 or 4; else none: VERIFY's outcome is not among these), the failed
stacks and channels, the ports that train, and the ports that the strap pins bifurcate (R396). -/
structure Boot where
  fail : BitVec 3
  memfail : BitVec 56
  ports : BitVec 4
  split : BitVec 4
deriving DecidableEq, Repr

/-- The rows of the opcode table: first those with operands, then those without. Syllables carry their lent byte `x`;
commands, Pip instructions and events do not. Which core, queue, sampler or operation acts is no operand: it is the state's
cursor (log 1). -/
inductive Instr where
  /-- R129: Adds two scalar registers modulo 2^64 and writes the sum at issue + 1. -/
  | add (x : Lent) (d : SDst) (a : SSrc) (b : SSrc)
  /-- R129: Subtracts B from A modulo 2^64 and writes the result at issue + 1. -/
  | sub (x : Lent) (d : SDst) (a : SSrc) (b : SSrc)
  /-- R130: Writes the low 64 bits of the product of A and B at issue + 3. -/
  | mul (x : Lent) (d : SDst) (a : SSrc) (b : SSrc)
  /-- R130: Writes bits [127:64] of the signed product of A and B at issue + 3. -/
  | mulh (x : Lent) (d : SDst) (a : SSrc) (b : SSrc)
  /-- R130: Writes bits [127:64] of the unsigned product of A and B at issue + 3. -/
  | mulhn (x : Lent) (d : SDst) (a : SSrc) (b : SSrc)
  /-- R131: Signed division on the shared divider, with the result at issue + 20; a later division cancels it. -/
  | div (x : Lent) (d : SDst) (a : SSrc) (b : SSrc)
  /-- R131: Unsigned division on the shared divider, with the result at issue + 20. -/
  | divn (x : Lent) (d : SDst) (a : SSrc) (b : SSrc)
  /-- R131: Signed remainder on the shared divider, with the result at issue + 20. -/
  | rem (x : Lent) (d : SDst) (a : SSrc) (b : SSrc)
  /-- R131: Unsigned remainder on the shared divider, with the result at issue + 20. -/
  | remn (x : Lent) (d : SDst) (a : SSrc) (b : SSrc)
  /-- R129: Bitwise AND of A and B. -/
  | and (x : Lent) (d : SDst) (a : SSrc) (b : SSrc)
  /-- R129: Bitwise OR of A and B. -/
  | or (x : Lent) (d : SDst) (a : SSrc) (b : SSrc)
  /-- R129: Bitwise XOR of A and B. -/
  | xor (x : Lent) (d : SDst) (a : SSrc) (b : SSrc)
  /-- R129: A AND NOT B. -/
  | andn (x : Lent) (d : SDst) (a : SSrc) (b : SSrc)
  /-- R129: Logical left shift by B[7:0] under R53. -/
  | shl (x : Lent) (d : SDst) (a : SSrc) (b : SSrc)
  /-- R129: Logical right shift by B[7:0] under R53. -/
  | shr (x : Lent) (d : SDst) (a : SSrc) (b : SSrc)
  /-- R129: Arithmetic right shift by B[7:0] under R53. -/
  | sra (x : Lent) (d : SDst) (a : SSrc) (b : SSrc)
  /-- R129: Rotates A left by B[7:0] mod 64. -/
  | rot (x : Lent) (d : SDst) (a : SSrc) (b : SSrc)
  /-- R129: Counts the leading zero bits of A, giving 64 for zero. -/
  | clz (x : Lent) (d : SDst) (a : SSrc)
  /-- R129: Counts the one bits of A. -/
  | popc (x : Lent) (d : SDst) (a : SSrc)
  /-- R129: Signed minimum of A and B. -/
  | min (x : Lent) (d : SDst) (a : SSrc) (b : SSrc)
  /-- R129: Signed maximum of A and B. -/
  | max (x : Lent) (d : SDst) (a : SSrc) (b : SSrc)
  /-- R129: Unsigned minimum of A and B. -/
  | minn (x : Lent) (d : SDst) (a : SSrc) (b : SSrc)
  /-- R129: Unsigned maximum of A and B. -/
  | maxn (x : Lent) (d : SDst) (a : SSrc) (b : SSrc)
  /-- R129: Sign-extends the low 8, 16 or 32 bits of A, as the B code selects. -/
  | sext (x : Lent) (d : SDst) (a : SSrc) (w : BitVec 2)
  /-- R129: Zero-extends the low 8, 16 or 32 bits of A, as the B code selects. -/
  | zext (x : Lent) (d : SDst) (a : SSrc) (w : BitVec 2)
  /-- R135: Compares two registers under COND and writes a predicate at issue + 1. -/
  | cmp (x : Lent) (cond : BitVec 3) (pd : BitVec 4) (a : SSrc) (b : SSrc)
  /-- R136: Combines two predicates, each optionally complemented, into a predicate. -/
  | pop (x : Lent) (op : BitVec 3) (pd : BitVec 4) (na : Bool) (pa : BitVec 4) (nb : Bool) (pb : BitVec 4)
  /-- R137: Copies the predicate file into a scalar register. -/
  | pmovFrom (x : Lent) (d : SDst)
  /-- R137: Sets p1–p15 from the bits of a scalar register. -/
  | pmovTo (x : Lent) (a : SSrc)
  /-- R139: Computes a KV address from a generator and a position, landing at issue + 3. -/
  | agen (x : Lent) (d : SDst) (n : BitVec 2) (a : SSrc)
  /-- R138: Writes a 128-bit KV address generator from two registers. -/
  | agset (x : Lent) (n : BitVec 2) (a : SSrc) (b : SSrc)
  /-- R129: Writes A + (B << scale). -/
  | lea (x : Lent) (k : BitVec 2) (d : SDst) (a : SSrc) (b : SSrc)
  /-- R129: Selects A or B by a predicate read at issue. -/
  | sel (x : Lent) (p : BitVec 4) (d : SDst) (a : SSrc) (b : SSrc)
  /-- R129: Adds an extended signed immediate to A. -/
  | addi (x : Lent) (d : SDst) (a : SSrc) (imm : BitVec 10)
  /-- R135: Compares A with an immediate and writes a predicate. -/
  | cmpi (x : Lent) (cond : BitVec 3) (pd : BitVec 4) (a : SSrc) (imm : BitVec 10)
  /-- R133: Extracts a zero-extended bit field of A. -/
  | bfx (x : Lent) (d : SDst) (a : SSrc) (pos : BitVec 6) (len1 : BitVec 6)
  /-- R133: Inserts the low bits of A into a field of D. -/
  | bfi (x : Lent) (d : SDst) (a : SSrc) (pos : BitVec 6) (len1 : BitVec 6)
  /-- R134: Loads a sign-extended immediate. -/
  | movi (x : Lent) (d : SDst) (imm : BitVec 19)
  /-- R134: Shifts D left by 26 bits and ORs in an unsigned immediate. -/
  | movhi (x : Lent) (d : SDst) (imm : BitVec 19)
  /-- R142: Loads 1–8 bytes, landing at the latency of its class or later under a freeze. -/
  | ld (x : Lent) (sz : BitVec 2) (lc : BitVec 2) (sx : Bool) (d : BitVec 6) (a : BitVec 6) (off : BitVec 7)
  /-- R142: Stores the low bytes of a register to memory, or to the next plane in a zone window. -/
  | st (x : Lent) (sz : BitVec 2) (d : BitVec 6) (a : BitVec 6) (off : BitVec 7)
  /-- R143: An acquire load at a scope, on an aligned address. -/
  | ldacq (x : Lent) (sz : BitVec 2) (lc : BitVec 2) (sx : Bool) (scope : BitVec 3) (d : BitVec 6) (a : BitVec 6) (off : BitVec 4)
  /-- R143: A release store at a scope, on an aligned address. -/
  | strel (x : Lent) (sz : BitVec 2) (lc : BitVec 2) (scope : BitVec 3) (d : BitVec 6) (a : BitVec 6) (off : BitVec 4)
  /-- R144: An indivisible read-modify-write that returns the old value. -/
  | amo (x : Lent) (asz : BitVec 2) (lc : BitVec 2) (ord : BitVec 2) (scope : BitVec 3) (op : BitVec 3) (d : BitVec 6) (a : BitVec 6)
  /-- R144: A compare-and-swap of 4 or 8 bytes. -/
  | cas (x : Lent) (asz : BitVec 2) (lc : BitVec 2) (ord : BitVec 2) (scope : BitVec 3) (d : BitVec 6) (a : BitVec 6)
  /-- R144: A 16-byte compare-and-swap on register quadruples. -/
  | cas16 (x : Lent) (lc : BitVec 2) (ord : BitVec 2) (scope : BitVec 3) (d : BitVec 6) (a : BitVec 6)
  /-- R146: Starts the translation of an address, with no data access and no fault. -/
  | pref (x : Lent) (a : BitVec 6) (off : BitVec 7)
  /-- R147: Unconditional relative branch; its target issues at issue + 2. -/
  | br (x : Lent) (disp : BitVec 23)
  /-- R148: Relative branch taken when the predicate, optionally complemented, is 1. -/
  | brc (x : Lent) (neg : Bool) (p : BitVec 4) (disp : BitVec 18)
  /-- R147: Indirect branch to the address in A. -/
  | bri (x : Lent) (a : SSrc)
  /-- R149: Relative call; writes the link to s63 at issue + 1. -/
  | call (x : Lent) (disp : BitVec 23)
  /-- R149: Indirect call; writes the link to s63. -/
  | calli (x : Lent) (a : SSrc)
  /-- R149: Returns to the address in A, by default s63. -/
  | ret (x : Lent) (a : SSrc)
  /-- R151: Pushes a hardware-loop level with a register or immediate trip count. -/
  | loop (x : Lent) (cnt : LoopCount) (off : BitVec 12)
  /-- R151: Pushes a loop level whose trip count is SEQLEN, OCC or DRAFT at issue. -/
  | loopx (x : Lent) (sr : BitVec 4) (off : BitVec 12)
  /-- R153: Pops the innermost loop level and continues after its end bundle. -/
  | brk (x : Lent)
  /-- R155: Selects a schedule from OCC and DRAFT through a local-store table and branches to it. -/
  | bsel (x : Lent) (a : SSrc)
  /-- R156: Holds its bundle at issue for n unfrozen clocks, without freezing the core. -/
  | pause (x : Lent) (cnt : PauseCount)
  /-- R27: Ends the task; the core is released after its stores perform. -/
  | exit (x : Lent)
  /-- R106: A header syllable alone: one clock, with no effect except its overlay mark. -/
  | nop (ovl : Bool) (e0 : BitVec 8) (e1 : BitVec 8) (e2 : BitVec 8)
  /-- R162: Element-wise addition, rounded or wrapping, or saturating under .sat. -/
  | vadd (x : Lent) (wd : Width) (h : Bool) (et : BitVec 1) (d : VDst) (a : VSrc) (b : VSrc)
  /-- R162: Element-wise subtraction. -/
  | vsub (x : Lent) (wd : Width) (h : Bool) (et : BitVec 1) (d : VDst) (a : VSrc) (b : VSrc)
  /-- R162: Element-wise multiplication. -/
  | vmul (x : Lent) (wd : Width) (h : Bool) (et : BitVec 1) (d : VDst) (a : VSrc) (b : VSrc)
  /-- R163: Fused multiply-add into D, with one rounding. -/
  | vfma (x : Lent) (wd : Width) (h : Bool) (et : BitVec 1) (d : VDst) (a : VSrc) (b : VSrc)
  /-- R163: Fused multiply-subtract from D, with one rounding. -/
  | vfms (x : Lent) (wd : Width) (h : Bool) (et : BitVec 1) (d : VDst) (a : VSrc) (b : VSrc)
  /-- R162: Element-wise minimum. -/
  | vmin (x : Lent) (wd : Width) (h : Bool) (et : BitVec 1) (d : VDst) (a : VSrc) (b : VSrc)
  /-- R162: Element-wise maximum. -/
  | vmax (x : Lent) (wd : Width) (h : Bool) (et : BitVec 1) (d : VDst) (a : VSrc) (b : VSrc)
  /-- R162: Element-wise absolute value. -/
  | vabs (x : Lent) (wd : Width) (h : Bool) (et : BitVec 1) (d : VDst) (a : VSrc)
  /-- R162: Element-wise negation. -/
  | vneg (x : Lent) (wd : Width) (h : Bool) (et : BitVec 1) (d : VDst) (a : VSrc)
  /-- R162: Element-wise AND. -/
  | vand (x : Lent) (wd : Width) (h : Bool) (et : BitVec 1) (d : VDst) (a : VSrc) (b : VSrc)
  /-- R162: Element-wise OR. -/
  | vor (x : Lent) (wd : Width) (h : Bool) (et : BitVec 1) (d : VDst) (a : VSrc) (b : VSrc)
  /-- R162: Element-wise XOR. -/
  | vxor (x : Lent) (wd : Width) (h : Bool) (et : BitVec 1) (d : VDst) (a : VSrc) (b : VSrc)
  /-- R162: Element-wise logical left shift. -/
  | vshl (x : Lent) (wd : Width) (h : Bool) (et : BitVec 1) (d : VDst) (a : VSrc) (b : VSrc)
  /-- R162: Element-wise logical right shift. -/
  | vshr (x : Lent) (wd : Width) (h : Bool) (et : BitVec 1) (d : VDst) (a : VSrc) (b : VSrc)
  /-- R162: Element-wise arithmetic right shift. -/
  | vsra (x : Lent) (wd : Width) (h : Bool) (et : BitVec 1) (d : VDst) (a : VSrc) (b : VSrc)
  /-- R162: Element-wise rotate. -/
  | vrot (x : Lent) (wd : Width) (h : Bool) (et : BitVec 1) (d : VDst) (a : VSrc) (b : VSrc)
  /-- R165: Compares elements and writes a mask. -/
  | vcmp (x : Lent) (wd : Width) (h : Bool) (et : BitVec 1) (cond : BitVec 3) (md : BitVec 3) (a : VSrc) (b : VSrc)
  /-- R166: Selects byte lanes of A or B under a mask. -/
  | vsel (x : Lent) (wd : Width) (h : Bool) (d : VDst) (a : VSrc) (b : VSrc)
  /-- R164: Adds pairs of 16-bit products into 32-bit lanes. -/
  | vmac16 (x : Lent) (wd : Width) (h : Bool) (et : BitVec 1) (d : VDst) (a : VSrc) (b : VSrc)
  /-- R164: Adds four 8-bit products into 32-bit lanes. -/
  | vdot4 (x : Lent) (wd : Width) (h : Bool) (et : BitVec 1) (d : VDst) (a : VSrc) (b : VSrc)
  /-- R162: Saturating element-wise addition. -/
  | vsadd (x : Lent) (wd : Width) (h : Bool) (et : BitVec 1) (d : VDst) (a : VSrc) (b : VSrc)
  /-- R162: Saturating element-wise subtraction. -/
  | vssub (x : Lent) (wd : Width) (h : Bool) (et : BitVec 1) (d : VDst) (a : VSrc) (b : VSrc)
  /-- R170: Reduces A by add, min or max in a fixed tree. -/
  | vred (x : Lent) (wd : Width) (h : Bool) (et : BitVec 1) (op : BitVec 3) (d : VDst) (a : VSrc)
  /-- R168: Permutes elements of A by indices in B. -/
  | vperm (x : Lent) (wd : Width) (h : Bool) (et : BitVec 1) (d : VDst) (a : VSrc) (b : VSrc)
  /-- R169: Broadcasts a scalar to every element. -/
  | vbcst (x : Lent) (wd : Width) (h : Bool) (et : BitVec 1) (d : VDst) (a : BitVec 6)
  /-- R169: Inserts a scalar into one element. -/
  | vins (x : Lent) (wd : Width) (h : Bool) (et : BitVec 1) (d : VDst) (a : BitVec 6) (idx : BitVec 6)
  /-- R169: Extracts one element into a scalar register. -/
  | vext (x : Lent) (wd : Width) (h : Bool) (et : BitVec 1) (d : BitVec 6) (a : VSrc) (idx : BitVec 6)
  /-- R169: Copies bits [W-1:0] of a vector register. -/
  | vmov (x : Lent) (wd : Width) (h : Bool) (d : VDst) (a : VSrc)
  /-- R171: Converts elements between two types. -/
  | vcvt (x : Lent) (wd : Width) (h : Bool) (d : VDst) (a : VSrc) (tgt : BitVec 4) (src : BitVec 4)
  /-- R172: Narrows two sources into one register. -/
  | vpack (x : Lent) (wd : Width) (h : Bool) (form : BitVec 2) (d : VDst) (a : VSrc) (b : VSrc)
  /-- R173: Widens one half of A. -/
  | vunpk (x : Lent) (wd : Width) (h : Bool) (form : BitVec 2) (hi : Bool) (d : VDst) (a : VSrc)
  /-- R175: Measures a block and sets the scale latch QS. -/
  | vmaxe (x : Lent) (wd : Width) (h : Bool) (d : VDst) (a : VSrc) (tgt : BitVec 4) (src : BitVec 4)
  /-- R176: Scales a block by QS and converts it to the target type. -/
  | vcvtq (x : Lent) (wd : Width) (h : Bool) (d : VDst) (a : VSrc) (tgt : BitVec 4) (src : BitVec 4)
  /-- R177: Element-wise 2^x. -/
  | vexp2 (x : Lent) (wd : Width) (h : Bool) (d : VDst) (a : VSrc) (ty : BitVec 4)
  /-- R177: Element-wise log2 x. -/
  | vlog2 (x : Lent) (wd : Width) (h : Bool) (d : VDst) (a : VSrc) (ty : BitVec 4)
  /-- R177: Element-wise reciprocal. -/
  | vrcp (x : Lent) (wd : Width) (h : Bool) (d : VDst) (a : VSrc) (ty : BitVec 4)
  /-- R177: Element-wise reciprocal square root. -/
  | vrsq (x : Lent) (wd : Width) (h : Bool) (d : VDst) (a : VSrc) (ty : BitVec 4)
  /-- R177: Element-wise tanh. -/
  | vtanh (x : Lent) (wd : Width) (h : Bool) (d : VDst) (a : VSrc) (ty : BitVec 4)
  /-- R178: Adds a bucketed relative-position bias to the attention scores. -/
  | vrpb (x : Lent) (wd : Width) (h : Bool) (bidir : Bool) (d : VDst) (a : VSrc) (p : VSrc)
  /-- R179: Loads W/8 contiguous bytes into a vector register. -/
  | vld (x : Lent) (wd : Width) (lc : BitVec 2) (d : BitVec 5) (a : BitVec 6) (off : BitVec 9)
  /-- R179: Stores W/8 bytes, optionally under a mask. -/
  | vst (x : Lent) (wd : Width) (vs : VSrc) (a : BitVec 6) (me : Bool) (m : BitVec 3) (off : BitVec 6)
  /-- R180: Strided vector load. -/
  | vlds (x : Lent) (wd : Width) (lc : BitVec 2) (d : BitVec 5) (a : BitVec 6) (b : BitVec 6) (es : BitVec 2)
  /-- R180: Strided vector store. -/
  | vsts (x : Lent) (wd : Width) (vs : VSrc) (a : BitVec 6) (b : BitVec 6) (es : BitVec 2)
  /-- R167: Logical operation on mask registers. -/
  | vmsk (x : Lent) (wd : Width) (op : BitVec 3) (md : BitVec 3) (ma : BitVec 3) (mb : BitVec 3)
  /-- R194: Configures a tile's shape and type and zeroes it. -/
  | tcfg (x : Lent) (t : BitVec 3) (rowsm1 : BitVec 7) (colsm1 : BitVec 7) (int : Bool)
  /-- R194: Marks a tile unconfigured. -/
  | tcfgOff (x : Lent) (t : BitVec 3)
  /-- R194: Zeroes a range of tile rows. -/
  | tzero (x : Lent) (t : BitVec 3) (row0 : BitVec 7) (nm1 : BitVec 7)
  /-- R195: Moves 32 elements of a vector into a tile row. -/
  | trowmv (x : Lent) (t : BitVec 3) (row : BitVec 7) (cb : BitVec 2) (va : VSrc)
  /-- R195: Reads 32 elements of a tile row into a vector. -/
  | trowrd (x : Lent) (t : BitVec 3) (row : BitVec 7) (cb : BitVec 2) (vd : BitVec 5)
  /-- R195: Reads 32 elements of a tile column into a vector. -/
  | tcolrd (x : Lent) (t : BitVec 3) (row : BitVec 7) (cb : BitVec 2) (vd : BitVec 5)
  /-- R201: Queues a matrix pass of M ring rows against a latch, draining into a tile. -/
  | mma (x : Lent) (t : BitVec 3) (k : BitVec 2) (ring : BitVec 2) (fa : BitVec 3) (fb : BitVec 3) (a : BitVec 6) (sat : Bool)
  /-- R202: Posts a paired pass that sums the chains with the partner core's. -/
  | mmap (x : Lent) (t : BitVec 3) (k : BitVec 2) (ring : BitVec 2) (fa : BitVec 3) (fb : BitVec 3) (a : BitVec 6) (sat : Bool)
  /-- R196: Loads a latch image from the local store through the loader. -/
  | mlatch (x : Lent) (k : BitVec 2) (fmt : BitVec 3) (a : BitVec 6)
  /-- R197: Writes the scale slot of a latch. -/
  | mscl (x : Lent) (k : BitVec 2) (a : BitVec 6)
  /-- R204: Writes tile rows to the local store, optionally converting and zeroing them. -/
  | mdrain (x : Lent) (t : BitVec 3) (fmt : BitVec 2) (z : Bool) (a : BitVec 6)
  /-- R207: Starts a microprogram routine. -/
  | mcall (x : Lent) (idx : BitVec 6)
  /-- R208: Writes a matrix parameter register. -/
  | mpset (x : Lent) (n : BitVec 3) (a : BitVec 6)
  /-- R198: Configures or unconfigures an operand ring. -/
  | ringcfg (x : Lent) (ring : BitVec 2) (a : BitVec 6) (b : BitVec 6)
  /-- R198: Advances a ring's head and returns the ring word. -/
  | ringpop (x : Lent) (ring : BitVec 2) (d : BitVec 6) (n : BitVec 11)
  /-- R198: Advances a ring's tail and returns the ring word. -/
  | ringpush (x : Lent) (ring : BitVec 2) (d : BitVec 6) (n : BitVec 11)
  /-- R208: Loads matrix parameters from the local store. -/
  | mpload (x : Lent) (n : BitVec 3) (cm1 : BitVec 3) (a : BitVec 6)
  /-- R217: Starts a multi-dimensional copy from a descriptor and returns a token. -/
  | copy (x : Lent) (d : BitVec 6) (a : BitVec 6) (ord : Bool) (acq : Bool) (rel : Bool) (scope : BitVec 3)
  /-- R220: A copy that also posts a completion record to a done ring. -/
  | copyc (x : Lent) (d : BitVec 6) (a : BitVec 6) (ord : Bool) (acq : Bool) (rel : Bool) (scope : BitVec 3)
  /-- R224: Moves rows from KV space into an operand ring. -/
  | kld (x : Lent) (d : BitVec 6) (a : BitVec 6) (b : BitVec 6) (acq : Bool) (rel : Bool) (scope : BitVec 3)
  /-- R225: Writes local-store bytes to KV space. -/
  | kst (x : Lent) (d : BitVec 6) (a : BitVec 6) (b : BitVec 6) (acq : Bool) (rel : Bool) (scope : BitVec 3)
  /-- R225: Appends bytes at provisional positions and raises PEND. -/
  | kapp (x : Lent) (d : BitVec 6) (a : BitVec 6) (b : BitVec 6) (acq : Bool) (rel : Bool) (scope : BitVec 3)
  /-- R227: Allocates pages for a list of requests, all or nothing. -/
  | kalloc (x : Lent) (d : BitVec 6) (a : BitVec 6) (b : BitVec 6) (acq : Bool) (rel : Bool) (scope : BitVec 3)
  /-- R228: Unmaps pieces and returns pages whose count reaches 0. -/
  | kfree (x : Lent) (d : BitVec 6) (a : BitVec 6) (b : BitVec 6) (acq : Bool) (rel : Bool) (scope : BitVec 3)
  /-- R229: Sets the committed length, evicts under the window and optionally trims. -/
  | kcommit (x : Lent) (d : BitVec 6) (a : BitVec 6) (b : BitVec 6) (acq : Bool) (rel : Bool) (scope : BitVec 3)
  /-- R231: Fingerprints pages and shares identical ones through the index. -/
  | kdedup (x : Lent) (d : BitVec 6) (a : BitVec 6) (b : BitVec 6) (acq : Bool) (rel : Bool) (scope : BitVec 3)
  /-- R232: Copies a block-table row to another slot and raises the page counts. -/
  | kfork (x : Lent) (d : BitVec 6) (a : BitVec 6) (b : BitVec 6) (acq : Bool) (rel : Bool) (scope : BitVec 3)
  /-- R230: Sets a slot's window size. -/
  | kwin (x : Lent) (d : BitVec 6) (a : BitVec 6) (b : BitVec 6) (acq : Bool) (rel : Bool) (scope : BitVec 3)
  /-- R230: Pins or unpins a piece of a slot. -/
  | kpin (x : Lent) (d : BitVec 6) (a : BitVec 6) (b : BitVec 6) (acq : Bool) (rel : Bool) (scope : BitVec 3)
  /-- R234: Binds a stream slot and register to a read or write pattern. -/
  | sbind (x : Lent) (slot : BitVec 3) (vr : BitVec 3) (dir : Bool) (a : BitVec 6)
  /-- R235: Ends a stream binding. -/
  | sfree (x : Lent) (slot : BitVec 3)
  /-- R236: Pushes a gather index to a stream's gather queue. -/
  | ixq (x : Lent) (slot : BitVec 3) (a : BitVec 6)
  /-- R238: Puts a token on a hardware queue, as a release, holding while the queue is full. -/
  | qput (x : Lent) (q : BitVec 8) (a : BitVec 6)
  /-- R238: Takes the oldest token from a hardware queue, holding while it is empty. -/
  | qget (x : Lent) (q : BitVec 8) (d : BitVec 6)
  /-- R222: Holds until a done ring's PCNT exceeds A, then returns PCNT. -/
  | crwait (x : Lent) (dn : BitVec 8) (a : BitVec 6) (d : BitVec 6)
  /-- R82: Orders later accesses after earlier loads. -/
  | fenceAcq (x : Lent) (scope : BitVec 3) (lc : BitVec 2)
  /-- R82: Orders later stores after every earlier access at the scope. -/
  | fenceRel (x : Lent) (scope : BitVec 3) (lc : BitVec 2)
  /-- R82: Acquire and release fence together. -/
  | fenceAr (x : Lent) (scope : BitVec 3) (lc : BitVec 2)
  /-- R82: Waits until earlier remote accesses have performed at the scope. -/
  | drain (x : Lent) (scope : BitVec 3) (lc : BitVec 2)
  /-- R34: Arrives at a barrier as a release and returns at once. -/
  | bara (x : Lent) (hb : BitVec 6)
  /-- R34: Waits for the barrier phase to complete or break. -/
  | barw (x : Lent) (hb : BitVec 6)
  /-- R125: Arrives at a barrier and then waits on it. -/
  | barwA (x : Lent) (hb : BitVec 6)
  /-- R241: Programs a barrier's count and member set and binds it to the cohort. -/
  | barset (x : Lent) (hb : BitVec 6) (a : BitVec 6) (b : BitVec 6)
  /-- R242: Makes the task a member of a step group. -/
  | stepjoin (x : Lent) (sg : BitVec 5)
  /-- R243: Arrives at a step and holds until the group commits or breaks. -/
  | step (x : Lent) (sg : BitVec 5)
  /-- R246: Arrives in the open step and leaves the group after its commit. -/
  | stepleave (x : Lent) (sg : BitVec 5)
  /-- R248: Sends a chunk of logits from a tile to the pair's sampler. -/
  | logit (x : Lent) (d : BitVec 6) (a : BitVec 6) (b : BitVec 6)
  /-- R247: Writes KVSLOT to bind a sequence. -/
  | seqbind (x : Lent) (a : BitVec 6)
  /-- R249: Submits a draft tree to the sampler. -/
  | verify (x : Lent) (d : BitVec 6) (a : BitVec 6) (b : BitVec 6)
  /-- R251: Moves pages between the near and far tiers. -/
  | tmove (x : Lent) (d : BitVec 6) (a : BitVec 6) (b : BitVec 6)
  /-- R250: Posts a value to the bound sequence's mailbox. -/
  | mbox (x : Lent) (d : BitVec 6) (a : BitVec 6) (b : BitVec 6)
  /-- R314: Takes the bundle's effect, then traps with SYSCALL. -/
  | syscall (x : Lent) (n : BitVec 16)
  /-- R315: Returns to user level at SEPC and replays the snapshot buffer. -/
  | eret (x : Lent)
  /-- R316: Reads a special register. -/
  | mfsr (x : Lent) (d : BitVec 6) (srn : BitVec 8)
  /-- R316: Writes the RW fields of a special register. -/
  | mtsr (x : Lent) (a : SSrc) (srn : BitVec 8)
  /-- R317: Saves the suspended context, its snapshot and its live granules. -/
  | csave (x : Lent) (d : BitVec 6)
  /-- R317: Restores a context from its save area. -/
  | crest (x : Lent) (d : BitVec 6)
  /-- R318: Hands the tile file to the current context, saving the owner's dirty state. -/
  | tsave (x : Lent) (d : BitVec 6)
  /-- R382: Saves the dirty tile state of the owner and invalidates TOWN. -/
  | tsaveOut (x : Lent) (d : BitVec 6)
  /-- R335: Removes the translations of one page. -/
  | tlbinvPage (x : Lent) (d : BitVec 6) (a : BitVec 6)
  /-- R335: Removes every translation of a tenant. -/
  | tlbinvTen (x : Lent) (d : BitVec 6) (a : BitVec 6)
  /-- R319: Removes every translation. -/
  | tlbinvAll (x : Lent) (d : BitVec 6)
  /-- R320: Ends the supervisor's run and frees the core. -/
  | wfi (x : Lent)
  /-- R321: Stops the core until reset; its context is killed. -/
  | halt (x : Lent)
  /-- R403: The encoder puts a bitstream chunk token on BSQ. -/
  | chunkToken (n : BitVec 3) (len : BitVec 20) (last : Bool)
  /-- R404: Sesame writes a record to an egress ring when there is room and advances WP. -/
  | sesameEgressRecord (t : TenantId) (ch : BitVec 6) (mbox : Option (BitVec 12))
  /-- R352: Copies a command register. -/
  | cmov (d : BitVec 4) (a : BitVec 4)
  /-- R352: Loads a sign-extended 14-bit immediate. -/
  | cmovi (d : BitVec 4) (imm : BitVec 14)
  /-- R352: Loads a 64-bit immediate from the extension word. -/
  | cmoviExt (d : BitVec 4) (ext : BitVec 64)
  /-- R352: Adds two command registers. -/
  | cadd (d : BitVec 4) (a : BitVec 4) (b : BitVec 4)
  /-- R352: Adds a 64-bit immediate. -/
  | caddImm (d : BitVec 4) (a : BitVec 4) (ext : BitVec 64)
  /-- R352: Subtracts two command registers. -/
  | csub (d : BitVec 4) (a : BitVec 4) (b : BitVec 4)
  /-- R352: Subtracts a 64-bit immediate. -/
  | csubImm (d : BitVec 4) (a : BitVec 4) (ext : BitVec 64)
  /-- R352: ANDs two command registers. -/
  | cand (d : BitVec 4) (a : BitVec 4) (b : BitVec 4)
  /-- R352: ANDs with a 64-bit immediate. -/
  | candImm (d : BitVec 4) (a : BitVec 4) (ext : BitVec 64)
  /-- R352: ORs two command registers. -/
  | cor (d : BitVec 4) (a : BitVec 4) (b : BitVec 4)
  /-- R352: ORs with a 64-bit immediate. -/
  | corImm (d : BitVec 4) (a : BitVec 4) (ext : BitVec 64)
  /-- R352: Compares two registers under COND and writes 1 or 0. -/
  | ccmp (d : BitVec 4) (a : BitVec 4) (b : BitVec 4) (cond : BitVec 3)
  /-- R352: Compares with a 64-bit immediate. -/
  | ccmpImm (d : BitVec 4) (a : BitVec 4) (ext : BitVec 64) (cond : BitVec 3)
  /-- R353: Branches always, or on a zero or nonzero register. -/
  | cbr (mode : BitVec 2) (d : BitVec 4) (disp : BitVec 14)
  /-- R353: Decrements a counter and branches while it is nonzero. -/
  | cloop (d : BitVec 4) (disp : BitVec 14)
  /-- R353: Relative call of a command subroutine. -/
  | ccall (disp : BitVec 14)
  /-- R353: Call of the address in cA. -/
  | ccallIndirect (a : BitVec 4)
  /-- R354: Loads 8 bytes of device virtual space as an acquire at system scope. -/
  | cld (d : BitVec 4) (a : BitVec 4) (off : BitVec 13)
  /-- R355: Reads a doubleword of a resource record. -/
  | cldR (d : BitVec 4) (a : BitVec 4) (off : BitVec 13)
  /-- R354: Stores 8 bytes, performed at system scope. -/
  | cst (d : BitVec 4) (a : BitVec 4) (off : BitVec 13)
  /-- R357: Writes a resource record doubleword, enabling or disabling the resource through DW0. -/
  | cstR (d : BitVec 4) (a : BitVec 4) (off : BitVec 13)
  /-- R363: Repeats an acquire read until the condition holds. -/
  | cwait (a : BitVec 4) (b : BitVec 4) (cond : BitVec 3)
  /-- R363: Writes a word as a release at system scope. -/
  | csigSet (a : BitVec 4) (b : BitVec 4)
  /-- R363: Atomically adds to a word as a release at system scope. -/
  | csigAdd (a : BitVec 4) (b : BitVec 4)
  /-- R359: Hands a start vector to the dispatchers and returns 0 or a reject reason. -/
  | claunch (d : BitVec 4) (a : BitVec 4) (b : BitVec 4)
  /-- R360: Installs, replaces or uninstalls an image's segment table. -/
  | cseg (a : BitVec 4)
  /-- R361: Starts a copy from a descriptor in device virtual space. -/
  | ccopy (d : BitVec 4) (a : BitVec 4)
  /-- R361: Starts a copy that also posts a completion record. -/
  | ccopyC (d : BitVec 4) (a : BitVec 4)
  /-- R364: Reads DTIME. -/
  | ctime (d : BitVec 4)
  /-- R364: Reads a stream's current rung. -/
  | crungRd (d : BitVec 4) (a : BitVec 4)
  /-- R376: Requests a rung for a stream from its next frame boundary. -/
  | crungSet (a : BitVec 4) (b : BitVec 4)
  /-- R364: Raises an MSI-X vector after earlier accesses perform. -/
  | cint (n : BitVec 5)
  /-- R347: The host writes WP to publish submissions. -/
  | cqwpDoorbell (t : TenantId) (q : QueueId) (wp : BitVec 32)
  /-- R348: Enables or disables a queue; disabling ends the current submission. -/
  | cqctlWrite (t : TenantId) (q : QueueId) (val : BitVec 64)
  /-- R294: Writing SVCB reads the supervisor control block and puts it in force, or clears EN. -/
  | svcbWrite (t : TenantId) (val : BitVec 64)
  /-- R383: Creates, changes or disables a partition, or is refused. -/
  | tpartWrite (t : TenantId) (val : BitVec 64) (grant : Grant)
  /-- R390: Sets or clears a key's valid bit. -/
  | kvalidWrite (t : TenantId) (val : BitVec 64)
  /-- R406: A write of DEVCTL.RESET resets the device and reruns bring-up. -/
  | deviceReset (boot : Boot)
  /-- R399: A CKPT write with GO stops admission, pre-empts cohorts and writes memory to the safe tier. -/
  | checkpoint (val : BitVec 64)
  /-- R399: A CKPT write with GO and RESTORE restores device memory from the safe tier. -/
  | restore (val : BitVec 64)
  /-- R393: Hazel returns a signed 256-byte report for a nonce. -/
  | attestationReport (fn : BitVec 5) (nonce : BitVec 256)
  /-- R6: A write to a register without a row of its own sets its RW fields or clears its W1C bits. -/
  | registerWrite (fn : BitVec 5) (off : BitVec 20) (val : BitVec 64)
  /-- R406: Runs the bring-up stages ROM, VERIFY, MEMORY, LINKS and READY. -/
  | powerOnReset (boot : Boot)
  /-- R408: A VF reset kills the tenant's tasks and disables its queues and egress channels. -/
  | functionLevelReset (fn : BitVec 5)
  /-- R411: At TRIP every island drops to its lowest operating point. -/
  | thermalTrip (temp : BitVec 8)
  /-- R411: The temperature falls 5 °C below TRIP and the islands are released. -/
  | thermalTripExit (temp : BitVec 8)
  /-- R411: At 125 °C every island except always-on is powered off. -/
  | thermalShutdown (temp : BitVec 8)
  /-- R409: An island changes its frequency at a clock edge. -/
  | operatingPointChange (island : BitVec 5) (mhz : BitVec 16) (mv : BitVec 16) (watt : BitVec 32)
  /-- R396: A host or peer access through BAR2 is translated or completes with Unsupported Request. -/
  | hostBar2Access (fn : BitVec 5) (off : BitVec 41) (len : BitVec 4) (write : Option (BitVec 64))
  /-- R269: Loads the incoming logit into a lane. -/
  | pld (d : BitVec 3)
  /-- R269: Loads the lane's token as FP32. -/
  | pldIdx (d : BitVec 3)
  /-- R269: Loads the token's count. -/
  | pcnt (d : BitVec 3)
  /-- R269: Loads the token's bias. -/
  | pbias (d : BitVec 3)
  /-- R269: Lane addition. -/
  | padd (d : BitVec 3) (a : BitVec 3) (b : BitVec 3) (s : Bool)
  /-- R269: Lane subtraction. -/
  | psub (d : BitVec 3) (a : BitVec 3) (b : BitVec 3) (s : Bool)
  /-- R269: Lane multiplication. -/
  | pmul (d : BitVec 3) (a : BitVec 3) (b : BitVec 3) (s : Bool)
  /-- R269: Lane maximum. -/
  | pmax (d : BitVec 3) (a : BitVec 3) (b : BitVec 3) (s : Bool)
  /-- R269: Lane minimum. -/
  | pmin (d : BitVec 3) (a : BitVec 3) (b : BitVec 3) (s : Bool)
  /-- R269: Lane e^A. -/
  | pexp (d : BitVec 3) (a : BitVec 3)
  /-- R269: Lane ln A. -/
  | plog (d : BitVec 3) (a : BitVec 3)
  /-- R269: Repetition penalty by hC where the count is positive. -/
  | ppen (d : BitVec 3) (a : BitVec 3) (b : BitVec 3) (c : BitVec 3)
  /-- R269: Frequency and presence penalty. -/
  | pfreq (d : BitVec 3) (a : BitVec 3) (b : BitVec 3) (c : BitVec 3) (e : BitVec 3)
  /-- R269: Masks tokens that the grammar forbids to −∞. -/
  | pmask (d : BitVec 3) (a : BitVec 3)
  /-- R269: Clamps lanes between hB and hC. -/
  | pclamp (d : BitVec 3) (a : BitVec 3) (b : BitVec 3) (c : BitVec 3)
  /-- R269: Selects A or B by C. -/
  | psel (d : BitVec 3) (c : BitVec 3) (a : BitVec 3) (b : BitVec 3)
  /-- R269: Sets a scalar register from an 18-bit FP32 immediate. -/
  | pimm (d : BitVec 3) (imm : BitVec 18)
  /-- R269: Compares lanes and writes 1.0 or +0. -/
  | pcmp (d : BitVec 3) (a : BitVec 3) (b : BitVec 3) (s : Bool) (cond : BitVec 3)
  /-- R269: Skips N words unconditionally. -/
  | pskip (n : BitVec 6)
  /-- R269: Skips N words if hA is nonzero. -/
  | pskipNz (a : BitVec 3) (n : BitVec 6)
  /-- R269: Skips N words if hA is zero. -/
  | pskipZ (a : BitVec 3) (n : BitVec 6)
  /-- R269: Skips N words if no active lane of wA is nonzero. -/
  | pskipNone (a : BitVec 3) (n : BitVec 6)
  /-- R269: Sets the lane output and ends the group. -/
  | pend (d : BitVec 3)
  /-- R156: The pause count expires and the held bundle issues. -/
  | pauseHoldEnds
  /-- R202: Both halves are posted and the two mmap bundles issue in the same clock. -/
  | pairIssue
  /-- R203: A posted half aborts on timeout, on a mismatch or on the partner's end, and sets PABORT and p15. -/
  | pairAbort
  /-- R207: The sequencer feeds one micro-step into the matrix queue as a command. -/
  | microStepFeed
  /-- R190: A queued matrix command starts once its order, issue and resource conditions hold. -/
  | matrixCommandStart
  /-- R219: A copy ends, complete or faulted, and writes its token and any record. -/
  | copyCompletion
  /-- R224: The engine writes one row into the ring and advances TAIL once there is room. -/
  | kldRow
  /-- R90: The transfer unit fetches a read-stream or gather entry into the FIFO. -/
  | streamEntryFetch
  /-- R184: A landed write-stream entry drains to memory in reservation order. -/
  | streamEntryDrain
  /-- R215: An engine writes a token into its register, or into the saved token table. -/
  | tokenLands
  /-- R17: A result in flight reaches its landing clock and is written. -/
  | resultLands
  /-- R63: Load data arrives in the return buffer and may clear a late-load freeze. -/
  | loadDataArrives
  /-- R63: A memory response missing after 20 µs ends the access as a late error. -/
  | responseTimeout
  /-- R300: An error response arrives after its bundle issued and is taken at the next boundary. -/
  | lateErrorResponse
  /-- R301: The dispatcher asks a core to stop its context, which may be deferred. -/
  | preemptionRequest
  /-- R299: The stop completes, the fault record is written and the bundle at STVEC issues. -/
  | supervisorEntry
  /-- R320: The dispatcher enters the supervisor with KIND 11 to resume a context. -/
  | resumeRequest
  /-- R379: A fetch from a non-resident segment or an invalid line freezes the core and starts a copy. -/
  | overlayMiss
  /-- R119: One fetch line of a segment copy lands in instruction memory. -/
  | overlayLineLands
  /-- R327: A walk completes with a leaf or a fault and fills the TLBs. -/
  | pageWalk
  /-- R25: The dispatcher places a task on a core and sets its initial state. -/
  | taskStart
  /-- R366: At a launch, task end, pre-emption completion or the periodic tick, the dispatchers order the ready list. -/
  | dispatchDecision
  /-- R378: Every core of the cohort has stopped or ended, and the cohort returns to the ready list. -/
  | preemptionCompletes
  /-- R365: No progress for WD1: the queue's tasks are pre-empted, or killed on a second expiry. -/
  | watchdogWd1
  /-- R365: A watchdog pre-emption not done within WD2 kills the resident tasks. -/
  | watchdogWd2
  /-- R255: The sampler takes a chunk, runs Pip and select-and-accumulate, and closes the round on LAST. -/
  | logitChunkTaken
  /-- R263: The sampler takes a tree, walks the automaton and writes the snapshots. -/
  | draftTreeTaken
  /-- R268: An outbox post is delivered once the mailbox has room. -/
  | mailboxPost
  /-- R239: A latent decoder takes a token from DECQ as an acquire and decodes the slot. -/
  | decoderTake
  /-- R401: The decoder finishes the pixels and puts the token on ENCQ. -/
  | decodeComplete
  /-- R402: An encoder takes a token from ENCQ and codes the frame. -/
  | encoderTake
  /-- R403: After LAST, the encoder returns the slot token to FREEQ. -/
  | encodeComplete
  /-- R347: A worker takes the next submission entry of an idle queue. -/
  | submissionTake
  /-- R353: Returns, or ends the submission at depth 0. -/
  | cret
  /-- R362: Waits for every earlier copy of the queue. -/
  | cfenceCopy
  /-- R362: Waits for every earlier launch of the queue to end. -/
  | cfenceLaunch
  /-- R362: Waits for copies and launches. -/
  | cfenceAll
  /-- R364: Halts the queue at the next command. -/
  | chalt
  /-- R346: CQCMD.RESUME retries the command at CPC from HALTED or FAULTED. -/
  | resume
  /-- R346: CQCMD.ABANDON ends the submission and returns the queue to IDLE. -/
  | abandon
  /-- R345: A lock-step mismatch resets the control pair from its journal and pauses admission. -/
  | hazelMismatch
  /-- R345: Recovery ends and every queue continues at its next command. -/
  | hazelRecoveryEnd
  /-- R386: A 1 µs time slot of a shared-engine class begins. -/
  | slotBoundary
  /-- R269: No operation. -/
  | pnop
  /-- R413: A write of a core or engine reaches the point of R80 for a scope, which can let a waiting strel, fence, drain, SC access, qput release, bara arrival or stop proceed. -/
  | writePerforms
  /-- R399: Hazel finishes writing vaults, near and far tier to the safe tier, sets CKPT DONE and lets admission resume. -/
  | checkpointDone
  /-- R397: A PCIe link goes down, so peer traffic and checkpoint units stop using that port. -/
  | linkDrops
  /-- R397: A PCIe link comes up after training, so it again counts among the ports that may carry peer and checkpoint traffic. -/
  | linkUp
deriving DecidableEq, Repr

end Sys2Proof
end

