-- ==== Sys2Proof/WellFormed.lean ====
section
/-! DEFINITION. Which terms of `Instr` stand for encodings the spec defines: the field values each instruction accepts
(R105 and the instruction chapters). Every other value raises ILLEGAL_OPCODE at check 3. -/

namespace Sys2Proof

/-! ## The lent byte (R107) -/

/-- A guarded lent byte has two IX bits. -/
def Lent.ok (x : Lent) : Bool := match x.guard with
  | some _ => x.ix.toNat < 4
  | none => true

/-- A lent byte for a syllable that uses no IX bits. -/
def Lent.plain (x : Lent) : Bool := x.ix == 0

/-- ETX: IX[2:0], or IX[1:0] under a guard. -/
def Lent.etx (x : Lent) : BitVec 3 := match x.guard with
  | some _ => bits x.ix 0 3 &&& 3
  | none => bits x.ix 0 3

/-- The rounding field IX[4:3]; 0 under a guard. -/
def Lent.rnd (x : Lent) : BitVec 2 := match x.guard with
  | some _ => 0
  | none => bits x.ix 3 2

/-- SAT, IX[5]; 0 under a guard. -/
def Lent.sat (x : Lent) : Bool := match x.guard with
  | some _ => false
  | none => bitAt x.ix 5

/-- A lent byte of a vector syllable of major 0110 or 0111: IX[6] is 0. -/
def Lent.vec (x : Lent) : Bool := x.ok && !bitAt x.ix 6

/-- The type code TY = ET, ETX (R113). -/
def Lent.ty (x : Lent) (et : BitVec 1) : BitVec 4 := et ++ x.etx

/-! ## Type codes (R113) -/

/-- FP32, BF16, FP16. -/
def isF (t : BitVec 4) : Bool := t.toNat < 3
/-- The eight integer types. -/
def isI (t : BitVec 4) : Bool := 8 ≤ t.toNat
/-- i32, i16, i8, i64. -/
def isSigned (t : BitVec 4) : Bool := 8 ≤ t.toNat && t.toNat < 12
/-- E4M3, E5M2. -/
def isF8 (t : BitVec 4) : Bool := t == 3 || t == 4
/-- The fourteen defined codes. -/
def isType (t : BitVec 4) : Bool := t != 6 && t != 7
/-- Floating-point codes, E2M1 among them. -/
def isFloat (t : BitVec 4) : Bool := t.toNat < 6

/-- Bits of an element (R158). -/
def tyBits (t : BitVec 4) : Nat := match t.toNat with
  | 0 => 32 | 1 => 16 | 2 => 16 | 3 => 8 | 4 => 8 | 5 => 4 | 8 => 32 | 9 => 16 | 10 => 8 | 11 => 64
  | 12 => 32 | 13 => 16 | 14 => 8 | 15 => 64 | _ => 32

/-- Bits of a vector width (R110). -/
def Width.bits : Width → Nat
  | .w256 => 256 | .w512 => 512 | .w1024 => 1024

/-- Rank of a float format's largest finite magnitude: E4M3 448, E5M2 57,344, FP16 65,504, BF16, FP32 (R40). -/
def floatRank (t : BitVec 4) : Nat := match t.toNat with
  | 3 => 1 | 4 => 2 | 2 => 3 | 1 => 4 | 0 => 5 | _ => 0

/-- The pairs of `vcvt` for which SAT is defined (R171). -/
def cvtSatOk (tgt src : BitVec 4) : Bool :=
  (isFloat tgt && isFloat src && tgt != 5 && src != 5 && floatRank tgt < floatRank src) ||
  (isI tgt && isI src && tyBits tgt < tyBits src)

/-- The pairs of `vcvt` of which a step rounds (R47): to a narrower float, float to integer, integer to float. -/
def cvtRounds (tgt src : BitVec 4) : Bool :=
  (isFloat tgt && isFloat src && tgt != 0) || (isFloat src && isI tgt) || (isI src && isFloat tgt)

/-- Rules of an element-wise instruction's lent byte: the type, where rounding and where SAT is accepted. -/
def vrOk (x : Lent) (et : BitVec 1) (types rnd sat : BitVec 4 → Bool) : Bool :=
  x.vec && types (x.ty et) && (x.rnd == 0 || rnd (x.ty et)) && (!x.sat || sat (x.ty et))

/-- Rules of a major 0111 lent byte: ETX 0, and whether rounding and SAT are accepted. -/
def vsOk (x : Lent) (rnd sat : Bool) : Bool :=
  x.vec && x.etx == 0 && (x.rnd == 0 || rnd) && (!x.sat || sat)

/-- Types accepted by size alone: I, F, E4M3, E5M2 (R161). -/
def isMoved (t : BitVec 4) : Bool := isI t || isF t || isF8 t

/-- The targets of `vmaxe` and `vcvtq`: E4M3, E5M2, E2M1, i8 (R175). -/
def isQuant (t : BitVec 4) : Bool := t == 3 || t == 4 || t == 5 || t == 10

/-- A defined scope (R79). -/
def scopeOk (s : BitVec 3) : Bool := s.toNat < 5

/-- Flags and scope of a transfer syllable (R210): without flags the scope is 0. -/
def flagsOk (acq rel : Bool) (s : BitVec 3) : Bool := scopeOk s && (acq || rel || s == 0)

/-- A defined special-register number (R292). -/
def srnOk (n : BitVec 8) : Bool :=
  let k := n.toNat
  k ≤ 9 || (0x10 ≤ k && k ≤ 0x15) || (0x18 ≤ k && k ≤ 0x1F) || (0x40 ≤ k && k ≤ 0x4E)

/-- A defined matrix format code (R187). -/
def fmtOk (f : BitVec 3) : Bool := f.toNat < 5

/-- END of a loop: END12 extended by IX (R128); it is not 0 (R151). -/
def loopEnd (x : Lent) (off : BitVec 12) : Nat := off.toNat + x.ix.toNat * 2 ^ 12

/-- The terms that stand for defined encodings. Events are terms of the model only and have no encoding: all are accepted. -/
def Instr.wf : Instr → Bool
  | .add x _ _ _ | .sub x _ _ _ | .mul x _ _ _ | .mulh x _ _ _ | .mulhn x _ _ _ | .div x _ _ _ | .divn x _ _ _
  | .rem x _ _ _ | .remn x _ _ _ | .and x _ _ _ | .or x _ _ _ | .xor x _ _ _ | .andn x _ _ _ | .shl x _ _ _
  | .shr x _ _ _ | .sra x _ _ _ | .rot x _ _ _ | .clz x _ _ | .popc x _ _ | .min x _ _ _ | .max x _ _ _
  | .minn x _ _ _ | .maxn x _ _ _ | .cmp x _ _ _ _ | .pmovFrom x _ | .pmovTo x _ | .agen x _ _ _ | .agset x _ _ _
  | .lea x _ _ _ _ | .sel x _ _ _ _ => x.plain
  | .sext x _ _ w | .zext x _ _ w => x.plain && w.toNat < 3
  | .pop x op _ _ _ nb pb => x.plain && op.toNat < 4 && (op != 3 || (!nb && pb == 0))
  | .addi x _ _ _ | .cmpi x _ _ _ _ | .movi x _ _ | .movhi x _ _ => x.ok
  | .bfx x _ _ pos len1 | .bfi x _ _ pos len1 => x.plain && pos.toNat + len1.toNat + 1 ≤ 64
  | .ld x sz _ sx _ _ _ => x.ok && !(sx && sz == 3)
  | .st x _ _ _ _ => x.ok
  | .ldacq x sz _ sx sc _ _ _ => x.ok && !(sx && sz == 3) && scopeOk sc
  | .strel x _ _ sc _ _ _ => x.ok && scopeOk sc
  | .amo x asz _ _ sc op d _ => x.plain && scopeOk sc && asz != 3 && (asz != 2 || (op.toNat < 2 && d.toNat % 2 == 0))
  | .cas x asz _ _ sc d _ => x.plain && scopeOk sc && asz.toNat < 2 && d != 63
  | .cas16 x _ _ sc d _ => x.plain && scopeOk sc && d.toNat % 4 == 0
  | .pref x _ _ => x.ok
  | .br x _ | .brc x _ _ _ | .call x _ => x.ok
  | .bri x _ | .calli x _ | .ret x _ | .brk x | .bsel x _ | .exit x => x.plain
  | .loop x _ off => x.ok && loopEnd x off != 0
  | .loopx x sr off => x.ok && sr.toNat < 3 && loopEnd x off != 0
  | .pause x (.reg _) => x.plain
  | .pause x (.imm _) => x.ok
  | .nop _ _ _ _ => true
  | .vadd x _ _ et _ _ _ | .vsub x _ _ et _ _ _ | .vmul x _ _ et _ _ _ =>
    vrOk x et (fun t => isF t || isI t) isF (fun _ => true)
  | .vfma x _ _ et _ _ _ | .vfms x _ _ et _ _ _ => vrOk x et isF isF isF
  | .vmin x _ _ et _ _ _ | .vmax x _ _ et _ _ _ => vrOk x et (fun t => isF t || isI t) (fun _ => false) (fun _ => false)
  | .vabs x _ _ et _ _ | .vneg x _ _ et _ _ => vrOk x et (fun t => isF t || isSigned t) (fun _ => false) isI
  | .vand x _ _ et _ _ _ | .vor x _ _ et _ _ _ | .vxor x _ _ et _ _ _ | .vshl x _ _ et _ _ _ | .vshr x _ _ et _ _ _
  | .vsra x _ _ et _ _ _ | .vrot x _ _ et _ _ _ | .vsadd x _ _ et _ _ _ | .vssub x _ _ et _ _ _ =>
    vrOk x et isI (fun _ => false) (fun _ => false)
  | .vcmp x _ _ et cond _ _ _ =>
    vrOk x et (fun t => isF t || (isI t && cond.toNat < 6)) (fun _ => false) (fun _ => false)
  | .vsel x _ _ _ _ _ => x.vec && x.rnd == 0 && !x.sat
  | .vmac16 x _ _ et _ _ _ => vrOk x et (fun t => t == 9 || t == 13) (fun _ => false) (fun _ => true)
  | .vdot4 x _ _ et _ _ _ => vrOk x et (fun t => t == 10 || t == 14) (fun _ => false) (fun _ => true)
  | .vred x _ _ et op _ _ =>
    op.toNat < 3 && vrOk x et (fun t => isF t || isI t) (fun t => op == 0 && isF t) (fun _ => op == 0)
  | .vperm x _ _ et _ _ _ => vrOk x et (fun t => isI t || isF8 t) (fun _ => false) (fun _ => false)
  | .vbcst x _ _ et _ _ => vrOk x et isMoved (fun _ => false) (fun _ => false)
  | .vins x wd _ et _ _ idx => vrOk x et isMoved (fun _ => false) (fun _ => false) && idx.toNat < wd.bits / tyBits (x.ty et)
  | .vext x wd _ et _ _ idx => vrOk x et isMoved (fun _ => false) (fun _ => false) && idx.toNat < wd.bits / tyBits (x.ty et)
  | .vmov x _ _ _ _ => vsOk x false false
  | .vcvt x _ _ _ _ tgt src => isType tgt && isType src && tgt != src && vsOk x (cvtRounds tgt src) (cvtSatOk tgt src)
  | .vpack x _ _ _ _ _ _ => vsOk x false true
  | .vunpk x _ _ _ _ _ _ => vsOk x false false
  | .vmaxe x _ _ _ _ tgt src => isQuant tgt && isF src && vsOk x false false
  | .vcvtq x _ _ _ _ tgt src => isQuant tgt && isF src && vsOk x true false
  | .vexp2 x _ _ _ _ ty | .vlog2 x _ _ _ _ ty | .vrcp x _ _ _ _ ty | .vrsq x _ _ _ _ ty | .vtanh x _ _ _ _ ty =>
    isF ty && vsOk x true false
  | .vrpb x _ _ _ _ _ _ => vsOk x true false
  | .vld x _ _ _ _ _ | .vlds x _ _ _ _ _ _ | .vsts x _ _ _ _ _ => x.plain
  | .vst x _ _ _ me m _ => x.plain && (me || m == 0)
  | .vmsk x _ op _ ma mb => x.plain && op != 7 && (op != 4 || mb == 0) && (op.toNat < 5 || (ma == 0 && mb == 0))
  | .tcfg x _ _ _ _ | .tcfgOff x _ | .tzero x _ _ _ | .trowmv x _ _ _ _ | .trowrd x _ _ _ _ | .tcolrd x _ _ _ _
  | .mscl x _ _ | .mcall x _ | .mpset x _ _ | .ringcfg x _ _ _ | .ringpop x _ _ _ | .ringpush x _ _ _ => x.plain
  | .mma x _ _ _ fa fb _ _ | .mmap x _ _ _ fa fb _ _ => x.plain && fmtOk fa && fmtOk fb
  | .mlatch x _ f _ => x.plain && fmtOk f
  | .mdrain x _ f _ _ => x.plain && f != 3
  | .mpload x n cm1 _ => x.plain && n.toNat + cm1.toNat ≤ 7
  | .copy x _ _ _ acq rel sc | .copyc x _ _ _ acq rel sc => x.plain && flagsOk acq rel sc
  | .kld x _ _ _ acq rel sc | .kst x _ _ _ acq rel sc | .kapp x _ _ _ acq rel sc | .kalloc x _ _ _ acq rel sc
  | .kfree x _ _ _ acq rel sc | .kcommit x _ _ _ acq rel sc | .kdedup x _ _ _ acq rel sc | .kfork x _ _ _ acq rel sc
  | .kwin x _ _ _ acq rel sc | .kpin x _ _ _ acq rel sc => x.plain && flagsOk acq rel sc
  | .sbind x _ _ _ _ | .sfree x _ | .ixq x _ _ | .qput x _ _ | .qget x _ _ | .crwait x _ _ _ | .bara x _ | .barw x _
  | .barwA x _ | .barset x _ _ _ | .stepjoin x _ | .step x _ | .stepleave x _ | .logit x _ _ _ | .seqbind x _
  | .verify x _ _ _ | .tmove x _ _ _ | .mbox x _ _ _ | .syscall x _ | .eret x | .wfi x | .halt x => x.plain
  | .fenceAcq x sc _ | .fenceRel x sc _ | .fenceAr x sc _ | .drain x sc _ => x.plain && scopeOk sc
  | .mfsr x _ n | .mtsr x _ n => x.plain && srnOk n
  | .csave x d | .crest x d | .tsave x d | .tsaveOut x d | .tlbinvPage x d _ | .tlbinvTen x d _ | .tlbinvAll x d =>
    x.plain && d != 0
  | .cbr mode d _ => mode != 3 && (mode != 0 || d == 0)
  | .cwait _ _ cond => cond.toNat < 3
  | .pcmp _ _ _ _ cond => cond.toNat < 6
  | .pskip n | .pskipNz _ n | .pskipZ _ n | .pskipNone _ n => n != 0
  | _ => true


end Sys2Proof
end

