-- ==== Sys2Proof/Decode.lean ====
section
/-! DEFINITION. The decoder of syllables, commands and Pip words, total and rejecting by name, and after it the encoder,
both written from the encoding tables of R99 to R125, R193, R210, R211, R313, R349, R350 and R269. Fields are read from and
written to the number that a word spells, bit 0 least significant. -/

namespace Sys2Proof

/-- Why a word stands for no instruction. -/
inductive Reject where
  /-- Major 1101 or 1110 (R100). -/
  | reservedMajor
  /-- A minor or operation code that is not defined. -/
  | undefinedCode
  /-- A field value that is not defined, or an unused field that is not 0 (R105). -/
  | badField
  /-- A header syllable, which is no instruction by itself unless it is a whole bundle (R106). -/
  | header
deriving DecidableEq, Repr

/-- The field of `len` bits at bit `lo` of the number `n`. -/
def fld (n lo len : Nat) : BitVec len := BitVec.ofNat len (n / 2 ^ lo)

/-- One bit of a number. -/
def flag (n i : Nat) : Bool := n / 2 ^ i % 2 == 1

/-! ## Operand fields (R109, R110) -/

/-- A 7-bit scalar source. -/
def srcOf (n lo : Nat) : Option SSrc :=
  let c := n / 2 ^ lo % 128
  if c < 64 then some (.s (BitVec.ofNat 6 c)) else if c < 66 then some (.y (BitVec.ofNat 1 (c - 64))) else none

/-- A 7-bit scalar destination. -/
def dstOf (n lo : Nat) : SDst := { n := flag n (lo + 6), r := fld n lo 6 }

/-- A 6-bit vector source. -/
def vsrcOf (n lo : Nat) : Option VSrc :=
  let c := n / 2 ^ lo % 64
  if c < 32 then some (.v (BitVec.ofNat 5 c)) else if c < 34 then some (.y (BitVec.ofNat 1 (c - 32))) else none

/-- A 6-bit vector destination. -/
def vdstOf (n lo : Nat) : VDst := { n := flag n (lo + 5), r := fld n lo 5 }

/-- A 2-bit width field. -/
def widthOf (n lo : Nat) : Option Width := match n / 2 ^ lo % 4 with
  | 0 => some .w256 | 1 => some .w512 | 2 => some .w1024 | _ => none

/-- The lent byte (R107). -/
def lentOf (e : Byte) : Lent :=
  if bitAt e 7 then { guard := some { neg := bitAt e 6, p := bits e 2 4 }, ix := BitVec.ofNat 7 (e.toNat % 4) }
  else { guard := none, ix := bits e 0 7 }

/-! ## Syllables by major opcode -/

/-- Major 0000, RRR (R120). -/
def rawRRR (n : Nat) (x : Lent) : Option Instr := do
  let m := n / 2 ^ 21 % 64
  let d := dstOf n 14
  if m = 0x17 then return .sext x d (← srcOf n 7) (fld n 0 2)
  if m = 0x18 then return .zext x d (← srcOf n 7) (fld n 0 2)
  if m = 0x1A then return .pop x (fld n 18 3) (fld n 14 4) (flag n 11) (fld n 7 4) (flag n 4) (fld n 0 4)
  let a ← srcOf n 7
  if m = 0x11 then return .clz x d a
  if m = 0x12 then return .popc x d a
  if m = 0x1C then return .agen x d (fld n 0 2) a
  if m = 0x1B then
    if n % 128 = 0 then return .pmovFrom x d
    else return .pmovTo x a
  let b ← srcOf n 0
  if 0x30 ≤ m then return .sel x (fld n 21 4) d a b
  match m with
  | 0x00 => some (.add x d a b) | 0x01 => some (.sub x d a b) | 0x02 => some (.mul x d a b) | 0x03 => some (.mulh x d a b)
  | 0x04 => some (.mulhn x d a b) | 0x05 => some (.div x d a b) | 0x06 => some (.divn x d a b) | 0x07 => some (.rem x d a b)
  | 0x08 => some (.remn x d a b) | 0x09 => some (.and x d a b) | 0x0A => some (.or x d a b) | 0x0B => some (.xor x d a b)
  | 0x0C => some (.andn x d a b) | 0x0D => some (.shl x d a b) | 0x0E => some (.shr x d a b) | 0x0F => some (.sra x d a b)
  | 0x10 => some (.rot x d a b) | 0x13 => some (.min x d a b) | 0x14 => some (.max x d a b) | 0x15 => some (.minn x d a b)
  | 0x16 => some (.maxn x d a b) | 0x19 => some (.cmp x (fld n 18 3) (fld n 14 4) a b)
  | 0x1D => some (.agset x (fld n 14 2) a b)
  | 0x20 | 0x21 | 0x22 | 0x23 => some (.lea x (fld n 21 2) d a b)
  | _ => none

/-- Major 0001, RI (R120). -/
def rawRI (n : Nat) (x : Lent) : Option Instr := do
  let a ← srcOf n 10
  match n / 2 ^ 24 % 8 with
  | 0 => some (.addi x (dstOf n 17) a (fld n 0 10))
  | 1 => some (.cmpi x (fld n 21 3) (fld n 17 4) a (fld n 0 10))
  | _ => none

/-- Major 0010, RF (R120). -/
def rawRF (n : Nat) (x : Lent) : Option Instr := do
  let a ← srcOf n 12
  if flag n 26 then some (.bfi x (dstOf n 19) a (fld n 6 6) (fld n 0 6))
  else some (.bfx x (dstOf n 19) a (fld n 6 6) (fld n 0 6))

/-- Major 0011, RL (R120). -/
def rawRL (n : Nat) (x : Lent) : Option Instr :=
  if flag n 26 then some (.movhi x (dstOf n 19) (fld n 0 19)) else some (.movi x (dstOf n 19) (fld n 0 19))

/-- Major 0100, M (R121). -/
def rawM (n : Nat) (x : Lent) : Option Instr :=
  let d : BitVec 6 := fld n 18 6
  let a : BitVec 6 := fld n 12 6
  let lc : BitVec 2 := fld n 8 2
  match n / 2 ^ 24 % 8 with
  | 0 => some (.ld x (fld n 10 2) lc (flag n 7) d a (fld n 0 7))
  | 1 => some (.st x (fld n 10 2) d a (fld n 0 7))
  | 2 => some (.ldacq x (fld n 10 2) lc (flag n 7) (fld n 4 3) d a (fld n 0 4))
  | 3 => some (.strel x (fld n 10 2) lc (fld n 4 3) d a (fld n 0 4))
  | 4 => some (.amo x (fld n 10 2) lc (fld n 6 2) (fld n 3 3) (fld n 0 3) d a)
  | 5 => some (.cas x (fld n 10 2) lc (fld n 6 2) (fld n 3 3) d a)
  | 6 => some (.cas16 x lc (fld n 6 2) (fld n 3 3) d a)
  | _ => some (.pref x a (fld n 0 7))

/-- Major 0101, C (R122). -/
def rawC (n : Nat) (x : Lent) : Option Instr := do
  match n / 2 ^ 23 % 16 with
  | 0 => some (.br x (fld n 0 23))
  | 1 => some (.brc x (flag n 22) (fld n 18 4) (fld n 0 18))
  | 2 => return .bri x (← srcOf n 16)
  | 3 => some (.call x (fld n 0 23))
  | 4 => return .calli x (← srcOf n 16)
  | 5 => return .ret x (← srcOf n 16)
  | 6 => if flag n 22 then some (.loop x (.imm (fld n 12 10)) (fld n 0 12))
         else return .loop x (.reg (← srcOf n 15)) (fld n 0 12)
  | 7 => some (.loopx x (fld n 19 4) (fld n 0 12))
  | 8 => some (.brk x)
  | 9 => return .bsel x (← srcOf n 16)
  | 10 => if flag n 22 then some (.pause x (.imm (fld n 0 16))) else return .pause x (.reg (← srcOf n 15))
  | 11 => some (.exit x)
  | _ => none

/-- Major 0110, VR (R123). -/
def rawVR (n : Nat) (x : Lent) : Option Instr := do
  let wd ← widthOf n 20
  let h := flag n 19
  let et : BitVec 1 := fld n 18 1
  let d := vdstOf n 12
  let op := n / 2 ^ 22 % 32
  if op = 24 then return .vbcst x wd h et d (fld n 6 6)
  if op = 25 then return .vins x wd h et d (fld n 6 6) (fld n 0 6)
  let a ← vsrcOf n 6
  if op = 26 then return .vext x wd h et (fld n 12 6) a (fld n 0 6)
  if op = 27 then return .vmov x wd h d a
  if op = 22 then return .vred x wd h et (fld n 0 3) d a
  if op = 7 then return .vabs x wd h et d a
  if op = 8 then return .vneg x wd h et d a
  let b ← vsrcOf n 0
  match op with
  | 0 => some (.vadd x wd h et d a b) | 1 => some (.vsub x wd h et d a b) | 2 => some (.vmul x wd h et d a b)
  | 3 => some (.vfma x wd h et d a b) | 4 => some (.vfms x wd h et d a b) | 5 => some (.vmin x wd h et d a b)
  | 6 => some (.vmax x wd h et d a b) | 9 => some (.vand x wd h et d a b) | 10 => some (.vor x wd h et d a b)
  | 11 => some (.vxor x wd h et d a b) | 12 => some (.vshl x wd h et d a b) | 13 => some (.vshr x wd h et d a b)
  | 14 => some (.vsra x wd h et d a b) | 15 => some (.vrot x wd h et d a b)
  | 16 => some (.vcmp x wd h et (fld n 15 3) (fld n 12 3) a b)
  | 17 => some (.vsel x wd h d a b)
  | 18 => some (.vmac16 x wd h et d a b) | 19 => some (.vdot4 x wd h et d a b) | 20 => some (.vsadd x wd h et d a b)
  | 21 => some (.vssub x wd h et d a b) | 23 => some (.vperm x wd h et d a b)
  | _ => none

/-- Major 0111, VS (R123; F under R171 to R178). -/
def rawVS (n : Nat) (x : Lent) : Option Instr := do
  let wd ← widthOf n 21
  let h := flag n 20
  let d : VDst := { n := flag n 19, r := fld n 14 5 }
  let a ← vsrcOf n 8
  match n / 2 ^ 23 % 16 with
  | 0 => some (.vcvt x wd h d a (fld n 4 4) (fld n 0 4))
  | 1 => return .vpack x wd h (fld n 6 2) d a (← vsrcOf n 0)
  | 2 => some (.vunpk x wd h (fld n 6 2) (flag n 0) d a)
  | 3 => some (.vmaxe x wd h d a (fld n 4 4) (fld n 0 4))
  | 4 => some (.vcvtq x wd h d a (fld n 4 4) (fld n 0 4))
  | 5 => some (.vexp2 x wd h d a (fld n 0 4))
  | 6 => some (.vlog2 x wd h d a (fld n 0 4))
  | 7 => some (.vrcp x wd h d a (fld n 0 4))
  | 8 => some (.vrsq x wd h d a (fld n 0 4))
  | 9 => some (.vtanh x wd h d a (fld n 0 4))
  | 10 => return .vrpb x wd h (flag n 7) d a (← vsrcOf n 0)
  | _ => none

/-- Major 1000, VM (R123). -/
def rawVM (n : Nat) (x : Lent) : Option Instr := do
  let wd ← widthOf n 22
  match n / 2 ^ 24 % 8 with
  | 0 => some (.vld x wd (fld n 20 2) (fld n 15 5) (fld n 9 6) (fld n 0 9))
  | 1 => return .vst x wd (← vsrcOf n 16) (fld n 10 6) (flag n 9) (fld n 6 3) (fld n 0 6)
  | 2 => some (.vlds x wd (fld n 20 2) (fld n 15 5) (fld n 9 6) (fld n 3 6) (fld n 1 2))
  | 3 => return .vsts x wd (← vsrcOf n 16) (fld n 10 6) (fld n 4 6) (fld n 2 2)
  | 4 => some (.vmsk x wd (fld n 19 3) (fld n 16 3) (fld n 13 3) (fld n 10 3))
  | _ => none

/-- Major 1001, matrix (R193). -/
def rawX (n : Nat) (x : Lent) : Option Instr := do
  let t : BitVec 3 := fld n 20 3
  let row : BitVec 7 := fld n 13 7
  match n / 2 ^ 23 % 16 with
  | 0 => match n / 2 ^ 4 % 4 with
    | 0 => some (.tcfg x t row (fld n 6 7) false)
    | 1 => some (.tcfg x t row (fld n 6 7) true)
    | 3 => some (.tcfgOff x t)
    | _ => none
  | 1 => some (.tzero x t row (fld n 6 7))
  | 2 => return .trowmv x t row (fld n 11 2) (← vsrcOf n 5)
  | 3 => some (.trowrd x t row (fld n 11 2) (fld n 6 5))
  | 4 => some (.tcolrd x t row (fld n 11 2) (fld n 6 5))
  | 5 => some (.mma x t (fld n 18 2) (fld n 16 2) (fld n 13 3) (fld n 10 3) (fld n 4 6) (flag n 3))
  | 6 => some (.mmap x t (fld n 18 2) (fld n 16 2) (fld n 13 3) (fld n 10 3) (fld n 4 6) (flag n 3))
  | 7 => some (.mlatch x (fld n 21 2) (fld n 18 3) (fld n 12 6))
  | 8 => some (.mscl x (fld n 21 2) (fld n 15 6))
  | 9 => some (.mdrain x t (fld n 18 2) (flag n 17) (fld n 11 6))
  | 10 => some (.mcall x (fld n 17 6))
  | 11 => some (.mpset x t (fld n 14 6))
  | 12 => some (.ringcfg x (fld n 21 2) (fld n 15 6) (fld n 9 6))
  | 13 => some (.ringpop x (fld n 21 2) (fld n 15 6) (fld n 4 11))
  | 14 => some (.ringpush x (fld n 21 2) (fld n 15 6) (fld n 4 11))
  | _ => some (.mpload x t (fld n 17 3) (fld n 11 6))

/-- Major 1010, copies and KV (R210). -/
def rawT (n : Nat) (x : Lent) : Option Instr :=
  let d : BitVec 6 := fld n 17 6
  let a : BitVec 6 := fld n 11 6
  let b : BitVec 6 := fld n 5 6
  let q := flag n 4
  let r := flag n 3
  let sc : BitVec 3 := fld n 0 3
  match n / 2 ^ 23 % 16 with
  | 0 => some (.copy x d a (flag n 10) q r sc)
  | 1 => some (.copyc x d a (flag n 10) q r sc)
  | 2 => some (.kld x d a b q r sc) | 3 => some (.kst x d a b q r sc) | 4 => some (.kapp x d a b q r sc)
  | 5 => some (.kalloc x d a b q r sc) | 6 => some (.kfree x d a b q r sc) | 7 => some (.kcommit x d a b q r sc)
  | 8 => some (.kdedup x d a b q r sc) | 9 => some (.kfork x d a b q r sc) | 10 => some (.kwin x d a b q r sc)
  | 11 => some (.kpin x d a b q r sc)
  | _ => none

/-- Major 1011, streams, queues, synchronisation, planes, sampler (R211). -/
def rawS (n : Nat) (x : Lent) : Option Instr :=
  match n / 2 ^ 22 % 32 with
  | 0 => some (.sbind x (fld n 19 3) (fld n 16 3) (flag n 15) (fld n 9 6))
  | 1 => some (.sfree x (fld n 19 3))
  | 2 => some (.ixq x (fld n 19 3) (fld n 13 6))
  | 3 => some (.qput x (fld n 14 8) (fld n 8 6))
  | 4 => some (.qget x (fld n 14 8) (fld n 8 6))
  | 5 => some (.crwait x (fld n 14 8) (fld n 8 6) (fld n 2 6))
  | 6 => match n / 2 ^ 20 % 4 with
    | 1 => some (.fenceAcq x (fld n 17 3) (fld n 15 2))
    | 2 => some (.fenceRel x (fld n 17 3) (fld n 15 2))
    | 3 => some (.fenceAr x (fld n 17 3) (fld n 15 2))
    | _ => none
  | 7 => some (.drain x (fld n 17 3) (fld n 15 2))
  | 8 => some (.bara x (fld n 16 6))
  | 9 => if flag n 15 then some (.barwA x (fld n 16 6)) else some (.barw x (fld n 16 6))
  | 10 => some (.barset x (fld n 16 6) (fld n 10 6) (fld n 4 6))
  | 11 => some (.stepjoin x (fld n 17 5)) | 12 => some (.step x (fld n 17 5)) | 13 => some (.stepleave x (fld n 17 5))
  | 14 => some (.logit x (fld n 16 6) (fld n 10 6) (fld n 4 6))
  | 15 => some (.seqbind x (fld n 16 6))
  | 16 => some (.verify x (fld n 16 6) (fld n 10 6) (fld n 4 6))
  | 17 => some (.tmove x (fld n 16 6) (fld n 10 6) (fld n 4 6))
  | 18 => some (.mbox x (fld n 16 6) (fld n 10 6) (fld n 4 6))
  | _ => none

/-- Major 1100, system (R313). -/
def rawY (n : Nat) (x : Lent) : Option Instr := do
  match n / 2 ^ 23 % 16 with
  | 0 => some (.syscall x (fld n 0 16))
  | 1 => some (.eret x)
  | 2 => some (.mfsr x (fld n 16 6) (fld n 8 8))
  | 3 => return .mtsr x (← srcOf n 16) (fld n 8 8)
  | 4 => some (.csave x (fld n 17 6))
  | 5 => some (.crest x (fld n 17 6))
  | 6 => if flag n 0 then some (.tsaveOut x (fld n 17 6)) else some (.tsave x (fld n 17 6))
  | 7 => match n % 8 with
    | 0 => some (.tlbinvPage x (fld n 17 6) (fld n 11 6))
    | 1 => some (.tlbinvTen x (fld n 17 6) (fld n 11 6))
    | 2 => some (.tlbinvAll x (fld n 17 6))
    | _ => none
  | 8 => some (.wfi x)
  | 9 => some (.halt x)
  | _ => none

/-- The instruction a syllable seems to hold, before the checks of R105 on its fields. -/
def rawSyllable (n : Nat) (x : Lent) : Option Instr := match n / 2 ^ 27 % 16 with
  | 0 => rawRRR n x | 1 => rawRI n x | 2 => rawRF n x | 3 => rawRL n x | 4 => rawM n x | 5 => rawC n x
  | 6 => rawVR n x | 7 => rawVS n x | 8 => rawVM n x | 9 => rawX n x | 10 => rawT n x | 11 => rawS n x
  | 12 => rawY n x | _ => none

/-! ## The encoder -/

/-- Fields side by side, the first most significant: value and width. -/
def pk (l : List (Nat × Nat)) : Nat := l.foldl (fun acc p => acc * 2 ^ p.2 + p.1) 0

/-- One bit as a field value. -/
def b01 (b : Bool) : Nat := if b then 1 else 0

/-- The code of a scalar source (R109). -/
def SSrc.enc : SSrc → Nat
  | .s r => r.toNat
  | .y n => 64 + n.toNat

/-- The code of a scalar destination (R109). -/
def SDst.enc (d : SDst) : Nat := b01 d.n * 64 + d.r.toNat

/-- The code of a vector source (R110). -/
def VSrc.enc : VSrc → Nat
  | .v r => r.toNat
  | .y n => 32 + n.toNat

/-- The code of a vector destination (R110). -/
def VDst.enc (d : VDst) : Nat := b01 d.n * 32 + d.r.toNat

/-- The code of a width (R110). -/
def Width.enc : Width → Nat
  | .w256 => 0 | .w512 => 1 | .w1024 => 2

/-- The lent byte of a syllable (R107). -/
def Lent.enc (x : Lent) : Byte := match x.guard with
  | some g => BitVec.ofNat 8 (128 + b01 g.neg * 64 + g.p.toNat * 4 + x.ix.toNat)
  | none => BitVec.ofNat 8 x.ix.toNat

/-- RRR fields (R120): minor, D, A, B. -/
def encRRR (m d a b : Nat) : Nat := pk [(0, 4), (m, 6), (d, 7), (a, 7), (b, 7)]
/-- VR fields (R123). -/
def encVR (op : Nat) (wd : Width) (h : Bool) (et : BitVec 1) (d a b : Nat) : Nat :=
  pk [(6, 4), (op, 5), (wd.enc, 2), (b01 h, 1), (et.toNat, 1), (d, 6), (a, 6), (b, 6)]
/-- VS fields (R123). -/
def encVS (op : Nat) (wd : Width) (h : Bool) (d : VDst) (a f : Nat) : Nat :=
  pk [(7, 4), (op, 4), (wd.enc, 2), (b01 h, 1), (b01 d.n, 1), (d.r.toNat, 5), (a, 6), (f, 8)]
/-- Major 1010 fields (R210). -/
def encT (op : Nat) (d a b : Nat) (acq rel : Bool) (sc : BitVec 3) : Nat :=
  pk [(10, 4), (op, 4), (d, 6), (a, 6), (b, 6), (b01 acq, 1), (b01 rel, 1), (sc.toNat, 3)]
/-- Major 1001 fields (R193): operation and the 23-bit body. -/
def encX (op : Nat) (body : List (Nat × Nat)) : Nat := pk ([(9, 4), (op, 4)] ++ body)
/-- Major 1011 fields (R211): operation and the 22-bit body. -/
def encS (op : Nat) (body : List (Nat × Nat)) : Nat := pk ([(11, 4), (op, 5)] ++ body)
/-- Major 1100 fields (R313): operation and the 23-bit body. -/
def encY (op : Nat) (body : List (Nat × Nat)) : Nat := pk ([(12, 4), (op, 4)] ++ body)
/-- Major 0101 fields (R122): minor and the 23-bit body. -/
def encC (op : Nat) (body : List (Nat × Nat)) : Nat := pk ([(5, 4), (op, 4)] ++ body)

/-- The lent byte that an instruction carries. -/
def Instr.lent : Instr → Lent
  | .add x _ _ _ | .sub x _ _ _ | .mul x _ _ _ | .mulh x _ _ _ | .mulhn x _ _ _ | .div x _ _ _ | .divn x _ _ _
  | .rem x _ _ _ | .remn x _ _ _ | .and x _ _ _ | .or x _ _ _ | .xor x _ _ _ | .andn x _ _ _ | .shl x _ _ _
  | .shr x _ _ _ | .sra x _ _ _ | .rot x _ _ _ | .clz x _ _ | .popc x _ _ | .min x _ _ _ | .max x _ _ _
  | .minn x _ _ _ | .maxn x _ _ _ | .sext x _ _ _ | .zext x _ _ _ | .cmp x _ _ _ _ | .pop x _ _ _ _ _ _
  | .pmovFrom x _ | .pmovTo x _ | .agen x _ _ _ | .agset x _ _ _ | .lea x _ _ _ _ | .sel x _ _ _ _ | .addi x _ _ _
  | .cmpi x _ _ _ _ | .bfx x _ _ _ _ | .bfi x _ _ _ _ | .movi x _ _ | .movhi x _ _ | .ld x _ _ _ _ _ _ | .st x _ _ _ _
  | .ldacq x _ _ _ _ _ _ _ | .strel x _ _ _ _ _ _ | .amo x _ _ _ _ _ _ _ | .cas x _ _ _ _ _ _ | .cas16 x _ _ _ _ _
  | .pref x _ _ | .br x _ | .brc x _ _ _ | .bri x _ | .call x _ | .calli x _ | .ret x _ | .loop x _ _ | .loopx x _ _
  | .brk x | .bsel x _ | .pause x _ | .exit x | .vadd x _ _ _ _ _ _ | .vsub x _ _ _ _ _ _ | .vmul x _ _ _ _ _ _
  | .vfma x _ _ _ _ _ _ | .vfms x _ _ _ _ _ _ | .vmin x _ _ _ _ _ _ | .vmax x _ _ _ _ _ _ | .vabs x _ _ _ _ _
  | .vneg x _ _ _ _ _ | .vand x _ _ _ _ _ _ | .vor x _ _ _ _ _ _ | .vxor x _ _ _ _ _ _ | .vshl x _ _ _ _ _ _
  | .vshr x _ _ _ _ _ _ | .vsra x _ _ _ _ _ _ | .vrot x _ _ _ _ _ _ | .vcmp x _ _ _ _ _ _ _ | .vsel x _ _ _ _ _
  | .vmac16 x _ _ _ _ _ _ | .vdot4 x _ _ _ _ _ _ | .vsadd x _ _ _ _ _ _ | .vssub x _ _ _ _ _ _ | .vred x _ _ _ _ _ _
  | .vperm x _ _ _ _ _ _ | .vbcst x _ _ _ _ _ | .vins x _ _ _ _ _ _ | .vext x _ _ _ _ _ _ | .vmov x _ _ _ _
  | .vcvt x _ _ _ _ _ _ | .vpack x _ _ _ _ _ _ | .vunpk x _ _ _ _ _ _ | .vmaxe x _ _ _ _ _ _ | .vcvtq x _ _ _ _ _ _
  | .vexp2 x _ _ _ _ _ | .vlog2 x _ _ _ _ _ | .vrcp x _ _ _ _ _ | .vrsq x _ _ _ _ _ | .vtanh x _ _ _ _ _
  | .vrpb x _ _ _ _ _ _ | .vld x _ _ _ _ _ | .vst x _ _ _ _ _ _ | .vlds x _ _ _ _ _ _ | .vsts x _ _ _ _ _
  | .vmsk x _ _ _ _ _ | .tcfg x _ _ _ _ | .tcfgOff x _ | .tzero x _ _ _ | .trowmv x _ _ _ _ | .trowrd x _ _ _ _
  | .tcolrd x _ _ _ _ | .mma x _ _ _ _ _ _ _ | .mmap x _ _ _ _ _ _ _ | .mlatch x _ _ _ | .mscl x _ _
  | .mdrain x _ _ _ _ | .mcall x _ | .mpset x _ _ | .ringcfg x _ _ _ | .ringpop x _ _ _ | .ringpush x _ _ _
  | .mpload x _ _ _ | .copy x _ _ _ _ _ _ | .copyc x _ _ _ _ _ _ | .kld x _ _ _ _ _ _ | .kst x _ _ _ _ _ _
  | .kapp x _ _ _ _ _ _ | .kalloc x _ _ _ _ _ _ | .kfree x _ _ _ _ _ _ | .kcommit x _ _ _ _ _ _
  | .kdedup x _ _ _ _ _ _ | .kfork x _ _ _ _ _ _ | .kwin x _ _ _ _ _ _ | .kpin x _ _ _ _ _ _ | .sbind x _ _ _ _
  | .sfree x _ | .ixq x _ _ | .qput x _ _ | .qget x _ _ | .crwait x _ _ _ | .fenceAcq x _ _ | .fenceRel x _ _
  | .fenceAr x _ _ | .drain x _ _ | .bara x _ | .barw x _ | .barwA x _ | .barset x _ _ _ | .stepjoin x _ | .step x _
  | .stepleave x _ | .logit x _ _ _ | .seqbind x _ | .verify x _ _ _ | .tmove x _ _ _ | .mbox x _ _ _ | .syscall x _
  | .eret x | .mfsr x _ _ | .mtsr x _ _ | .csave x _ | .crest x _ | .tsave x _ | .tsaveOut x _ | .tlbinvPage x _ _
  | .tlbinvTen x _ _ | .tlbinvAll x _ | .wfi x | .halt x => x
  | _ => { guard := none, ix := 0 }

/-- Bits [30:0] of the syllable of an instruction, as a number; none for what is no syllable. -/
def Instr.syl : Instr → Option Nat
  | .add _ d a b => some (encRRR 0x00 d.enc a.enc b.enc) | .sub _ d a b => some (encRRR 0x01 d.enc a.enc b.enc)
  | .mul _ d a b => some (encRRR 0x02 d.enc a.enc b.enc) | .mulh _ d a b => some (encRRR 0x03 d.enc a.enc b.enc)
  | .mulhn _ d a b => some (encRRR 0x04 d.enc a.enc b.enc) | .div _ d a b => some (encRRR 0x05 d.enc a.enc b.enc)
  | .divn _ d a b => some (encRRR 0x06 d.enc a.enc b.enc) | .rem _ d a b => some (encRRR 0x07 d.enc a.enc b.enc)
  | .remn _ d a b => some (encRRR 0x08 d.enc a.enc b.enc) | .and _ d a b => some (encRRR 0x09 d.enc a.enc b.enc)
  | .or _ d a b => some (encRRR 0x0A d.enc a.enc b.enc) | .xor _ d a b => some (encRRR 0x0B d.enc a.enc b.enc)
  | .andn _ d a b => some (encRRR 0x0C d.enc a.enc b.enc) | .shl _ d a b => some (encRRR 0x0D d.enc a.enc b.enc)
  | .shr _ d a b => some (encRRR 0x0E d.enc a.enc b.enc) | .sra _ d a b => some (encRRR 0x0F d.enc a.enc b.enc)
  | .rot _ d a b => some (encRRR 0x10 d.enc a.enc b.enc) | .clz _ d a => some (encRRR 0x11 d.enc a.enc 0)
  | .popc _ d a => some (encRRR 0x12 d.enc a.enc 0) | .min _ d a b => some (encRRR 0x13 d.enc a.enc b.enc)
  | .max _ d a b => some (encRRR 0x14 d.enc a.enc b.enc) | .minn _ d a b => some (encRRR 0x15 d.enc a.enc b.enc)
  | .maxn _ d a b => some (encRRR 0x16 d.enc a.enc b.enc) | .sext _ d a w => some (encRRR 0x17 d.enc a.enc w.toNat)
  | .zext _ d a w => some (encRRR 0x18 d.enc a.enc w.toNat)
  | .cmp _ cond pd a b => some (encRRR 0x19 (cond.toNat * 16 + pd.toNat) a.enc b.enc)
  | .pop _ op pd na pa nb pb =>
    some (encRRR 0x1A (op.toNat * 16 + pd.toNat) (b01 na * 16 + pa.toNat) (b01 nb * 16 + pb.toNat))
  | .pmovFrom _ d => some (encRRR 0x1B d.enc 0 0) | .pmovTo _ a => some (encRRR 0x1B 0 a.enc 1)
  | .agen _ d n a => some (encRRR 0x1C d.enc a.enc n.toNat) | .agset _ n a b => some (encRRR 0x1D n.toNat a.enc b.enc)
  | .lea _ k d a b => some (encRRR (0x20 + k.toNat) d.enc a.enc b.enc)
  | .sel _ p d a b => some (encRRR (0x30 + p.toNat) d.enc a.enc b.enc)
  | .addi _ d a imm => some (pk [(1, 4), (0, 3), (d.enc, 7), (a.enc, 7), (imm.toNat, 10)])
  | .cmpi _ cond pd a imm => some (pk [(1, 4), (1, 3), (cond.toNat * 16 + pd.toNat, 7), (a.enc, 7), (imm.toNat, 10)])
  | .bfx _ d a pos l => some (pk [(2, 4), (0, 1), (d.enc, 7), (a.enc, 7), (pos.toNat, 6), (l.toNat, 6)])
  | .bfi _ d a pos l => some (pk [(2, 4), (1, 1), (d.enc, 7), (a.enc, 7), (pos.toNat, 6), (l.toNat, 6)])
  | .movi _ d imm => some (pk [(3, 4), (0, 1), (d.enc, 7), (imm.toNat, 19)])
  | .movhi _ d imm => some (pk [(3, 4), (1, 1), (d.enc, 7), (imm.toNat, 19)])
  | .ld _ sz lc sx d a off =>
    some (pk [(4, 4), (0, 3), (d.toNat, 6), (a.toNat, 6), (sz.toNat, 2), (lc.toNat, 2), (b01 sx, 1), (off.toNat, 7)])
  | .st _ sz d a off => some (pk [(4, 4), (1, 3), (d.toNat, 6), (a.toNat, 6), (sz.toNat, 2), (0, 3), (off.toNat, 7)])
  | .ldacq _ sz lc sx sc d a off => some (pk [(4, 4), (2, 3), (d.toNat, 6), (a.toNat, 6), (sz.toNat, 2), (lc.toNat, 2),
      (b01 sx, 1), (sc.toNat, 3), (off.toNat, 4)])
  | .strel _ sz lc sc d a off => some (pk [(4, 4), (3, 3), (d.toNat, 6), (a.toNat, 6), (sz.toNat, 2), (lc.toNat, 2),
      (0, 1), (sc.toNat, 3), (off.toNat, 4)])
  | .amo _ asz lc ord sc op d a => some (pk [(4, 4), (4, 3), (d.toNat, 6), (a.toNat, 6), (asz.toNat, 2), (lc.toNat, 2),
      (ord.toNat, 2), (sc.toNat, 3), (op.toNat, 3)])
  | .cas _ asz lc ord sc d a => some (pk [(4, 4), (5, 3), (d.toNat, 6), (a.toNat, 6), (asz.toNat, 2), (lc.toNat, 2),
      (ord.toNat, 2), (sc.toNat, 3), (0, 3)])
  | .cas16 _ lc ord sc d a => some (pk [(4, 4), (6, 3), (d.toNat, 6), (a.toNat, 6), (0, 2), (lc.toNat, 2), (ord.toNat, 2),
      (sc.toNat, 3), (0, 3)])
  | .pref _ a off => some (pk [(4, 4), (7, 3), (0, 6), (a.toNat, 6), (0, 5), (off.toNat, 7)])
  | .br _ disp => some (encC 0 [(disp.toNat, 23)])
  | .brc _ neg p disp => some (encC 1 [(b01 neg, 1), (p.toNat, 4), (disp.toNat, 18)])
  | .bri _ a => some (encC 2 [(a.enc, 7), (0, 16)])
  | .call _ disp => some (encC 3 [(disp.toNat, 23)])
  | .calli _ a => some (encC 4 [(a.enc, 7), (0, 16)])
  | .ret _ a => some (encC 5 [(a.enc, 7), (0, 16)])
  | .loop _ (.reg a) off => some (encC 6 [(0, 1), (a.enc, 7), (0, 3), (off.toNat, 12)])
  | .loop _ (.imm n) off => some (encC 6 [(1, 1), (n.toNat, 10), (off.toNat, 12)])
  | .loopx _ sr off => some (encC 7 [(sr.toNat, 4), (0, 7), (off.toNat, 12)])
  | .brk _ => some (encC 8 [(0, 23)])
  | .bsel _ a => some (encC 9 [(a.enc, 7), (0, 16)])
  | .pause _ (.reg a) => some (encC 10 [(0, 1), (a.enc, 7), (0, 15)])
  | .pause _ (.imm n) => some (encC 10 [(1, 1), (0, 6), (n.toNat, 16)])
  | .exit _ => some (encC 11 [(0, 23)])
  | .vadd _ wd h et d a b => some (encVR 0 wd h et d.enc a.enc b.enc)
  | .vsub _ wd h et d a b => some (encVR 1 wd h et d.enc a.enc b.enc)
  | .vmul _ wd h et d a b => some (encVR 2 wd h et d.enc a.enc b.enc)
  | .vfma _ wd h et d a b => some (encVR 3 wd h et d.enc a.enc b.enc)
  | .vfms _ wd h et d a b => some (encVR 4 wd h et d.enc a.enc b.enc)
  | .vmin _ wd h et d a b => some (encVR 5 wd h et d.enc a.enc b.enc)
  | .vmax _ wd h et d a b => some (encVR 6 wd h et d.enc a.enc b.enc)
  | .vabs _ wd h et d a => some (encVR 7 wd h et d.enc a.enc 0)
  | .vneg _ wd h et d a => some (encVR 8 wd h et d.enc a.enc 0)
  | .vand _ wd h et d a b => some (encVR 9 wd h et d.enc a.enc b.enc)
  | .vor _ wd h et d a b => some (encVR 10 wd h et d.enc a.enc b.enc)
  | .vxor _ wd h et d a b => some (encVR 11 wd h et d.enc a.enc b.enc)
  | .vshl _ wd h et d a b => some (encVR 12 wd h et d.enc a.enc b.enc)
  | .vshr _ wd h et d a b => some (encVR 13 wd h et d.enc a.enc b.enc)
  | .vsra _ wd h et d a b => some (encVR 14 wd h et d.enc a.enc b.enc)
  | .vrot _ wd h et d a b => some (encVR 15 wd h et d.enc a.enc b.enc)
  | .vcmp _ wd h et cond md a b => some (encVR 16 wd h et (cond.toNat * 8 + md.toNat) a.enc b.enc)
  | .vsel _ wd h d a b => some (encVR 17 wd h 0 d.enc a.enc b.enc)
  | .vmac16 _ wd h et d a b => some (encVR 18 wd h et d.enc a.enc b.enc)
  | .vdot4 _ wd h et d a b => some (encVR 19 wd h et d.enc a.enc b.enc)
  | .vsadd _ wd h et d a b => some (encVR 20 wd h et d.enc a.enc b.enc)
  | .vssub _ wd h et d a b => some (encVR 21 wd h et d.enc a.enc b.enc)
  | .vred _ wd h et op d a => some (encVR 22 wd h et d.enc a.enc op.toNat)
  | .vperm _ wd h et d a b => some (encVR 23 wd h et d.enc a.enc b.enc)
  | .vbcst _ wd h et d a => some (encVR 24 wd h et d.enc a.toNat 0)
  | .vins _ wd h et d a idx => some (encVR 25 wd h et d.enc a.toNat idx.toNat)
  | .vext _ wd h et d a idx => some (encVR 26 wd h et d.toNat a.enc idx.toNat)
  | .vmov _ wd h d a => some (encVR 27 wd h 0 d.enc a.enc 0)
  | .vcvt _ wd h d a tgt src => some (encVS 0 wd h d a.enc (tgt.toNat * 16 + src.toNat))
  | .vpack _ wd h form d a b => some (encVS 1 wd h d a.enc (form.toNat * 64 + b.enc))
  | .vunpk _ wd h form hi d a => some (encVS 2 wd h d a.enc (form.toNat * 64 + b01 hi))
  | .vmaxe _ wd h d a tgt src => some (encVS 3 wd h d a.enc (tgt.toNat * 16 + src.toNat))
  | .vcvtq _ wd h d a tgt src => some (encVS 4 wd h d a.enc (tgt.toNat * 16 + src.toNat))
  | .vexp2 _ wd h d a ty => some (encVS 5 wd h d a.enc ty.toNat)
  | .vlog2 _ wd h d a ty => some (encVS 6 wd h d a.enc ty.toNat)
  | .vrcp _ wd h d a ty => some (encVS 7 wd h d a.enc ty.toNat)
  | .vrsq _ wd h d a ty => some (encVS 8 wd h d a.enc ty.toNat)
  | .vtanh _ wd h d a ty => some (encVS 9 wd h d a.enc ty.toNat)
  | .vrpb _ wd h bidir d a p => some (encVS 10 wd h d a.enc (b01 bidir * 128 + p.enc))
  | .vld _ wd lc d a off =>
    some (pk [(8, 4), (0, 3), (wd.enc, 2), (lc.toNat, 2), (d.toNat, 5), (a.toNat, 6), (off.toNat, 9)])
  | .vst _ wd vs a me m off =>
    some (pk [(8, 4), (1, 3), (wd.enc, 2), (vs.enc, 6), (a.toNat, 6), (b01 me, 1), (m.toNat, 3), (off.toNat, 6)])
  | .vlds _ wd lc d a b es =>
    some (pk [(8, 4), (2, 3), (wd.enc, 2), (lc.toNat, 2), (d.toNat, 5), (a.toNat, 6), (b.toNat, 6), (es.toNat, 2), (0, 1)])
  | .vsts _ wd vs a b es =>
    some (pk [(8, 4), (3, 3), (wd.enc, 2), (vs.enc, 6), (a.toNat, 6), (b.toNat, 6), (es.toNat, 2), (0, 2)])
  | .vmsk _ wd op md ma mb =>
    some (pk [(8, 4), (4, 3), (wd.enc, 2), (op.toNat, 3), (md.toNat, 3), (ma.toNat, 3), (mb.toNat, 3), (0, 10)])
  | .tcfg _ t r c int => some (encX 0 [(t.toNat, 3), (r.toNat, 7), (c.toNat, 7), (b01 int, 2), (0, 4)])
  | .tcfgOff _ t => some (encX 0 [(t.toNat, 3), (0, 14), (3, 2), (0, 4)])
  | .tzero _ t r n => some (encX 1 [(t.toNat, 3), (r.toNat, 7), (n.toNat, 7), (0, 6)])
  | .trowmv _ t r cb va => some (encX 2 [(t.toNat, 3), (r.toNat, 7), (cb.toNat, 2), (va.enc, 6), (0, 5)])
  | .trowrd _ t r cb vd => some (encX 3 [(t.toNat, 3), (r.toNat, 7), (cb.toNat, 2), (vd.toNat, 5), (0, 6)])
  | .tcolrd _ t r cb vd => some (encX 4 [(t.toNat, 3), (r.toNat, 7), (cb.toNat, 2), (vd.toNat, 5), (0, 6)])
  | .mma _ t k ring fa fb a sat => some (encX 5 [(t.toNat, 3), (k.toNat, 2), (ring.toNat, 2), (fa.toNat, 3), (fb.toNat, 3),
      (a.toNat, 6), (b01 sat, 1), (0, 3)])
  | .mmap _ t k ring fa fb a sat => some (encX 6 [(t.toNat, 3), (k.toNat, 2), (ring.toNat, 2), (fa.toNat, 3), (fb.toNat, 3),
      (a.toNat, 6), (b01 sat, 1), (0, 3)])
  | .mlatch _ k f a => some (encX 7 [(k.toNat, 2), (f.toNat, 3), (a.toNat, 6), (0, 12)])
  | .mscl _ k a => some (encX 8 [(k.toNat, 2), (a.toNat, 6), (0, 15)])
  | .mdrain _ t f z a => some (encX 9 [(t.toNat, 3), (f.toNat, 2), (b01 z, 1), (a.toNat, 6), (0, 11)])
  | .mcall _ idx => some (encX 10 [(idx.toNat, 6), (0, 17)])
  | .mpset _ n a => some (encX 11 [(n.toNat, 3), (a.toNat, 6), (0, 14)])
  | .ringcfg _ ring a b => some (encX 12 [(ring.toNat, 2), (a.toNat, 6), (b.toNat, 6), (0, 9)])
  | .ringpop _ ring d n => some (encX 13 [(ring.toNat, 2), (d.toNat, 6), (n.toNat, 11), (0, 4)])
  | .ringpush _ ring d n => some (encX 14 [(ring.toNat, 2), (d.toNat, 6), (n.toNat, 11), (0, 4)])
  | .mpload _ n cm1 a => some (encX 15 [(n.toNat, 3), (cm1.toNat, 3), (a.toNat, 6), (0, 11)])
  | .copy _ d a ord q r sc => some (encT 0 d.toNat a.toNat (b01 ord * 32) q r sc)
  | .copyc _ d a ord q r sc => some (encT 1 d.toNat a.toNat (b01 ord * 32) q r sc)
  | .kld _ d a b q r sc => some (encT 2 d.toNat a.toNat b.toNat q r sc)
  | .kst _ d a b q r sc => some (encT 3 d.toNat a.toNat b.toNat q r sc)
  | .kapp _ d a b q r sc => some (encT 4 d.toNat a.toNat b.toNat q r sc)
  | .kalloc _ d a b q r sc => some (encT 5 d.toNat a.toNat b.toNat q r sc)
  | .kfree _ d a b q r sc => some (encT 6 d.toNat a.toNat b.toNat q r sc)
  | .kcommit _ d a b q r sc => some (encT 7 d.toNat a.toNat b.toNat q r sc)
  | .kdedup _ d a b q r sc => some (encT 8 d.toNat a.toNat b.toNat q r sc)
  | .kfork _ d a b q r sc => some (encT 9 d.toNat a.toNat b.toNat q r sc)
  | .kwin _ d a b q r sc => some (encT 10 d.toNat a.toNat b.toNat q r sc)
  | .kpin _ d a b q r sc => some (encT 11 d.toNat a.toNat b.toNat q r sc)
  | .sbind _ slot vr dir a => some (encS 0 [(slot.toNat, 3), (vr.toNat, 3), (b01 dir, 1), (a.toNat, 6), (0, 9)])
  | .sfree _ slot => some (encS 1 [(slot.toNat, 3), (0, 19)])
  | .ixq _ slot a => some (encS 2 [(slot.toNat, 3), (a.toNat, 6), (0, 13)])
  | .qput _ q a => some (encS 3 [(q.toNat, 8), (a.toNat, 6), (0, 8)])
  | .qget _ q d => some (encS 4 [(q.toNat, 8), (d.toNat, 6), (0, 8)])
  | .crwait _ dn a d => some (encS 5 [(dn.toNat, 8), (a.toNat, 6), (d.toNat, 6), (0, 2)])
  | .fenceAcq _ sc lc => some (encS 6 [(1, 2), (sc.toNat, 3), (lc.toNat, 2), (0, 15)])
  | .fenceRel _ sc lc => some (encS 6 [(2, 2), (sc.toNat, 3), (lc.toNat, 2), (0, 15)])
  | .fenceAr _ sc lc => some (encS 6 [(3, 2), (sc.toNat, 3), (lc.toNat, 2), (0, 15)])
  | .drain _ sc lc => some (encS 7 [(0, 2), (sc.toNat, 3), (lc.toNat, 2), (0, 15)])
  | .bara _ hb => some (encS 8 [(hb.toNat, 6), (0, 16)])
  | .barw _ hb => some (encS 9 [(hb.toNat, 6), (0, 16)])
  | .barwA _ hb => some (encS 9 [(hb.toNat, 6), (1, 1), (0, 15)])
  | .barset _ hb a b => some (encS 10 [(hb.toNat, 6), (a.toNat, 6), (b.toNat, 6), (0, 4)])
  | .stepjoin _ sg => some (encS 11 [(sg.toNat, 5), (0, 17)])
  | .step _ sg => some (encS 12 [(sg.toNat, 5), (0, 17)])
  | .stepleave _ sg => some (encS 13 [(sg.toNat, 5), (0, 17)])
  | .logit _ d a b => some (encS 14 [(d.toNat, 6), (a.toNat, 6), (b.toNat, 6), (0, 4)])
  | .seqbind _ a => some (encS 15 [(a.toNat, 6), (0, 16)])
  | .verify _ d a b => some (encS 16 [(d.toNat, 6), (a.toNat, 6), (b.toNat, 6), (0, 4)])
  | .tmove _ d a b => some (encS 17 [(d.toNat, 6), (a.toNat, 6), (b.toNat, 6), (0, 4)])
  | .mbox _ d a b => some (encS 18 [(d.toNat, 6), (a.toNat, 6), (b.toNat, 6), (0, 4)])
  | .syscall _ n => some (encY 0 [(0, 7), (n.toNat, 16)])
  | .eret _ => some (encY 1 [(0, 23)])
  | .mfsr _ d n => some (encY 2 [(0, 1), (d.toNat, 6), (n.toNat, 8), (0, 8)])
  | .mtsr _ a n => some (encY 3 [(a.enc, 7), (n.toNat, 8), (0, 8)])
  | .csave _ d => some (encY 4 [(d.toNat, 6), (0, 17)])
  | .crest _ d => some (encY 5 [(d.toNat, 6), (0, 17)])
  | .tsave _ d => some (encY 6 [(d.toNat, 6), (0, 17)])
  | .tsaveOut _ d => some (encY 6 [(d.toNat, 6), (1, 17)])
  | .tlbinvPage _ d a => some (encY 7 [(d.toNat, 6), (a.toNat, 6), (0, 11)])
  | .tlbinvTen _ d a => some (encY 7 [(d.toNat, 6), (a.toNat, 6), (1, 11)])
  | .tlbinvAll _ d => some (encY 7 [(d.toNat, 6), (0, 6), (2, 11)])
  | .wfi _ => some (encY 8 [(0, 23)])
  | .nop ovl e0 e1 e2 => some (pk [(15, 4), (b01 ovl, 1), (0, 2), (e0.toNat, 8), (e1.toNat, 8), (e2.toNat, 8)])
  | .halt _ => some (encY 9 [(0, 23)])
  | _ => none

/-- A command's words as one number, the first word least significant (R349, R350). -/
def Instr.cmd : Instr → Option Nat
  | .cmov d a => some (pk [(0x00, 5), (0, 1), (d.toNat, 4), (a.toNat, 4), (0, 18)])
  | .cmovi d imm => some (pk [(0x01, 5), (0, 1), (d.toNat, 4), (0, 8), (imm.toNat, 14)])
  | .cmoviExt d ext => some (pk [(ext.toNat, 64), (0x01, 5), (1, 1), (d.toNat, 4), (0, 22)])
  | .cadd d a b => some (pk [(0x02, 5), (0, 1), (d.toNat, 4), (a.toNat, 4), (b.toNat, 4), (0, 14)])
  | .caddImm d a ext => some (pk [(ext.toNat, 64), (0x02, 5), (1, 1), (d.toNat, 4), (a.toNat, 4), (0, 18)])
  | .csub d a b => some (pk [(0x03, 5), (0, 1), (d.toNat, 4), (a.toNat, 4), (b.toNat, 4), (0, 14)])
  | .csubImm d a ext => some (pk [(ext.toNat, 64), (0x03, 5), (1, 1), (d.toNat, 4), (a.toNat, 4), (0, 18)])
  | .cand d a b => some (pk [(0x04, 5), (0, 1), (d.toNat, 4), (a.toNat, 4), (b.toNat, 4), (0, 14)])
  | .candImm d a ext => some (pk [(ext.toNat, 64), (0x04, 5), (1, 1), (d.toNat, 4), (a.toNat, 4), (0, 18)])
  | .cor d a b => some (pk [(0x05, 5), (0, 1), (d.toNat, 4), (a.toNat, 4), (b.toNat, 4), (0, 14)])
  | .corImm d a ext => some (pk [(ext.toNat, 64), (0x05, 5), (1, 1), (d.toNat, 4), (a.toNat, 4), (0, 18)])
  | .ccmp d a b cond => some (pk [(0x06, 5), (0, 1), (d.toNat, 4), (a.toNat, 4), (b.toNat, 4), (0, 11), (cond.toNat, 3)])
  | .ccmpImm d a ext cond =>
    some (pk [(ext.toNat, 64), (0x06, 5), (1, 1), (d.toNat, 4), (a.toNat, 4), (0, 15), (cond.toNat, 3)])
  | .cbr mode d disp => some (pk [(0x07, 5), (0, 1), (d.toNat, 4), (0, 4), (mode.toNat, 4), (disp.toNat, 14)])
  | .cloop d disp => some (pk [(0x08, 5), (0, 1), (d.toNat, 4), (0, 8), (disp.toNat, 14)])
  | .ccall disp => some (pk [(0x09, 5), (0, 13), (disp.toNat, 14)])
  | .ccallIndirect a => some (pk [(0x09, 5), (0, 5), (a.toNat, 4), (1, 4), (0, 14)])
  | .cret => some (pk [(0x0A, 5), (0, 27)])
  | .cld d a off => some (pk [(0x0B, 5), (0, 1), (d.toNat, 4), (a.toNat, 4), (0, 5), (off.toNat, 13)])
  | .cldR d a off => some (pk [(0x0B, 5), (0, 1), (d.toNat, 4), (a.toNat, 4), (1, 5), (off.toNat, 13)])
  | .cst d a off => some (pk [(0x0C, 5), (0, 1), (d.toNat, 4), (a.toNat, 4), (0, 5), (off.toNat, 13)])
  | .cstR d a off => some (pk [(0x0C, 5), (0, 1), (d.toNat, 4), (a.toNat, 4), (1, 5), (off.toNat, 13)])
  | .cwait a b cond => some (pk [(0x0D, 5), (0, 5), (a.toNat, 4), (b.toNat, 4), (0, 11), (cond.toNat, 3)])
  | .csigSet a b => some (pk [(0x0E, 5), (0, 5), (a.toNat, 4), (b.toNat, 4), (0, 14)])
  | .csigAdd a b => some (pk [(0x0E, 5), (0, 5), (a.toNat, 4), (b.toNat, 4), (1, 14)])
  | .claunch d a b => some (pk [(0x0F, 5), (0, 1), (d.toNat, 4), (a.toNat, 4), (b.toNat, 4), (0, 14)])
  | .cseg a => some (pk [(0x10, 5), (0, 5), (a.toNat, 4), (0, 18)])
  | .ccopy d a => some (pk [(0x11, 5), (0, 1), (d.toNat, 4), (a.toNat, 4), (0, 18)])
  | .ccopyC d a => some (pk [(0x11, 5), (0, 1), (d.toNat, 4), (a.toNat, 4), (1, 18)])
  | .cfenceCopy => some (pk [(0x12, 5), (1, 27)])
  | .cfenceLaunch => some (pk [(0x12, 5), (2, 27)])
  | .cfenceAll => some (pk [(0x12, 5), (3, 27)])
  | .ctime d => some (pk [(0x13, 5), (0, 1), (d.toNat, 4), (0, 22)])
  | .crungRd d a => some (pk [(0x14, 5), (0, 1), (d.toNat, 4), (a.toNat, 4), (0, 18)])
  | .crungSet a b => some (pk [(0x14, 5), (0, 5), (a.toNat, 4), (b.toNat, 4), (1, 14)])
  | .cint n => some (pk [(0x15, 5), (0, 22), (n.toNat, 5)])
  | .chalt => some (pk [(0x16, 5), (0, 27)])
  | _ => none

/-- A Pip word (R269): OP, D, A, B and X. -/
def encP (op d a b x : Nat) : Nat := pk [(op, 5), (d, 3), (a, 3), (b, 3), (x, 18)]

/-- The word of a Pip instruction (R269). -/
def Instr.pip : Instr → Option Nat
  | .pld d => some (encP 0 d.toNat 0 0 0) | .pldIdx d => some (encP 0 d.toNat 0 0 1)
  | .pcnt d => some (encP 1 d.toNat 0 0 0) | .pbias d => some (encP 2 d.toNat 0 0 0)
  | .padd d a b s => some (encP 3 d.toNat a.toNat b.toNat (b01 s * 2 ^ 17))
  | .psub d a b s => some (encP 4 d.toNat a.toNat b.toNat (b01 s * 2 ^ 17))
  | .pmul d a b s => some (encP 5 d.toNat a.toNat b.toNat (b01 s * 2 ^ 17))
  | .pmax d a b s => some (encP 6 d.toNat a.toNat b.toNat (b01 s * 2 ^ 17))
  | .pmin d a b s => some (encP 7 d.toNat a.toNat b.toNat (b01 s * 2 ^ 17))
  | .pexp d a => some (encP 8 d.toNat a.toNat 0 0) | .plog d a => some (encP 9 d.toNat a.toNat 0 0)
  | .ppen d a b c => some (encP 10 d.toNat a.toNat b.toNat (c.toNat * 2 ^ 15))
  | .pfreq d a b c e => some (encP 11 d.toNat a.toNat b.toNat (c.toNat * 2 ^ 15 + e.toNat * 2 ^ 12))
  | .pmask d a => some (encP 12 d.toNat a.toNat 0 0)
  | .pclamp d a b c => some (encP 13 d.toNat a.toNat b.toNat (c.toNat * 2 ^ 15))
  | .psel d c a b => some (encP 14 d.toNat a.toNat b.toNat (c.toNat * 2 ^ 15))
  | .pimm d imm => some (encP 15 d.toNat 0 0 imm.toNat)
  | .pcmp d a b s cond => some (encP 16 d.toNat a.toNat b.toNat (b01 s * 2 ^ 17 + cond.toNat * 2 ^ 14))
  | .pskip n => some (encP 17 0 0 0 n.toNat)
  | .pskipNz a n => some (encP 17 0 a.toNat 0 (2 ^ 16 + n.toNat))
  | .pskipZ a n => some (encP 17 0 a.toNat 0 (2 * 2 ^ 16 + n.toNat))
  | .pskipNone a n => some (encP 17 0 a.toNat 0 (3 * 2 ^ 16 + n.toNat))
  | .pnop => some (encP 18 0 0 0 0)
  | .pend d => some (encP 19 d.toNat 0 0 0)
  | _ => none

/-- Is a row an event: neither a syllable, a header, a command nor a Pip instruction? -/
def Instr.isEvent (i : Instr) : Bool := i.syl.isNone && i.cmd.isNone && i.pip.isNone

/-! ## The decoders: the raw reading, accepted when its fields are those the spec defines -/

/-- Decodes a syllable with its lent byte (R99, R105, R107). The stop bit takes no part. -/
def decodeSyllable (w : BitVec 32) (e : Byte) : Except Reject Instr :=
  let n := w.toNat % 2 ^ 31
  if n / 2 ^ 27 = 15 then .error .header
  else if n / 2 ^ 27 = 13 ∨ n / 2 ^ 27 = 14 then .error .reservedMajor
  else match rawSyllable n (lentOf e) with
    | none => .error .undefinedCode
    | some i => if i.wf && i.syl == some n && i.lent.enc == e then .ok i else .error .badField

/-- Decodes a header (R106). -/
def decodeHeader (w : BitVec 32) : Except Reject Instr :=
  let n := w.toNat % 2 ^ 31
  if n / 2 ^ 27 ≠ 15 then .error .undefinedCode
  else if n / 2 ^ 24 % 4 ≠ 0 then .error .badField
  else .ok (.nop (flag n 26) (fld n 16 8) (fld n 8 8) (fld n 0 8))

/-- A command's raw reading from its words as one number. -/
def rawCommand (n : Nat) : Option Instr :=
  let d : BitVec 4 := fld n 22 4
  let a : BitVec 4 := fld n 18 4
  let b : BitVec 4 := fld n 14 4
  let ext : BitVec 64 := fld n 32 64
  let x := flag n 26
  match n / 2 ^ 27 % 32 with
  | 0x00 => some (.cmov d a)
  | 0x01 => if x then some (.cmoviExt d ext) else some (.cmovi d (fld n 0 14))
  | 0x02 => if x then some (.caddImm d a ext) else some (.cadd d a b)
  | 0x03 => if x then some (.csubImm d a ext) else some (.csub d a b)
  | 0x04 => if x then some (.candImm d a ext) else some (.cand d a b)
  | 0x05 => if x then some (.corImm d a ext) else some (.cor d a b)
  | 0x06 => if x then some (.ccmpImm d a ext (fld n 0 3)) else some (.ccmp d a b (fld n 0 3))
  | 0x07 => some (.cbr (fld n 14 2) d (fld n 0 14))
  | 0x08 => some (.cloop d (fld n 0 14))
  | 0x09 => if flag n 14 then some (.ccallIndirect a) else some (.ccall (fld n 0 14))
  | 0x0A => some .cret
  | 0x0B => if flag n 13 then some (.cldR d a (fld n 0 13)) else some (.cld d a (fld n 0 13))
  | 0x0C => if flag n 13 then some (.cstR d a (fld n 0 13)) else some (.cst d a (fld n 0 13))
  | 0x0D => some (.cwait a b (fld n 0 3))
  | 0x0E => if flag n 0 then some (.csigAdd a b) else some (.csigSet a b)
  | 0x0F => some (.claunch d a b)
  | 0x10 => some (.cseg a)
  | 0x11 => if flag n 0 then some (.ccopyC d a) else some (.ccopy d a)
  | 0x12 => match n % 4 with
    | 1 => some .cfenceCopy | 2 => some .cfenceLaunch | 3 => some .cfenceAll | _ => none
  | 0x13 => some (.ctime d)
  | 0x14 => if flag n 0 then some (.crungSet a b) else some (.crungRd d a)
  | 0x15 => some (.cint (fld n 0 5))
  | 0x16 => some .chalt
  | _ => none

/-- Decodes a command from its words as one number: the word at CPC, and above it the extension word, which takes part
only when X = 1 (R349). -/
def decodeCommand (n : Nat) : Except Reject Instr :=
  let m := if flag n 26 then n % 2 ^ 96 else n % 2 ^ 32
  match rawCommand m with
  | none => .error .undefinedCode
  | some i => if i.wf && i.cmd == some m then .ok i else .error .badField

/-- The bytes of a command: 12 with an extension word, otherwise 4 (R349). -/
def commandBytes (n : Nat) : Nat := if flag n 26 then 12 else 4

/-- A Pip word's raw reading (R269). -/
def rawPip (n : Nat) : Option Instr :=
  let d : BitVec 3 := fld n 24 3
  let a : BitVec 3 := fld n 21 3
  let b : BitVec 3 := fld n 18 3
  let c : BitVec 3 := fld n 15 3
  let s := flag n 17
  match n / 2 ^ 27 % 32 with
  | 0 => if flag n 0 then some (.pldIdx d) else some (.pld d)
  | 1 => some (.pcnt d) | 2 => some (.pbias d)
  | 3 => some (.padd d a b s) | 4 => some (.psub d a b s) | 5 => some (.pmul d a b s)
  | 6 => some (.pmax d a b s) | 7 => some (.pmin d a b s)
  | 8 => some (.pexp d a) | 9 => some (.plog d a)
  | 10 => some (.ppen d a b c) | 11 => some (.pfreq d a b c (fld n 12 3))
  | 12 => some (.pmask d a) | 13 => some (.pclamp d a b c) | 14 => some (.psel d c a b)
  | 15 => some (.pimm d (fld n 0 18))
  | 16 => some (.pcmp d a b s (fld n 14 3))
  | 17 => match n / 2 ^ 16 % 4 with
    | 0 => some (.pskip (fld n 0 6)) | 1 => some (.pskipNz a (fld n 0 6)) | 2 => some (.pskipZ a (fld n 0 6))
    | _ => some (.pskipNone a (fld n 0 6))
  | 18 => some .pnop
  | 19 => some (.pend d)
  | _ => none

/-- Decodes a Pip word (R269, R270). -/
def decodePip (w : BitVec 32) : Except Reject Instr :=
  match rawPip w.toNat with
  | none => .error .undefinedCode
  | some i => if i.wf && i.pip == some w.toNat then .ok i else .error .badField

/-- The instruction that the host's number `w` of `nbits` bits stands for (bits above `nbits` zero). Commands and Pip words
are 32-bit words of their own streams, syllables of the core's; a word that several streams define is read as a command
first, then as a Pip word, then as a syllable that ends its bundle and has no header (log 9). -/
def decodeTableWord (nbits w : Nat) : Option Instr :=
  let n := w % 2 ^ nbits
  match decodeCommand n with
  | .ok i => some i
  | .error _ => match decodePip (BitVec.ofNat 32 n) with
    | .ok i => some i
    | .error _ => match decodeSyllable (BitVec.ofNat 32 n) 0 with
      | .ok i => some i
      | .error _ => match decodeHeader (BitVec.ofNat 32 n) with
        | .ok i => some i
        | .error _ => none

end Sys2Proof
end

