-- ==== Sys2Proof/Config.lean ====
section
/-! DEFINITION. What an implementation fixes (sizes and places of R3, R56 to R64) and the free values: constants with no
body, which no proof can see through. A free value stands wherever the spec leaves a value open (log 8). -/

namespace Sys2Proof.Config

/-- A free byte: the `n`th drawn (log 8). Free: the spec calls the byte unpredictable (R306, R317) or gives no value. -/
opaque freeByte : Nat → Byte
/-- A free 64-bit word (log 8). -/
opaque freeWord : Nat → W64
/-- A free number (log 8): a TLB victim (R330), a length of coded data (R402). -/
opaque freeNat : Nat → Nat
/-- The public key in the boot ROM that verifies Hazel firmware (R392): the part's own, not given by the spec (log 112). -/
opaque romKey : Nat × Nat
/-- The SHA-384 of that key, as it is fused in the ROM (R406; log 112). -/
opaque romFuse : List Byte
/-- The private device identity key (R393): the part's own (log 112). -/
opaque identityKey : Nat
/-- The private key that signs device identity certificates (R392; log 112). -/
opaque issuerKey : Nat
/-- The one-time number of a signature over a message: it makes no part of the signature 0 (R392; log 112). -/
opaque signNonce : List Byte → Nat
/-- Island i's lowest operating point, as ISLSTAT shows it (R411, R412; log 8). -/
opaque lowestPoint : Nat → W64
/-- Device serial and revision, 24 bytes (R393, log 8). -/
opaque serial : BitVec 192

/-- What an encoder codes a frame by (R400 to R402): the codec and the bounds of its profile; the frame, whether it is a key frame and
whether later frames may refer to it (if not: `refresh_frame_flags` 0 in AV1, a sub-layer of its own in HEVC); the frames that it may
refer to; the picture's size, the tile columns of AV1; and the rate control: mode, QP, rates in kbit/s, and the budget in bits. -/
structure Coding where
  hevc : Bool
  level : Nat
  frame : Nat
  key : Bool
  reference : Bool
  refs : List Nat
  width : Nat
  height : Nat
  tileCols : Nat
  rc : Nat
  qp : Nat
  target : Nat
  maxrate : Nat
  budget : Nat
deriving DecidableEq, Repr

/-- Byte n of a frame's coded form, from its parameters and its pixel area: free, for the spec gives no coded byte (log 37). -/
opaque codedByte : Coding → List Byte → Nat → Byte
/-- The decoder configuration of a stream (the bytes of `av1C` or `hvcC`): free (log 37). -/
opaque codecConfig : Coding → List Byte

/-- 64 KiB, the smallest page (R323). -/
def pageBytes : Nat := 0x10000
/-- Bytes of one vault (R59). -/
def vaultBytes : Nat := 0x600000
/-- First address of the vault window (R56). -/
def vaultBase : Nat := 0xFFFFFC0000000
/-- First address after the vault window (R56). -/
def vaultEnd : Nat := 0xFFFFFF0000000
/-- First address of VLAT (R56). -/
def vlatBase : Nat := 0xFFFFFF0000000
/-- First address after VLAT (R56). -/
def vlatEnd : Nat := 0xFFFFFF0000080
/-- First address of the local-store window (R56). -/
def lsBase : Nat := 0xFFFFFFFF00000
/-- First unimplemented address (R56). -/
def vaLimit : Nat := 0x10000000000000
/-- Bytes of a local store (R56). -/
def lsBytes : Nat := 0x100000
/-- Bytes of the near tier (R64). -/
def nearBytes : Nat := 512 * 2 ^ 30
/-- Bytes of the far tier (R64). -/
def farBytes : Nat := 2 ^ 40

/-! Where each memory stands in the model's one numbering of bytes (log 2). -/

/-- Near-tier byte 0. -/
def nearAt : Nat := 0
/-- Far-tier byte 0. -/
def farAt : Nat := 2 ^ 40
/-- Vault 0, byte 0; vault n stands 2^23 bytes further each. -/
def vaultAt : Nat := 2 ^ 41
/-- Local store of core 0; core c stands 2^20 bytes further each. -/
def lsAt : Nat := 2 ^ 42
/-- Tile file of core 0: tiles at 2^16 each, latches from 2^20 at 2^17 each; core c stands 2^21 bytes further each. -/
def tileAt : Nat := 2 ^ 43
/-- Instruction memory of core 0: two halves of 2^17 bytes; core c stands 2^18 bytes further each. -/
def imemAt : Nat := 2 ^ 44
/-- Microprogram store of core 0: steps, then from 2^13 the routine table; core c stands 2^14 bytes further each. -/
def microAt : Nat := 2 ^ 45
/-- The recovery window of function 0, 64 KiB (R407). -/
def recoveryAt : Nat := 2 ^ 46
/-- The package flash with the Hazel firmware image (R406; its size: log 112). -/
def flashAt : Nat := 2 ^ 46 + 2 ^ 20
/-- Bytes of a Hazel firmware image, with its signature last: what the recovery window holds (R407; log 112). -/
def imageBytes : Nat := 0x10000
/-- VLAT of core 0, 128 bytes, which no memory holds; core c stands 128 bytes further each. -/
def vlatAt : Nat := 2 ^ 47
/-- Host memory, by bus address. -/
def hostAt : Nat := 2 ^ 64
/-- Memory of peer 0, by window offset; peer n stands 2^56 bytes further each. -/
def peerAt : Nat := 2 ^ 65

end Sys2Proof.Config
end

