-- ==== Sys2Proof/Machine/State.lean ====
section
/-! DEFINITION. The state of the device as plain data: the memory, the partition registers, and everything else the spec
gives the machine (INVENTORY.md, State), with its value at reset. -/

namespace Sys2Proof.Machine

/-! ## Memory -/

/-- Memory: the bytes that are not 0, by address, addresses strictly rising. An unlisted byte reads 0 (R406; log 3). -/
structure Memory where
  cells : List Host.Cell
deriving DecidableEq, Repr

/-- How a data unit of a tier was last written (R391): under a key, or as bytes of ciphertext (by function 0, or a restore). -/
inductive UnitTag where
  | key (k : BitVec 512)
  | raw
deriving DecidableEq, Repr

/-! ## A core's context (R12) -/

/-- One level of the loop stack (R30). -/
structure LoopLevel where
  start : W64
  stop : W64
  trip : Nat
  idx : Nat
deriving DecidableEq, Repr

/-- An entry of the token table: the operation awaited and its register (R213, R215). `slot` is its place in
the table; `pend` is false when the link between register and operation is broken; the place stays taken until the operation's
token has been written. -/
structure Tok where
  op : Nat
  slot : Nat
  reg : BitVec 6
  bank : Bool
  pend : Bool
  value : W64
deriving DecidableEq, Repr

/-- One FIFO entry of a read stream: its index, its bytes, and the code and address if its fetch faulted (R234, R237). -/
structure FifoEnt where
  idx : Nat
  val : V1024
  fault : Option (Byte × W64)
deriving DecidableEq, Repr

/-- A stream slot (R234 to R237). `next` is the index of the next entry to fetch (read) or to reserve (write). -/
structure StreamSlot where
  bound : Bool
  dir : Bool
  vr : BitVec 3
  pat : BitVec 512
  next : Nat
  fifo : List FifoEnt
  gq : List (BitVec 32)
  stopped : Bool
deriving DecidableEq, Repr

/-- A pending late error or a held STEP_COLLISION (R300, R305): SCAUSE, SFADDR, SFINFO. -/
structure LateErr where
  scause : W64
  sfaddr : W64
  sfinfo : W64
deriving DecidableEq, Repr

/-- The registers and tables of a context (R12), apart from the tile file and the vector engine's own state. -/
structure Ctx where
  pc : W64
  loops : List LoopLevel
  s : Vector W64 64
  p : BitVec 16
  v : Vector V1024 32
  m : Vector (BitVec 128) 8
  qs : BitVec 32
  ag : Vector (BitVec 128) 4
  mp : Vector W64 8
  rings : Vector W64 4
  wid : W64
  tenant : BitVec 4
  kvslot : W64
  occ : W64
  draft : W64
  tokstat : W64
  fz : Bool
  toks : List Tok
  streams : Vector StreamSlot 8
  lates : List LateErr
  lateOvf : Bool
deriving DecidableEq, Repr

/-- The supervisor's registers of a core (R293, R297). `cycAt` is CYCLE at the stop (R305). -/
structure SvRegs where
  stvec : W64
  sepc : W64
  scause : W64
  sfaddr : W64
  sfinfo : W64
  ssave : W64
  stsave : W64
  slsave : W64
  lsmask : BitVec 16
  town : W64
  towna : W64
  ctxid : W64
  snext : W64
  priv : Bool
  pdef : Bool
  cycAt : W64
  s : Vector W64 16
  p : BitVec 4
deriving DecidableEq, Repr

/-! ## Results in flight, latches, held syllables -/

/-- Where a result in flight lands. -/
inductive FDest where
  /-- Nowhere but the latch (N = 1), or a fence's landing. -/
  | none
  /-- A scalar register; `bank`: the supervisor's copy (R290). -/
  | s (r : BitVec 6) (bank : Bool)
  /-- A predicate; `bank`: the supervisor's copy. -/
  | p (k : BitVec 4) (bank : Bool)
  /-- Bits [W-1:0] of a vector register. -/
  | v (r : BitVec 5) (wd : Width)
  /-- Bits [W/8-1:0] of a mask register. -/
  | m (k : BitVec 3) (wd : Width)
  /-- The scale latch. -/
  | qs
  /-- A KV address generator. -/
  | ag (n : BitVec 2)
  /-- A special register by its number (R292). -/
  | spr (n : BitVec 8)
  /-- The reserved entry `place` of a write stream (R184). -/
  | wr (slot : BitVec 3) (place : Nat)
  /-- The binding of a stream slot (R234). -/
  | bind (slot : BitVec 3) (vr : BitVec 3) (dir : Bool)
  /-- The end of a binding (R235). -/
  | unbind (slot : BitVec 3)
  /-- The pending mark of a token register (R215). -/
  | pend (r : BitVec 6) (bank : Bool) (op : Nat)
  /-- The fields of TOKSTAT that an outcome writes (R14): PABORT's or BROKEN's, what it was, and RES with RKIND. -/
  | outcome (pabort bad : Bool) (res : BitVec 6) (kind : Bool)
deriving DecidableEq, Repr

/-- A result in flight (R11, R17, R302, R303). It lands when `rem` unfrozen clocks have passed and, for a load, its data has
arrived (`wait` is none). `ord` is its place in issue order (R102); `latch` the bypass latch it reaches, unless control was
transferred since (`epoch`, R112); `valid` and `err` are the tag bits of R303. -/
structure Flight where
  rem : Nat
  dest : FDest
  latch : Option (Fin 4)
  epoch : Nat
  ord : Nat
  val : V1024
  wait : Option Nat
  counts : Bool
  div : Bool
  valid : Bool
  err : Bool
  faddr : W64
deriving DecidableEq, Repr

/-- A bypass latch (R16, R112). -/
structure Latch where
  val : V1024
  stale : Bool
deriving DecidableEq, Repr

/-- A held vector syllable with its lent byte (R114). -/
structure HeldSyl where
  word : BitVec 32
  ext : Byte
deriving DecidableEq, Repr

/-! ## Memory operations on their way -/

/-- What a load-like operation does when it performs. -/
inductive MemKind where
  /-- A scalar load of `size` bytes, sign-extended or not. -/
  | load (size : Nat) (sx : Bool)
  /-- A vector load: the bytes of the parts, in order, from the bottom. -/
  | vload
  /-- An atomic operation (R144): operation code, size and operand. -/
  | amo (op : BitVec 3) (size : Nat) (opnd : BitVec 128)
  /-- Compare and swap (R144): size, expected, new. -/
  | cas (size : Nat) (exp : BitVec 128) (new : BitVec 128)
  /-- A fence, a drain or a release store's landing (R81): waits for loads, for accesses, for remote accesses only. -/
  | fence (loads : Bool) (all : Bool) (remote : Bool)
deriving DecidableEq, Repr

/-- One part of an access: bytes that are read or written as one event, within one aligned 8-byte granule but for an atomic (R86);
translated (`pa`), refused with a code (`err`), or waiting for a walk. `sc`: an SC page. `unit`: the element, or the piece of a span,
that it belongs to: all of a unit fails together (R181, R332). `got`: the bytes, once it has been read. -/
structure Part where
  va : Nat
  len : Nat
  pa : Option Nat
  sc : Bool
  unit : Nat := 0
  err : Option Nat := none
  got : Option (List Byte) := none
deriving DecidableEq, Repr

/-- Whose access it is: one of the supervisor's (R291), or one of a task's (R300). -/
structure Owner where
  sv : Bool
  task : Option Nat
deriving DecidableEq, Repr

/-- An outstanding load, atomic or fence of a core (R63, R81, R84). `seq` is its place among the core's accesses; `since` the
DTIME at which it left; `rel`: it leaves only when every earlier access has performed at `scope`. -/
structure MemOp where
  id : Nat
  seq : Nat
  since : Nat
  kind : MemKind
  parts : List Part
  scope : BitVec 3
  rel : Bool
  dreg : Option (BitVec 6)
  own : Owner
deriving DecidableEq, Repr

/-- A write that has not performed everywhere (R80). `lvl` is the point reached: 0 in the core, 1 the cluster's egress, 2 the
pair's fabric port, 3 performed at device scope (a host or peer write then waits for its acknowledgement).
`data`: its bytes, none where it leaves a byte as it is (a masked `vst`); they lie within one aligned 8-byte granule, but for an
engine's (R86). `hold`: a release store that may not leave before every earlier access has performed at that scope.
`op`: the engine operation it belongs to; `stream`: the stream slot it drained from (R90). `acc` and `unit`: the store that it is part
of and the element, or piece of a span, within it; all of a unit fails together (R181, R332); `err`: the code with which its
translation was refused. -/
structure PendingWrite where
  id : Nat
  seq : Nat
  core : CoreId
  tenant : BitVec 4
  since : Nat
  va : Nat
  pa : Option Nat
  data : List (Option Byte)
  lvl : Nat
  sc : Bool
  hold : Option (BitVec 3)
  op : Option Nat
  stream : Option (BitVec 3)
  acc : Nat
  unit : Nat
  err : Option Nat
  own : Owner
deriving DecidableEq, Repr

/-- A reserved entry of a write stream (R184, R235). -/
structure WEnt where
  slot : BitVec 3
  place : Nat
  seq : Nat
  va : Nat
  len : Nat
  val : Option V1024
  own : Owner
deriving DecidableEq, Repr

/-- A release that waits for earlier accesses (R91, R93). -/
inductive Deferred where
  /-- A token on its way to a hardware queue (R238). -/
  | put (q : BitVec 8) (tok : W64)
  /-- An arrival at a barrier by a task; `waits`: by a `barw` that arrives (R91, R125). -/
  | arrive (hb : BitVec 6) (task : Nat) (waits : Bool)
  /-- An arrival at a step; `leave`: by stepleave; `next`: the number of the next operation of the device when it issued (R93, R246). -/
  | stepArrive (sg : BitVec 5) (task : Nat) (leave : Bool) (next : Nat)
deriving DecidableEq, Repr

/-- A TLB entry: a leaf that passed R327, tagged with tenant, page and size (R330). -/
structure TlbEntry where
  tenant : BitVec 4
  page : Nat
  size : Nat
  pte : W64
deriving DecidableEq, Repr

/-! ## The matrix unit (R186 to R209) -/

/-- The partner's half of an issued `mmap`, as it stood when the pair issued (R202): its core, syllable, operand, ring word and
latch. -/
structure Peer where
  core : CoreId
  instr : Instr
  a : W64
  ring : W64
  latch : List Byte
deriving DecidableEq, Repr

/-- A matrix command: the syllable and the operand values read at issue; its issue clock; whether a routine fed it
(R207); and the other half of a pair. -/
structure MCmd where
  instr : Instr
  a : W64
  b : W64
  v : V1024
  issue : Nat
  micro : Bool
  peer : Option Peer
deriving DecidableEq, Repr

/-- A command that has started: its start clock, the clock at which its last effect lands, and the ring word, latch data and
scale slot that a pass takes at its start (R197). -/
structure MRun where
  cmd : MCmd
  start : Nat
  finish : Nat
  ring : W64
  latch : List Byte
  scales : BitVec 32
deriving DecidableEq, Repr

/-- The exact value of a chain (R48 to R50): NaN, an infinity, or n · 2^e. -/
inductive Chain where
  | nan
  | inf (neg : Bool)
  | fin (n : Int) (e : Int)
deriving DecidableEq, Repr

/-- A matrix write on its way to a tile, the local store or a parameter (R192). -/
inductive LandWhat where
  /-- Bytes at a place; a tile's number when they lie in one. -/
  | bytes (addr : Nat) (data : List Byte) (tile : Option (BitVec 3))
  /-- A ring word bound for a matrix parameter (R206). -/
  | mp (n : BitVec 3) (w : W64)
  /-- Row `i` of a paired pass, with `cols` columns and the core's own A row as it was read (R202): the partner's joins it here. -/
  | pair (r : MRun) (i cols : Nat) (row : List Byte)
  /-- The chain sums of a tile row, with the A scale and the B scales (R51), or INT8 sums. -/
  | drain (t : BitVec 3) (row : Nat) (sums : List Chain) (ascale : Byte) (bscales : BitVec 32) (int : Bool) (sat : Bool)
deriving DecidableEq, Repr

/-- A landing due at clock `clk` of the matrix unit; `ord` is the start clock of its command, which orders commands. -/
structure MLand where
  clk : Nat
  ord : Nat
  what : LandWhat
deriving DecidableEq, Repr

/-- A posted half of an `mmap` (R202): the command, the clocks it has waited, and whether the partner's task has faulted or ended
meanwhile (R203). -/
structure Posted where
  cmd : MCmd
  waited : Nat
  lost : Bool
deriving DecidableEq, Repr

/-- How a posted half ended (R202, R203): with its pair, or with PAIR_ABORT. -/
inductive PairEnd where
  | issue (p : Peer)
  | abort
deriving DecidableEq, Repr

/-- The matrix unit of a core, apart from tile and latch bytes. `clk` is the next clock it has not done; `sh…` is the issue-side state
of R191; `rptLeft` the feeds left of the current micro-step and `mfeed` the clocks to the next feed (R207, R209); `peerRows` the A rows
of a paired pass that the partner has read, by number (R202). -/
structure Matrix where
  clk : Nat
  queue : List MCmd
  running : List MRun
  lands : List MLand
  lastStart : Nat
  tcfg : Vector (BitVec 32) 8
  tag : Vector (Option (BitVec 3)) 4
  scale : Vector (BitVec 32) 4
  shTcfg : Vector (BitVec 32) 8
  shTag : Vector (Option (BitVec 3)) 4
  shRing : Vector W64 4
  posted : Option Posted
  pairEnd : Option PairEnd
  peerRows : List (Nat × List Byte)
  rptLeft : Option Nat
  mfeed : Nat
deriving DecidableEq, Repr

/-! ## Instruction memory (R115 to R119, R379) -/

/-- A segment in one half of instruction memory. Line k is landed when bit k of `have_` is set, and held invalid when bit k of
`bad` is set. -/
structure Half where
  image : BitVec 32
  seg : Nat
  addr : Nat
  len : Nat
  have_ : BitVec 2048
  bad : BitVec 2048
deriving DecidableEq, Repr

/-- A segment copy in flight: its half, the next line and how many lines are left. -/
structure SegCopy where
  half : Fin 2
  line : Nat
  left : Nat
deriving DecidableEq, Repr

/-- A core's instruction memory. `refetch` is an invalid line being copied again (R116). -/
structure IMem where
  halves : Vector (Option Half) 2
  copy : Option SegCopy
  refetch : Option (Fin 2 × Nat)
  lastHalf : Option (Fin 2)
  waiting : Option Nat
  miss : BitVec 64
  missClk : BitVec 64
  nop : BitVec 64
deriving DecidableEq, Repr

/-! ## What a core is doing -/

/-- A stop on its way (R297, R298): the check that failed, and the fault record. -/
structure StopRec where
  chk : Nat
  epc : W64
  scause : W64
  sfaddr : W64
  sfinfo : W64
deriving DecidableEq, Repr

/-- What a core is doing. -/
inductive Run where
  /-- Holds no context and issues nothing (after reset, after `wfi`). -/
  | free
  /-- Issues bundles, at user or supervisor level. -/
  | running
  /-- A stop is completing (R299). -/
  | stopping (r : StopRec)
  /-- Its `exit` has issued; its stores are performing (R27). -/
  | ending
  /-- Halted until reset (R321). -/
  | halted
deriving DecidableEq, Repr

/-- Why a bundle is held at issue (R18, R104): the check number and the condition. -/
inductive Hold where
  | token (op : Nat)
  | emptyStream (slot : BitVec 3)
  | fullStream (slot : BitVec 3)
  | fullQueue (q : BitVec 8)
  | emptyQueue (q : BitVec 8)
  | barrier (hb : BitVec 6)
  | stepWait (sg : BitVec 5)
  | record (dn : BitVec 8)
  | partner
  /-- A half of a pair that waits for its matrix queue to empty, before it is posted (R202): the freeze line is not asserted (log 65). -/
  | queueEmpties
  | pause
  /-- An end bundle that must be fetched to be skipped lies in a line that is not resident (R151). -/
  | overlay (va : Nat)
deriving DecidableEq, Repr

/-- The bundle being issued, as its syllables see it: the model's own working record (log 7). `base` is its first address,
`next` the address after it; `addr`, `word`, `ext`, `ord`, `lat` belong to the syllable being executed; `rep`: it is a repeat
of a held syllable; `refused`: the code and address of a refused access that the tenant's fault log receives with the trap;
`failed`: the check of a trap; `entry`: the entry of a `bsel`, read before the bundle's stores (R76). -/
structure BundleCtx where
  base : W64
  next : W64
  addr : W64
  word : BitVec 32
  ext : Byte
  ord : Nat
  lat : Option (Fin 4)
  rep : Bool
  single : Bool
  hold : Option Hold
  pops : List (BitVec 3 × V1024)
  taken : Bool
  pushed : Bool
  exiting : Bool
  syscall : Option W64
  refused : Option (Nat × Nat)
  failed : Nat
  entry : Option W64
deriving DecidableEq, Repr

/-- What a held bundle has already begun (R156, R238): cleared when it issues or when the core stops. -/
structure Waiting where
  pause : Option Nat
  queue : Option (BitVec 8)
deriving DecidableEq, Repr

/-- Clocks and counts of a core: CYCLE, unfrozen clocks (R17), bundles issued (for issue order), empty clocks left (R150), and
control transfers taken (R112). -/
structure Clk where
  cycle : W64
  unf : Nat
  count : Nat
  gap : Nat
  epoch : Nat
deriving DecidableEq, Repr

/-- What a system engine operation has still to begin: a `crest`, or a `tlbinv` with its kind and operand (R317, R335). -/
inductive SysWork where
  | crest
  | inv (kind : BitVec 2) (a : W64)
deriving DecidableEq, Repr

/-- A system engine operation in flight on a core (R313): its number, its token register once that is pending (0 before, and when
the link is broken), its token, what it has still to begin, its place among the core's accesses, and the accesses that it waits
for (R335). -/
structure SysOp where
  op : Nat
  reg : BitVec 6
  token : W64
  todo : Option SysWork
  seq : Nat
  waits : List Nat
deriving DecidableEq, Repr

/-- One core. `ecc`: the data that its next load reads holds a double-bit error (R394); `reaped`: it has halted, and Hazel has logged it
(R321). -/
structure Core where
  ctx : Ctx
  sv : SvRegs
  latch : Vector Latch 4
  flights : List Flight
  snap : List Flight
  held : Vector (Option HeldSyl) 2
  heldSnap : Vector (Option HeldSyl) 2
  mat : Matrix
  imem : IMem
  run : Run
  clk : Clk
  bun : BundleCtx
  waiting : Waiting
  ops : List MemOp
  wents : List WEnt
  defer : List (Nat × Deferred)
  utlb : List TlbEntry
  sysop : Option SysOp
  task : Option Nat
  preempt : Bool
  microImg : Option (BitVec 4 × BitVec 32)
  ecc : Bool
  reaped : Bool
deriving DecidableEq, Repr

/-! ## Engine operations (R213) -/

/-- The kinds of engine operation. -/
inductive EngKind where
  | copy | copyc | ccopy | ccopyC
  | kld | kst | kapp | kalloc | kfree | kcommit | kdedup | kfork | kwin | kpin
  | logit | verify | tmove | mbox
deriving DecidableEq, Repr

/-- Who issued an engine operation: a task (by number) on a core, or a command queue. -/
inductive EngOwner where
  | task (n : Nat) (core : CoreId)
  | queue (t : TenantId) (q : QueueId)
deriving DecidableEq, Repr

/-- A granule of a copy whose unit has been checked (R86, R88, R219): the source bytes of the items that it needs, in parts that are
read one by one; the bytes of the result before it, `skip`; its `len` destination bytes at `dst`, which lie at `place`; and whether
they have been written. -/
structure Grain where
  id : Nat
  src : List Part
  skip : Nat
  dst : Nat
  len : Nat
  place : Nat
  put : Bool
deriving DecidableEq, Repr

/-- An engine operation in flight: operands `a`, `b` and the descriptor `desc` or request list `reqs` read at issue, flags and
scope, progress (`stage`, `pos`, `count`), and the token once the operation has ended. `crc` is a copy's CRC so far, `grains` its
granules still to be read or written, `fail` the fault that it has met; `ents` holds the block-table entries read, by piece (R339);
`list` is the kind's own progress. -/
structure EngOp where
  id : Nat
  slot : Nat
  kind : EngKind
  owner : EngOwner
  tenant : BitVec 4
  seq : Nat
  a : W64
  b : W64
  desc : BitVec 1024
  reqs : List W64
  kvslot : W64
  ord : Bool
  acq : Bool
  rel : Bool
  scope : BitVec 3
  stage : Nat
  pos : Nat
  count : Nat
  token : Option W64
  faddr : W64
  crc : W64
  list : List Nat
  grains : List Grain
  fail : Option (Nat × Nat)
  ents : List (Nat × Nat)
deriving DecidableEq, Repr

/-! ## Shared resources -/

/-- A party that waits to put a token (R238). -/
inductive Putter where
  | core (c : CoreId)
  | dec (n : Fin 4)
  | enc (n : Fin 8)
deriving DecidableEq, Repr

/-- A hardware queue (R238, R356). `resv` counts places reserved by puts whose token has not entered; `getters` and `putters` hold the
requests that wait, oldest first: to take, cores (a hardware party asks when it takes); to put, cores and hardware parties. -/
structure HwQueue where
  owner : Option (BitVec 4)
  dw0 : W64
  dw1 : W64
  toks : List W64
  resv : Nat
  getters : List CoreId
  putters : List Putter
deriving DecidableEq, Repr

/-- A done ring (R221, R356): `seq` records taken, `pcnt` published. -/
structure DoneRing where
  owner : Option (BitVec 4)
  dw0 : W64
  dw1 : W64
  seq : Nat
  pcnt : Nat
deriving DecidableEq, Repr

/-- A barrier (R34 to R36). `arrived` holds the ranks that arrived in this phase; `last` the phase of each rank's last
`bara`; `waits` the phase that each task's held `barw` waits for; `bad` the phases that ended broken. -/
structure Barrier where
  owner : Option (BitVec 4)
  en : Bool
  cohort : Option Nat
  expect : Nat
  members : BitVec 128
  count : Nat
  arrived : List Nat
  last : List (Nat × Nat)
  phase : Nat
  broken : Bool
  bad : List Nat
  waits : List (Nat × Nat)
deriving DecidableEq, Repr

/-- A member of a step group: its task, its member index (CORE at its stepjoin), and its arrival (R242). -/
structure Member where
  task : Nat
  index : Nat
  rank : Nat
  arrived : Bool
  leaving : Bool
deriving DecidableEq, Repr

/-- A step group (R242 to R246): `steps` counts the steps that ended, `bad` those that broke; `waits` holds the step that each
task's held `step` waits for; `owed` the collision that such a task takes when its `step` issues (R245). -/
structure StepGroup where
  owner : Option (BitVec 4)
  en : Bool
  cohort : Option Nat
  members : List Member
  steps : Nat
  broken : Bool
  bad : List Nat
  waits : List (Nat × Nat)
  owed : List (Nat × LateErr)
deriving DecidableEq, Repr

/-- A write to the next plane: the member's task, the word's place and its value, and the place of the store among the accesses of its
core, which orders the stores of one member (R92, R243). -/
structure PlaneWrite where
  task : Nat
  core : CoreId
  seq : Nat
  word : Nat
  val : BitVec 32
deriving DecidableEq, Repr

/-- A planar zone (R67, R243, R356). -/
structure Zone where
  owner : Option (BitVec 4)
  dw0 : W64
  dw1 : W64
  dw2 : W64
  plane : List PlaneWrite
deriving DecidableEq, Repr

/-- The state of a frame slot (R239). -/
inductive SlotState where
  | empty | render | decode | encode
deriving DecidableEq, Repr

/-- A frame ring (R239, R356, R400). `refs`: the frames that its encoder may refer to, latest first (R402). -/
structure FrameRing where
  owner : Option (BitVec 4)
  dw : Vector W64 8
  slots : List SlotState
  refs : List Nat
deriving DecidableEq, Repr

/-- A stream record (R372). -/
structure StreamRec where
  owner : Option (BitVec 4)
  dw : Vector W64 32
deriving DecidableEq, Repr

/-! ## Dispatch (R22 to R27, R366 to R378) -/

/-- Where a task is. -/
inductive TaskAt where
  /-- Never started. -/
  | fresh
  /-- Loaded on a core: running or stopping there. -/
  | on (c : CoreId)
  /-- Saved in its context area. -/
  | saved
  /-- Ended or killed. -/
  | ended (killed : Bool)
deriving DecidableEq, Repr

/-- A task of a launch. `ctxid` is its CTXID (0: no context area) and `area` its context save area (R295); `place` the core chosen
by the dispatcher for its next run, or of its last; `pairs` counts its `mmap` that have issued (R202). -/
structure Task where
  id : Nat
  cohort : Nat
  rank : Nat
  wid : W64
  where_ : TaskAt
  ctxid : Nat
  area : Option Nat
  place : Option CoreId
  pairs : Nat
deriving DecidableEq, Repr

/-- What the dispatcher does with a cohort. -/
inductive CohortState where
  | ready | resident | preempting | done
deriving DecidableEq, Repr

/-- A cohort of a launch (R25, R366, R371): its size, its place in the launch's cohort order and its frame number; `asked`: the
cores of a cohort that is being pre-empted have been asked to stop (R378); `frameDone`: the DTIME at which its frame completed. -/
structure Cohort where
  id : Nat
  launch : Nat
  order : Nat
  size : Nat
  frame : Nat
  state : CohortState
  admitted : Bool
  asked : Bool
  frameDone : Option Nat
deriving DecidableEq, Repr

/-- An accepted launch (R22, R359): `arrival` is DTIME at its acceptance, and `due` the deadline of its cohorts if it is a best-effort one
(R368). -/
structure Launch where
  id : Nat
  tenant : TenantId
  queue : QueueId
  hdr : Vector W64 8
  entries : List W64
  doneWord : W64
  arrival : Nat
  due : Nat
  killed : Bool
deriving DecidableEq, Repr

/-! ## Command queues (R346 to R348) -/

/-- A command queue. `awaits` links pending registers to copies; `since` is the DTIME of the last progress; `wdPre`: its tasks were
pre-empted by the watchdog since then, at DTIME `preAt` while that pre-emption has not completed; `worker` is the worker that serves it
while it is enabled (R343). -/
structure CmdQueue where
  base : W64
  en : Bool
  log2n : Nat
  rp : BitVec 32
  wp : BitVec 32
  state : BitVec 2
  code : Byte
  cpc : W64
  c : Vector W64 16
  stack : List W64
  wd1 : BitVec 32
  wd2 : BitVec 32
  prog : BitVec 32
  awaits : List (BitVec 4 × Nat)
  since : Nat
  wdPre : Bool
  preAt : Option Nat
  worker : Fin 6
deriving DecidableEq, Repr

/-! ## Tenants (R322, R369, R383 to R390) -/

/-- An installed image: its segment table as pairs of address and length, and its microprogram section (R360). -/
structure Image where
  id : BitVec 32
  segs : List (Nat × Nat)
  micro : W64
deriving DecidableEq, Repr

/-- An egress channel (R403): its registers, the RTP sequence number, the number of CMAF chunks written, and whether the init segment has
been written (R405). -/
structure Egress where
  base : W64
  ctl : W64
  ssrc : W64
  wp : BitVec 32
  rp : BitVec 32
  rtpSeq : BitVec 16
  moofs : Nat
  init : Bool
deriving DecidableEq, Repr

/-- A post in a mailbox or in an outbox (R268, R404). -/
structure Post where
  mbox : BitVec 12
  kind : Byte
  val : W64
deriving DecidableEq, Repr

/-- A tenant's registers and lists, apart from TPART. `lastDec` is the DTIME of its dispatchers' last decision, and `due`: something has
happened at which they decide (R366); `last` is the queue that each worker served last (R343). -/
structure Tenant where
  troot : W64
  kvdt : W64
  winLo : Vector W64 8
  winHi : Vector W64 8
  svcb : W64
  svEntry : W64
  svBase : W64
  svNctx : Nat
  areas : List Nat
  flbase : W64
  flctl : W64
  flwp : BitVec 32
  flrp : BitVec 32
  fldrop : BitVec 32
  dsctl : W64
  kvalid : BitVec 16
  mkeys : Vector (BitVec 512) 16
  gkey : Option (BitVec 256)
  gkeyReg : BitVec 256
  images : List Image
  egress : Vector Egress 64
  mail : List Post
  lastDec : Nat
  due : Bool
  last : Vector QueueId 6
deriving DecidableEq, Repr

/-! ## Samplers (R252 to R270) -/

/-- A sequence: tenant, arena and slot. -/
structure SeqKey where
  tenant : BitVec 4
  arena : BitVec 4
  slot : BitVec 12
deriving DecidableEq, Repr

/-- A grammar automaton: its state, stack top (0xFF: empty) and depth, and DEAD of a snapshot (R253, R263, R265). -/
structure Auto where
  state : Nat
  top : Nat
  depth : Nat
  dead : Bool
deriving DecidableEq, Repr

/-- An open round at sampler `smp`: the header, PARAM and Pip words read at its opening, M, S and the candidate list as FP32 patterns,
whether it is a tree's, its number there, the snapshots that it read, and the automaton that masks it (R255 to R259, R263). -/
structure Round where
  key : SeqKey
  smp : SamplerId
  recBase : Nat
  hdr : List W64
  param : List (BitVec 32)
  prog : List (BitVec 32)
  mx : BitVec 32
  sum : BitVec 32
  cands : List (BitVec 32 × Nat)
  tree : Bool
  index : Nat
  snaps : List Auto
  auto : Auto
deriving DecidableEq, Repr

/-- A draft tree of a sequence: nodes as token, parent and DEAD, their snapshots, and by round the draws made (token, L) and their
candidate lists; `next` is the number of the next round (R262 to R264). -/
structure Tree where
  key : SeqKey
  nodes : List (Nat × Nat × Bool)
  snaps : List Auto
  draws : List (Nat × BitVec 32)
  lists : List (List (BitVec 32 × Nat))
  next : Nat
deriving DecidableEq, Repr

/-- The chunk a sampler is working on: the operation, the logits not yet taken (with their vocabulary indexes), the current
group of lanes, and Pip's registers and place (R258, R269). -/
structure Job where
  op : Nat
  core : CoreId
  key : SeqKey
  last : Bool
  rest : List (Nat × BitVec 32)
  lanes : List (Nat × BitVec 32)
  w : Vector (List (BitVec 32)) 8
  h : Vector (BitVec 32) 8
  pip : Nat
deriving DecidableEq, Repr

/-- One sampler: its open rounds, the trees that it took, and the chunk in hand. -/
structure Sampler where
  rounds : List Round
  trees : List Tree
  job : Option Job
deriving DecidableEq, Repr

/-! ## Decoders and encoders (R239, R401 to R403) -/

/-- The frame a decoder or encoder holds: its ring and token; for an encoder, whether LAST has been put, and how many coded bytes its chunks
have so far. -/
structure FrameJob where
  ring : BitVec 8
  tok : W64
  last : Bool
  coded : Nat
deriving DecidableEq, Repr

/-- A chunk in Sesame's staging buffer (R403): its queue, its token, its bytes, whether it is its frame's first, whether Sesame has taken the
token from the queue, and how many of its bytes have gone out in RTP packets. -/
structure Staged where
  q : BitVec 8
  tok : W64
  bytes : List Byte
  first : Bool
  taken : Bool
  sent : Nat
deriving DecidableEq, Repr

/-! ## The device (R386, R397, R399, R406 to R412) -/

/-- An output to the host. -/
inductive HostOut where
  /-- MSI-X vector of a tenant's function (R351, R364). -/
  | msix (t : TenantId) (vec : Nat)
  /-- Data of a BAR read, or none for Unsupported Request (R396). -/
  | readData (d : Option W64)
  /-- An attestation report of 256 bytes (R393). -/
  | report (b : List Byte)
  /-- An entry of the physical function's device log (R395, R321). -/
  | deviceLog (code : Byte) (info : Nat)
deriving DecidableEq, Repr

/-- A checkpoint or restore in progress (R399). -/
structure CkptJob where
  target : Nat
  restore : Bool
deriving DecidableEq, Repr

/-- Device-wide registers. Port p has the links 2p and 2p + 1, the second only where `split` bifurcates the port (R396). -/
structure Board where
  dtime : Nat
  bootstat : W64
  thermctl : W64
  thermstat : W64
  tripped : Bool
  off : Bool
  recovery : Bool
  island : Vector W64 24
  peers : Vector W64 256
  ckpt : W64
  ckptJob : Option CkptJob
  slotmap : Vector W64 7
  used : Vector (BitVec 16) 7
  slot : Nat
  split : BitVec 4
  links : Vector Bool 8
  out : List HostOut
deriving DecidableEq, Repr

/-- Which agent acts: the core, the tenant and queue, the sampler, and a number that names an operation, a task, a cohort, a
write, a walk, a stream slot, a decoder, an encoder or a port, as the row says (log 1). -/
structure Who where
  core : CoreId
  t : TenantId
  q : QueueId
  k : SamplerId
  n : Nat
deriving DecidableEq, Repr

/-- A TLB (R330): a core's micro-TLB, a cluster's, or the last-level one. -/
inductive TlbName where
  | micro (c : CoreId)
  | cluster (n : Fin 16)
  | last
deriving DecidableEq, Repr

/-- A soft error in the SRAM of a vault, a local store, a tile file, a latch, a TLB or an engine's buffer (R394; log 54): one bit, which is
corrected in place; or two bits, in what is read next: by core c's next load or atomic, for a write of core c, by core c's matrix unit, by an
engine operation, or by a command queue's worker. -/
inductive SoftError where
  | corrected (t : TenantId) (cls : Fin 7) (core : Fin 128) (va : W64)
  | load (c : CoreId)
  | write (c : CoreId) (id : Nat)
  | matrix (c : CoreId)
  | engine (op : Nat)
  | command (t : TenantId) (q : QueueId)
deriving DecidableEq, Repr

/-- What the environment lets act next (log 1). -/
inductive Turn where
  /-- A core makes its next move of the current clock. -/
  | core (c : CoreId)
  /-- A command queue's worker runs its next command. -/
  | queue (t : TenantId) (q : QueueId)
  /-- An engine operation makes its next move. -/
  | engine (op : Nat)
  /-- A sampler runs its next Pip instruction. -/
  | sampler (k : SamplerId)
  /-- An event of the opcode table happens to or by the agents that `w` names. -/
  | event (i : Instr) (w : Who)
  /-- Wall time passes: nanoseconds. -/
  | time (ns : Nat)
  /-- A TLB entry is given up (R330), by its place. -/
  | evict (b : TlbName) (n : Nat)
  /-- The last-level TLB takes the leaf of a page of a tenant, as a walk for an engine finds it (R330). -/
  | fill (t : TenantId) (acc : Bool) (va : Nat)
  /-- A parity error in a fetched line (R115, R394): a line of a half of a core's instruction memory. -/
  | parity (c : CoreId) (h : Fin 2) (line : Nat)
  /-- A soft error in an SRAM (R394). -/
  | soft (x : SoftError)
  /-- The host reads the register of a function at an offset of BAR0 (R6, R396). -/
  | regRead (fn : BitVec 5) (off : BitVec 20)
deriving DecidableEq, Repr

/-- A page walk in progress, or one that waits for one of the 64 slots (R331): the tenant, VA[51:16], and the cores whose micro-TLBs wait
for it; or a turn of another agent whose translations wait for a slot (`turn`; log 73). -/
structure Walk where
  id : Nat
  tenant : BitVec 4
  page : Nat
  cores : List CoreId
  turn : Option Turn := none
deriving DecidableEq, Repr

/-- Everything the device holds beside memory and TPART. `outbox` holds the posts of the sequences' outboxes, oldest first (R268,
log 74); `wbuf` the bytes written in the step that is being taken, newest first (log 2); `tags` the key of each data unit of the
tiers that has been written, units rising (R391, log 57); `turns` and the cursor `cur` are the model's own (log 1); `free` counts
the free values drawn (log 8). `probe` is the model's own: it stands while the model asks whether a turn would use a translation or a path
that is not to be had now, and says whether the turn holds a walk slot (log 73). -/
structure Dev where
  cores : Vector Core 128
  writes : List PendingWrite
  ctlb : Vector (List TlbEntry) 16
  lltlb : List TlbEntry
  walks : List Walk
  eng : List EngOp
  hqs : Vector HwQueue 256
  dns : Vector DoneRing 256
  hbs : Vector Barrier 64
  sgs : Vector StepGroup 32
  pzs : Vector Zone 64
  frings : Vector FrameRing 256
  streams : Vector StreamRec 256
  launches : List Launch
  cohorts : List Cohort
  tasks : List Task
  cqs : Vector CmdQueue 256
  tenants : Vector Tenant 16
  samplers : Vector Sampler 8
  outbox : List (SeqKey × Post)
  decs : Vector (Option FrameJob) 4
  encs : Vector (Option FrameJob) 8
  staged : List Staged
  board : Board
  wbuf : List Host.Cell
  tags : List (Nat × UnitTag)
  turns : List Turn
  rr : Nat
  cur : Who
  free : Nat
  nextId : Nat
  probe : Option Bool
deriving DecidableEq, Repr

/-- The device's state. `part` holds TPART of the sixteen tenants (R383). -/
structure State where
  mem : Memory
  part : Vector W64 16
  dev : Dev
deriving DecidableEq, Repr

/-- Why the machine stops: it never does. Every fault of the spec is a trap, an error of a token, or a fault of a queue, after which the
device goes on. -/
inductive Fault where
deriving DecidableEq, Repr

/-- Why an instruction has no meaning. -/
inductive Refusal where
  /-- Raised by an arm of `exec` for an instruction that has no meaning yet. Safe: nothing is claimed of it. -/
  | notModelled (mnemonic : String)
  /-- Raised by `step` when the environment's tape names, as an event, a row that is no event (log 1). Safe: no run of the
  device has such a turn. -/
  | notAnEvent
deriving DecidableEq, Repr

/-! ## Reset -/

namespace Reset

/-- A stream slot that is unbound (R12). -/
def stream : StreamSlot :=
  { bound := false, dir := false, vr := 0, pat := 0, next := 0, fifo := [], gq := [], stopped := false }

/-- A context as R12 has it at task start (log 5: also the value at reset). -/
def ctx : Ctx :=
  { pc := 0, loops := [], s := .replicate 64 0, p := 1, v := .replicate 32 0, m := .replicate 8 0, qs := 0,
    ag := .replicate 4 0, mp := .replicate 8 0, rings := .replicate 4 0, wid := 0, tenant := 0, kvslot := 0, occ := 0,
    draft := 0, tokstat := 0, fz := false, toks := [], streams := .replicate 8 stream, lates := [], lateOvf := false }

/-- The supervisor registers at reset (R293). -/
def sv : SvRegs :=
  { stvec := 0, sepc := 0, scause := 0, sfaddr := 0, sfinfo := 0, ssave := 0, stsave := 0, slsave := 0, lsmask := 0xFFFF,
    town := 0, towna := 0, ctxid := 0, snext := 0, priv := true, pdef := false,
    cycAt := 0, s := .replicate 16 0, p := 0 }

/-- An idle matrix unit. -/
def matrix : Matrix :=
  { clk := 0, queue := [], running := [], lands := [], lastStart := 0, tcfg := .replicate 8 0, tag := .replicate 4 none,
    scale := .replicate 4 0, shTcfg := .replicate 8 0, shTag := .replicate 4 none, shRing := .replicate 4 0, posted := none,
    pairEnd := none, peerRows := [], rptLeft := none, mfeed := 0 }

/-- Empty instruction memory. -/
def imem : IMem :=
  { halves := .replicate 2 none, copy := none, refetch := none, lastHalf := none, waiting := none, miss := 0, missClk := 0,
    nop := 0 }

/-- No bundle. -/
def bundle : BundleCtx :=
  { base := 0, next := 0, addr := 0, word := 0, ext := 0, ord := 0, lat := none, rep := false, single := true, hold := none,
    pops := [], taken := false, pushed := false, exiting := false, syscall := none, refused := none,
    failed := 0, entry := none }

/-- Nothing waited for. -/
def waiting : Waiting := { pause := none, queue := none }

/-- A core after reset: free, PRIV = 1 (R295). -/
def core : Core :=
  { ctx := ctx, sv := sv, latch := .replicate 4 { val := 0, stale := true }, flights := [], snap := [],
    held := .replicate 2 none, heldSnap := .replicate 2 none, mat := matrix, imem := imem, run := .free,
    clk := { cycle := 0, unf := 0, count := 0, gap := 0, epoch := 0 }, bun := bundle, waiting := waiting, ops := [], wents := [],
    defer := [], utlb := [], sysop := none, task := none, preempt := false, microImg := none, ecc := false,
    reaped := false }

/-- A command queue (R346). -/
def queue : CmdQueue :=
  { base := 0, en := false, log2n := 4, rp := 0, wp := 0, state := 0, code := 0, cpc := 0, c := .replicate 16 0, stack := [],
    wd1 := 0, wd2 := 0, prog := 0, awaits := [], since := 0, wdPre := false, preAt := none, worker := 0 }

/-- An egress channel (R403): LOG2SZ 12, MTU 1,200, PT 96. -/
def egress : Egress :=
  { base := 0, ctl := w64 (12 * 8 + 1200 * 256 + 96 * 2 ^ 22), ssrc := 0, wp := 0, rp := 0, rtpSeq := 0, moofs := 0, init := false }

/-- A tenant (R322, R369, R389): BEWIN 0xC350, DPRE 1, LOG2N 6. -/
def tenant : Tenant :=
  { troot := 0, kvdt := 0, winLo := .replicate 8 0, winHi := .replicate 8 0, svcb := 0, svEntry := 0, svBase := 0, svNctx := 0,
    areas := [], flbase := 0, flctl := 6, flwp := 0, flrp := 0, fldrop := 0, dsctl := 0x100C350, kvalid := 0,
    mkeys := .replicate 16 0, gkey := none, gkeyReg := 0, images := [], egress := .replicate 64 egress, mail := [],
    lastDec := 0, due := false, last := .replicate 6 0 }

/-- A sampler. -/
def sampler : Sampler := { rounds := [], trees := [], job := none }

/-- The device's registers at reset (R386, R397, R399, R412): BOOTSTAT 0, no link up, TRIP 105. -/
def board : Board :=
  { dtime := 0, bootstat := 0, thermctl := 105, thermstat := 0, tripped := false, off := false, recovery := false,
    island := .replicate 24 0, peers := .replicate 256 0, ckpt := 0, ckptJob := none, slotmap := .replicate 7 0,
    used := .replicate 7 0, slot := 0, split := 0, links := .replicate 8 false, out := [] }

/-- A barrier, disabled. -/
def barrier : Barrier :=
  { owner := none, en := false, cohort := none, expect := 0, members := 0, count := 0, arrived := [], last := [], phase := 0,
    broken := false, bad := [], waits := [] }

/-- A step group, disabled. -/
def group : StepGroup :=
  { owner := none, en := false, cohort := none, members := [], steps := 0, broken := false, bad := [],
    waits := [], owed := [] }

/-- The device beside memory and TPART. -/
def dev : Dev :=
  { cores := .replicate 128 core, writes := [], ctlb := .replicate 16 [], lltlb := [], walks := [], eng := [],
    hqs := .replicate 256 { owner := none, dw0 := 0, dw1 := 0, toks := [], resv := 0, getters := [], putters := [] },
    dns := .replicate 256 { owner := none, dw0 := 0, dw1 := 0, seq := 0, pcnt := 0 },
    hbs := .replicate 64 barrier, sgs := .replicate 32 group,
    pzs := .replicate 64 { owner := none, dw0 := 0, dw1 := 0, dw2 := 0, plane := [] },
    frings := .replicate 256 { owner := none, dw := .replicate 8 0, slots := [], refs := [] },
    streams := .replicate 256 { owner := none, dw := .replicate 32 0 }, launches := [], cohorts := [], tasks := [],
    cqs := .replicate 256 queue, tenants := .replicate 16 tenant, samplers := .replicate 8 sampler, outbox := [],
    decs := .replicate 4 none, encs := .replicate 8 none, staged := [], board := board, wbuf := [], tags := [], turns := [], rr := 0,
    cur := { core := 0, t := 0, q := 0, k := 0, n := 0 }, free := 0, nextId := 1, probe := none }

end Reset

/-- The device right after reset, before its bring-up stages have run (R406; POWER_ON_RESET runs them): every register at its
reset value, no partition, every core free, memory zero (log 3, log 5). -/
def State.reset : State := { mem := { cells := [] }, part := .replicate 16 0, dev := Reset.dev }

end Sys2Proof.Machine
end

