-- ==== Sys2Proof/Machine/Ops.lean ====
section
/-! DEFINITION. The named operations over memory, cores, results in flight, tokens and free values, and taking a stop and
returning from one. -/

namespace Sys2Proof.Machine

/-- The outcome of one step. -/
abbrev Out := Host.Outcome State Fault Refusal

/-! ## Memory -/

/-- The byte at an address of a sorted list; an unlisted byte is 0. -/
def Memory.readCells : List Host.Cell → Nat → Byte
  | [], _ => 0
  | c :: cs, a => if c.1 = a then c.2 else if a < c.1 then 0 else Memory.readCells cs a

/-- The byte at an address. -/
def Memory.read (m : Memory) (a : Nat) : Byte := Memory.readCells m.cells a

/-- Writes a byte into a sorted list; writing 0 removes the entry. -/
def Memory.writeCells : List Host.Cell → Nat → Byte → List Host.Cell
  | [], a, b => if b = 0 then [] else [(a, b)]
  | c :: cs, a, b =>
    if c.1 = a then (if b = 0 then cs else (a, b) :: cs)
    else if a < c.1 then (if b = 0 then c :: cs else (a, b) :: c :: cs)
    else c :: Memory.writeCells cs a b

/-- Writes a byte. -/
def Memory.write (m : Memory) (a : Nat) (b : Byte) : Memory := { cells := Memory.writeCells m.cells a b }

/-- Writes a list of bytes, the oldest last in the list. -/
def Memory.writes (m : Memory) (l : List Host.Cell) : Memory := l.foldr (fun c m => m.write c.1 c.2) m

/-- Are the addresses strictly rising from above `lo`, with no zero byte? -/
def Memory.wfCells : Option Nat → List Host.Cell → Bool
  | _, [] => true
  | lo, c :: cs => (match lo with | none => true | some l => l < c.1) && c.2 != 0 && Memory.wfCells (some c.1) cs

/-- The canonical form: addresses strictly rising, no entry equal to what an unlisted address reads as. -/
def Memory.wf (m : Memory) : Bool := Memory.wfCells none m.cells

/-- The byte that stands at a place in this step: a byte written in this step, else memory. -/
def State.cell (s : State) (a : Nat) : Byte :=
  match s.dev.wbuf.find? (fun c => c.1 == a) with
  | some c => c.2
  | none => s.mem.read a

/-- Changes the device's part of the state. -/
def State.upd (s : State) (f : Dev → Dev) : State := { s with dev := f s.dev }

/-- Writes a byte at a place. -/
def State.setCell (s : State) (a : Nat) (b : Byte) : State := s.upd fun d => { d with wbuf := (a, b) :: d.wbuf }

/-- The addresses `a`, `a + 1`, … `n` of them. -/
def addrs : Nat → Nat → List Nat
  | _, 0 => []
  | a, n + 1 => a :: addrs (a + 1) n

/-- Writes bytes from a place on. -/
def State.setCells : State → Nat → List Byte → State
  | s, _, [] => s
  | s, a, b :: bs => State.setCells (s.setCell a b) (a + 1) bs

/-! ### Encrypted tiers (R391; log 57)

A byte of a tier stands in memory as its plaintext under the key that its data unit was last written with; `tags` names that key. A
*keyed place* is a place of a tier as a tenant's key shows it: the place, plus 2^70 for each key number, from 1. -/

/-- The place without its key. -/
def physOf (a : Nat) : Nat := a % 2 ^ 70

/-- A place of a tier as key k of tenant t shows it. -/
def keyedAt (t : BitVec 4) (k : BitVec 4) (a : Nat) : Nat := a + 2 ^ 70 * (1 + t.toNat * 16 + k.toNat)

/-- The key of a keyed place. -/
def State.keyAt (s : State) (a : Nat) : BitVec 512 :=
  let n := a / 2 ^ 70 - 1
  (s.dev.tenants.get ⟨n / 16 % 16, Nat.mod_lt _ (by decide)⟩).mkeys.get ⟨n % 16, Nat.mod_lt _ (by decide)⟩

/-- How the data unit of a place of a tier was last written: none if never. -/
def State.tagOf (s : State) (p : Nat) : Option UnitTag := (s.dev.tags.find? fun x => x.1 == p / 64).map (·.2)

/-- Tier of a place of a tier, and the offset there of its data unit. -/
def unitOff (p : Nat) : Nat × Nat :=
  if p < Config.farAt then (0, (p - Config.nearAt) / 64 * 64) else (1, (p - Config.farAt) / 64 * 64)

/-- The bytes of a data unit as they lie in the tier: its ciphertext. -/
def State.rawUnit (s : State) (p : Nat) : List Byte :=
  let bs := (addrs (p / 64 * 64) 64).map s.cell
  match s.tagOf p with
  | some (.key k) => xtsEncrypt k (unitOff p).1 (unitOff p).2 bs
  | _ => bs

/-- The bytes of a data unit as a key shows them. A unit that nothing has written reads 0 under every key (log 3). -/
def State.unitAs (s : State) (k : BitVec 512) (p : Nat) : List Byte :=
  match s.tagOf p with
  | none => (addrs (p / 64 * 64) 64).map s.cell
  | some (.key j) => if j = k then (addrs (p / 64 * 64) 64).map s.cell
      else xtsDecrypt k (unitOff p).1 (unitOff p).2 (s.rawUnit p)
  | some .raw => xtsDecrypt k (unitOff p).1 (unitOff p).2 (s.rawUnit p)

/-- Does a data unit show its stored bytes under a key? -/
def State.shows (s : State) (k : BitVec 512) (p : Nat) : Bool := match s.tagOf p with
  | none => true
  | some (.key j) => j == k
  | some .raw => false

/-- The byte at a place, or at a keyed place. -/
def State.peek (s : State) (a : Nat) : Byte :=
  if a < 2 ^ 70 then s.cell a
  else
    let p := physOf a
    if s.shows (s.keyAt a) p then s.cell p else nth (s.unitAs (s.keyAt a) p) (p % 64) 0

/-- Sets the tag of a data unit in a list that rises by unit. -/
def setTag (u : Nat) (t : UnitTag) : List (Nat × UnitTag) → List (Nat × UnitTag)
  | [] => [(u, t)]
  | x :: xs => if x.1 = u then (u, t) :: xs else if u < x.1 then (u, t) :: x :: xs else x :: setTag u t xs

/-- The data unit of a place becomes one of a key: what it shows under that key stands there (the read-modify-write of R391). -/
def State.enterKey (s : State) (k : BitVec 512) (p : Nat) : State :=
  match s.tagOf p with
  | some (.key j) => if j = k then s
    else (s.setCells (p / 64 * 64) (s.unitAs k p)).upd fun d => { d with tags := setTag (p / 64) (.key k) d.tags }
  | some .raw => (s.setCells (p / 64 * 64) (s.unitAs k p)).upd fun d => { d with tags := setTag (p / 64) (.key k) d.tags }
  | none => s.upd fun d => { d with tags := setTag (p / 64) (.key k) d.tags }

/-- Writes a byte at a place, or at a keyed place. -/
def State.poke (s : State) (a : Nat) (b : Byte) : State :=
  if a < 2 ^ 70 then s.setCell a b else (s.enterKey (s.keyAt a) (physOf a)).setCell (physOf a) b

/-- The byte that lies in a tier: ciphertext, as function 0 and a checkpoint see it (R391, R396, R399). -/
def State.peekRaw (s : State) (p : Nat) : Byte := match s.tagOf p with
  | some (.key _) => nth (s.rawUnit p) (p % 64) 0
  | _ => s.cell p

/-- Writes a byte of a tier as it lies there; the unit's other bytes keep their ciphertext. -/
def State.pokeRaw (s : State) (p : Nat) (b : Byte) : State :=
  let s := match s.tagOf p with
    | some .raw => s
    | some (.key _) => (s.setCells (p / 64 * 64) (s.rawUnit p)).upd fun d => { d with tags := setTag (p / 64) .raw d.tags }
    | none => s.upd fun d => { d with tags := setTag (p / 64) .raw d.tags }
  s.setCell p b

/-- `n` bytes from a place. -/
def State.peeks (s : State) (a n : Nat) : List Byte := (addrs a n).map s.peek

/-- Writes bytes from a place on. -/
def State.pokes : State → Nat → List Byte → State
  | s, _, [] => s
  | s, a, b :: bs => State.pokes (s.poke a b) (a + 1) bs

/-- The `n`-byte little-endian number at a place. -/
def State.peekNat (s : State) (a n : Nat) : Nat := leNat (s.peeks a n)

/-! ## The form of every meaning -/

/-- A meaning that changes memory and the device: what `f` leaves in the write buffer goes into memory, in order. -/
def act (f : State → State) (s : State) : Out :=
  let r := (f s).dev
  .next { mem := s.mem.writes r.wbuf, part := s.part, dev := { r with wbuf := [] } }

/-- A meaning that also changes the partition registers. -/
def actPart (g : State → Vector W64 16) (f : State → State) (s : State) : Out :=
  let r := (f s).dev
  .next { mem := s.mem.writes r.wbuf, part := g s, dev := { r with wbuf := [] } }

/-- An operation on the device's part of the state: what it writes to memory stands in the write buffer. -/
def State.onDev (s : State) (f : State → State) : State := { s with dev := (f s).dev }

/-- The write buffer goes into memory, in order. -/
def State.flush (s : State) : State := { s with mem := s.mem.writes s.dev.wbuf, dev := { s.dev with wbuf := [] } }

/-! ## Places (log 2) -/

/-- Byte `off` of a core's local store. -/
def lsAddr (c : CoreId) (off : Nat) : Nat := Config.lsAt + c.val * 2 ^ 20 + off
/-- Byte `off` of a core's tile file: tiles first, latches from 2^20. -/
def tileAddr (c : CoreId) (t : Nat) (off : Nat) : Nat := Config.tileAt + c.val * 2 ^ 21 + t * 2 ^ 16 + off
/-- Byte `off` of latch `k` of a core. -/
def latchAddr (c : CoreId) (k : Nat) (off : Nat) : Nat := Config.tileAt + c.val * 2 ^ 21 + 2 ^ 20 + k * 2 ^ 17 + off
/-- Byte `off` of half `h` of a core's instruction memory. -/
def imemAddr (c : CoreId) (h : Nat) (off : Nat) : Nat := Config.imemAt + c.val * 2 ^ 18 + h * 2 ^ 17 + off
/-- Byte `off` of a core's microprogram store. -/
def microAddr (c : CoreId) (off : Nat) : Nat := Config.microAt + c.val * 2 ^ 14 + off
/-- Byte `off` of a core's VLAT. -/
def vlatAddr (c : CoreId) (off : Nat) : Nat := Config.vlatAt + c.val * 128 + off
/-- Byte `off` of vault `n`. -/
def vaultAddr (n off : Nat) : Nat := Config.vaultAt + n * 2 ^ 23 + off

/-- The cluster of a core. -/
def clusterOf (c : CoreId) : Nat := c.val / 8

/-! ## Cores, tenants and other parts of the device -/

/-- One core. -/
def State.core (s : State) (c : CoreId) : Core := s.dev.cores.get c

/-- Changes one core. -/
def State.modCore (s : State) (c : CoreId) (f : Core → Core) : State :=
  s.upd fun d => { d with cores := d.cores.set c.val (f (d.cores.get c)) c.isLt }

/-- The core that acts. -/
def State.me (s : State) : Core := s.core s.dev.cur.core

/-- Changes the core that acts. -/
def State.modMe (s : State) (f : Core → Core) : State := s.modCore s.dev.cur.core f

/-- Changes a core's context. -/
def Core.modCtx (k : Core) (f : Ctx → Ctx) : Core := { k with ctx := f k.ctx }

/-- Changes a stream slot of a core's context. -/
def Core.modStream (k : Core) (n : BitVec 3) (f : StreamSlot → StreamSlot) : Core :=
  k.modCtx fun x => { x with streams := x.streams.set n.toNat (f (x.streams.get n.toFin)) n.isLt }

/-- Changes a core's matrix unit. -/
def Core.modMat (k : Core) (f : Matrix → Matrix) : Core := { k with mat := f k.mat }

/-- Changes the bundle record of the core that acts. -/
def State.modBun (s : State) (f : BundleCtx → BundleCtx) : State := s.modMe fun k => { k with bun := f k.bun }

/-- One tenant. -/
def State.tenant (s : State) (t : TenantId) : Tenant := s.dev.tenants.get t

/-- Changes one tenant. -/
def State.modTenant (s : State) (t : TenantId) (f : Tenant → Tenant) : State :=
  s.upd fun d => { d with tenants := d.tenants.set t.val (f (d.tenants.get t)) t.isLt }

/-- The number of queue q of tenant t in the list of all queues. -/
def cqIndex (t : TenantId) (q : QueueId) : Fin 256 := ⟨t.val * 16 + q.val, by omega⟩

/-- One command queue. -/
def State.cq (s : State) (t : TenantId) (q : QueueId) : CmdQueue := s.dev.cqs.get (cqIndex t q)

/-- Changes one command queue. -/
def State.modCq (s : State) (t : TenantId) (q : QueueId) (f : CmdQueue → CmdQueue) : State :=
  s.upd fun d => { d with cqs := d.cqs.set (cqIndex t q).val (f (d.cqs.get (cqIndex t q))) (cqIndex t q).isLt }

/-- The command queue that acts. -/
def State.myCq (s : State) : CmdQueue := s.cq s.dev.cur.t s.dev.cur.q

/-- Changes the command queue that acts. -/
def State.modMyCq (s : State) (f : CmdQueue → CmdQueue) : State := s.modCq s.dev.cur.t s.dev.cur.q f

/-- Changes the device-wide registers. -/
def State.modBoard (s : State) (f : Board → Board) : State := s.upd fun d => { d with board := f d.board }

/-- Changes a sampler. -/
def State.modSampler (s : State) (k : SamplerId) (f : Sampler → Sampler) : State :=
  s.upd fun d => { d with samplers := d.samplers.set k.val (f (d.samplers.get k)) k.isLt }

/-- Changes a hardware queue. -/
def State.modHq (s : State) (q : BitVec 8) (f : HwQueue → HwQueue) : State :=
  s.upd fun d => { d with hqs := d.hqs.set q.toNat (f (d.hqs.get q.toFin)) q.isLt }

/-- Changes a done ring. -/
def State.modDn (s : State) (n : BitVec 8) (f : DoneRing → DoneRing) : State :=
  s.upd fun d => { d with dns := d.dns.set n.toNat (f (d.dns.get n.toFin)) n.isLt }

/-- Changes a barrier. -/
def State.modHb (s : State) (n : BitVec 6) (f : Barrier → Barrier) : State :=
  s.upd fun d => { d with hbs := d.hbs.set n.toNat (f (d.hbs.get n.toFin)) n.isLt }

/-- Changes a step group. -/
def State.modSg (s : State) (n : BitVec 5) (f : StepGroup → StepGroup) : State :=
  s.upd fun d => { d with sgs := d.sgs.set n.toNat (f (d.sgs.get n.toFin)) n.isLt }

/-- Changes a planar zone. -/
def State.modPz (s : State) (n : BitVec 6) (f : Zone → Zone) : State :=
  s.upd fun d => { d with pzs := d.pzs.set n.toNat (f (d.pzs.get n.toFin)) n.isLt }

/-- Changes a frame ring. -/
def State.modFring (s : State) (n : BitVec 8) (f : FrameRing → FrameRing) : State :=
  s.upd fun d => { d with frings := d.frings.set n.toNat (f (d.frings.get n.toFin)) n.isLt }

/-- Changes a stream record. -/
def State.modStream (s : State) (n : BitVec 8) (f : StreamRec → StreamRec) : State :=
  s.upd fun d => { d with streams := d.streams.set n.toNat (f (d.streams.get n.toFin)) n.isLt }

/-- A fresh operation number. -/
def State.fresh (s : State) : Nat × State := (s.dev.nextId, s.upd fun d => { d with nextId := d.nextId + 1 })

/-- A free byte, and the state after drawing it (log 8). -/
def State.drawByte (s : State) : Byte × State :=
  (Config.freeByte s.dev.free, s.upd fun d => { d with free := d.free + 1 })

/-- `n` free bytes (log 8). -/
def State.drawBytes : Nat → State → List Byte × State
  | 0, s => ([], s)
  | n + 1, s =>
    let (b, s) := s.drawByte
    let (l, s) := State.drawBytes n s
    (b :: l, s)

/-- A free number, and the state after drawing it (log 8). -/
def State.drawNat (s : State) : Nat × State :=
  (Config.freeNat s.dev.free, s.upd fun d => { d with free := d.free + 1 })

/-- A free word, and the state after drawing it (log 8). -/
def State.drawWord (s : State) : W64 × State :=
  (Config.freeWord s.dev.free, s.upd fun d => { d with free := d.free + 1 })

/-- Gives the host something (R351, R393, R396). -/
def State.emit (s : State) (o : HostOut) : State := s.modBoard fun b => { b with out := b.out ++ [o] }

/-- Raises an MSI-X vector of a tenant's function (R351, R364, R389). -/
def State.msix (s : State) (t : TenantId) (vec : Nat) : State := s.emit (.msix t vec)

/-! ## Tasks, cohorts, launches -/

/-- The task with a number. -/
def State.taskById (s : State) (n : Nat) : Option Task := s.dev.tasks.find? fun t => t.id == n

/-- The cohort with a number. -/
def State.cohortById (s : State) (n : Nat) : Option Cohort := s.dev.cohorts.find? fun t => t.id == n

/-- The launch with a number. -/
def State.launchById (s : State) (n : Nat) : Option Launch := s.dev.launches.find? fun t => t.id == n

/-- The launch of a task. -/
def State.launchOf (s : State) (task : Nat) : Option Launch :=
  (s.taskById task).bind fun t => (s.cohortById t.cohort).bind fun c => s.launchById c.launch

/-! ## Numbers from bit fields -/

/-- Replaces `len` bits of `w` at bit `lo` by those of `v`. -/
def setField (w : W64) (lo len : Nat) (v : Nat) : W64 :=
  w64 (w.toNat - (w.toNat / 2 ^ lo % 2 ^ len) * 2 ^ lo + v % 2 ^ len * 2 ^ lo)

/-- `n` zero bytes. -/
def zeros (n : Nat) : List Byte := List.replicate n 0

/-- Applies a state change to each number below `n`, in ascending order. -/
def forUpto (n : Nat) (f : Nat → State → State) (s : State) : State :=
  (List.range n).foldl (fun s i => f i s) s

/-! ## Register files (R12, R111, R290) -/

/-- Is the core at supervisor level (R289)? -/
def Core.priv (k : Core) : Bool := k.sv.priv

/-- Whose accesses the core now makes (R291). -/
def Core.owner (k : Core) : Owner := { sv := k.priv, task := k.task }

/-- Scalar register r as the running level sees it; s0 reads 0 (R12, R290). -/
def Core.sreg (k : Core) (r : BitVec 6) : W64 :=
  if r = 0 then 0
  else if k.priv && 48 ≤ r.toNat then k.sv.s.get ⟨(r.toNat - 48) % 16, Nat.mod_lt _ (by decide)⟩
  else k.ctx.s.get r.toFin

/-- Writes a scalar register of the user context or of the supervisor's bank; a write to s0 is discarded (R12, R111). -/
def Core.setS (k : Core) (r : BitVec 6) (bank : Bool) (w : W64) : Core :=
  if r = 0 then k
  else if bank && 48 ≤ r.toNat then
    { k with sv := { k.sv with s := k.sv.s.set ((r.toNat - 48) % 16) w (Nat.mod_lt _ (by decide)) } }
  else { k with ctx := { k.ctx with s := k.ctx.s.set r.toNat w r.isLt } }

/-- Predicate p as the running level sees it; p0 reads 1 (R12, R290). -/
def Core.pred (k : Core) (p : BitVec 4) : Bool :=
  if p = 0 then true
  else if k.priv && 12 ≤ p.toNat then bitAt k.sv.p (p.toNat - 12)
  else bitAt k.ctx.p p.toNat

/-- Sets bit i of a word. -/
def setBit {n : Nat} (w : BitVec n) (i : Nat) (b : Bool) : BitVec n :=
  if b then w ||| BitVec.ofNat n (2 ^ i) else w &&& ~~~(BitVec.ofNat n (2 ^ i))

/-- Writes a predicate; a write to p0 is discarded (R12, R135). -/
def Core.setP (k : Core) (p : BitVec 4) (bank : Bool) (b : Bool) : Core :=
  if p = 0 then k
  else if bank && 12 ≤ p.toNat then { k with sv := { k.sv with p := setBit k.sv.p (p.toNat - 12) b } }
  else { k with ctx := { k.ctx with p := setBit k.ctx.p p.toNat b } }

/-- The low `n` bits of a vector. -/
def lowBits (n : Nat) (v : V1024) : V1024 := BitVec.ofNat 1024 (v.toNat % 2 ^ n)

/-- Replaces the low `n` bits of `old` by those of `new` (R158). -/
def mergeLow {w : Nat} (n : Nat) (old new : BitVec w) : BitVec w :=
  BitVec.ofNat w (old.toNat / 2 ^ n * 2 ^ n + new.toNat % 2 ^ n)

/-- Writes bits [W-1:0] of a vector register; the rest keeps its value (R158). -/
def Core.setV (k : Core) (r : BitVec 5) (wd : Width) (v : V1024) : Core :=
  { k with ctx := { k.ctx with v := k.ctx.v.set r.toNat (mergeLow wd.bits (k.ctx.v.get r.toFin) v) r.isLt } }

/-- Writes bits [W/8-1:0] of a mask register (R158). -/
def Core.setM (k : Core) (r : BitVec 3) (wd : Width) (v : BitVec 128) : Core :=
  { k with ctx := { k.ctx with m := k.ctx.m.set r.toNat (mergeLow (wd.bits / 8) (k.ctx.m.get r.toFin) v) r.isLt } }

/-! ## Special registers that software writes (R13, R292, R293) -/

/-- The RW bits of a special register as `mtsr` leaves it: the value to be written by its field mask (R13, R293). -/
def sprMask (n : BitVec 8) (w : W64) : W64 := match n.toNat with
  | 0x06 => if w.toNat > 256 then 256 else w
  | 0x07 => if w.toNat > 64 then 64 else w
  | 0x40 => w &&& 1
  | 0x41 | 0x42 => w &&& 0xFFFFFFFFFFFFC
  | 0x46 => w &&& 0xFFFFFFFFFF000
  | 0x47 | 0x48 => w &&& 0xFFFFFFFFF0000
  | 0x49 => w &&& 0xFFFF
  | _ => w

/-- TOKSTAT after an outcome (R14): BROKEN or PABORT takes the outcome; RES and RKIND change when it is 1. -/
def tokstatAfter (w : W64) (pabort bad : Bool) (res : Nat) (kind : Bool) : W64 :=
  let w := setField w (if pabort then 1 else 0) 1 (if bad then 1 else 0)
  if bad then setField (setField w 8 6 res) 14 1 (if kind then 1 else 0) else w

/-- Writes a special register. -/
def Core.setSpr (k : Core) (n : BitVec 8) (w : W64) : Core := match n.toNat with
  | 0x05 => k.modCtx fun x => { x with kvslot := w }
  | 0x06 => k.modCtx fun x => { x with occ := w }
  | 0x07 => k.modCtx fun x => { x with draft := w }
  | 0x08 => k.modCtx fun x => { x with tokstat := w }
  | 0x40 => k.modCtx fun x => { x with fz := bitAt w 0 }
  | 0x41 => { k with sv := { k.sv with stvec := w } }
  | 0x42 => { k with sv := { k.sv with sepc := w } }
  | 0x46 => { k with sv := { k.sv with ssave := w } }
  | 0x47 => { k with sv := { k.sv with stsave := w } }
  | 0x48 => { k with sv := { k.sv with slsave := w } }
  | 0x49 => { k with sv := { k.sv with lsmask := w.setWidth 16 } }
  | _ => k

/-! ## Results in flight (R11, R17, R102, R112) -/

/-- Puts a result among those in flight, in issue order (R102). -/
def insertFlight (f : Flight) : List Flight → List Flight
  | [] => [f]
  | g :: gs => if f.ord < g.ord then f :: g :: gs else g :: insertFlight f gs

/-- A result of the syllable being executed: it lands `lat` unfrozen clocks after issue. -/
def Core.newFlight (k : Core) (lat : Nat) (dest : FDest) (toLatch : Bool) (val : V1024) : Flight :=
  { rem := lat, dest := dest, latch := if toLatch then k.bun.lat else none, epoch := k.clk.epoch, ord := k.bun.ord,
    val := val, wait := none, counts := true, div := false, valid := true, err := false, faddr := 0 }

/-- Issues a result. -/
def Core.addFlight (k : Core) (f : Flight) : Core := { k with flights := insertFlight f k.flights }

/-- Clears the pending mark of a register in which another result lands (R215). -/
def unpend (r : BitVec 6) (bank : Bool) (l : List Tok) : List Tok :=
  l.map fun t => if t.reg = r ∧ t.bank = bank then { t with pend := false } else t

/-- Is a register the supervisor's own copy (R290)? -/
def isBanked (bank : Bool) (r : BitVec 6) : Bool := bank && 48 ≤ r.toNat

/-- Does a level name the register that a system engine operation of the supervisor names by the same number (R290)? -/
def sysSees (bank : Bool) (r : BitVec 6) : Bool := bank || r.toNat < 48

/-- A result lands in its register. -/
def Core.landDest (k : Core) (f : Flight) : Core := match f.dest with
  | .none => k
  | .s r bank =>
    let k := k.setS r bank (f.val.setWidth 64)
    let so := k.sysop.map fun o => if o.reg = r && sysSees bank r then { o with reg := 0 } else o
    { k with ctx := { k.ctx with toks := unpend r (isBanked bank r) k.ctx.toks }, sysop := so }
  | .p p bank => k.setP p bank (bitAt f.val 0)
  | .v r wd => k.setV r wd f.val
  | .m r wd => k.setM r wd (f.val.setWidth 128)
  | .qs => k.modCtx fun x => { x with qs := f.val.setWidth 32 }
  | .ag n => k.modCtx fun x => { x with ag := x.ag.set n.toNat (f.val.setWidth 128) n.isLt }
  | .spr n => k.setSpr n (f.val.setWidth 64)
  | .outcome pabort bad res kind => k.modCtx fun x => { x with tokstat := tokstatAfter x.tokstat pabort bad res.toNat kind }
  | .wr slot place =>
    { k with wents := k.wents.map fun e => if e.slot = slot ∧ e.place = place then { e with val := some f.val } else e }
  | .bind slot vr dir =>
    k.modStream slot fun _ => { Reset.stream with bound := true, dir := dir, vr := vr, pat := f.val.setWidth 512 }
  | .unbind slot => k.modStream slot fun st => { st with bound := false, fifo := [], gq := [] }
  | .pend r bank op =>
    let so := k.sysop.map fun o =>
      if o.op = op then { o with reg := r } else if o.reg = r && sysSees bank r then { o with reg := 0 } else o
    let k := k.modCtx fun x =>
      { x with toks := x.toks.map fun t =>
          if t.op = op then { t with pend := true }
          else if t.reg = r ∧ t.bank = bank then { t with pend := false } else t }
    { k with sysop := so }

/-- A result lands in its bypass latch, unless control was transferred since it issued (R112). -/
def Core.landLatch (k : Core) (f : Flight) : Core := match f.latch with
  | some l => if f.epoch = k.clk.epoch then { k with latch := k.latch.set l.val { val := f.val, stale := false } l.isLt } else k
  | none => k

/-- Is the result due in this clock, with its data? -/
def Flight.due (f : Flight) : Bool := f.rem == 0 && f.wait.isNone

/-- Does a result due in this clock wait for data (R18, late load)? -/
def Core.lateLoad (k : Core) : Bool := k.flights.any fun f => f.rem == 0 && f.wait.isSome

/-- All results due land, in issue order (R102). A dropped load writes nothing (R300). -/
def Core.landDue (k : Core) : Core :=
  let out := k.flights.filter (·.due)
  out.foldl (fun k f => if f.err then k else (k.landDest f).landLatch f) { k with flights := k.flights.filter (!·.due) }

/-- Results in flight that count against the 64 of R302. -/
def Core.inFlight (k : Core) : Nat := (k.flights.filter (·.counts)).length

/-! ## Tokens (R213 to R215) -/

/-- The operation whose token a register awaits, if it is pending (R215). -/
def Core.pendingOn (k : Core) (r : BitVec 6) : Option Nat :=
  if r = 0 then none
  else match k.ctx.toks.find? (fun t => t.pend && t.reg == r && t.bank == isBanked k.priv r) with
    | some t => some t.op
    | none => match k.sysop with
      | some o => if o.reg = r && sysSees k.priv r then some o.op else none
      | none => none

/-- A token value (R214). -/
def tokenWord (status code count : Nat) : W64 := w64 (status * 2 ^ 56 + code * 2 ^ 48 + count % 2 ^ 48)

/-! ## Fault codes (R296) -/

/-- The fault codes. -/
def cInstrAlign : Nat := 0x01
/-- R296. -/
def cIllegalOpcode : Nat := 0x02
/-- R296. -/
def cIllegalBundle : Nat := 0x03
/-- R296. -/
def cLatchStale : Nat := 0x04
/-- R296. -/
def cFetchUnmapped : Nat := 0x05
/-- R296. -/
def cDataUnmapped : Nat := 0x06
/-- R296. -/
def cMemwin : Nat := 0x07
/-- R296. -/
def cPerm : Nat := 0x08
/-- R296. -/
def cMatfmt : Nat := 0x09
/-- R296. -/
def cTileUnconfig : Nat := 0x0A
/-- R296. -/
def cTileOwner : Nat := 0x0B
/-- R296. -/
def cPlaneGranule : Nat := 0x0C
/-- R296. -/
def cStepCollision : Nat := 0x0D
/-- R296. -/
def cKvRange : Nat := 0x10
/-- R296. -/
def cFreelistEmpty : Nat := 0x11
/-- R296. -/
def cPipFault : Nat := 0x12
/-- R296. -/
def cSyscall : Nat := 0x13
/-- R296. -/
def cWatchdog : Nat := 0x14
/-- R296. -/
def cHazelMismatch : Nat := 0x15

/-! ## Taking a stop and returning from one (R289 to R291, R297, R298, R315) -/

/-- Starts a stop with its fault record (R298). At user level the core stops before the bundle at `epc`; a trap at supervisor
level is not taken: the core halts (R291). -/
def Core.stop (k : Core) (r : StopRec) : Core :=
  if k.priv then { k with run := .halted }
  else { k with run := .stopping r, sv := { k.sv with cycAt := k.clk.cycle } }

/-- The precise trap of the syllable being executed, found at check `chk`: `code`, SFADDR and SFINFO. The bundle has no
effect, and SEPC is its first address (R104, R297, R298). -/
def Core.trap (k : Core) (chk code : Nat) (sfaddr sfinfo : W64) : Core :=
  { (k.stop { chk := chk, epc := k.bun.base, scause := w64 code, sfaddr := sfaddr, sfinfo := sfinfo }) with
    bun := { k.bun with failed := chk } }

/-- Traps the bundle of the core that acts. -/
def State.trap (s : State) (chk code : Nat) (sfaddr : W64) : State := s.modMe fun k => k.trap chk code sfaddr 0

/-- The trap of check 7 whose SFADDR is the syllable's address (R297). -/
def State.trapAt (s : State) (code : Nat) : State := s.trap 7 code s.me.bun.addr

/-- The trap of a refused or faulting access of the bundle: the fault log receives a MEMWIN with the stop (R59, R389). -/
def State.trapData (s : State) (f : Nat × Nat) : State :=
  let s := s.trap 7 f.1 (w64 f.2)
  if f.1 = cMemwin then s.modBun fun b => { b with refused := some f } else s

/-- PERM for a resource the tenant was not given (R212, R387). -/
def State.trapResource (s : State) : State :=
  let a := s.me.bun.addr
  (s.trapAt cPerm).modBun fun b => { b with refused := some (cPerm, a.toNat) }

/-- Holds the bundle at issue (R18, R19). -/
def State.holdOn (s : State) (h : Hold) : State := s.modBun fun b => { b with hold := some h }

/-- Every bypass latch becomes stale, and results issued before no longer reach one (R16, R112). -/
def Core.staleAll (k : Core) : Core :=
  { k with latch := .replicate 4 { val := 0, stale := true }, clk := { k.clk with epoch := k.clk.epoch + 1 } }

/-- Supervisor entry (R297, R298): the fault record is written, MODE.PRIV is set, and the next bundle is the one at STVEC.
The latches are stale and no user syllable is held (R290). -/
def Core.enterSupervisor (k : Core) (r : StopRec) : Core :=
  let k := k.staleAll
  { k with
    sv := { k.sv with sepc := r.epc &&& 0xFFFFFFFFFFFFC, scause := r.scause, sfaddr := r.sfaddr, sfinfo := r.sfinfo, priv := true, pdef := k.preempt,
                      snext := 0 }
    ctx := { k.ctx with pc := k.sv.stvec }
    clk := { k.clk with gap := 0 }
    held := .replicate 2 none
    heldSnap := k.held
    run := .running }

/-- Return to user level (R315): MODE.PRIV is cleared, the bundle at SEPC issues at issue + 3, the latches are stale, the
snapshot buffer is replayed from that clock, an active routine feeds its next step MFEED clocks after it (R304), and SNAPN
becomes 0. -/
def Core.returnToUser (k : Core) : Core :=
  let k := k.staleAll
  { k with
    sv := { k.sv with priv := false, pdef := false }
    mat := { k.mat with mfeed := k.mat.mfeed + 3 }
    ctx := { k.ctx with pc := k.sv.sepc }
    clk := { k.clk with gap := 2 }
    flights := ((k.snap.filter (·.valid)).filter (!·.err)).map (fun f => { f with rem := f.rem + 3 }) ++ k.flights
    held := k.heldSnap
    imem := { k.imem with lastHalf := none }
    snap := [] }

end Sys2Proof.Machine
end

