-- ==== Sys2Proof/Machine/Float.lean ====
section
/-! DEFINITION. Number formats and exact arithmetic (02): decoding and rounding of every floating-point format, exact sums and
products, conversions, and the special functions evaluated exactly and rounded once. -/

namespace Sys2Proof.Machine

/-- A value: NaN, an infinity, or (-1)^neg · m · 2^e; zeros keep their sign (R40, R45). -/
inductive FVal where
  | nan
  | inf (neg : Bool)
  | fin (neg : Bool) (m : Nat) (e : Int)
deriving DecidableEq, Repr

/-- A floating-point format: exponent bits, fraction bits, bias, and whether it has infinities (R40). -/
structure Fmt where
  eb : Nat
  fb : Nat
  bias : Int
  hasInf : Bool
  code : Nat
deriving DecidableEq, Repr

/-- FP32 (R40). -/
def fp32 : Fmt := { eb := 8, fb := 23, bias := 127, hasInf := true, code := 0 }
/-- BF16. -/
def bf16 : Fmt := { eb := 8, fb := 7, bias := 127, hasInf := true, code := 1 }
/-- FP16. -/
def fp16 : Fmt := { eb := 5, fb := 10, bias := 15, hasInf := true, code := 2 }
/-- E4M3: no infinity; exponent 0xF is finite but for fraction 0b111. -/
def e4m3 : Fmt := { eb := 4, fb := 3, bias := 7, hasInf := false, code := 3 }
/-- E5M2. -/
def e5m2 : Fmt := { eb := 5, fb := 2, bias := 15, hasInf := true, code := 4 }
/-- E2M1: neither infinity nor NaN. -/
def e2m1 : Fmt := { eb := 2, fb := 1, bias := 1, hasInf := false, code := 5 }

/-- The format of a type code (R113). -/
def fmtOf (ty : BitVec 4) : Fmt := match ty.toNat with
  | 0 => fp32 | 1 => bf16 | 2 => fp16 | 3 => e4m3 | 4 => e5m2 | _ => e2m1

/-- Bits of a format. -/
def Fmt.width (f : Fmt) : Nat := 1 + f.eb + f.fb

/-- The sign bit of an encoding. -/
def Fmt.signOf (f : Fmt) (n : Nat) : Bool := n / 2 ^ (f.eb + f.fb) % 2 == 1

/-- The value of an encoding (R40). -/
def Fmt.decode (f : Fmt) (n : Nat) : FVal :=
  let neg := f.signOf n
  let ex := n / 2 ^ f.fb % 2 ^ f.eb
  let fr := n % 2 ^ f.fb
  if f.code = 5 ∧ n % 16 = 8 then .fin false 0 0
  else if f.hasInf && ex == 2 ^ f.eb - 1 then (if fr = 0 then .inf neg else .nan)
  else if f.code = 3 ∧ ex = 15 ∧ fr = 7 then .nan
  else if ex = 0 then .fin neg fr (1 - f.bias - f.fb)
  else .fin neg (2 ^ f.fb + fr) (ex - f.bias - f.fb)

/-- The canonical quiet NaN of a format (R45). E2M1 has none: NaN converts to 0b0000 (R47). -/
def Fmt.canonNan (f : Fmt) : Nat := match f.code with
  | 0 => 0x7FC00000 | 1 => 0x7FC0 | 2 => 0x7E00 | 3 => 0x7F | 4 => 0x7E | _ => 0

/-- The sign bit as a number. -/
def Fmt.signBit (f : Fmt) (neg : Bool) : Nat := if neg then 2 ^ (f.eb + f.fb) else 0

/-- The encoding of an infinity. -/
def Fmt.infCode (f : Fmt) (neg : Bool) : Nat := f.signBit neg + (2 ^ f.eb - 1) * 2 ^ f.fb

/-- The encoding of the largest finite magnitude. -/
def Fmt.maxCode (f : Fmt) (neg : Bool) : Nat :=
  f.signBit neg + (if f.hasInf then (2 ^ f.eb - 1) * 2 ^ f.fb - 1 else if f.code = 3 then 0x7E else 0x7)

/-- Rounds the number m · 2^(-sh) to an integer in a mode of R44: 0 nearest even, 1 toward zero, 2 up, 3 down. -/
def roundShift (mode : Nat) (neg : Bool) (m sh : Nat) : Nat :=
  let q := m / 2 ^ sh
  let r := m % 2 ^ sh
  let up : Bool := match mode with
    | 0 => decide (2 * r > 2 ^ sh) || (2 * r == 2 ^ sh && q % 2 == 1)
    | 1 => false
    | 2 => !neg && r != 0
    | _ => neg && r != 0
  if up then q + 1 else q

/-- Is the overflow of this sign the largest finite magnitude in this mode (R44)? -/
def toMax (mode : Nat) (neg : Bool) : Bool := match mode with
  | 0 => false | 1 => true | 2 => neg | _ => !neg

/-- The encoding of an overflow (R44, R47, R162). One to E2M1 is ±6 in every mode, from an integer source too (DESIGN CHOICE, log 115). -/
def Fmt.overflow (f : Fmt) (mode : Nat) (sat neg : Bool) : Nat :=
  if f.code = 5 || sat || toMax mode neg then f.maxCode neg
  else if f.hasInf then f.infCode neg else f.canonNan

/-- Rounds a nonzero magnitude m · 2^e into a format (R44): unbounded exponent first, then overflow. -/
def Fmt.roundFin (f : Fmt) (mode : Nat) (sat neg : Bool) (m : Nat) (e : Int) : Nat :=
  let q : Int := max ((m.log2 : Int) + e - f.fb) (1 - f.bias - f.fb)
  let sh := q - e
  let k := if sh ≤ 0 then m * 2 ^ (-sh).toNat else roundShift mode neg m sh.toNat
  let (k, q) := if 2 ^ (f.fb + 1) ≤ k then (k / 2, q + 1) else (k, q)
  let body : Nat := if k < 2 ^ f.fb then k else (q + f.fb + f.bias).toNat * 2 ^ f.fb + (k - 2 ^ f.fb)
  if f.maxCode false < body then f.overflow mode sat neg
  else if f.code = 5 ∧ body = 0 then 0
  else f.signBit neg + body

/-- Rounds a value into a format (R44, R45, R47). `satInf`: an infinite input becomes the largest finite magnitude, as in a
conversion under `.sat`. -/
def Fmt.round (f : Fmt) (mode : Nat) (sat satInf : Bool) : FVal → Nat
  | .nan => f.canonNan
  | .inf neg => if satInf then f.maxCode neg else if f.hasInf then f.infCode neg
      else if f.code = 5 then f.maxCode neg else f.canonNan
  | .fin neg m e => if m = 0 then (if f.code = 5 then 0 else f.signBit neg) else f.roundFin mode sat neg m e

/-- Is an encoding subnormal? -/
def Fmt.isSub (f : Fmt) (n : Nat) : Bool := n / 2 ^ f.fb % 2 ^ f.eb == 0 && n % 2 ^ f.fb != 0

/-- Does FZ act on the format (R46)? -/
def Fmt.fzOn (f : Fmt) : Bool := f.code < 3

/-- An operand under FZ: a subnormal reads as a zero of its sign (R46). -/
def Fmt.decodeFz (f : Fmt) (fz : Bool) (n : Nat) : FVal :=
  if fz && f.fzOn && f.isSub n then .fin (f.signOf n) 0 0 else f.decode n

/-- A result under FZ: a subnormal becomes a zero of its sign (R46). -/
def Fmt.flush (f : Fmt) (fz : Bool) (n : Nat) : Nat :=
  if fz && f.fzOn && f.isSub n then f.signBit (f.signOf n) else n

/-! ## Exact sums and products (R45) -/

/-- A signed integer times 2^e, as a value; `zneg` is the sign of an exact zero. -/
def FVal.ofInt (n : Int) (e : Int) (zneg : Bool) : FVal :=
  if n = 0 then .fin zneg 0 e else .fin (decide (n < 0)) n.natAbs e

/-- The signed mantissa of a finite value. -/
def signed (neg : Bool) (m : Nat) : Int := if neg then -(m : Int) else m

/-- The exact sum a + b (R45); `mode` fixes the sign of an exact zero. -/
def FVal.add (mode : Nat) : FVal → FVal → FVal
  | .nan, _ => .nan
  | _, .nan => .nan
  | .inf a, .inf b => if a = b then .inf a else .nan
  | .inf a, _ => .inf a
  | _, .inf b => .inf b
  | .fin na ma ea, .fin nb mb eb =>
    if ma = 0 ∧ mb = 0 ∧ na = nb then .fin na 0 0
    else
      let e := min ea eb
      let n := signed na ma * 2 ^ (ea - e).toNat + signed nb mb * 2 ^ (eb - e).toNat
      .ofInt n e (mode == 3)

/-- The value with its sign inverted. -/
def FVal.neg : FVal → FVal
  | .nan => .nan
  | .inf n => .inf (!n)
  | .fin n m e => .fin (!n) m e

/-- The exact product (R45). -/
def FVal.mul : FVal → FVal → FVal
  | .nan, _ => .nan
  | _, .nan => .nan
  | .inf a, .inf b => .inf (a != b)
  | .inf a, .fin nb mb _ => if mb = 0 then .nan else .inf (a != nb)
  | .fin na ma _, .inf b => if ma = 0 then .nan else .inf (na != b)
  | .fin na ma ea, .fin nb mb eb => .fin (na != nb) (ma * mb) (ea + eb)

/-- Is a value NaN? -/
def FVal.isNan : FVal → Bool
  | .nan => true
  | _ => false

/-- Compares two values that are not NaN; −0 = +0. -/
def FVal.lt : FVal → FVal → Bool
  | .nan, _ => false
  | _, .nan => false
  | .inf a, .inf b => a && !b
  | .inf a, .fin .. => a
  | .fin .., .inf b => !b
  | .fin na ma ea, .fin nb mb eb =>
    let e := min ea eb
    decide (signed na ma * 2 ^ (ea - e).toNat < signed nb mb * 2 ^ (eb - e).toNat)

/-- Equality of two values that are not NaN; −0 = +0. -/
def FVal.eqv (a b : FVal) : Bool := !a.isNan && !b.isNan && !a.lt b && !b.lt a

/-- Is the value a zero or below, by its sign, for the tie of −0 and +0 in min and max? -/
def FVal.isNeg : FVal → Bool
  | .nan => false
  | .inf n => n
  | .fin n _ _ => n

/-- `vmin` and `vmax` order: NaN if either is NaN, −0 below +0 (R45). -/
def FVal.minmax (isMax : Bool) (a b : FVal) : FVal :=
  if a.isNan || b.isNan then .nan
  else
    let aLess := a.lt b || (!b.lt a && a.isNeg && !b.isNeg)
    if aLess != isMax then a else b

/-! ## Values with a sticky bit

A value that is not a dyadic number stands for its neighbourhood: m · 2^e plus something below 2^e is written as
(2m + 1) · 2^(e-1), which rounds in every mode to the same result whenever m has more bits than the format. -/

/-- m · 2^e, and a bit below when the remainder is not zero. -/
def sticky (neg : Bool) (m : Nat) (e : Int) (rest : Bool) : FVal :=
  .fin neg (2 * m + (if rest then 1 else 0)) (e - 1)

/-- Working precision of the special functions, in bits after the point (log 10). -/
def prec : Nat := 420

/-- Integer square root, by bits from 2^(n-1) down. -/
def isqrtBits : Nat → Nat → Nat → Nat
  | 0, _, r => r
  | n + 1, x, r => let t := r + 2 ^ n; isqrtBits n x (if t * t ≤ x then t else r)

/-- Σ z^(2j+1)/(2j+1) in fixed point, n terms from term t = z^(2k+1), z2 = z². -/
def atanhLoop : Nat → Nat → Nat → Nat → Nat → Nat
  | 0, _, _, _, acc => acc
  | n + 1, k, t, z2, acc => atanhLoop n (k + 2) (t * z2 / 2 ^ prec) z2 (acc + t / k)

/-- 2 · atanh(z) in fixed point, for z at most 1/3. -/
def atanh2 (z : Nat) : Nat := 2 * atanhLoop 136 1 z (z * z / 2 ^ prec) 0

/-- ln 2 in fixed point. -/
def ln2 : Nat := atanh2 (2 ^ prec / 3)

/-- Taylor series of e^r in fixed point: n terms from term `t` of index k. -/
def expLoop : Nat → Nat → Nat → Nat → Nat → Nat
  | 0, _, _, _, acc => acc
  | n + 1, k, t, r, acc => let t' := t * r / 2 ^ prec / k; expLoop n (k + 1) t' r (acc + t')

/-- e^r in fixed point for 0 ≤ r < 1. -/
def expFix (r : Nat) : Nat := expLoop 90 1 (2 ^ prec) r (2 ^ prec)

/-- A magnitude m · 2^e in fixed point (floor). -/
def toFix (m : Nat) (e : Int) : Nat :=
  let s := e + prec
  if 0 ≤ s then m * 2 ^ s.toNat else m / 2 ^ (-s).toNat

/-- 2^n · f with f in fixed point, as a value with a sticky bit (60 guard bits are dropped). -/
def ofFix (neg : Bool) (f : Nat) (n : Int) : FVal := sticky neg (f / 2 ^ 60) (n - prec + 60) true

/-- A positive value too large for every format. -/
def hugeVal : FVal := .fin false 1 100000
/-- A positive value too small for every format, not zero. -/
def tinyVal : FVal := .fin false 1 (-100000)

/-- e^x for x = ±xf in fixed point: 2^n · e^r with r = x − n·ln 2 in [0, ln 2). -/
def expOfFix (neg : Bool) (xf : Nat) : FVal :=
  if neg then
    let n := xf / ln2 + 1
    ofFix false (expFix (n * ln2 - xf)) (-(n : Int))
  else
    let n := xf / ln2
    ofFix false (expFix (xf - n * ln2)) n

/-- The exact e^x (R177 pattern; R259, R269). -/
def FVal.exp : FVal → FVal
  | .nan => .nan
  | .inf neg => if neg then .fin false 0 0 else .inf false
  | .fin neg m e =>
    if m = 0 then .fin false 1 0
    else if 20 < (m.log2 : Int) + e then (if neg then tinyVal else hugeVal)
    else expOfFix neg (toFix m e)

/-- The exact 2^x (R177): exact when x is an integer. -/
def FVal.exp2 : FVal → FVal
  | .nan => .nan
  | .inf neg => if neg then .fin false 0 0 else .inf false
  | .fin neg m e =>
    if m = 0 then .fin false 1 0
    else if 20 < (m.log2 : Int) + e then (if neg then tinyVal else hugeVal)
    else
      let xf := toFix m e
      let i := xf / 2 ^ prec
      let fr := xf % 2 ^ prec
      if fr = 0 then .fin false 1 (if neg then -(i : Int) else i)
      else
        let (n, g) : Int × Nat := if neg then (-(i : Int) - 1, 2 ^ prec - fr) else (i, fr)
        ofFix false (expFix (g * ln2 / 2 ^ prec)) n

/-- For m · 2^e > 0: k and ln y in fixed point with m · 2^e = y · 2^k, 1 ≤ y < 2. -/
def lnParts (m : Nat) (e : Int) : Int × Nat :=
  let l := m.log2
  let y := m * 2 ^ prec / 2 ^ l
  ((l : Int) + e, atanh2 ((y - 2 ^ prec) * 2 ^ prec / (y + 2 ^ prec)))

/-- A signed fixed-point number as a value with a sticky bit. -/
def ofFixInt (n : Int) : FVal := ofFix (decide (n < 0)) n.natAbs 0

/-- The exact natural logarithm (R269): ln 1 is +0. -/
def FVal.ln : FVal → FVal
  | .nan => .nan
  | .inf neg => if neg then .nan else .inf false
  | .fin neg m e =>
    if m = 0 then .inf true
    else if neg then .nan
    else
      let (k, f) := lnParts m e
      if m = 2 ^ m.log2 ∧ k = 0 then .fin false 0 0 else ofFixInt (k * ln2 + f)

/-- The exact base-2 logarithm (R177): exact for powers of two. -/
def FVal.log2 : FVal → FVal
  | .nan => .nan
  | .inf neg => if neg then .nan else .inf false
  | .fin neg m e =>
    if m = 0 then .inf true
    else if neg then .nan
    else
      let (k, f) := lnParts m e
      if m = 2 ^ m.log2 then .ofInt k 0 false else ofFixInt (k * 2 ^ prec + f * 2 ^ prec / ln2)

/-- The exact quotient a / b (R45: 0/0 and ∞/∞ are invalid). -/
def FVal.div : FVal → FVal → FVal
  | .nan, _ => .nan
  | _, .nan => .nan
  | .inf _, .inf _ => .nan
  | .inf a, .fin nb _ _ => .inf (a != nb)
  | .fin na _ _, .inf b => .fin (na != b) 0 0
  | .fin na ma ea, .fin nb mb eb =>
    if mb = 0 then (if ma = 0 then .nan else .inf (na != nb))
    else if ma = 0 then .fin (na != nb) 0 0
    else
      let sh := 64 + mb.log2
      let q := ma * 2 ^ sh / mb
      sticky (na != nb) q (ea - eb - sh) (ma * 2 ^ sh % mb != 0)

/-- 1/x (R177). -/
def FVal.rcp (x : FVal) : FVal := FVal.div (.fin false 1 0) x

/-- 1/√x (R177): a zero gives the infinity of its sign. -/
def FVal.rsqrt : FVal → FVal
  | .nan => .nan
  | .inf neg => if neg then .nan else .fin false 0 0
  | .fin neg m e =>
    if m = 0 then .inf neg
    else if neg then .nan
    else
      let m' := if e % 2 = 0 then m else m * 2
      let h := (if e % 2 = 0 then e else e - 1) / 2
      let y := 2 ^ 240 / m'
      let r := isqrtBits 121 y 0
      sticky false r (-120 - h) (r * r * m' != 2 ^ 240)

/-- tanh x (R177): near 0 just below |x|, far from 0 just below 1. -/
def FVal.tanh : FVal → FVal
  | .nan => .nan
  | .inf neg => .fin neg 1 0
  | .fin neg m e =>
    if m = 0 then .fin neg 0 0
    else if (m.log2 : Int) + e < -50 then sticky neg (m * 2 ^ 60 - 1) (e - 60) true
    else if 6 < (m.log2 : Int) + e then sticky neg (2 ^ 60 - 1) (-60) true
    else
      let x2 := 2 * toFix m e
      let n := x2 / ln2
      let ex := expFix (x2 - n * ln2) * 2 ^ n
      ofFix neg ((ex - 2 ^ prec) * 2 ^ prec / (ex + 2 ^ prec)) 0

/-! ## Integers (R39, R47) -/

/-- The signed reading of the low `w` bits. -/
def sgn (w n : Nat) : Int := let m := n % 2 ^ w; if m < 2 ^ (w - 1) then m else (m : Int) - 2 ^ w

/-- An integer modulo 2^w. -/
def wrapI (w : Nat) (n : Int) : Nat := (n % 2 ^ w).toNat

/-- Saturate (R39): the nearest value of the signed or unsigned range of `w` bits, as a w-bit pattern. -/
def saturate (isS : Bool) (w : Nat) (n : Int) : Nat :=
  if isS then wrapI w (max (-(2 ^ (w - 1))) (min n (2 ^ (w - 1) - 1)))
  else (max 0 (min n (2 ^ w - 1))).toNat

/-- Rounds a finite value to an integer in a mode of R44. -/
def roundInt (mode : Nat) (neg : Bool) (m : Nat) (e : Int) : Int :=
  signed neg (if 0 ≤ e then m * 2 ^ e.toNat else roundShift mode neg m (-e).toNat)

/-- A float to an integer (R47): rounded, saturated; NaN gives 0. -/
def FVal.toInt (mode : Nat) (isS : Bool) (w : Nat) : FVal → Nat
  | .nan => 0
  | .inf neg => saturate isS w (if neg then -(2 ^ 200) else 2 ^ 200)
  | .fin neg m e =>
    if 200 < (m.log2 : Int) + e then saturate isS w (signed neg (2 ^ 200)) else saturate isS w (roundInt mode neg m e)

/-- ⌊log2⌋ of a nonzero finite magnitude. -/
def floorLog2 (m : Nat) (e : Int) : Int := (m.log2 : Int) + e

/-! ## NXF4 blocks (R42, R43) -/

/-- The quarter units of an NXF4 code, with the block's special byte (R43). -/
def nxf4 (code special : Nat) : Int :=
  if code % 16 = 8 then (let m := sgn 8 special; if m = -128 then -127 else m)
  else
    let mag : Int := match code % 8 with
      | 0 => 0 | 1 => 2 | 2 => 4 | 3 => 6 | 4 => 8 | 5 => 12 | 6 => 16 | _ => 24
    if 8 ≤ code % 16 then -mag else mag

/-! ## FP32 shorthands (sampler, planes, drain) -/

/-- The value of an FP32 pattern. -/
def f32 (w : BitVec 32) : FVal := fp32.decode w.toNat

/-- RoundNearestEven into FP32. -/
def toF32 (v : FVal) : BitVec 32 := BitVec.ofNat 32 (fp32.round 0 false false v)

end Sys2Proof.Machine
end

