-- ==== Sys2Proof/Machine/Flags.lean ====
section
/-! DEFINITION. Conditions and outcome bits: the compares of R135 and R165, TOKSTAT with p15 (R14), and the shifts of R53. RLX-1
has no status flags beside the predicates, the masks and TOKSTAT. -/

namespace Sys2Proof.Machine

/-- A signed reading of a 64-bit word. -/
def sgn64 (a : W64) : Int := a.toInt

/-- The condition of `cmp`, `cmpi` and `ccmp` (R135). -/
def condS (c : BitVec 3) (a b : W64) : Bool := match c.toNat with
  | 0 => a == b
  | 1 => a != b
  | 2 => decide (sgn64 a < sgn64 b)
  | 3 => decide (sgn64 b ≤ sgn64 a)
  | 4 => decide (a.toNat < b.toNat)
  | 5 => decide (b.toNat ≤ a.toNat)
  | 6 => (a &&& b) != 0
  | _ => (a &&& b) == 0

/-- The condition of `vcmp` on integers (R165). -/
def condI (c : BitVec 3) (a b : Int) : Bool := match c.toNat with
  | 0 => decide (a = b)
  | 1 => decide (a ≠ b)
  | 2 => decide (a < b)
  | 3 => decide (b ≤ a)
  | 4 => decide (a ≤ b)
  | 5 => decide (b < a)
  | _ => false

/-- The condition of `vcmp` on floating-point values: false on NaN but for `.ne` and `.uno`; −0 = +0 (R165). -/
def condF (c : BitVec 3) (a b : FVal) : Bool :=
  let u := a.isNan || b.isNan
  match c.toNat with
  | 0 => !u && a.eqv b
  | 1 => u || !a.eqv b
  | 2 => !u && a.lt b
  | 3 => !u && !a.lt b
  | 4 => !u && !b.lt a
  | 5 => !u && b.lt a
  | 6 => !u
  | _ => u

/-! ## Shifts (R53): the amount is 8 bits, and an amount of the width or more gives 0 or the sign -/

/-- Shift left of a w-bit pattern. -/
def shlW (w a n : Nat) : Nat := if w ≤ n then 0 else a * 2 ^ n % 2 ^ w
/-- Logical shift right. -/
def shrW (w a n : Nat) : Nat := if w ≤ n then 0 else a / 2 ^ n
/-- Arithmetic shift right. -/
def sraW (w a n : Nat) : Nat := wrapI w (sgn w a / 2 ^ (if w ≤ n then w else n))
/-- Rotate left by the amount modulo the width. -/
def rotW (w a n : Nat) : Nat := let k := n % w; (a * 2 ^ k % 2 ^ w) + a / 2 ^ (w - k)

end Sys2Proof.Machine
end

