-- ==== Sys2Proof/Machine/Operands.lean ====
section
/-! DEFINITION. Every operand form: extended immediates (R107, R128), scalar and vector sources (R109 to R112), bound registers
(R183 to R185), and the part of a syllable's issue that all share: its latch check, its guard, its conditions and traps of
checks 5 to 7, and its results (R104, R108, R302). -/

namespace Sys2Proof.Machine

/-! ## Immediates (R107, R128) -/

/-- The bits of IX that extend an immediate: two under a guard, seven without (R107). -/
def Lent.ixBits (x : Lent) : Nat := if x.guard.isSome then 2 else 7

/-- A signed immediate of `w` bits extended by IX. -/
def immS {w : Nat} (x : Lent) (v : BitVec w) : Int :=
  v.toInt + sgn (Lent.ixBits x) (x.ix.toNat % 2 ^ Lent.ixBits x) * 2 ^ w

/-- An unsigned immediate of `w` bits extended by IX. -/
def immU {w : Nat} (x : Lent) (v : BitVec w) : Nat := v.toNat + x.ix.toNat % 2 ^ Lent.ixBits x * 2 ^ w

/-- A number modulo 2^64. -/
def ofI (n : Int) : W64 := BitVec.ofInt 64 n

/-! ## Streams bound to registers (R183 to R185, R234) -/

/-- Bytes `lo` to `lo + n - 1` of a stream pattern, as a number. -/
def StreamSlot.patNat (st : StreamSlot) (lo n : Nat) : Nat := st.pat.toNat / 2 ^ (8 * lo) % 2 ^ (8 * n)

/-- Is the pattern a gather pattern (R234)? -/
def StreamSlot.gath (st : StreamSlot) : Bool := st.pat.toNat / 2 ^ 68 % 2 == 1

/-- Bytes of an entry (R234). -/
def StreamSlot.entryBytes (st : StreamSlot) : Nat := 32 * 2 ^ (st.patNat 8 1 % 4)

/-- Count of dimension d. -/
def StreamSlot.cnt (st : StreamSlot) (d : Nat) : Nat := st.patNat (16 + 4 * d) 4

/-- Entries of the pattern: the product of the counts at and below NDM1 (R234). -/
def StreamSlot.total (st : StreamSlot) : Nat :=
  (List.range (st.patNat 8 1 / 4 % 4 + 1)).foldl (fun n d => n * st.cnt d) 1

/-- The offset of entry `i`, dimension 0 innermost (R234). -/
def StreamSlot.offset (st : StreamSlot) : Nat → Nat → Nat → Int
  | 0, _, _ => 0
  | n + 1, d, i =>
    sgn 64 (st.patNat (32 + 8 * d) 8) * (i % max (st.cnt d) 1 : Nat) + StreamSlot.offset st n (d + 1) (i / max (st.cnt d) 1)

/-- The first byte of entry `i`, or of the entry of gather index `i`, modulo 2^64 (R234, R236). -/
def StreamSlot.entryVa (st : StreamSlot) (i : Nat) : Nat :=
  let off := if st.gath then sgn 64 (st.patNat 32 8) * i else st.offset (st.patNat 8 1 / 4 % 4 + 1) 0 i
  (((st.patNat 0 8 : Int) + off) % 2 ^ 64).toNat

/-- The stream slot that a vector register stands for, if it is bound (R183). -/
def Core.boundSlot (k : Core) (r : BitVec 5) : Option (BitVec 3 × StreamSlot) :=
  if r.toNat < 24 then none
  else ((List.range 8).map (fun n => (BitVec.ofNat 3 n, k.ctx.streams.get ⟨n % 8, Nat.mod_lt _ (by decide)⟩))).find?
    fun x => x.2.bound && x.2.vr.toNat + 24 == r.toNat

/-- Reserved entries of a write stream that have not drained (R184). -/
def Core.reserved (k : Core) (slot : BitVec 3) : Nat := (k.wents.filter fun e => e.slot == slot).length

/-- May the stream still get entries (R185, R234, R236)? -/
def StreamSlot.more (st : StreamSlot) : Bool := st.gath || decide (st.next < st.total)

/-! ## What a syllable reads and writes -/

/-- The operands of a syllable that the checks look at: latches, scalar registers that may be pending, vector sources and
vector destinations; `push`: the destination is written, not only named (N = 0). -/
structure Uses where
  latches : List (Fin 4)
  regs : List (BitVec 6)
  vs : List (BitVec 5)
  vd : Option (BitVec 5)
  push : Bool
deriving DecidableEq, Repr

/-- No operand. -/
def Uses.none : Uses := { latches := [], regs := [], vs := [], vd := Option.none, push := false }

/-- Adds a scalar source. -/
def Uses.s (u : Uses) : SSrc → Uses
  | .s r => { u with regs := u.regs ++ [r] }
  | .y n => { u with latches := u.latches ++ [⟨n.toNat, by omega⟩] }

/-- Adds a scalar register of a 6-bit field. -/
def Uses.r (u : Uses) (r : BitVec 6) : Uses := { u with regs := u.regs ++ [r] }

/-- Adds a vector source. -/
def Uses.v (u : Uses) : VSrc → Uses
  | .v r => { u with vs := u.vs ++ [r] }
  | .y n => { u with latches := u.latches ++ [⟨n.toNat + 2, by omega⟩] }

/-- Adds a vector destination. -/
def Uses.d (u : Uses) (d : VDst) : Uses := { u with vd := some d.r, push := !d.n }

/-- Adds a vector destination that is also a source (R185). -/
def Uses.dv (u : Uses) (d : VDst) : Uses := { (u.d d) with vs := u.vs ++ [d.r] }

/-! ## Reading sources -/

/-- A latch's value. -/
def Core.latchVal (k : Core) (n : Fin 4) : V1024 := (k.latch.get n).val

/-- A scalar source. -/
def Core.src (k : Core) : SSrc → W64
  | .s r => k.sreg r
  | .y n => (k.latchVal ⟨n.toNat, by omega⟩).setWidth 64

/-- A vector register: the entry this bundle popped, if it is bound to a read stream, else its contents (R183). -/
def Core.vreg (k : Core) (r : BitVec 5) : V1024 :=
  match k.boundSlot r with
  | some (slot, st) =>
    if st.dir then k.ctx.v.get r.toFin
    else match k.bun.pops.find? (fun p => p.1 == slot) with
      | some p => p.2
      | none => 0
  | none => k.ctx.v.get r.toFin

/-- A vector source. -/
def Core.vsrc (k : Core) : VSrc → V1024
  | .v r => k.vreg r
  | .y n => k.latchVal ⟨n.toNat + 2, by omega⟩

/-- The scalar source of the core that acts. -/
def State.src (s : State) (a : SSrc) : W64 := s.me.src a

/-- A scalar register of the core that acts. -/
def State.sreg (s : State) (r : BitVec 6) : W64 := s.me.sreg r

/-! ## Guards and checks 5 to 7 -/

/-- The guard of a lent byte, evaluated in the issue clock (R108). -/
def Core.guard (k : Core) (x : Lent) : Bool := match x.guard with
  | none => true
  | some g => k.pred g.p != g.neg

/-- Is a latch that the syllable names stale (check 5)? -/
def Core.stale (k : Core) (u : Uses) : Bool := u.latches.any fun n => (k.latch.get n).stale

/-- The condition of check 6 on which the syllable waits, if any (R18, R104). -/
def Core.waits (k : Core) (u : Uses) : Option Hold :=
  match u.regs.findSome? k.pendingOn with
  | some op => some (.token op)
  | none =>
    match u.vs.findSome? fun r => match k.boundSlot r with
        | some (slot, st) =>
          if !st.dir && st.fifo.isEmpty && st.more && !k.bun.pops.any (fun p => p.1 == slot) then some (Hold.emptyStream slot)
          else none
        | none => none with
    | some h => some h
    | none => match u.vd with
      | some r => match k.boundSlot r with
        | some (slot, st) => if st.dir && u.push && 4 ≤ k.reserved slot then some (.fullStream slot) else none
        | none => none
      | none => none

/-- The trap of check 7 that bound registers cause: a wrong direction or a stream past its last entry (R185, R234), or a
faulted entry at the head of the FIFO (R237). -/
def Core.streamTrap (k : Core) (u : Uses) : Option (Nat × W64) :=
  match u.vs.findSome? fun r => match k.boundSlot r with
      | some (slot, st) =>
        if st.dir then some (cIllegalOpcode, k.bun.addr)
        else if k.bun.pops.any (fun p => p.1 == slot) then none
        else match st.fifo with
          | [] => some (cIllegalOpcode, k.bun.addr)
          | e :: _ => e.fault.map fun f => (f.1.toNat, f.2)
      | none => none with
  | some f => some f
  | none => match u.vd with
    | some r => match k.boundSlot r with
      | some (_, st) =>
        if !st.dir || (u.push && st.total ≤ st.next) then some (cIllegalOpcode, k.bun.addr) else none
      | none => none
    | none => none

/-- Pops the entry of each read stream that the syllable names, once in a bundle (R183). -/
def Core.popStreams (k : Core) (u : Uses) : Core :=
  u.vs.foldl (fun k r => match k.boundSlot r with
    | some (slot, st) =>
      if st.dir || k.bun.pops.any (fun p => p.1 == slot) then k
      else match st.fifo with
        | [] => k
        | e :: _ =>
          { (k.modStream slot fun st => { st with fifo := st.fifo.drop 1 }) with
            bun := { k.bun with pops := (slot, e.val) :: k.bun.pops } }
    | none => k) k

/-- A syllable: stale latches trap even when its guard is false; with a false guard it does nothing else; then it waits, traps,
or has its effect (R104, R108). -/
def syl (x : Lent) (u : Uses) (body : State → State) (s : State) : State :=
  let k := s.me
  if k.stale u then s.trap 5 cLatchStale k.bun.addr
  else if !k.guard x then s
  else match k.waits u with
    | some h => s.holdOn h
    | none => match k.streamTrap u with
      | some (code, addr) => s.trap 7 code addr
      | none => body (if u.vs.isEmpty then s else s.modMe fun k => k.popStreams u)

/-! ## Results -/

/-- The place of an access among the core's accesses: by bundle, and within it loads (0), atomics (1) and stores (3), so that a
release of the bundle waits for its loads (R76, R81). -/
def Core.seq (k : Core) (cls : Nat) : Nat := k.bun.ord / 8 * 4 + cls

/-- Has nothing stopped the core that acts? -/
def State.live (s : State) : Bool := match s.me.run with
  | .stopping _ => false
  | .halted => false
  | _ => true

/-- Goes on unless the syllable has trapped. -/
def State.andThen (s : State) (f : State → State) : State := if s.live then f s else s

/-- Issues a result of the syllable: the 65th result in flight at user level raises ILLEGAL_OPCODE at check 7 (R302). -/
def State.result (s : State) (f : Flight) : State :=
  if !s.me.priv && f.counts && 64 ≤ s.me.inFlight then s.trapAt cIllegalOpcode
  else s.modMe fun k => k.addFlight f

/-- A scalar result in `d` and the latch, `lat` clocks after issue (R111, R127). -/
def State.resS (s : State) (lat : Nat) (d : SDst) (v : W64) : State :=
  let k := s.me
  s.result (k.newFlight lat (if d.n then .none else .s d.r k.priv) true (v.setWidth 1024))

/-- A scalar result that reaches no latch. -/
def State.resR (s : State) (lat : Nat) (d : BitVec 6) (v : W64) : State :=
  let k := s.me
  s.result (k.newFlight lat (.s d k.priv) false (v.setWidth 1024))

/-- A predicate result (R135): of a compare, `pop` or `pmov pr, a`. None lands in a latch (DEDUCED for the last two, log 116). -/
def State.resP (s : State) (p : BitVec 4) (b : Bool) : State :=
  let k := s.me
  s.result (k.newFlight 1 (.p p k.priv) false (if b then 1 else 0))

/-- An effect that lands at issue + 1 and is no result of R302: a special register, a generator, a binding. -/
def State.resX (s : State) (dest : FDest) (v : V1024) : State :=
  s.modMe fun k => k.addFlight { k.newFlight 1 dest false v with counts := false }

/-- A vector result: bits [W-1:0] of a register, an entry of a write stream that is reserved now, or only the latch when
N = 1 (R158, R184). -/
def State.resV (s : State) (lat : Nat) (wd : Width) (d : VDst) (v : V1024) : State :=
  let k := s.me
  let v := lowBits wd.bits v
  if d.n then s.result (k.newFlight lat .none true v)
  else match k.boundSlot d.r with
    | some (slot, st) =>
      let (id, s) := s.fresh
      let e : WEnt := { slot := slot, place := id, seq := k.seq 3, va := st.entryVa st.next, len := st.entryBytes, val := none, own := k.owner }
      let s := s.modMe fun k => { (k.modStream slot fun st => { st with next := st.next + 1 }) with wents := k.wents ++ [e] }
      s.result (k.newFlight lat (.wr slot id) true v)
    | none => s.result (k.newFlight lat (.v d.r wd) true v)

/-- A mask result (R165, R167). -/
def State.resM (s : State) (lat : Nat) (wd : Width) (m : BitVec 3) (v : BitVec 128) : State :=
  let k := s.me
  s.result (k.newFlight lat (.m m wd) false (v.setWidth 1024))

/-- The outcome of `barw`, `step` and `mmap` in p15 and in its own fields of TOKSTAT, at issue + 1 (R14). -/
def State.resOutcome (s : State) (pabort bad : Bool) (res : Nat) (kind : Bool) : State :=
  (s.resX (.outcome pabort bad (BitVec.ofNat 6 res) kind) 0).resP 15 bad

end Sys2Proof.Machine
end

