-- ==== Sys2Proof/Machine/Translate.lean ====
section
/-! DEFINITION. From an address to a place: the rows of R56, vault ownership, zones (R67, R414), the page walk (R323 to R328),
permissions (R329, R390, R397), the TLBs (R330), and the fault log (R389). -/

namespace Sys2Proof.Machine

/-! ## The map of R56 -/

/-- A row of R56. -/
inductive Row where
  | paged | vault | vlat | ls | hole
deriving DecidableEq, Repr

/-- The row of one address. -/
def rowOf (a : Nat) : Row :=
  if a < Config.vaultBase then .paged
  else if a < Config.vaultEnd then .vault
  else if a < Config.vlatEnd then .vlat
  else if a < Config.lsBase then .hole
  else if a < Config.vaLimit then .ls
  else .hole

/-- The row that all bytes of an access lie in; `hole` if they do not lie in one row. -/
def rowSpan (a len : Nat) : Row :=
  if 2 ^ 64 < a + len then .hole
  else if len = 0 then rowOf a
  else if rowOf a = rowOf (a + len - 1) then rowOf a else .hole

/-- The first byte of an access that lies in no implemented row, or outside the row of its first byte (R56, R297). -/
def holeAt (a len : Nat) : Nat :=
  match (List.range len).find? fun i => rowOf (a + i) = .hole ∨ rowOf (a + i) ≠ rowOf a ∨ 2 ^ 64 ≤ a + i with
  | some i => a + i
  | none => a

/-- The vault of a vault-window address (R59). -/
def vaultOf (a : Nat) : Nat := (a - Config.vaultBase) / Config.vaultBytes

/-- The place of a vault-window address. -/
def vaultPlace (a : Nat) : Nat := vaultAddr (vaultOf a) ((a - Config.vaultBase) % Config.vaultBytes)

/-- The tenant that owns a cluster (R383). -/
def State.owner (s : State) (cl : Nat) : Option TenantId :=
  (List.finRange 16).find? fun t => bitAt (s.part.get t) 16 && bitAt (s.part.get t) cl

/-- A tenant's number from a 4-bit field. -/
def tid (t : BitVec 4) : TenantId := t.toFin

/-- The tenant of a core's accesses: the owner of its cluster (R294, R367). -/
def State.coreTenant (s : State) (c : CoreId) : TenantId := (s.owner (clusterOf c)).getD 0

/-- Does tenant t own vault n (R59)? -/
def State.ownsVault (s : State) (t : TenantId) (n : Nat) : Bool := s.owner (n / 8) == some t

/-- The hop count between two clusters (R60). -/
def hops (a b : Nat) : Nat :=
  ((a % 4 : Int) - (b % 4 : Int)).natAbs + ((a / 4 : Int) - (b / 4 : Int)).natAbs

/-- The nominal latency from core c to vault n (R60, R61). -/
def vlat (c : CoreId) (n : Nat) : Nat :=
  if n = c.val then 22 else if n / 8 = clusterOf c then 34 else 34 + 8 * hops (clusterOf c) (n / 8)

/-! ## Zones (R67, R356, R414) -/

/-- First address of a zone's window. -/
def Zone.base (z : Zone) : Nat := fieldNat z.dw1 12 40 * 4096
/-- Bytes of a zone's window. -/
def Zone.size (z : Zone) : Nat := fieldNat z.dw2 12 11 * 4096
/-- Is the zone enabled? -/
def Zone.en (z : Zone) : Bool := bitAt z.dw0 0
/-- The zone's step group. -/
def Zone.group (z : Zone) : BitVec 5 := bits z.dw0 8 5
/-- The zone's collision rule (R244). -/
def Zone.rule (z : Zone) : Nat := fieldNat z.dw0 1 2

/-- A zone by its number. -/
def State.zone (s : State) (n : BitVec 6) : Zone := s.dev.pzs.get n.toFin

/-- The enabled zone whose window and shadow touch [a, a + len). -/
def State.zoneAt (s : State) (a len : Nat) : Option (BitVec 6) :=
  ((List.range 64).map (BitVec.ofNat 6)).find? fun n =>
    let z := s.zone n
    z.en && decide (a < z.base + 2 * z.size) && decide (z.base < a + len)

/-- Does [a, a + len) touch the zone's shadow? -/
def Zone.touchesShadow (z : Zone) (a len : Nat) : Bool :=
  decide (a < z.base + 2 * z.size) && decide (z.base + z.size < a + len)

/-- The member record of a task in a step group. -/
def StepGroup.member (g : StepGroup) (task : Nat) : Option Member := g.members.find? fun m => m.task == task

/-- A step group by its number. -/
def State.sg (s : State) (n : BitVec 5) : StepGroup := s.dev.sgs.get n.toFin

/-- Is a task a member of the zone's step group? -/
def State.zoneMember (s : State) (z : Zone) (task : Option Nat) : Bool :=
  match task with
  | some t => ((s.sg z.group).member t).isSome
  | none => false

/-! ## Windows and the walk (R322 to R328) -/

/-- An access kind for permissions (R329). -/
inductive Acc where
  | read | write | rmw | exec | walk
deriving DecidableEq, Repr

/-- Do the bytes [lo, hi) of a tier lie in one enabled window of the tenant (R328)? -/
def State.inWindow (s : State) (t : TenantId) (tier peer lo hi : Nat) : Bool :=
  (List.range 8).any fun n =>
    let i : Fin 8 := ⟨n % 8, Nat.mod_lt _ (by decide)⟩
    let l := (s.tenant t).winLo.get i
    let h := (s.tenant t).winHi.get i
    bitAt l 2 && fieldNat l 0 2 == tier && (tier != 3 || fieldNat l 56 8 == peer) &&
      decide (fieldNat l 16 40 * 2 ^ 16 ≤ lo) && decide (hi ≤ fieldNat h 16 40 * 2 ^ 16)

/-- The size of a leaf's page. -/
def leafSize (e : W64) : Nat := match fieldNat e 6 2 with
  | 0 => 2 ^ 16 | 1 => 2 ^ 21 | _ => 2 ^ 25

/-- Is a table entry malformed at its level (R325)? -/
def malformed (e : W64) (lv : Nat) : Bool :=
  match fieldNat e 0 2 with
  | 1 => decide (lv = 3) || fieldNat e 2 10 != 0 || fieldNat e 56 8 != 0
  | 2 =>
    let sz := fieldNat e 6 2
    let tier := fieldNat e 8 2
    decide (lv < 2) || (lv == 2 && sz != 2) || (lv == 3 && 2 ≤ sz) ||
      (fieldNat e 16 40 * 2 ^ 16) % leafSize e != 0 || (2 ≤ tier && fieldNat e 10 4 != 0) ||
      (tier != 3 && fieldNat e 56 8 != 0) || fieldNat e 14 2 != 0
  | 3 => true
  | _ => false

/-- UNMAPPED for a fetch and for every other access (R327). -/
def unmapped (a : Acc) : Nat := if a = .exec then cFetchUnmapped else cDataUnmapped

/-- The walk from level `lv` on, with the levels left, at table offset `t` (R327). A failure gives its code and, for MEMWIN, the
physical address with its tier in [63:62] (R328, R389). It reads table entries as the bytes that their data units hold: under the key they
were last written with, or as ciphertext in a unit that holds only that (DESIGN CHOICE, log 108). -/
def State.walkFrom (s : State) (tn : TenantId) (acc : Acc) (va : Nat) : Nat → Nat → Nat → Except (Nat × Nat) TlbEntry
  | 0, _, _ => .error (unmapped acc, 0)
  | n + 1, lv, t =>
    if !s.inWindow tn 0 0 t (t + 4096) then .error (cMemwin, t + 8 * (va / 2 ^ (43 - 9 * lv) % 512))
    else
      let e := w64 (s.peekNat (Config.nearAt + t + 8 * (va / 2 ^ (43 - 9 * lv) % 512)) 8)
      if fieldNat e 0 2 = 0 ∨ malformed e lv then .error (unmapped acc, 0)
      else if fieldNat e 0 2 = 1 then State.walkFrom s tn acc va n (lv + 1) (fieldNat e 12 44 * 4096)
      else
        let size := leafSize e
        let frame := fieldNat e 16 40 * 2 ^ 16
        if !s.inWindow tn (fieldNat e 8 2) (fieldNat e 56 8) frame (frame + size) then
          .error (cMemwin, frame + va % size + fieldNat e 8 2 * 2 ^ 62)
        else .ok { tenant := BitVec.ofNat 4 tn.val, page := va / size * size, size := size, pte := e }

/-- The walk of an address of paged space (R327). -/
def State.walk (s : State) (t : TenantId) (acc : Acc) (va : Nat) : Except (Nat × Nat) TlbEntry :=
  let r := (s.tenant t).troot
  if !bitAt r 0 then .error (unmapped acc, 0) else s.walkFrom t acc va 4 0 (fieldNat r 12 44 * 4096)

/-! ## Leaves -/

/-- The tier of a leaf. -/
def TlbEntry.tier (e : TlbEntry) : Nat := fieldNat e.pte 8 2
/-- The SC bit of a leaf (R85). -/
def TlbEntry.sc (e : TlbEntry) : Bool := bitAt e.pte 5

/-- Does the entry map the address for the tenant? -/
def TlbEntry.maps (e : TlbEntry) (t : TenantId) (va : Nat) : Bool :=
  e.tenant.toNat == t.val && decide (e.page ≤ va) && decide (va < e.page + e.size)

/-- The offset in its tier of an address that the leaf maps. -/
def TlbEntry.offset (e : TlbEntry) (va : Nat) : Nat := fieldNat e.pte 16 40 * 2 ^ 16 + va % e.size

/-- The place of an address that a leaf maps (log 2): that of a tier is keyed by the leaf's KEY (R390, R391); that of a peer lies past BASE of
its PEERn (R397). -/
def State.placeOf (s : State) (e : TlbEntry) (va : Nat) : Nat := match e.tier with
  | 0 => keyedAt e.tenant (bits e.pte 10 4) (Config.nearAt + e.offset va)
  | 1 => keyedAt e.tenant (bits e.pte 10 4) (Config.farAt + e.offset va)
  | 2 => Config.hostAt + e.offset va
  | _ => Config.peerAt + fieldNat e.pte 56 8 * 2 ^ 56 +
      (fieldNat (s.dev.board.peers.get (bits e.pte 56 8).toFin) 16 36 * 2 ^ 16 + e.offset va) % 2 ^ 56

/-- The permission check after translation (R329), the key's valid bit (R390) and the peer's enable (R397). -/
def State.leafOk (s : State) (t : TenantId) (e : TlbEntry) (acc : Acc) : Bool :=
  let r := bitAt e.pte 2
  let w := bitAt e.pte 3
  (match acc with | .read => r | .write => w | .rmw => r && w | .exec => bitAt e.pte 4 | .walk => true) &&
    (2 ≤ e.tier || bitAt (s.tenant t).kvalid (fieldNat e.pte 10 4)) &&
    (e.tier != 3 || bitAt (s.dev.board.peers.get (bits e.pte 56 8).toFin) 63)

/-! ## Targets and time slots -/

/-- Targets of writes, for the order in which egress and fabric port deliver (R80): clusters 0 to 15, the near and far tier, host
and peers. -/
def targetOf (at_ : Nat) : Nat :=
  let pa := physOf at_
  if pa < Config.farAt then 16
  else if pa < Config.vaultAt then 17
  else if pa < Config.lsAt then (pa - Config.vaultAt) / 2 ^ 23 / 8
  else if pa < Config.hostAt then 18
  else if pa < Config.peerAt then 19
  else 20 + (pa - Config.peerAt) / 2 ^ 56

/-! ### Time slots (R386 to R388) -/

/-- The slot of a DTIME. -/
def slotAt (ns : Nat) : Nat := ns / 1000 % 16

/-- The slotted unit that an access of core c, or of an engine for it, to a place passes: an AES core for a tier, a mesh link for a vault of
another cluster. -/
def pathClass (c : CoreId) (p : Nat) : Option (Fin 7) :=
  let t := targetOf p
  if t = 16 ∨ t = 17 then some 1
  else if t < 16 ∧ t ≠ clusterOf c then some 6
  else none

/-- Is an operation a sampler's work? -/
def EngOp.sampled (o : EngOp) : Bool := match o.kind with
  | .logit | .verify | .mbox => true
  | _ => false

/-- Has tenant u an access that waits for the AES cores (1) or the mesh links (6)? -/
def State.pathReady (s : State) (k : Fin 7) (u : TenantId) : Bool :=
  ((List.finRange 128).any fun c => s.coreTenant c == u && (s.core c).ops.any fun o => o.parts.any fun p =>
    p.got.isNone && (p.pa.any fun a => pathClass c a == some k)) ||
  s.dev.writes.any fun w => tid w.tenant == u && w.lvl == (if k = 6 then 1 else 2) && (w.pa.any fun a => pathClass w.core a == some k)

/-- Has an enabled frame ring of tenant u a token in its queue of a role: 1 for a decoder, 2 for an encoder? -/
def State.ringReady (s : State) (u : TenantId) (role : Nat) : Bool :=
  s.dev.frings.toList.any fun f => bitAt (f.dw.get 0) 0 && f.owner == some (BitVec.ofNat 4 u.val) &&
    !(s.dev.hqs.get (bits (f.dw.get 3) (8 * role) 8).toFin).toks.isEmpty

/-- Is the frame that a decoder or encoder holds one of tenant u's? -/
def State.jobOf (s : State) (u : TenantId) (j : Option FrameJob) : Bool :=
  j.any fun j => (s.dev.frings.get j.ring.toFin).owner == some (BitVec.ofNat 4 u.val)

/-- Has tenant u a unit that waits for an engine of class k? An operation counts from its issue until it has ended (R388; log 35). -/
def State.ready (s : State) (k : Fin 7) (u : TenantId) : Bool := match k.val with
  | 0 => s.dev.eng.any fun o => tid o.tenant == u && o.token.isNone && !o.sampled
  | 2 => (s.dev.eng.any fun o => tid o.tenant == u && o.token.isNone && o.sampled) ||
      s.dev.samplers.toList.any fun x => x.job.any fun j => tid j.key.tenant == u
  | 3 => s.ringReady u 1 || s.dev.decs.toList.any (s.jobOf u)
  | 4 => s.ringReady u 2 || s.dev.encs.toList.any (s.jobOf u)
  | 5 => (List.finRange 16).any fun q => (s.cq u q).en && ((s.cq u q).state == 1 || (s.cq u q).wp != (s.cq u q).rp)
  | _ => s.pathReady k u

/-- Is the partition of a tenant in relaxed mode (R388)? -/
def State.relaxed (s : State) (t : TenantId) : Bool := bitAt (s.part.get t) 17

/-- Does an engine of class k serve tenant t in the current slot (R387, R388)? The owner's slot serves the owner; with no ready unit of a
relaxed owner it is offered to the other relaxed tenants, in ascending order from the owner, modulo 16. -/
def State.served (s : State) (k : Fin 7) (t : TenantId) : Bool :=
  let b := s.dev.board
  let owner : TenantId := ⟨fieldNat (b.slotmap.get k) (4 * b.slot) 4 % 16, Nat.mod_lt _ (by decide)⟩
  b.slot == slotAt b.dtime && bitAt (b.used.get k) b.slot &&
    (owner == t || (s.relaxed owner && s.relaxed t && !s.ready k owner &&
      !(List.range ((t.val + 16 - owner.val) % 16)).any fun i =>
        let u : TenantId := ⟨(owner.val + i) % 16, Nat.mod_lt _ (by decide)⟩
        i != 0 && s.relaxed u && s.ready k u))

/-- Is an access of core c to a place served in the current slot? -/
def State.pathOpen (s : State) (c : CoreId) (t : TenantId) (p : Nat) : Bool := match pathClass c p with
  | none => true
  | some k => s.served k t

/-- Is a place served in the current slot for an agent of tenant t: an engine for a core, or a part of the device, for which every vault lies
across the mesh (R387; log 73)? -/
def State.agentOpen (s : State) (core : Option CoreId) (t : TenantId) (p : Nat) : Bool := match core with
  | some c => s.pathOpen c t p
  | none => if targetOf p < 16 then s.served 6 t else if targetOf p < 18 then s.served 1 t else true

/-- Can a place be reached: one in peer memory only through an enabled port of its PEERn whose link is up (R397)? -/
def State.linkFor (s : State) (pa : Nat) : Bool :=
  if physOf pa < Config.peerAt then true
  else
    let p := s.dev.board.peers.get ⟨(physOf pa - Config.peerAt) / 2 ^ 56 % 256, Nat.mod_lt _ (by decide)⟩
    (List.finRange 8).any fun i => bitAt p (52 + i.val / 2) && s.dev.board.links.get i

/-! ### What is not to be had now (R331, R336, R387, R397; log 73)

While `probe` stands, a translation or a path that an agent would have to wait for is refused with `cWait`, no code of the spec's: the turn
that comes to it is not taken. -/

/-- The refusal of an access that must wait. -/
def cWait : Nat := 0x1FF

/-- Are all 64 walk slots busy, so that a miss waits (R331)? -/
def State.walksFull (s : State) : Bool := decide (64 ≤ s.dev.walks.length)

/-- The page that a `tmove` holds while it switches it: its first address and its end (R336); `list` also names the frame taken. -/
def EngOp.holds (o : EngOp) : Option (Nat × Nat) := match o.kind, o.list with
  | .tmove, [lo, hi, _] => some (lo, hi)
  | _, _ => none

/-- Is every new walk of the page of an address held (R336)? -/
def State.heldPage (s : State) (t : TenantId) (va : Nat) : Bool :=
  s.dev.eng.any fun o => tid o.tenant == t && match o.holds with
    | some (lo, hi) => decide (lo ≤ va) && decide (va < hi)
    | none => false

/-- Must a miss of a page wait: its walks are held (R336), one is in progress, which it joins, no slot is free (R331), or its table reads
are not served (R387)? -/
def State.missWaits (s : State) (t : TenantId) (va : Nat) : Bool := match s.dev.probe with
  | none => false
  | some slot => s.heldPage t va || (s.dev.walks.any fun w => w.turn.isNone && tid w.tenant == t && w.page == va / 2 ^ 16) ||
      (!slot && s.walksFull) || !s.served 1 t

/-- Must an agent's access to a place wait for a slot or a link? -/
def State.placeWaits (s : State) (core : Option CoreId) (t : TenantId) (p : Nat) : Bool :=
  s.dev.probe.isSome && !(s.agentOpen core t p && s.linkFor p)

/-- The entry of a list of translations that maps an address. -/
def tlbFind (l : List TlbEntry) (t : TenantId) (va : Nat) : Option TlbEntry := l.find? fun e => e.maps t va

/-- Fills a TLB level of `cap` entries; a full level gives up the entry that a free number names (R330). -/
def tlbFill (cap victim : Nat) (e : TlbEntry) (l : List TlbEntry) : List TlbEntry :=
  let l := l.filter fun x => !(x.tenant == e.tenant && x.page == e.page && x.size == e.size)
  if l.length < cap then e :: l else e :: l.eraseIdx (victim % l.length)

/-- Fills all three levels for a core (R330). -/
def State.fillTlbs (s : State) (c : CoreId) (e : TlbEntry) : State :=
  let (n, s) := s.drawNat
  let cl : Fin 16 := ⟨clusterOf c, by have := c.isLt; unfold clusterOf; omega⟩
  let s := s.modCore c fun k => { k with utlb := tlbFill 64 n e k.utlb }
  s.upd fun d => { d with ctlb := d.ctlb.set cl.val (tlbFill 4096 n e (d.ctlb.get cl)) cl.isLt, lltlb := tlbFill 32768 n e d.lltlb }

/-- The entry of a core's cluster TLB or the last-level TLB (R332). -/
def State.lowerTlb (s : State) (c : CoreId) (t : TenantId) (va : Nat) : Option TlbEntry :=
  let cl : Fin 16 := ⟨clusterOf c, by have := c.isLt; unfold clusterOf; omega⟩
  match tlbFind (s.dev.ctlb.get cl) t va with
  | some e => some e
  | none => tlbFind s.dev.lltlb t va

/-- The translation that engines and the device's other parts use: the last-level TLB, else a walk (R330, R332). -/
def State.xlatePaged (s : State) (t : TenantId) (acc : Acc) (va : Nat) : Except Nat TlbEntry :=
  match tlbFind s.dev.lltlb t va with
  | some e => if s.leafOk t e acc then .ok e else .error cPerm
  | none => if s.missWaits t va then .error cWait else match s.walk t acc va with
    | .ok e => if s.leafOk t e acc then .ok e else .error cPerm
    | .error c => .error c.1

/-- The translation of a page for a core: its micro-TLB, the lower levels, else a walk; what is found fills the TLBs (R330). -/
def State.coreXlate (s : State) (c : CoreId) (acc : Acc) (va : Nat) : Except Nat TlbEntry × State :=
  let t := s.coreTenant c
  let judge (e : TlbEntry) : Except Nat TlbEntry := if s.leafOk t e acc then .ok e else .error cPerm
  match tlbFind (s.core c).utlb t va with
  | some e => (judge e, s)
  | none => match s.lowerTlb c t va with
    | some e => (judge e, s.fillTlbs c e)
    | none => if s.missWaits t va then (.error cWait, s) else match s.walk t acc va with
      | .ok e => (judge e, s.fillTlbs c e)
      | .error f => (.error f.1, s)

/-- The place of one byte for an engine or device part of tenant t; `core` is the core whose local store and VLAT it may name
(R57, R217). A write to VLAT, and any access to a shadow, gets PERM; a foreign vault MEMWIN. A write to a zone's window is the
caller's (R414). -/
def State.engPlace (s : State) (t : TenantId) (core : Option CoreId) (acc : Acc) (va : Nat) : Except Nat Nat :=
  let reach (p : Nat) : Except Nat Nat := if s.placeWaits core t p then .error cWait else .ok p
  match rowOf va with
  | .paged => match s.xlatePaged t acc va with
    | .ok e => reach (s.placeOf e va)
    | .error c => .error c
  | .vault =>
    if !s.ownsVault t (vaultOf va) then .error cMemwin
    else match s.zoneAt va 1 with
      | some z => if (s.zone z).touchesShadow va 1 then .error cPerm else reach (vaultPlace va)
      | none => reach (vaultPlace va)
  | .ls => match core with
    | some c => .ok (lsAddr c (va - Config.lsBase))
    | none => .error cDataUnmapped
  | .vlat => match core with
    | some c => if acc = .read then .ok (vlatAddr c (va - Config.vlatBase)) else .error cPerm
    | none => .error cDataUnmapped
  | .hole => .error cDataUnmapped

/-- Splits [va, va + len) at 64 KiB boundaries, `fuel` parts at most. -/
def pieces : Nat → Nat → Nat → List (Nat × Nat)
  | 0, _, _ => []
  | n + 1, va, len =>
    if len = 0 then []
    else
      let k := min len (Config.pageBytes - va % Config.pageBytes)
      (va, k) :: pieces n (va + k) (len - k)

/-- The pieces of a span: one translation serves each. -/
def spanPieces (va len : Nat) : List (Nat × Nat) := pieces (len / Config.pageBytes + 2) va len

/-- Splits [va, va + len) into pieces of one row and one 4 KiB block of addresses, `fuel` pieces at most: what an engine is allowed
is the same for every byte of a piece. -/
def engCut : Nat → Nat → Nat → List (Nat × Nat)
  | 0, _, _ => []
  | n + 1, va, len =>
    if len = 0 then []
    else
      let b := if rowOf va = .vlat then 128 else 4096
      let k := min len (b - va % b)
      (va, k) :: engCut n (va + k) (len - k)

/-- The pieces of an engine's span. -/
def engPieces (va len : Nat) : List (Nat × Nat) := engCut (len / 4096 + 3) va len

/-- The places of a span for an engine access, in order, with lengths; or the code and the first faulting byte. -/
def State.engSpan (s : State) (t : TenantId) (core : Option CoreId) (acc : Acc) (va len : Nat) :
    Except (Nat × Nat) (List (Nat × Nat)) :=
  (engPieces va len).foldr (fun p r => match s.engPlace t core acc p.1 with
    | .error c => .error (c, p.1)
    | .ok a => match r with
      | .error f => .error f
      | .ok l => .ok ((a, p.2) :: l)) (.ok [])

/-! ## What an observer reads (R74, R75, R79, R80) -/

/-- Is an address of core c's local memory (R77), or of VLAT? -/
def localVa (c : CoreId) (va : Nat) : Bool := match rowOf va with
  | .ls => true
  | .vlat => true
  | .vault => vaultOf va / 8 == clusterOf c
  | _ => false

/-- Is the part of an access of core c local? -/
def Part.isLocal (p : Part) (c : CoreId) : Bool := localVa c p.va

/-- Does a write go to a host or peer window? -/
def PendingWrite.external (w : PendingWrite) : Bool := match w.pa with
  | some p => decide (19 ≤ targetOf p)
  | none => false

/-- The byte of a pending write at a place, by address while the write is not translated. -/
def PendingWrite.byteAt (w : PendingWrite) (va pa : Nat) : Option Byte := match w.pa with
  | some p => if physOf p ≤ physOf pa then w.data.getD (physOf pa - physOf p) none else none
  | none => if w.va ≤ va then w.data.getD (va - w.va) none else none

/-- Do a write and the bytes [va, va + len) at `pa` overlap? -/
def PendingWrite.overlaps (w : PendingWrite) (va : Nat) (pa : Option Nat) (len : Nat) : Bool :=
  (decide (w.va < va + len) && decide (va < w.va + w.data.length)) ||
    (match w.pa, pa with
      | some p, some a => decide (physOf p < physOf a + len) && decide (physOf a < physOf p + w.data.length)
      | _, _ => false)

/-- Is a write at a point that core c reads from (R75, R80): 0 its own on their way, 1 its cluster's egress, 2 its pair's fabric
port? -/
def PendingWrite.seenBy (w : PendingWrite) (c : CoreId) (seq lvl : Nat) : Bool :=
  w.lvl == lvl && match lvl with
    | 0 => w.core == c && w.op.isNone && decide (w.seq < seq)
    | 1 => clusterOf w.core == clusterOf c
    | _ => clusterOf w.core / 2 == clusterOf c / 2

/-- Who reads: a part of the device (at device scope), the sampler of a pair of clusters, or an engine that acts for a core, for an
operation at a place among the core's accesses (R79, R87). -/
inductive View where
  | dev
  | pair (n : Nat)
  | eng (c : CoreId) (seq : Nat)
deriving DecidableEq, Repr

/-- Does an observer see a write that stands at level `lvl`: an engine, its core's own earlier stores to local memory? -/
def PendingWrite.shownTo (w : PendingWrite) (v : View) (lvl : Nat) : Bool := match v with
  | .dev => false
  | .pair n => w.lvl == lvl && lvl == 2 && clusterOf w.core / 2 == n
  | .eng c seq => w.seenBy c seq lvl && (lvl != 0 || localVa c w.va)

/-- The latest byte of those writes of a list that `p` picks, at an address and place. -/
def latestByte (l : List PendingWrite) (p : PendingWrite → Bool) (va pa : Nat) : Option Byte :=
  l.foldl (fun r w => if p w then (w.byteAt va pa).orElse fun _ => r else r) none

/-- The byte that an observer reads at an address and place: the latest write it sees, else memory. -/
def State.shownByte (s : State) (v : View) (va pa : Nat) : Byte :=
  ((latestByte s.dev.writes (fun w => w.shownTo v 0) va pa).or
    ((latestByte s.dev.writes (fun w => w.shownTo v 1) va pa).or
      (latestByte s.dev.writes (fun w => w.shownTo v 2) va pa))).getD (s.peek pa)

/-- The bytes of a piece as an observer reads them. -/
def State.shownBytes (s : State) (v : View) (va pa len : Nat) : List Byte :=
  if s.dev.writes.isEmpty then s.peeks pa len else (List.range len).map fun i => s.shownByte v (va + i) (pa + i)

/-- The bytes of a span that an observer reads for tenant t: the code and first faulting byte, or the bytes. A span that leaves its row of
R56, or touches a shadow anywhere, faults. -/
def State.readAs (s : State) (v : View) (t : TenantId) (va len : Nat) : Except (Nat × Nat) (List Byte) :=
  if rowSpan va len = .hole then .error (cDataUnmapped, va)
  else if (match s.zoneAt va len with | some z => (s.zone z).touchesShadow va len | none => false) then .error (cPerm, va)
  else match s.engSpan t none .read va len with
    | .error f => .error f
    | .ok l => .ok (((engPieces va len).zip l).flatMap fun x => s.shownBytes v x.1.1 x.2.1 x.2.2)

/-- The bytes that a device part reads at device scope. -/
def State.devRead (s : State) (t : TenantId) (va len : Nat) : Except (Nat × Nat) (List Byte) := s.readAs .dev t va len

/-- A number that a device part reads. -/
def State.devNat (s : State) (t : TenantId) (va len : Nat) : Except (Nat × Nat) Nat :=
  match s.devRead t va len with
  | .ok l => .ok (leNat l)
  | .error f => .error f

/-- The lowest byte of [va, va + len) that lies in an enabled zone's window or shadow; va where none does. -/
def State.zoneByte (s : State) (va len : Nat) : Nat :=
  let hits := (List.range len).filter fun i => (s.zoneAt (va + i) 1).isSome
  va + hits.headD 0

/-- Can a device part write the span (R354, R414)? A zone's window or shadow refuses it with PERM. -/
def State.devCanWrite (s : State) (t : TenantId) (va len : Nat) : Except (Nat × Nat) (List (Nat × Nat)) :=
  if rowSpan va len = .hole then .error (cDataUnmapped, va)
  else match s.engSpan t none .write va len with
    | .error f => .error f
    | .ok l => if (s.zoneAt va len).isSome then .error (cPerm, s.zoneByte va len) else .ok l

/-- Writes bytes at the places of a span. -/
def State.pokeSpan : State → List (Nat × Nat) → List Byte → State
  | s, [], _ => s
  | s, p :: ps, bs => State.pokeSpan (s.pokes p.1 (bs.take p.2)) ps (bs.drop p.2)

/-- Bytes that a device part writes for tenant t; nothing is written when any byte faults. -/
def State.devWrite (s : State) (t : TenantId) (va : Nat) (bs : List Byte) : Except (Nat × Nat) State :=
  match s.devCanWrite t va bs.length with
  | .error f => .error f
  | .ok l => .ok (s.pokeSpan l bs)

/-! ## The fault log (R389) -/

/-- Requester classes of a log entry. -/
def clsCore : Nat := 0
/-- R389. -/
def clsCopy : Nat := 1
/-- R389. -/
def clsSampler : Nat := 2
/-- R389. -/
def clsDecoder : Nat := 3
/-- R389. -/
def clsEncoder : Nat := 4
/-- R389. -/
def clsWorker : Nat := 5
/-- R389. -/
def clsSesame : Nat := 6

/-- Writes an entry to a tenant's fault log, or counts it as dropped: when the ring is full, when EN = 0, and, as the model has it
(log 11), when the ring itself cannot be written (R389). -/
def State.logEntry (s : State) (t : TenantId) (dw0 dw1 dw2 : Nat) : State :=
  let tn := s.tenant t
  let drop : State := s.modTenant t fun x => { x with fldrop := if x.fldrop = 0xFFFFFFFF then x.fldrop else x.fldrop + 1 }
  let n := 2 ^ fieldNat tn.flctl 0 5
  if !bitAt tn.flctl 5 || decide ((tn.flwp - tn.flrp).toNat = n) then drop
  else
    let at_ := fieldNat tn.flbase 12 40 * 4096 + 32 * (tn.flwp.toNat % n)
    match (s.upd fun d => { d with probe := none }).devWrite t at_ (toLe 8 dw0 ++ toLe 8 dw1 ++ toLe 8 dw2 ++ toLe 8 s.dev.board.dtime) with
    | .error _ => drop
    | .ok u => ((u.upd fun d => { d with probe := s.dev.probe }).modTenant t fun x => { x with flwp := x.flwp + 1 }).msix t 31

/-- A kind 0 entry: a refused access (R387, R389). `core` is 0x7F for none. -/
def State.logRefused (s : State) (t : TenantId) (code cls core va pa : Nat) : State :=
  s.logEntry t (code + t.val * 2 ^ 12 + core * 2 ^ 20 + cls * 2 ^ 28) va pa

/-- The physical address of a log entry for a paged address: the leaf's offset with its tier (R328, R389), or 0. -/
def State.logPa (s : State) (t : TenantId) (va : Nat) : Nat :=
  match rowOf va with
  | .paged => match tlbFind s.dev.lltlb t va with
    | some e => e.offset va + e.tier * 2 ^ 62
    | none => match s.walk t .read va with
      | .ok e => e.offset va + e.tier * 2 ^ 62
      | .error f => f.2
  | _ => 0

/-- A kind 0 entry of a faulting access, with its physical address where it is a MEMWIN (R328). -/
def State.logFault (s : State) (t : TenantId) (code cls core va : Nat) : State :=
  s.logRefused t code cls core va (if code = cMemwin then s.logPa t va else 0)

/-- Does a refused access of an engine leave a kind 0 entry: one outside the tenant's windows and vaults, and a write that a zone's window
or shadow refuses (R59, R387, R414)? -/
def State.engineLogs (s : State) (code va : Nat) : Bool := code == cMemwin || (code == cPerm && (s.zoneAt va 1).isSome)

/-- The kind 0 entry of a refused access of an engine, where it leaves one. -/
def State.logEngine (s : State) (t : TenantId) (code cls core va : Nat) : State :=
  if s.engineLogs code va then s.logFault t code cls core va else s

end Sys2Proof.Machine
end

