-- ==== Sys2Proof/Machine/Access.lean ====
section
/-! DEFINITION. Data accesses of a core: the checks at issue (R141, R181, R332), late errors (R300), the parts of an access and their
translation, what a core sees of the writes on their way, and the order in which accesses may perform (R74 to R86). -/

namespace Sys2Proof.Machine

/-! ## Checks at issue -/

/-- Does an address lie in the window of an enabled zone? -/
def State.inPlane (s : State) (va : Nat) : Bool := match rowOf va with
  | .vault => (s.zoneAt va 1).any fun n => decide ((s.zone n).base ≤ va) && decide (va < (s.zone n).base + (s.zone n).size)
  | _ => false

/-- The zones that [a, a + len) touches. -/
def State.zonesAt (s : State) (a len : Nat) : List Zone :=
  ((List.range 64).map fun n => s.zone (BitVec.ofNat 6 n)).filter fun z =>
    z.en && decide (a < z.base + 2 * z.size) && decide (z.base < a + len)

/-- The first fault of R141, rows 1 to 6, and of the micro-TLB (R332), for one span of the acting core: code and first faulting
byte. `hostOk`: the form is one that host and peer windows support (R145). -/
def State.dataFault (s : State) (acc : Acc) (hostOk : Bool) (va len : Nat) : Option (Nat × Nat) :=
  let c := s.dev.cur.core
  let t := s.coreTenant c
  match rowSpan va len with
  | .hole => some (cDataUnmapped, holeAt va len)
  | .ls => none
  | .vlat => if acc = .read then none else some (cPerm, va)
  | .vault =>
    match (spanPieces va len).find? fun p => !s.ownsVault t (vaultOf p.1) with
    | some p => some (cMemwin, p.1)
    | none =>
      let zs := s.zonesAt va len
      match zs.find? fun z => z.touchesShadow va len with
      | some z => some (cPerm, max va (z.base + z.size))
      | none => match zs.find? fun z => acc == .rmw || (acc == .write && !s.zoneMember z s.me.task) with
        | some z => some (cPerm, max va z.base)
        | none => none
  | .paged =>
    match (spanPieces va len).find? fun p => match tlbFind s.me.utlb t p.1 with
        | some e => !s.leafOk t e acc || (!hostOk && 2 ≤ e.tier)
        | none => false with
    | some p => some (cPerm, p.1)
    | none => none

/-- Row 7 of R141 for bytes that a store writes: the first byte of a run that covers part of a 4-byte word of a zone's window. -/
def State.granuleFault (s : State) (va len : Nat) : Option (Nat × Nat) :=
  match (s.zonesAt va len).find? fun z =>
      let lo := max va z.base
      let hi := min (va + len) (z.base + z.size)
      decide (lo < hi) && (lo % 4 != 0 || hi % 4 != 0) with
  | some z => some (cPlaneGranule, max va z.base)
  | none => none

/-! ## Late errors (R300) -/

/-- A pending error that does not fit among the 32 of a context: the tenant's fault log alone records it (R300). -/
def State.logFurther (s : State) (t : TenantId) (core : Nat) (e : LateErr) : State :=
  s.logFault t (fieldNat e.scause 0 8) clsCore core e.sfaddr.toNat

/-- Adds a pending trap or late error to a save area, which holds 32; a further one sets OVF and is logged (R300, R305). A write that is
refused is lost, and logged (R328, R414). -/
def State.lateToArea (s : State) (t : TenantId) (core : Nat) (area : Nat) (e : LateErr) : State :=
  let lost (s : State) (f : Nat × Nat) : State := s.logEngine t f.1 clsCore core f.2
  match s.devNat t (area + 0xA8) 8 with
  | .error f => lost s f
  | .ok d =>
    let n := d % 64
    let w := if n < 32 then
        s.devWrite t (area + 0x5C00 + 32 * n) (toLe 8 e.scause.toNat ++ toLe 8 e.sfaddr.toNat ++ toLe 8 e.sfinfo.toNat ++ zeros 8)
      else .ok (s.logFurther t core e)
    match w with
    | .error f => lost s f
    | .ok s => match s.devWrite t (area + 0xA8) (toLe 8 (if n < 32 then d + 1 else d - d / 128 % 2 * 128 + 128)) with
      | .ok s => s
      | .error f => lost s f

/-- An error joins the pending ones of the context on a core (R300). -/
def State.lateOn (s : State) (c : CoreId) (e : LateErr) : State :=
  if (s.core c).ctx.lates.length < 32 then s.modCore c fun k => k.modCtx fun x => { x with lates := x.lates ++ [e] }
  else (s.modCore c fun k => k.modCtx fun x => { x with lateOvf := true }).logFurther (s.coreTenant c) c.val e

/-- An error reaches the context of a task: pending where it is loaded, or in its save area; that of an ended task is dropped. A
context without a task is the one on core c (R245, R300). -/
def State.errorTo (s : State) (c : CoreId) (task : Option Nat) (e : LateErr) : State :=
  match task.bind s.taskById with
  | none => s.lateOn c e
  | some t => match t.where_ with
    | .on d => s.lateOn d e
    | .saved => match t.area, s.launchOf t.id with
      | some a, some l => s.lateToArea l.tenant c.val a e
      | _, _ => s
    | _ => s

/-- A late error response to an access made on core c: it joins its context's pending ones; to an access of the supervisor, the core
halts (R291). `info` is SFINFO: the destination of a dropped load. A MEMWIN is logged (R59). -/
def State.lateError (s : State) (c : CoreId) (own : Owner) (code va info : Nat) (timeout : Bool) : State :=
  let s := if code = cMemwin then s.logFault (s.coreTenant c) code clsCore c.val va else s
  let e : LateErr := { scause := w64 (code + 0x200 + (if timeout then 0x800 else 0)), sfaddr := w64 va, sfinfo := w64 info }
  if own.sv then s.modCore c fun k => { k.modCtx fun x => { x with lates := x.lates ++ [e] } with run := .halted }
  else s.errorTo c own.task e

/-- SFINFO of a dropped load (R297). -/
def dropInfo (d : Option (BitVec 6)) : Nat := match d with
  | some r => r.toNat + 64
  | none => 0

/-! ## Parts and translation (R86, R330 to R332) -/

/-- A core's miss starts a walk for a page, or joins the one in progress (R331). -/
def State.startWalk (s : State) (t : TenantId) (c : CoreId) (va : Nat) : State :=
  if s.dev.walks.any fun w => w.tenant.toNat == t.val && w.page == va / 2 ^ 16 then
    s.upd fun d => { d with walks := d.walks.map fun w =>
      if w.tenant.toNat = t.val ∧ w.page = va / 2 ^ 16 ∧ c ∉ w.cores then { w with cores := w.cores ++ [c] } else w }
  else
    let (id, s) := s.fresh
    let w : Walk := { id := id, tenant := BitVec.ofNat 4 t.val, page := va / 2 ^ 16, cores := [c] }
    s.upd fun d => { d with walks := d.walks ++ [w] }

/-- May a leaf serve an access: its permissions, and whether its tier supports the form (R145, R329)? -/
def State.leafServes (s : State) (t : TenantId) (e : TlbEntry) (acc : Acc) (hostOk : Bool) : Bool :=
  s.leafOk t e acc && (hostOk || decide (e.tier < 2))

/-- The part of an access within one 64 KiB page, with the code of a fault found past the micro-TLB. `sc` is that of the page as it
stands (R85). An atomic that host and peer memory do not support is refused as late when its page missed the micro-TLB: R145 names
check 7, where the target is not yet known (DESIGN CHOICE, log 60). -/
def State.mkPart (s : State) (c : CoreId) (acc : Acc) (hostOk : Bool) (va len : Nat) : Part × State :=
  let t := s.coreTenant c
  let at_ (pa : Nat) : Part := { va := va, len := len, pa := some pa, sc := false }
  match rowOf va with
  | .paged =>
    match tlbFind (s.core c).utlb t va with
    | some e => ({ at_ (s.placeOf e va) with sc := e.sc }, s)
    | none => match s.lowerTlb c t va with
      | some e =>
        let s := s.fillTlbs c e
        (if s.leafServes t e acc hostOk then { at_ (s.placeOf e va) with sc := e.sc } else { at_ 0 with pa := none, err := some cPerm }, s)
      | none =>
        let sc := match s.walk t acc va with | .ok e => e.sc | .error _ => false
        ({ at_ 0 with pa := none, sc := sc }, s.startWalk t c va)
  | .vault => (at_ (vaultPlace va), s)
  | .ls => (at_ (lsAddr c (va - Config.lsBase)), s)
  | _ => (at_ (vlatAddr c (va - Config.vlatBase)), s)

/-- [va, va + len) cut at 8-byte boundaries, `fuel` pieces at most. -/
def granuleCut : Nat → Nat → Nat → List (Nat × Nat)
  | 0, _, _ => []
  | n + 1, va, len =>
    if len = 0 then [] else
      let k := min len (8 - va % 8)
      (va, k) :: granuleCut n (va + k) (len - k)

/-- The aligned 8-byte granules of a span, as far as they lie in it (R86). -/
def granulesOf (va len : Nat) : List (Nat × Nat) := if len ≤ 8 - va % 8 then [(va, len)] else granuleCut (len / 8 + 2) va len

/-- A part cut into granules: each is read as one event (R86). -/
def Part.cut (p : Part) : List Part :=
  (granulesOf p.va p.len).map fun g => { p with va := g.1, len := g.2, pa := p.pa.map fun a => a + (g.1 - p.va) }

/-- The parts of a list of elements in ascending order; an atomic stays whole (R84, R86). -/
def State.mkParts (s : State) (c : CoreId) (acc : Acc) (hostOk : Bool) (els : List (Nat × Nat)) : List Part × State :=
  els.zipIdx.foldl (fun r e => (spanPieces e.1.1 e.1.2).foldl (fun r p =>
    let (q, s) := r.2.mkPart c acc hostOk p.1 p.2
    let q := { q with unit := e.2 }
    (r.1 ++ (if acc = .rmw then [q] else q.cut), s)) r) ([], s)

/-- Do two parts share a byte? -/
def Part.meets (p q : Part) : Bool :=
  (decide (p.va < q.va + q.len) && decide (q.va < p.va + p.len)) ||
    (match p.pa, q.pa with
      | some a, some b => decide (physOf a < physOf b + q.len) && decide (physOf b < physOf a + p.len)
      | _, _ => false)

/-- The first unit of an access that has failed, all before it being translated: its number, code and first faulting byte
(R181, R332). -/
def firstBad : List Part → Option (Nat × Nat × Nat)
  | [] => none
  | p :: ps => match p.pa, p.err with
    | _, some code => some (p.unit, code, p.va)
    | none, none => none
    | some _, none => firstBad ps

/-! ## Entries of write streams as accesses (R75, R77, R90, R184) -/

/-- Does the freeze line hold the core (R17, R18)? -/
def Core.frozen (k : Core) : Bool := k.lateLoad || match k.bun.hold with
  | none => false
  | some .pause => false
  | some .queueEmpties => false
  | some _ => true

/-- Is a stream entry landed and not blocked by an unlanded one before it (R184)? -/
def Core.drainable (k : Core) (e : WEnt) : Bool :=
  e.val.isSome && !k.wents.any fun x => x.slot == e.slot && x.val.isNone && decide (x.place < e.place)

/-- The pushed entries that count as accesses of the running level (R90): while the supervisor runs, those of the suspended context that
await a result of its snapshot are no access of it (R299, R304). -/
def Core.pushed (k : Core) : List WEnt := k.wents.filter fun e => !k.priv || e.own.sv

/-- Do an entry and the bytes [va, va + len) overlap? -/
def WEnt.overlaps (e : WEnt) (va len : Nat) : Bool := decide (e.va < va + len) && decide (va < e.va + e.len)

/-- Do two addresses lie in one local memory of core c: its local store, or its cluster's vaults (R77)? -/
def sameLocal (c : CoreId) (a b : Nat) : Bool := localVa c a && localVa c b && rowOf a == rowOf b

/-- Is an entry held back by a result that has not landed: its own, or that of an entry before it (R184)? -/
def Core.unfilled (k : Core) (e : WEnt) : Bool := k.wents.any fun x => x.slot == e.slot && x.val.isNone && decide (x.place ≤ e.place)

/-- Is an entry of core c pushed before `seq` ahead of an access to [va, va + len): on the same bytes, or in the same local memory? -/
def WEnt.ahead (e : WEnt) (c : CoreId) (seq va len : Nat) : Bool :=
  decide (e.seq < seq) && (e.overlaps va len || sameLocal c e.va va)

/-- A byte of a landed entry. -/
def WEnt.byteAt (e : WEnt) (va : Nat) : Option Byte :=
  if e.va ≤ va ∧ va < e.va + e.len then e.val.map fun v => BitVec.ofNat 8 (v.toNat / 2 ^ (8 * (va - e.va))) else none

/-- The byte of an entry pushed before `seq` that its core reads at an address: none of a zone's window (R75, R92). -/
def WEnt.seenAt (s : State) (e : WEnt) (seq va : Nat) : Option Byte :=
  if e.seq < seq ∧ !s.inPlane va then e.byteAt va else none

/-! ## What a core sees (R75, R80) -/

/-- The byte at an address that core c has itself written, before `seq`, and that is still on its way: the latest of its writes and
landed stream entries, with its place among the core's accesses. An entry's bytes in a zone's window are the next plane's, which no
observer sees (R92). -/
def State.ownByte (s : State) (c : CoreId) (seq va pa : Nat) : Option Byte :=
  let w : Option (Nat × Byte) := s.dev.writes.foldl (fun r w => if w.seenBy c seq 0 then
    (match w.byteAt va pa with | some b => some (w.seq, b) | none => r) else r) none
  let e : Option (Nat × Byte) := (s.core c).wents.foldl (fun r e => match e.seenAt s seq va with
    | some b => some (e.seq, b)
    | none => r) none
  match w, e with
  | some x, some y => some (if x.1 < y.1 then y.2 else x.2)
  | some x, none => some x.2
  | none, some y => some y.2
  | none, none => none

/-- The byte that core c reads at an address and place: the latest write it sees, else memory. -/
def State.seen (s : State) (c : CoreId) (seq va pa : Nat) : Byte :=
  ((s.ownByte c seq va pa).or
    ((latestByte s.dev.writes (fun w => w.seenBy c seq 1) va pa).or
      (latestByte s.dev.writes (fun w => w.seenBy c seq 2) va pa))).getD (s.peek pa)

/-- The bytes of a part as core c reads them. -/
def State.readPart (s : State) (c : CoreId) (seq : Nat) (p : Part) : List Byte :=
  match rowOf p.va with
  | .vlat => (addrs (p.va - Config.vlatBase) p.len).map fun n => BitVec.ofNat 8 (vlat c n)
  | _ => match p.pa with
    | some pa => if s.dev.writes.isEmpty && (s.core c).wents.isEmpty then s.peeks pa p.len
      else (List.range p.len).map fun i => s.seen c seq (p.va + i) (pa + i)
    | none => zeros p.len

/-- The bytes of a list of parts, in order: those already read, and the others now. -/
def State.readParts (s : State) (c : CoreId) (seq : Nat) (ps : List Part) : List Byte :=
  ps.flatMap fun p => p.got.getD (s.readPart c seq p)

/-! ## When accesses have performed (R80, R81, R83) -/

/-- Has a write performed at a scope (R80)? A listed write has not yet reached its target, but for an external write that a port
has accepted. -/
def PendingWrite.performed (w : PendingWrite) (scope : BitVec 3) : Bool := match scope.toNat with
  | 0 => decide (1 ≤ w.lvl)
  | 1 => decide (1 ≤ w.lvl)
  | 2 => decide (2 ≤ w.lvl)
  | 3 => decide (3 ≤ w.lvl)
  | _ => false

/-- Is a memory operation a load or atomic that has not performed? -/
def MemOp.isAccess (o : MemOp) : Bool := match o.kind with
  | .fence .. => false
  | _ => true

/-- Are all loads and atomics of core c made before `seq` performed (R81)? -/
def State.loadsDone (s : State) (c : CoreId) (seq : Nat) : Bool :=
  !(s.core c).ops.any fun o => o.isAccess && decide (o.seq < seq)

/-- Have all accesses of core c made before `seq` performed at the scope (R81)? `remote`: only remote ones count (R82). -/
def State.accessesDone (s : State) (c : CoreId) (seq : Nat) (scope : BitVec 3) (remote : Bool) : Bool :=
  let k := s.core c
  !(k.ops.any fun o => o.isAccess && decide (o.seq < seq) && !(remote && o.parts.all (·.isLocal c))) &&
    !(s.dev.writes.any fun w => w.core == c && w.op.isNone && decide (w.seq < seq) && !w.performed scope &&
        !(remote && localVa c w.va)) &&
    !(k.pushed.any fun e => decide (e.seq < seq) && !(remote && localVa c e.va))

/-- Have all writes of others that core c can see performed at the scope: what it may have acquired, its release passes on (R83)? -/
def State.visibleDone (s : State) (c : CoreId) (scope : BitVec 3) : Bool :=
  !s.dev.writes.any fun w => !(w.core == c && w.op.isNone) && !w.performed scope &&
    (w.seenBy c 0 1 || w.seenBy c 0 2 || w.lvl == 3)

/-- May a release of core c made at `seq` take effect at the scope (R81, R83, R91)? -/
def State.releaseReady (s : State) (c : CoreId) (seq : Nat) (scope : BitVec 3) : Bool :=
  s.accessesDone c seq scope false && s.visibleDone c scope

/-! ## When an access may perform (R75, R77, R84, R85, R397) -/

/-- R77: has core c, in the local memory that holds `va`, an unperformed access made before `seq`: an operation, one of the writes that
`early` picks, or a stream entry? One that waits as a release holds nothing back (R82; DEDUCED, log 61). -/
def State.localAhead (s : State) (c : CoreId) (seq : Nat) (early : PendingWrite → Bool) (va : Nat) : Bool :=
  localVa c va &&
    (((s.core c).ops.any fun o => o.isAccess && !o.rel && decide (o.seq < seq) &&
        o.parts.any fun p => p.got.isNone && sameLocal c p.va va) ||
      (s.dev.writes.any fun w => w.core == c && w.op.isNone && w.hold.isNone && early w && sameLocal c w.va va) ||
      (s.core c).pushed.any fun e => decide (e.seq < seq) && sameLocal c e.va va)

/-- Has an earlier access of core c to the bytes of a part not performed: an operation that has not read them, or an entry of a write
stream whose result has not landed (R75, R184)? -/
def State.readAhead (s : State) (c : CoreId) (seq : Nat) (p : Part) : Bool :=
  ((s.core c).ops.any fun x => x.isAccess && decide (x.seq < seq) && x.parts.any fun q => q.got.isNone && p.meets q) ||
    (s.core c).pushed.any fun e => e.val.isNone && decide (e.seq < seq) && e.overlaps p.va p.len && !s.inPlane p.va

/-- Does an address lie in an SC page of core c's tenant (R85)? -/
def State.scVa (s : State) (c : CoreId) (va : Nat) : Bool := match rowOf va with
  | .paged => match (tlbFind (s.core c).utlb (s.coreTenant c) va).or (s.lowerTlb c (s.coreTenant c) va) with
    | some e => e.sc
    | none => match s.walk (s.coreTenant c) .read va with
      | .ok e => e.sc
      | .error _ => false
  | _ => false

/-- Does an entry of a write stream store to an SC page (R85)? -/
def State.entrySc (s : State) (c : CoreId) (e : WEnt) : Bool := s.scVa c e.va || s.scVa c (e.va + e.len - 1)

/-- May an access to an SC page leave: every earlier one of the core has completed, a pushed entry too, and no write that the core sees of
another to these bytes is still short of device scope (R85, R90)? -/
def State.scReady (s : State) (c : CoreId) (seq : Nat) (p : Part) : Bool :=
  !((s.core c).ops.any fun x => x.isAccess && decide (x.seq < seq) && x.parts.any (·.sc)) &&
    !((s.core c).pushed.any fun e => decide (e.seq < seq) && s.entrySc c e) &&
    !(s.dev.writes.any fun w => w.sc &&
      ((w.core == c && w.op.isNone && decide (w.seq < seq)) || ((w.seenBy c 0 1 || w.seenBy c 0 2) && w.overlaps p.va p.pa p.len)))

/-- Is a write to an SC page, which core c's egress or its pair's port shows, short of device scope? What an engine of the core reads then
would be later than what other observers read: it waits (R85). -/
def State.scPending (s : State) (c : CoreId) : Bool := s.dev.writes.any fun w => w.sc && (w.seenBy c 0 1 || w.seenBy c 0 2)

/-- Has a load of core c, in the bundle of an access at `seq`, bytes that it has not read: every load of a bundle reads before any store of
it performs (R76)? -/
def State.bundleReads (s : State) (c : CoreId) (seq : Nat) : Bool :=
  (s.core c).ops.any fun x => x.isAccess && decide (x.seq < seq) && x.seq / 4 == seq / 4 && x.parts.any (·.got.isNone)

/-- Is a load of core c due, so that the freeze line is asserted until its data arrives (R18)? -/
def Core.dueNow (k : Core) (id : Nat) : Bool := k.flights.any fun f => f.rem == 0 && f.wait == some id

/-- May a part of an operation of core c be read now, its path open in the current slot (R387)? Accesses to one local memory perform in
program order (R77); data of the local store and of VLAT does not wait for that beyond its load's landing clock: it never freezes the
core (R58, R61; DEDUCED, log 61). -/
def State.partReady (s : State) (c : CoreId) (o : MemOp) (p : Part) : Bool :=
  p.got.isNone && p.err.isNone && (match p.pa with | some a => s.linkFor a && s.pathOpen c (s.coreTenant c) a | none => false) &&
    !o.rel &&
    (!p.sc || s.scReady c o.seq p) && !s.readAhead c o.seq p &&
    ((rowOf p.va != .vault && (s.core c).dueNow o.id) || rowOf p.va == .vlat ||
      !s.localAhead c o.seq (fun w => decide (w.seq < o.seq)) p.va)

/-- May an atomic perform now: its bytes are free of earlier writes, and the loads of its bundle have read (R75, R76, R84)? -/
def State.atomReady (s : State) (c : CoreId) (o : MemOp) : Bool :=
  o.parts.all (fun p => s.partReady c o p && !s.localAhead c o.seq (fun w => decide (w.seq < o.seq)) p.va) &&
    !s.bundleReads c o.seq &&
    !(s.dev.writes.any fun w => (w.seenBy c o.seq 0 || w.seenBy c 0 1 || w.seenBy c 0 2) &&
      o.parts.any fun p => w.overlaps p.va p.pa p.len) &&
    !((s.core c).pushed.any fun e => decide (e.seq < o.seq) && o.parts.any fun p => e.overlaps p.va p.len)

/-- Is an operation an atomic? -/
def MemOp.isAtomic (o : MemOp) : Bool := match o.kind with
  | .amo .. => true
  | .cas .. => true
  | _ => false

/-- May an operation make a move: an atomic its one event, a load the reading of some part? -/
def State.opReady (s : State) (c : CoreId) (o : MemOp) : Bool :=
  if o.isAtomic then s.atomReady c o else o.isAccess && o.parts.any (s.partReady c o)

/-- The operation of a core with a number. -/
def Core.op (k : Core) (id : Nat) : Option MemOp := k.ops.find? fun o => o.id == id

end Sys2Proof.Machine
end

