-- ==== Sys2Proof/Machine/Fetch.lean ====
section
/-! DEFINITION. Fetch and the overlay memory (R101, R115 to R119, R379): the bytes of a bundle, misses, copies of segments line by
line, and overlay marks. -/

namespace Sys2Proof.Machine

/-- What a fetch of one syllable finds. -/
inductive Fetched where
  /-- The syllable's word. -/
  | word (w : BitVec 32)
  /-- Its line has not landed, or its segment is not resident (R18). -/
  | miss
  /-- Its line is held invalid although its page is now executable: it is copied again (R116). -/
  | refetch (half : Fin 2) (line : Nat)
  /-- It cannot be fetched. -/
  | fault (code : Nat)
deriving DecidableEq, Repr

/-- Header doubleword i of a launch. -/
def Launch.dw (l : Launch) (i : Nat) : W64 := l.hdr.get ⟨i % 8, Nat.mod_lt _ (by decide)⟩

/-- The image of a launch (R22). -/
def Launch.image (l : Launch) : BitVec 32 := bits (l.dw 1) 0 32

/-- The images whose segments a core may fetch: at user level that of its task; at supervisor level every installed image of the
tenant (log 14). -/
def State.coreImages (s : State) (c : CoreId) : List Image :=
  let is := (s.tenant (s.coreTenant c)).images
  let k := s.core c
  if k.sv.priv then is
  else match k.task.bind s.launchOf with
    | some l => is.filter fun i => i.id == l.image
    | none => is

/-- The segment that holds an address: image, number, first address and length. -/
def findSeg (is : List Image) (va : Nat) : Option (BitVec 32 × Nat × Nat × Nat) :=
  is.findSome? fun i => (i.segs.zipIdx.find? fun x => decide (x.1.1 ≤ va) && decide (va < x.1.1 + x.1.2)).map fun x =>
    (i.id, x.2, x.1.1, x.1.2)

/-- A core's half of instruction memory. -/
def IMem.half (m : IMem) (h : Fin 2) : Option Half := m.halves.get h

/-- The half that holds an address of one of the images. -/
def IMem.find (m : IMem) (is : List Image) (va : Nat) : Option (Fin 2 × Half) :=
  (List.finRange 2).findSome? fun h => match m.half h with
    | some x => if decide (x.addr ≤ va) && decide (va < x.addr + x.len) && is.any (fun i => i.id == x.image) then some (h, x)
      else none
    | none => none

/-- Fetches one syllable (R115, R116, R379). -/
def State.fetchWord (s : State) (c : CoreId) (va : Nat) : Fetched :=
  if rowOf va ≠ .paged then .fault cFetchUnmapped
  else
    let is := s.coreImages c
    match (s.core c).imem.find is va with
    | some (h, x) =>
      let line := (va - x.addr) / 64
      if bitAt x.have_ line then .word (BitVec.ofNat 32 (s.peekNat (imemAddr c h.val (va - x.addr)) 4))
      else if bitAt x.bad line then
        match (s.coreXlate c .exec va).1 with
        | .ok _ => .refetch h line
        | .error code => .fault code
      else .miss
    | none => if (findSeg is va).isSome then .miss else .fault cFetchUnmapped

/-- What a fetch of a bundle finds: its words; or the first syllable that is not there yet; or the first that cannot be fetched. -/
inductive Bundle where
  | words (ws : List (BitVec 32))
  | wait (va : Nat)
  | fault (code va : Nat)
deriving DecidableEq, Repr

/-- Fetches up to `n` syllables from `va` until one has its stop bit set (R101). -/
def State.fetchFrom (s : State) (c : CoreId) : Nat → Nat → Bundle
  | 0, _ => .words []
  | n + 1, va => match s.fetchWord c va with
    | .miss => .wait va
    | .refetch .. => .wait va
    | .fault code => .fault code va
    | .word w =>
      if bitAt w 31 then .words [w]
      else match State.fetchFrom s c n (va + 4) with
        | .words ws => .words (w :: ws)
        | b => b

/-- Fetches the bundle at an address. -/
def State.fetchBundle (s : State) (c : CoreId) (va : Nat) : Bundle := s.fetchFrom c 4 va

/-- Do the words end with a stop bit (R103)? -/
def stopped (ws : List (BitVec 32)) : Bool := match ws.getLast? with
  | some w => bitAt w 31
  | none => false

/-- Changes the instruction memory of a core. -/
def State.modImem (s : State) (c : CoreId) (f : IMem → IMem) : State := s.modCore c fun k => { k with imem := f k.imem }

/-- Starts a copy of a segment into a half, from a line (R119). -/
def IMem.startCopy (m : IMem) (h : Fin 2) (image : BitVec 32) (seg addr len line : Nat) : IMem :=
  { m with
    halves := m.halves.set h.val (some { image := image, seg := seg, addr := addr, len := len, have_ := 0, bad := 0 }) h.isLt
    copy := some { half := h, line := line, left := (len + 63) / 64 } }

/-- The other half. -/
def otherHalf (h : Fin 2) : Fin 2 := if h = 0 then 1 else 0

/-- The core needs the line at `va` (R379): it starts the copy or the refetch that brings it, unless one is on its way. -/
def State.missEffect (s : State) (c : CoreId) (va : Nat) : State :=
  let m := (s.core c).imem
  let s := if m.waiting = some (va / 64) then s
    else s.modImem c fun m => { m with waiting := some (va / 64), miss := m.miss + 1 }
  if m.copy.isSome then s
  else match s.fetchWord c va with
    | .refetch h line => if m.refetch.isSome then s else s.modImem c fun m => { m with refetch := some (h, line) }
    | .miss => match m.find (s.coreImages c) va with
      | some (h, x) => s.modImem c fun m => { m with refetch := some (h, (va - x.addr) / 64) }
      | none => match findSeg (s.coreImages c) va with
        | some (i, n, addr, len) =>
          let h := match m.lastHalf with | some h => otherHalf h | none => 0
          s.modImem c fun m => m.startCopy h i n addr len ((va - addr) / 64)
        | none => s
    | _ => s

/-- The bytes of one line of a segment as they stand now, or none where the page does not permit execution (R115); its translation is
the core's (R330). -/
def State.lineBytes (s : State) (c : CoreId) (addr line len : Nat) : Option (List Byte) × State :=
  let va := addr + 64 * line
  if rowOf va ≠ .paged then (none, s)
  else match s.coreXlate c .exec va with
    | (.ok e, s) => if s.placeWaits (some c) (s.coreTenant c) (s.placeOf e va) then (none, s)
      else (some (s.peeks (s.placeOf e va) (min 64 (len - 64 * line))), s)
    | (.error _, s) => (none, s)

/-- A line of a half lands, or is held invalid. -/
def State.landLine (s : State) (c : CoreId) (h : Fin 2) (line : Nat) : State :=
  match (s.core c).imem.half h with
  | none => s
  | some x => match s.lineBytes c x.addr line x.len with
    | (some bs, s) =>
      (s.pokes (imemAddr c h.val (64 * line)) bs).modImem c fun m =>
        { m with halves := m.halves.set h.val (some { x with have_ := setBit x.have_ line true, bad := setBit x.bad line false }) h.isLt }
    | (none, s) => s.modImem c fun m =>
        { m with halves := m.halves.set h.val (some { x with have_ := setBit x.have_ line false, bad := setBit x.bad line true }) h.isLt }

/-- The next line of the core's copy in flight lands, ascending and wrapping; a refetch lands first (R116, R119). -/
def State.overlayLine (s : State) (c : CoreId) : State :=
  match (s.core c).imem.refetch with
  | some (h, line) =>
    let at_ := ((s.core c).imem.half h).map fun x => x.addr / 64 + line
    (s.landLine c h line).modImem c fun m =>
      { m with refetch := none, waiting := if m.waiting = at_ then none else m.waiting }
  | none => match (s.core c).imem.copy with
    | none => s
    | some cp =>
      let s := s.landLine c cp.half cp.line
      let len := match (s.core c).imem.half cp.half with | some x => (x.len + 63) / 64 | none => 1
      s.modImem c fun m => { m with
        copy := if cp.left ≤ 1 then none else some { cp with line := (cp.line + 1) % len, left := cp.left - 1 } }

/-- The half that holds the executing bundle. -/
def State.execHalf (s : State) (c : CoreId) : Option (Fin 2 × Half) :=
  (s.core c).imem.find (s.coreImages c) (s.core c).bun.base.toNat

/-- An overlay mark (R119): it starts a background copy of segment `seg` of the executing image, or is counted as having no
effect. -/
def State.overlayMark (s : State) (c : CoreId) (seg : Nat) : State :=
  let m := (s.core c).imem
  let no := s.modImem c fun m => { m with nop := m.nop + 1 }
  match s.execHalf c with
  | none => no
  | some (h, x) =>
    match ((s.coreImages c).find? fun i => i.id == x.image).bind fun i => i.segs[seg]? with
    | none => no
    | some (addr, len) =>
      let there := (List.finRange 2).any fun h => match m.half h with
        | some y => y.image == x.image && y.seg == seg
        | none => false
      if there || m.copy.isSome then no else s.modImem c fun m => m.startCopy (otherHalf h) x.image seg addr len 0

/-- R379: the fetch of the core that acts misses: the copy that brings the line starts. -/
def execOverlayMiss (s : State) : Out :=
  act (fun s =>
    let c := s.dev.cur.core
    let k := s.me
    if k.run = .running ∧ k.clk.gap = 0 then match s.fetchBundle c k.ctx.pc.toNat with
      | .wait va => s.missEffect c va
      | _ => match k.bun.hold with
        | some (.overlay va) => s.missEffect c va
        | _ => s
    else s) s

/-- R119: one line of the core's segment copy lands. -/
def execOverlayLineLands (s : State) : Out := act (fun s => s.overlayLine s.dev.cur.core) s

end Sys2Proof.Machine
end

