-- ==== Sys2Proof/Machine/Matrix.lean ====
section
/-! DEFINITION. The matrix unit (R186 to R209): tile shapes, latches, rings, the command queue, passes and paired passes, drains
and microprograms. -/

namespace Sys2Proof.Machine

/-! ## Tile shapes (R189) and rings (R188, R198) -/

/-- ROWSM1. -/
def tcRows (w : BitVec 32) : Nat := fieldNat w 0 7
/-- COLSM1. -/
def tcCols (w : BitVec 32) : Nat := fieldNat w 8 7
/-- Is the tile i32? -/
def tcInt (w : BitVec 32) : Bool := fieldNat w 16 2 == 1
/-- Is the tile configured? -/
def tcOn (w : BitVec 32) : Bool := bitAt w 18
/-- TCFG as `tcfg` leaves it: CFG and DIRTY set (R194). -/
def tcWord (rows cols : BitVec 7) (int : Bool) : BitVec 32 :=
  BitVec.ofNat 32 (rows.toNat + cols.toNat * 2 ^ 8 + (if int then 2 ^ 16 else 0) + 2 ^ 18 + 2 ^ 19)

/-- HEAD. -/
def rHead (w : W64) : Nat := fieldNat w 0 12
/-- TAIL. -/
def rTail (w : W64) : Nat := fieldNat w 12 12
/-- SIZE. -/
def rSize (w : W64) : Nat := fieldNat w 32 12
/-- BASE. -/
def rBase (w : W64) : Nat := fieldNat w 44 20
/-- NX. -/
def rNx (w : W64) : Bool := bitAt w 26
/-- Bytes between rows. -/
def rStride (w : W64) : Nat := if rNx w then 544 else 512
/-- Rows in the ring. -/
def rCount (w : W64) : Nat := if rSize w = 0 then 0 else (rTail w + 2 * rSize w - rHead w) % (2 * rSize w)
/-- A row counter advanced. -/
def rStep (w : W64) (x n : Nat) : Nat := if rSize w = 0 then x else (x + n) % (2 * rSize w)
/-- Local-store offset of row counter x. -/
def rOffset (w : W64) (x : Nat) : Nat := rBase w + (if rSize w = 0 then 0 else x % rSize w) * rStride w

/-- The ring word after `ringpush` of n rows. -/
def ringPushed (w : W64) (n : Nat) : W64 :=
  if rSize w < rCount w + n then setField (setField w 24 1 1) 12 12 (rStep w (rHead w) (rSize w))
  else setField w 12 12 (rStep w (rTail w) n)
/-- The ring word after n rows leave: by `ringpop` or by a pass (R198, R201). -/
def ringPopped (w : W64) (n : Nat) : W64 :=
  if rCount w < n then setField (setField w 25 1 1) 0 12 (rTail w) else setField w 0 12 (rStep w (rHead w) n)
/-- The ring word after `ringcfg`. -/
def ringSet (w a b : W64) : W64 :=
  if fieldNat b 0 12 = 0 then setField w 32 12 0
  else w64 (fieldNat b 0 12 * 2 ^ 32 + fieldNat a 0 20 * 2 ^ 44 + (if bitAt b 12 then 2 ^ 26 else 0))

/-! ## Latches (R187) -/

/-- Depth of a latch in rows of K. -/
def latchDepth (f : BitVec 3) : Nat := match f.toNat with | 0 => 256 | 3 => 1024 | _ => 512
/-- Bytes of a latch image per row of K. -/
def imageRow (f : BitVec 3) : Nat := match f.toNat with | 0 => 256 | 3 => 68 | _ => 128
/-- Bytes of a latch: 65,536 element bytes and 4,096 special bytes. -/
def latchBytes : Nat := 69632
/-- Where byte j of an image of `rows` rows stands in the latch: NXF4 special bytes from 65,536 on. -/
def latchPos (f : BitVec 3) (rows j : Nat) : Nat := if f = 3 ∧ rows * 64 ≤ j then 65536 + (j - rows * 64) else j
/-- Clocks of the loader for an `mlatch` (R196). -/
def latchOcc (f : BitVec 3) (rows : Nat) : Nat := (rows * imageRow f + 1023) / 1024

/-! ## Chains (R48 to R50) -/

/-- A product as a chain value. -/
def Chain.ofF : FVal → Chain
  | .nan => .nan
  | .inf n => .inf n
  | .fin n m e => if m = 0 then .fin 0 0 else .fin (signed n m) e

/-- The exact sum of two chain values. -/
def Chain.add : Chain → Chain → Chain
  | .nan, _ => .nan
  | _, .nan => .nan
  | .inf a, .inf b => if a = b then .inf a else .nan
  | .inf a, _ => .inf a
  | _, .inf b => .inf b
  | .fin a ea, .fin b eb =>
    let e := min ea eb
    .fin (a * 2 ^ (ea - e).toNat + b * 2 ^ (eb - e).toNat) e

/-- The largest exponent of the nonzero finite products (R49). -/
def topExp (ps : List FVal) : Option Int := ps.foldl (fun r p => match p with
  | .fin _ m e => if m = 0 then r else some (match r with | some k => max k (floorLog2 m e) | none => floorLog2 m e)
  | _ => r) none

/-- A product rounded toward −∞ to a multiple of 2^g (R49). -/
def floorTo (g : Int) : FVal → FVal
  | .fin n m e => if g ≤ e then .fin n m e else
    let q := signed n m / 2 ^ (g - e).toNat
    .fin (decide (q < 0)) q.natAbs g
  | v => v

/-- The sum of a chain's products; `bf`: the BF16 rule of R49, whose E is that of these products (in a pair, of each half: log 66). -/
def chainSum (bf : Bool) (ps : List FVal) : Chain :=
  let ps := match bf, topExp ps with
    | true, some e => ps.map (floorTo (e - 40))
    | _, _ => ps
  ps.foldl (fun c p => c.add (.ofF p)) (.fin 0 0)

/-- A drained FP32 element (R51). A zero chain sum counts as +0, so an element of -0 becomes +0 (DESIGN CHOICE, log 114). -/
def drainF (t : BitVec 32) (c : Chain) (asc bsc : Nat) : BitVec 32 :=
  if asc = 0xFF ∨ bsc = 0xFF then 0x7FC00000
  else
    let v : FVal := match c with
      | .nan => .nan
      | .inf n => .inf n
      | .fin n e => .ofInt n (e + asc + bsc - 254) false
    toF32 ((f32 t).add 0 v)

/-- A drained i32 element (R51). -/
def drainI (t : BitVec 32) (c : Chain) (sat : Bool) : BitVec 32 := match c with
  | .fin n e =>
    let v := t.toInt + n * 2 ^ e.toNat
    BitVec.ofNat 32 (if sat then saturate true 32 v else wrapI 32 v)
  | _ => t

/-- Element k of an A row (R188). -/
def aElem (f : BitVec 3) (row : Array Byte) (k : Nat) : FVal := match f.toNat with
  | 0 => bf16.decode ((row.getD (2 * k) 0).toNat + 256 * (row.getD (2 * k + 1) 0).toNat)
  | 1 => e4m3.decode (row.getD k 0).toNat
  | 2 => e5m2.decode (row.getD k 0).toNat
  | 3 => .ofInt (nxf4 ((row.getD (k / 2) 0).toNat / 16 ^ (k % 2)) (row.getD (512 + k / 32) 0).toNat) (-2) false
  | _ => .ofInt (row.getD k 0).toInt 0 false

/-- B[k][c] of a latch (R187). -/
def bElem (f : BitVec 3) (l : Array Byte) (k c : Nat) : FVal := match f.toNat with
  | 0 => bf16.decode ((l.getD (2 * (k * 128 + c)) 0).toNat + 256 * (l.getD (2 * (k * 128 + c) + 1) 0).toNat)
  | 1 => e4m3.decode (l.getD (k * 128 + c) 0).toNat
  | 2 => e5m2.decode (l.getD (k * 128 + c) 0).toNat
  | 3 => .ofInt (nxf4 ((l.getD ((k / 32 * 128 + c) * 16 + k % 32 / 2) 0).toNat / 16 ^ (k % 2))
      (l.getD (65536 + k / 32 * 128 + c) 0).toNat) (-2) false
  | _ => .ofInt (l.getD (k * 128 + c) 0).toInt 0 false

/-- The chain of column c of one row of A. -/
def chainOf (fa fb : BitVec 3) (klen : Nat) (row latch : Array Byte) (c : Nat) : Chain :=
  chainSum (fa == 0) ((List.range klen).map fun k => (aElem fa row k).mul (bElem fb latch k c))

/-! ## Operand fields of passes and drains (R199, R204) -/

/-- First tile row. -/
def pRow0 (a : W64) : Nat := fieldNat a 0 7
/-- Rows of the pass, M; of a drain, NROW. -/
def pRows (a : W64) : Nat := fieldNat a 8 7 + 1
/-- KLEN. -/
def pKlen (a : W64) : Nat := fieldNat a 16 11
/-- The A scale of a tile row. -/
def pScale (a : W64) (tr : Nat) : Byte := bits a (32 + 8 * (tr / 32)) 8
/-- The local-store offset of a drain. -/
def dOffset (a : W64) : Nat := fieldNat a 32 20

/-- A format pair: is its tile i32, and its largest KLEN (R200)? -/
def pairOf (fa fb : BitVec 3) : Option (Bool × Nat) := match fa.toNat, fb.toNat with
  | 0, 0 => some (false, 256)
  | 1, 1 | 1, 2 | 2, 1 | 2, 2 => some (false, 512)
  | 3, 1 => some (false, 512)
  | 3, 3 => some (false, 1024)
  | 4, 4 => some (true, 512)
  | _, _ => none

/-! ## The issue-side state (R191) -/

/-- mp7.RUN. -/
def Core.mpRun (k : Core) : Bool := bitAt (k.ctx.mp.get 7) 63

/-- Is a routine active (R207): from the issue of `mcall`? -/
def Core.routineActive (k : Core) : Bool :=
  k.mpRun || k.mat.queue.any fun c => match c.instr with | .mcall .. => true | _ => false

/-- Nothing is queued, running or landing. -/
def Matrix.idle (m : Matrix) : Bool := m.queue.isEmpty && m.running.isEmpty && m.lands.isEmpty

/-- Commands that have issued and not completed at the core's clock (R190). -/
def Core.matPending (k : Core) : Nat := k.mat.queue.length + (k.mat.running.filter fun r => decide (k.clk.unf < r.finish)).length

/-- With nothing queued, the issue-side state is the state itself. -/
def Core.syncSh (k : Core) : Core :=
  if k.mat.idle then
    k.modMat fun m => { m with shTcfg := m.tcfg, shTag := m.tag, shRing := k.ctx.rings }
  else k

/-- Has every command completed before the core's clock: is the queue empty as a half is posted (R202)? -/
def Core.matDone (k : Core) : Bool := k.mat.queue.isEmpty && k.mat.running.all fun r => decide (r.finish ≤ k.clk.unf)

/-- Does the context own the core's tile file (R309)? -/
def Core.ownsTiles (k : Core) : Bool := bitAt k.sv.town 32 && fieldNat k.sv.town 0 32 == fieldNat k.sv.ctxid 0 32

/-- TCFG as the issue side sees it. -/
def Core.shTile (k : Core) (t : BitVec 3) : BitVec 32 := k.mat.shTcfg.get t.toFin

/-- Rows outside a tile's shape, or no shape (R191, row 3). -/
def Core.rowsFault (k : Core) (t : BitVec 3) (row0 n : Nat) : Option Nat :=
  if tcOn (k.shTile t) && decide (row0 + n ≤ tcRows (k.shTile t) + 1) then none else some cTileUnconfig

/-- A vector register that is bound to a stream (R195). -/
def Core.boundFault (k : Core) (r : BitVec 5) : Option Nat := if (k.boundSlot r).isSome then some cIllegalOpcode else none

/-- The checks of a pass (R199, R200). -/
def Core.passFault (k : Core) (paired : Bool) (t : BitVec 3) (kk ring : BitVec 2) (fa fb : BitVec 3) (sat : Bool) (a : W64) :
    Option Nat :=
  match k.rowsFault t (pRow0 a) (pRows a) with
  | some f => some f
  | none =>
    let w := k.mat.shRing.get ring.toFin
    match pairOf fa fb with
    | none => some cMatfmt
    | some (int, top) =>
      if (a &&& 0xF8008080) = 0 ∧ tcInt (k.shTile t) = int ∧ k.mat.shTag.get kk.toFin = some fb ∧ 32 ≤ pKlen a ∧
          pKlen a % 32 = 0 ∧ pKlen a ≤ top ∧ (¬(fa = 3 ∧ fb = 1) ∨ (pKlen a = 512 ∧ !paired)) ∧ rSize w ≠ 0 ∧
          rNx w = (fa == 3) ∧ (!sat ∨ fa = 4) then none
      else some cMatfmt

/-- The first failing row of R191 from row 3 on, for a command with operand values `a` and `b`. `tcfg.off` of a tile that is not
configured passes row 3 (DEDUCED, log 118). -/
def Core.matFault (k : Core) (i : Instr) (a b : W64) : Option Nat := match i with
  | .tzero _ t row0 nm1 => k.rowsFault t row0.toNat (nm1.toNat + 1)
  | .trowmv _ t row _ va =>
    (match va with | .v r => k.boundFault r | .y _ => none).or (k.rowsFault t row.toNat 1)
  | .trowrd _ t row _ vd => (k.boundFault vd).or (k.rowsFault t row.toNat 1)
  | .tcolrd _ t col _ vd =>
    (k.boundFault vd).or
      (if tcOn (k.shTile t) && decide (col.toNat ≤ tcCols (k.shTile t)) then none else some cTileUnconfig)
  | .mma _ t kk ring fa fb _ sat => k.passFault false t kk ring fa fb sat a
  | .mmap _ t kk ring fa fb _ sat => k.passFault true t kk ring fa fb sat a
  | .mlatch _ _ f _ =>
    let rows := fieldNat a 32 11
    if (a &&& 0xFFFFF800FFF00000) ≠ 0 ∨ fieldNat a 0 20 % 64 ≠ 0 ∨ rows % 32 ≠ 0 ∨ rows < 32 ∨ latchDepth f < rows then some cMatfmt
    else if Config.lsBytes < fieldNat a 0 20 + rows * imageRow f then some cDataUnmapped else none
  | .mdrain _ t f _ _ =>
    match k.rowsFault t (pRow0 a) (pRows a) with
    | some c => some c
    | none =>
      let wb := if f = 0 then 4 else 2
      if (a &&& 0xFFF00000FFFF8080) ≠ 0 ∨ dOffset a % 64 ≠ 0 ∨ (f ≠ 0 ∧ tcInt (k.shTile t)) then some cMatfmt
      else if Config.lsBytes < dOffset a + 512 * (pRows a - 1) + (tcCols (k.shTile t) + 1) * wb then some cDataUnmapped
      else none
  | .ringcfg .. =>
    let size := fieldNat b 0 12
    if a.toNat / 2 ^ 20 ≠ 0 ∨ b.toNat / 2 ^ 13 ≠ 0 then some cMatfmt
    else if 2048 < size ∨ a.toNat % 64 ≠ 0 ∨ Config.lsBytes < a.toNat + size * (if bitAt b 12 then 544 else 512) then
      some cDataUnmapped
    else none
  | .ringpop _ ring _ _ | .ringpush _ ring _ _ => if rSize (k.mat.shRing.get ring.toFin) = 0 then some cMatfmt else none
  | .mpload _ _ cm1 _ =>
    let off := fieldNat a 0 20
    if off % 8 ≠ 0 ∨ Config.lsBytes < off + 8 * (cm1.toNat + 1) then some cDataUnmapped else none
  | _ => none

/-- The issue-side state after a command (R191). -/
def Core.matShadow (k : Core) (i : Instr) (a b : W64) : Core := match i with
  | .tcfg _ t rows cols int => k.modMat fun m => { m with shTcfg := m.shTcfg.set t.toNat (tcWord rows cols int) t.isLt }
  | .tcfgOff _ t => k.modMat fun m => { m with shTcfg := m.shTcfg.set t.toNat (setBit (m.shTcfg.get t.toFin) 18 false) t.isLt }
  | .mlatch _ kk f _ => k.modMat fun m => { m with shTag := m.shTag.set kk.toNat (some f) kk.isLt }
  | .ringcfg _ ring _ _ => k.modMat fun m =>
    { m with shRing := m.shRing.set ring.toNat (ringSet (m.shRing.get ring.toFin) a b) ring.isLt }
  | _ => k

/-- The register that a command's result is bound for. -/
def matDest (bank : Bool) : Instr → Option FDest
  | .trowrd _ _ _ _ vd => some (.v vd .w1024)
  | .tcolrd _ _ _ _ vd => some (.v vd .w1024)
  | .ringpop _ _ d _ => some (.s d bank)
  | .ringpush _ _ d _ => some (.s d bank)
  | _ => none

/-- `rem` of a result whose command has not started. -/
def unstarted : Nat := 2 ^ 60

/-- A command enters the queue (R190); its result counts as in flight from now on (R302). -/
def State.queueCmd (s : State) (i : Instr) (a b : W64) (v : V1024) (peer : Option Peer) : State :=
  let k := s.me
  let s := match matDest k.priv i with
    | some d => s.result (k.newFlight unstarted d false 0)
    | none => s
  s.andThen fun s => s.modMe fun k =>
    (k.modMat fun m => { m with queue := m.queue ++
      [{ instr := i, a := a, b := b, v := v, issue := k.clk.unf, micro := false, peer := peer }] }).matShadow i a b

/-- The form of every matrix syllable: rows 1 and 2 of R191, then its own checks, then its command. `owned`: it names a tile,
latch or routine. -/
def matSyl (x : Lent) (u : Uses) (owned : Bool) (i : Instr) (a b : State → W64) (v : State → V1024) (go : State → State) :
    State → State :=
  syl x u fun s =>
    let s := s.modMe Core.syncSh
    let k := s.me
    if owned && !k.ownsTiles then s.trapAt cTileOwner
    else if 8 ≤ k.matPending || k.routineActive then s.trapAt cIllegalOpcode
    else match k.matFault i (a s) (b s) with
      | some code => s.trapAt code
      | none => go (s.queueCmd i (a s) (b s) (v s) none)

/-- A command with no operand. -/
def matPlain (x : Lent) (owned : Bool) (i : Instr) : State → State :=
  matSyl x Uses.none owned i (fun _ => 0) (fun _ => 0) (fun _ => 0) id

/-- A command with one scalar operand. -/
def matA (x : Lent) (owned : Bool) (i : Instr) (a : BitVec 6) : State → State :=
  matSyl x (Uses.none.r a) owned i (fun s => s.sreg a) (fun _ => 0) (fun _ => 0) id

/-! ## The syllables -/

/-- R194: configures a tile and clears it. -/
def execTcfg (x : Lent) (t : BitVec 3) (rowsm1 colsm1 : BitVec 7) (int : Bool) (s : State) : Out :=
  act (matPlain x true (.tcfg x t rowsm1 colsm1 int)) s

/-- R194: marks a tile unconfigured. -/
def execTcfgOff (x : Lent) (t : BitVec 3) (s : State) : Out := act (matPlain x true (.tcfgOff x t)) s

/-- R194: clears rows. -/
def execTzero (x : Lent) (t : BitVec 3) (row0 nm1 : BitVec 7) (s : State) : Out := act (matPlain x true (.tzero x t row0 nm1)) s

/-- R195: 32 elements of a vector into a tile row. -/
def execTrowmv (x : Lent) (t : BitVec 3) (row : BitVec 7) (cb : BitVec 2) (va : VSrc) (s : State) : Out :=
  let u := match va with
    | .v _ => Uses.none
    | .y n => Uses.none.v (.y n)
  act (matSyl x u true (.trowmv x t row cb va) (fun _ => 0) (fun _ => 0) (fun s => s.me.vsrc va) id) s

/-- R195: 32 elements of a tile row into a vector at start + 4. -/
def execTrowrd (x : Lent) (t : BitVec 3) (row : BitVec 7) (cb : BitVec 2) (vd : BitVec 5) (s : State) : Out :=
  act (matPlain x true (.trowrd x t row cb vd)) s

/-- R195: 32 elements of a tile column into a vector at start + 4. -/
def execTcolrd (x : Lent) (t : BitVec 3) (col : BitVec 7) (rb : BitVec 2) (vd : BitVec 5) (s : State) : Out :=
  act (matPlain x true (.tcolrd x t col rb vd)) s

/-- R199 to R201: a pass. -/
def execMma (x : Lent) (t : BitVec 3) (k ring : BitVec 2) (fa fb : BitVec 3) (a : BitVec 6) (sat : Bool) (s : State) : Out :=
  act (matA x true (.mma x t k ring fa fb a sat) a) s

/-- R196: loads a latch. -/
def execMlatch (x : Lent) (k : BitVec 2) (fmt : BitVec 3) (a : BitVec 6) (s : State) : Out :=
  act (matA x true (.mlatch x k fmt a) a) s

/-- R197: writes a latch's scale slot. -/
def execMscl (x : Lent) (k : BitVec 2) (a : BitVec 6) (s : State) : Out := act (matA x true (.mscl x k a) a) s

/-- R204: writes tile rows into the local store. -/
def execMdrain (x : Lent) (t : BitVec 3) (fmt : BitVec 2) (z : Bool) (a : BitVec 6) (s : State) : Out :=
  act (matA x true (.mdrain x t fmt z a) a) s

/-- The first step of a routine, or none where its entry is absent (R205): bit 63 of the entry marks it present (log 16). -/
def State.routine (s : State) (c : CoreId) (idx : Nat) : Option Nat :=
  let e := s.peekNat (microAddr c (2 ^ 13 + 8 * idx)) 8
  if e / 2 ^ 63 % 2 = 1 then some (e % 1024) else none

/-- R207: starts a routine; an absent entry raises ILLEGAL_OPCODE. -/
def execMcall (x : Lent) (idx : BitVec 6) (s : State) : Out :=
  act (syl x Uses.none fun s =>
    let s := s.modMe Core.syncSh
    let k := s.me
    if !k.ownsTiles then s.trapAt cTileOwner
    else if 8 ≤ k.matPending || k.routineActive || (s.routine s.dev.cur.core idx.toNat).isNone then s.trapAt cIllegalOpcode
    else s.queueCmd (.mcall x idx) 0 0 0 none) s

/-- R208: writes a matrix parameter. -/
def execMpset (x : Lent) (n : BitVec 3) (a : BitVec 6) (s : State) : Out := act (matA x false (.mpset x n a) a) s

/-- R198: configures a ring. -/
def execRingcfg (x : Lent) (ring : BitVec 2) (a b : BitVec 6) (s : State) : Out :=
  act (matSyl x ((Uses.none.r a).r b) false (.ringcfg x ring a b) (fun s => s.sreg a) (fun s => s.sreg b) (fun _ => 0) id) s

/-- R198: rows leave a ring. -/
def execRingpop (x : Lent) (ring : BitVec 2) (d : BitVec 6) (n : BitVec 11) (s : State) : Out :=
  act (matPlain x false (.ringpop x ring d n)) s

/-- R198: rows enter a ring. -/
def execRingpush (x : Lent) (ring : BitVec 2) (d : BitVec 6) (n : BitVec 11) (s : State) : Out :=
  act (matPlain x false (.ringpush x ring d n)) s

/-- R208: loads matrix parameters from the local store. -/
def execMpload (x : Lent) (n cm1 : BitVec 3) (a : BitVec 6) (s : State) : Out := act (matA x false (.mpload x n cm1 a) a) s

/-! ## Starting a command (R190) -/

/-- The rows of a pass, if the command is one. -/
def MCmd.passRows (c : MCmd) : Option Nat := match c.instr with
  | .mma .. => some (pRows c.a)
  | .mmap .. => some (pRows c.a)
  | _ => none

/-- Does a pass pop its rows at clock x (R201)? -/
def MRun.popsAt (r : MRun) (x : Nat) : Bool := r.cmd.passRows == some (x - r.start) && decide (r.start < x)

/-- Does the run hold the array at clock x? -/
def MRun.holdsArray (r : MRun) (x : Nat) : Bool := match r.cmd.passRows with
  | some m => decide (x < r.start + m)
  | none => false

/-- The latch that an `mlatch` is loading at clock x. -/
def MRun.loading (r : MRun) (x : Nat) : Option (BitVec 2) := match r.cmd.instr with
  | .mlatch _ k f _ => if x < r.start + latchOcc f (fieldNat r.cmd.a 32 11) then some k else none
  | _ => none

/-- Does the run hold the unload port at clock x? -/
def MRun.holdsPort (r : MRun) (x : Nat) : Bool := match r.cmd.instr with
  | .mdrain .. => decide (x < r.start + (pRows r.cmd.a + 1) / 2)
  | _ => false

/-- May the command at the head of the queue start at clock x? -/
def Matrix.canStart (m : Matrix) (c : MCmd) (x : Nat) : Bool :=
  decide (c.issue < x) && decide (m.lastStart < x) && !(m.lands.any fun l => decide (l.clk ≤ x)) && match c.instr with
    | .mma _ _ k _ _ _ _ _ => !(m.running.any fun r => r.holdsArray x || r.loading x == some k)
    | .mmap _ _ k _ _ _ _ _ => !(m.running.any fun r => r.holdsArray x || r.loading x == some k)
    | .mlatch .. => !(m.running.any fun r => (r.loading x).isSome)
    | .mpload .. => !(m.running.any fun r => (r.loading x).isSome)
    | .mdrain .. => !(m.running.any fun r => r.holdsPort x)
    | _ => true

/-- Clocks from a command's start to its completion. -/
def MCmd.length (c : MCmd) : Nat := match c.instr with
  | .trowmv .. => 1
  | .trowrd .. => 4
  | .tcolrd .. => 4
  | .mma .. => pRows c.a + 15
  | .mmap .. => pRows c.a + 19
  | .mlatch _ _ f _ => latchOcc f (fieldNat c.a 32 11) - 1
  | .mdrain .. => (pRows c.a - 1) / 2 + 16
  | .ringpop .. => 1
  | .ringpush .. => 1
  | _ => 0

/-- Writes 0 to every listed byte of a range. -/
def State.clearRange (s : State) (a n : Nat) : State :=
  (((s.dev.wbuf ++ s.mem.cells).map (·.1)).filter fun p => decide (a ≤ p) && decide (p < a + n)).foldl (fun s p => s.poke p 0) s

/-- The bytes of every latch of a core become 0 (R12). -/
def State.clearLatches (s : State) (c : CoreId) : State :=
  (List.range 4).foldl (fun s k => s.clearRange (latchAddr c k 0) latchBytes) s

/-- A tile file with no shapes, tags or scales (R12). -/
def Core.emptyTiles (k : Core) : Core :=
  { k with mat := { k.mat with tcfg := .replicate 8 0, tag := .replicate 4 none, scale := .replicate 4 0 } }

/-- Sets DIRTY of a tile (R189). -/
def Core.dirtyTile (k : Core) (t : BitVec 3) : Core :=
  k.modMat fun m => { m with tcfg := m.tcfg.set t.toNat (setBit (m.tcfg.get t.toFin) 19 true) t.isLt }

/-- Sets KDIRTY of a latch (R293). -/
def Core.dirtyLatch (k : Core) (n : BitVec 2) : Core := { k with sv := { k.sv with town := setBit k.sv.town (36 + n.toNat) true } }

/-- Writes a matrix parameter; mp7 takes ARG only (R208). -/
def Core.setMp (k : Core) (n : BitVec 3) (w : W64) : Core :=
  k.modCtx fun x => { x with mp := x.mp.set n.toNat (if n = 7 then setField (x.mp.get 7) 0 32 w.toNat else w) n.isLt }

/-- Writes a ring word. -/
def Core.setRing (k : Core) (n : BitVec 2) (w : W64) : Core := k.modCtx fun x => { x with rings := x.rings.set n.toNat w n.isLt }

/-- The result of the command that starts now, `lat` clocks from now: it is counted as issued now (R195). -/
def Core.startResult (k : Core) (lat : Nat) (v : V1024) : Core :=
  match k.flights.find? fun f => decide (2 ^ 59 ≤ f.rem) with
  | some f =>
    let rest := k.flights.eraseIdx (k.flights.findIdx fun f => decide (2 ^ 59 ≤ f.rem))
    let f' : Flight := { f with rem := lat, val := v, ord := k.clk.count * 8 }
    { k with flights := insertFlight f' rest }
  | none => k

/-- The ring word that a `ringpop` or `ringpush` returns, at start + 1: in its register, or in a parameter when a routine fed the
command (R206). `ahead`: clocks by which the unit runs ahead of the core (R209). -/
def Core.ringResult (k : Core) (c : MCmd) (d : BitVec 6) (x ahead : Nat) (w : W64) : Core :=
  if c.micro then k.modMat fun m => { m with lands := m.lands ++ [{ clk := x + 1, ord := x, what := .mp (d.setWidth 3) w }] }
  else k.startResult (ahead + 1) (w.setWidth 1024)

/-- What a command writes at its start (R194, R196 to R198, R207, R208). -/
def State.startWrites (s : State) (c : CoreId) (m : MCmd) (x ahead : Nat) : State := match m.instr with
  | .tcfg _ t rows cols int =>
    (s.clearRange (tileAddr c t.toNat 0) 65536).modCore c fun k =>
      k.modMat fun q => { q with tcfg := q.tcfg.set t.toNat (tcWord rows cols int) t.isLt }
  | .tcfgOff _ t => s.modCore c fun k =>
      k.modMat fun q => { q with tcfg := q.tcfg.set t.toNat (setBit (q.tcfg.get t.toFin) 18 false) t.isLt }
  | .tzero _ t row0 nm1 =>
    (s.clearRange (tileAddr c t.toNat (512 * row0.toNat)) (512 * (nm1.toNat + 1))).modCore c fun k => k.dirtyTile t
  | .mscl _ n _ => s.modCore c fun k =>
      (k.modMat fun q => { q with scale := q.scale.set n.toNat (m.a.setWidth 32) n.isLt }).dirtyLatch n
  | .mlatch _ n f _ => s.modCore c fun k =>
      (k.modMat fun q => { q with tag := q.tag.set n.toNat (some f) n.isLt }).dirtyLatch n
  | .mpset _ n _ => s.modCore c fun k => k.setMp n m.a
  | .ringcfg _ n _ _ => s.modCore c fun k => k.setRing n (ringSet (k.ctx.rings.get n.toFin) m.a m.b)
  | .ringpop _ n d cnt => s.modCore c fun k =>
      let w := ringPopped (k.ctx.rings.get n.toFin) cnt.toNat
      (k.setRing n w).ringResult m d x ahead w
  | .ringpush _ n d cnt => s.modCore c fun k =>
      let w := ringPushed (k.ctx.rings.get n.toFin) cnt.toNat
      (k.setRing n w).ringResult m d x ahead w
  | .mcall _ idx => s.modCore c fun k =>
      let w := setField (setField (setField (k.ctx.mp.get 7) 32 10 ((s.routine c idx.toNat).getD 0)) 42 6 idx.toNat) 63 1 1
      { (k.modCtx fun q => { q with mp := q.mp.set 7 w }) with mat := { k.mat with rptLeft := none, mfeed := ahead + 1 } }
  | _ => s

/-- The ring and latch that a pass names. -/
def MCmd.sources (m : MCmd) : Option (BitVec 2 × BitVec 2) := match m.instr with
  | .mma _ _ k ring _ _ _ _ => some (k, ring)
  | .mmap _ _ k ring _ _ _ _ => some (k, ring)
  | _ => none

/-- The next command starts, if it may (R190): its writes land, and a pass takes its ring word, latch and scale slot. -/
def State.matStart (s : State) (c : CoreId) (x ahead : Nat) : State :=
  match (s.core c).mat.queue with
  | [] => s
  | m :: q =>
    if !(s.core c).mat.canStart m x then s
    else
      let s := s.startWrites c m x ahead
      let k := s.core c
      let r : MRun := match m.sources with
        | some (kk, ring) =>
          { cmd := m, start := x, finish := x + m.length, ring := k.ctx.rings.get ring.toFin,
            latch := s.peeks (latchAddr c kk.toNat 0) latchBytes, scales := k.mat.scale.get kk.toFin }
        | none => { cmd := m, start := x, finish := x + m.length, ring := 0, latch := [], scales := 0 }
      s.modCore c fun k => k.modMat fun mat => { mat with queue := q, running := mat.running ++ [r], lastStart := x }

/-! ## One clock of the matrix unit (R192) -/

/-- The sums of a tile row drain into it (R51, R201). -/
def State.landDrain (s : State) (c : CoreId) (t : BitVec 3) (row : Nat) (sums : List Chain) (asc : Byte) (bs : BitVec 32)
    (int sat : Bool) : State :=
  let s := sums.zipIdx.foldl (fun s e =>
    let a := tileAddr c t.toNat (512 * row + 4 * e.2)
    let old := BitVec.ofNat 32 (s.peekNat a 4)
    let v := if int then drainI old e.1 sat else drainF old e.1 asc.toNat (fieldNat bs (8 * (e.2 / 32)) 8)
    s.pokes a (toLe 4 v.toNat)) s
  s.modCore c fun k => k.dirtyTile t

/-- The chain sums of one A row against a latch. -/
def rowChains (fa fb : BitVec 3) (klen cols : Nat) (row latch : List Byte) : List Chain :=
  let a := row.toArray
  let l := latch.toArray
  (List.range cols).map fun j => chainOf fa fb klen a l j

/-- `n` bytes of core c's local store as its matrix unit reads them: after the core's stores, also those on their way (R77). -/
def State.lsBytes (s : State) (c : CoreId) (off n : Nat) : List Byte :=
  s.readPart c (2 ^ 64) { va := Config.lsBase + off, len := n, pa := some (lsAddr c off), sc := false }

/-- The bytes of row `i` of a pass at core c, whose ring word was `ring`. -/
def State.ringRow (s : State) (c : CoreId) (ring : W64) (i : Nat) : List Byte :=
  s.lsBytes c (rOffset ring (rHead ring + i)) (rStride ring)

/-- The partner's A row `i`: as the partner read it in its own clock of that row, or, where it has not come to it, as it stands (R202;
log 67). -/
def State.peerRow (s : State) (c : CoreId) (p : Peer) (i : Nat) : List Byte :=
  match (s.core c).mat.peerRows.find? fun x => x.1 == i with
  | some x => x.2
  | none => s.ringRow p.core p.ring i

/-- A row of a paired pass lands: S = S_own + S_partner (R202). For BF16 each half is taken by its own E (R49; log 66). -/
def State.landPair (s : State) (c : CoreId) (r : MRun) (i cols : Nat) (row : List Byte) : State :=
  match r.cmd.instr, r.cmd.peer with
  | .mmap _ t _ _ fa fb _ sat, some p =>
    let klen := pKlen r.cmd.a
    let tr := pRow0 r.cmd.a + i
    let sums := List.zipWith Chain.add (rowChains fa fb klen cols row r.latch) (rowChains fa fb klen cols (s.peerRow c p i) p.latch)
    s.landDrain c t tr sums (pScale r.cmd.a tr) r.scales (fa == 4) sat
  | _, _ => s

/-- A landing takes effect. -/
def State.matLandOne (s : State) (c : CoreId) (l : MLand) : State := match l.what with
  | .bytes addr data tile =>
    let s := s.pokes addr data
    match tile with
    | some t => s.modCore c fun k => k.dirtyTile t
    | none => s
  | .mp n w => s.modCore c fun k => k.setMp n w
  | .pair r i cols row => s.landPair c r i cols row
  | .drain t row sums asc bs int sat => s.landDrain c t row sums asc bs int sat

/-- The tile bytes that a landing at core c writes: first address and length. -/
def MLand.span (l : MLand) (c : CoreId) : Nat × Nat := match l.what with
  | .bytes addr data (some _) => (addr, data.length)
  | .pair r i cols _ => match r.cmd.instr with
    | .mmap _ t _ _ _ _ _ _ => (tileAddr c t.toNat (512 * (pRow0 r.cmd.a + i)), 4 * cols)
    | _ => (0, 0)
  | .drain t row sums .. => (tileAddr c t.toNat (512 * row), 4 * sums.length)
  | _ => (0, 0)

/-- Puts a landing among those due, by command within a clock. -/
def insertLand (l : MLand) : List MLand → List MLand
  | [] => [l]
  | a :: as => if l.ord < a.ord then l :: a :: as else a :: insertLand l as

/-- The landings due at clock x. -/
def Matrix.dueAt (m : Matrix) (x : Nat) : List MLand := m.lands.filter fun l => decide (l.clk ≤ x)

/-- The writes due at clock x land, the earlier command's first; then passes that end pop their rows (R192, R201). -/
def State.matLand (s : State) (c : CoreId) (x : Nat) : State :=
  let due := (s.core c).mat.dueAt x
  let s := s.modCore c fun k => k.modMat fun m => { m with lands := m.lands.filter fun l => !decide (l.clk ≤ x) }
  let s := due.foldl (fun s l => s.matLandOne c l) s
  ((s.core c).mat.running.filter fun r => r.popsAt x).foldl (fun s r =>
    match r.cmd.sources with
    | some (_, ring) => s.modCore c fun k => k.setRing ring (ringPopped (k.ctx.rings.get ring.toFin) (x - r.start))
    | none => s) s

/-- Adds a landing. -/
def State.addLand (s : State) (c : CoreId) (l : MLand) : State :=
  s.modCore c fun k => k.modMat fun m => { m with lands := insertLand l m.lands }

/-- Row `i` of an unpaired pass is read at clock x and lands at x + 16 (R201). -/
def State.passRow (s : State) (c : CoreId) (r : MRun) (t fa fb : BitVec 3) (sat : Bool) (i x : Nat) : State :=
  if pRows r.cmd.a ≤ i then s
  else
    let cols := tcCols ((s.core c).mat.tcfg.get t.toFin) + 1
    let tr := pRow0 r.cmd.a + i
    let sums := rowChains fa fb (pKlen r.cmd.a) cols (s.ringRow c r.ring i) r.latch
    s.addLand c { clk := x + 16, ord := r.start, what := .drain t tr sums (pScale r.cmd.a tr) r.scales (fa == 4) sat }

/-- Row `i` of a paired pass is read at clock x, goes to the partner, and lands at x + 20 (R202). -/
def State.pairRow (s : State) (c : CoreId) (r : MRun) (t : BitVec 3) (i x : Nat) : State :=
  if pRows r.cmd.a ≤ i then s
  else
    let cols := tcCols ((s.core c).mat.tcfg.get t.toFin) + 1
    let row := s.ringRow c r.ring i
    let s := match r.cmd.peer with
      | some p => s.modCore p.core fun k => k.modMat fun m => { m with peerRows := m.peerRows ++ [(i, row)] }
      | none => s
    s.addLand c { clk := x + 20, ord := r.start, what := .pair r i cols row }

/-- The bytes of a drained tile row (R204). -/
def State.drainBytes (s : State) (c : CoreId) (t : BitVec 3) (f : BitVec 2) (row cols : Nat) : List Byte :=
  (List.range cols).flatMap fun j =>
    let w := s.peekNat (tileAddr c t.toNat (512 * row + 4 * j)) 4
    match f.toNat with
    | 0 => toLe 4 w
    | 1 => toLe 2 (bf16.round 0 false false (fp32.decode w))
    | _ => toLe 2 (fp16.round 0 false false (fp32.decode w))

/-- Writes 0 to every listed byte of a range that none of the spans covers. -/
def State.clearBut (s : State) (a n : Nat) (kept : List (Nat × Nat)) : State :=
  (((s.dev.wbuf ++ s.mem.cells).map (·.1)).filter fun p => decide (a ≤ p) && decide (p < a + n) &&
    !kept.any fun k => decide (k.1 ≤ p) && decide (p < k.1 + k.2)).foldl (fun s p => s.poke p 0) s

/-- One row of an `mdrain` is read at clock x, cleared when Z = 1, and lands at x + 16. What a later command's landing of that clock,
one of `due`, wrote stands (R192). -/
def State.drainRow (s : State) (c : CoreId) (r : MRun) (t : BitVec 3) (f : BitVec 2) (z : Bool) (due : List MLand) (x i : Nat) : State :=
  if pRows r.cmd.a ≤ i then s
  else
    let row := pRow0 r.cmd.a + i
    let cols := tcCols ((s.core c).mat.tcfg.get t.toFin) + 1
    let s := s.addLand c { clk := x + 16, ord := r.start,
                           what := .bytes (lsAddr c (dOffset r.cmd.a + 512 * i)) (s.drainBytes c t f row cols) none }
    let kept := (due.filter fun l => decide (r.start < l.ord)).map (·.span c)
    if z then (s.clearBut (tileAddr c t.toNat (512 * row)) 512 kept).modCore c fun k => k.dirtyTile t else s

/-- Chunk `i` of a latch image is read into the latch; the last clock also clears what the image does not cover (R196). -/
def State.latchChunk (s : State) (c : CoreId) (r : MRun) (kk : BitVec 2) (f : BitVec 3) (i : Nat) : State :=
  let rows := fieldNat r.cmd.a 32 11
  let n := rows * imageRow f
  if n ≤ 1024 * i then s
  else
    let len := min 1024 (n - 1024 * i)
    let bs := s.lsBytes c (fieldNat r.cmd.a 0 20 + 1024 * i) len
    let s := bs.zipIdx.foldl (fun s e => s.poke (latchAddr c kk.toNat (latchPos f rows (1024 * i + e.2))) e.1) s
    if n ≤ 1024 * (i + 1) then
      let el := if f = 3 then rows * 64 else n
      let sp := if f = 3 then rows * 4 else 0
      (s.clearRange (latchAddr c kk.toNat el) (65536 - el)).clearRange (latchAddr c kk.toNat (65536 + sp)) (4096 - sp)
    else s

/-- The 32 elements that a slice read returns (R195). -/
def State.sliceVec (s : State) (c : CoreId) (t : BitVec 3) (limit base : Nat) (addr : Nat → Nat) : V1024 :=
  BitVec.ofNat 1024 (leNat ((List.range 32).flatMap fun j =>
    if base + j ≤ limit then s.peeks (tileAddr c t.toNat (addr (base + j))) 4 else zeros 4))

/-- What a command does at clock x beside its start's writes: it reads storage (R192). `due`: what landed in this clock. -/
def State.runReads (s : State) (c : CoreId) (r : MRun) (due : List MLand) (x ahead : Nat) : State :=
  let i := x - r.start
  let w (t : BitVec 3) : BitVec 32 := (s.core c).mat.tcfg.get t.toFin
  match r.cmd.instr with
  | .trowmv _ t row cb _ =>
    if i ≠ 0 ∨ tcCols (w t) < 32 * cb.toNat then s
    else s.addLand c
      { clk := x + 1, ord := x,
        what := .bytes (tileAddr c t.toNat (512 * row.toNat + 128 * cb.toNat))
          ((toLe 128 r.cmd.v.toNat).take (4 * (min 32 (tcCols (w t) + 1 - 32 * cb.toNat)))) (some t) }
  | .trowrd _ t row cb _ =>
    if i ≠ 0 then s
    else
      let v := s.sliceVec c t (tcCols (w t)) (32 * cb.toNat) fun j => 512 * row.toNat + 4 * j
      s.modCore c fun k => k.startResult (ahead + 4) v
  | .tcolrd _ t col rb _ =>
    if i ≠ 0 then s
    else
      let v := s.sliceVec c t (tcRows (w t)) (32 * rb.toNat) fun j => 512 * j + 4 * col.toNat
      s.modCore c fun k => k.startResult (ahead + 4) v
  | .mma _ t _ _ fa fb _ sat => s.passRow c r t fa fb sat i x
  | .mmap _ t _ _ _ _ _ _ => s.pairRow c r t i x
  | .mlatch _ kk f _ => s.latchChunk c r kk f i
  | .mdrain _ t f z _ => (s.drainRow c r t f z due x (2 * i)).drainRow c r t f z due x (2 * i + 1)
  | .mpload _ n cm1 _ =>
    if i ≠ 0 then s
    else (List.range (cm1.toNat + 1)).foldl (fun s j =>
      let v := w64 (leNat (s.lsBytes c (fieldNat r.cmd.a 0 20 + 8 * j) 8))
      s.modCore c fun k => k.setMp (n + BitVec.ofNat 3 j) v) s
  | _ => s

/-- Every running command reads; those whose last effect landed in an earlier clock leave. -/
def State.matReads (s : State) (c : CoreId) (due : List MLand) (x ahead : Nat) : State :=
  let s := (s.core c).mat.running.foldl (fun s r => s.runReads c r due x ahead) s
  s.modCore c fun k => k.modMat fun m => { m with running := m.running.filter fun r => decide (x ≤ r.finish), clk := x + 1 }

/-- What clock x of the matrix unit lands, starts and reads, in this order (R192). -/
def State.matClock (s : State) (c : CoreId) (x ahead : Nat) : State :=
  let due := (s.core c).mat.dueAt x
  ((s.matLand c x).matStart c x ahead).matReads c due x ahead

/-! ## Microprograms (R205 to R207) -/

/-- The scalar fields of a micro-step, which name matrix parameters (R206). -/
def microFields : Instr → Option (BitVec 6) × Option (BitVec 6)
  | .mma _ _ _ _ _ _ a _ => (some a, none)
  | .mlatch _ _ _ a => (some a, none)
  | .mscl _ _ a => (some a, none)
  | .mdrain _ _ _ _ a => (some a, none)
  | .mpset _ _ a => (some a, none)
  | .ringcfg _ _ a b => (some a, some b)
  | _ => (none, none)

/-- Every scalar field of a micro-step (R206). -/
def stepScalars (i : Instr) : List (BitVec 6) := (microFields i).1.toList ++ (microFields i).2.toList ++ (match i with
  | .ringpop _ _ d _ | .ringpush _ _ d _ => [d]
  | _ => [])

/-- The value of a parameter that a field names. -/
def Core.mpVal (k : Core) (f : Option (BitVec 6)) : W64 := match f with
  | some a => k.ctx.mp.get (a.setWidth 3).toFin
  | none => 0

/-- The routine of core c stops at a failing step: its code is a late error of the core (R207, R297, R300). -/
def State.microFail (s : State) (c : CoreId) (code : Nat) : State :=
  let w := (s.core c).ctx.mp.get 7
  (s.modCore c fun k => k.modCtx fun x => { x with mp := x.mp.set 7 (setField w 63 1 0) }).lateOn c
    { scause := w64 (code + 0x200), sfaddr := 0, sfinfo := w64 (fieldNat w 42 6 + fieldNat w 32 10 * 2 ^ 16) }

/-- Where the sequencer stands after a feed of step word `w` (R206, R207). -/
def Core.microNext (k : Core) (w : W64) (first : Nat) : Core :=
  let left := k.mat.rptLeft.getD (fieldNat w 40 8)
  let k := if bitAt w 39 then
      let t : BitVec 3 := bits w 36 3
      k.modCtx fun x => { x with mp := x.mp.set t.toNat (x.mp.get t.toFin + x.mp.get (bits w 32 3).toFin) t.isLt }
    else k
  let m6 := k.ctx.mp.get 6
  let m7 := k.ctx.mp.get 7
  if left ≠ 0 then k.modMat fun m => { m with rptLeft := some (left - 1) }
  else
    let k := k.modMat fun m => { m with rptLeft := none }
    if bitAt w 48 && fieldNat m6 0 16 != 0 then
      k.modCtx fun x => { x with mp := (x.mp.set 6 (setField m6 0 16 (fieldNat m6 0 16 - 1))).set 7 (setField m7 32 10 first) }
    else if bitAt w 31 then k.modCtx fun x => { x with mp := x.mp.set 7 (setField m7 63 1 0) }
    else k.modCtx fun x => { x with mp := x.mp.set 7 (setField m7 32 10 (fieldNat m7 32 10 + 1)) }

/-- Does a step name a tile or a latch (R191, row 1)? -/
def stepOwned : Instr → Bool
  | .mpset .. | .ringcfg .. | .ringpop .. | .ringpush .. => false
  | _ => true

/-- The first check of R191 and of R302 that a step fails. -/
def Core.stepFault (k : Core) (i : Instr) (a b : W64) : Option Nat :=
  if stepOwned i && !k.ownsTiles then some cTileOwner
  else match k.matFault i a b, i with
    | some code, _ => some code
    | none, .trowrd .. | none, .tcolrd .. => if 64 ≤ k.inFlight then some cIllegalOpcode else none
    | none, _ => none

/-- May the sequencer feed a step at the core's clock? -/
def Core.canFeed (k : Core) : Bool :=
  k.mpRun && !k.priv && k.run == .running && k.mat.mfeed == 0 && decide (k.matPending < 8)

/-- The sequencer feeds a step: its command enters the queue, or its failing check ends the routine (R207). -/
def State.matFeed (s : State) (c : CoreId) : State :=
  let k := (s.core c).syncSh
  if !k.canFeed then s
  else
    let w := w64 (s.peekNat (microAddr c (8 * fieldNat (k.ctx.mp.get 7) 32 10)) 8)
    match decodeSyllable (bits w 0 32) 0 with
    | .error _ => s.microFail c cIllegalOpcode
    | .ok i =>
      let (fa, fb) := microFields i
      let a := k.mpVal fa
      let b := k.mpVal fb
      match k.stepFault i a b with
      | some code => s.microFail c code
      | none =>
        let v := match i with | .trowmv _ _ _ _ va => k.vsrc va | _ => 0
        let cmd : MCmd := { instr := i, a := a, b := b, v := v, issue := k.clk.unf, micro := true, peer := none }
        let k := match i with
          | .trowrd _ _ _ _ vd => k.addFlight { k.newFlight unstarted (.v vd .w1024) false 0 with ord := k.clk.count * 8, latch := none }
          | .tcolrd _ _ _ _ vd => k.addFlight { k.newFlight unstarted (.v vd .w1024) false 0 with ord := k.clk.count * 8, latch := none }
          | _ => k
        let k := (k.modMat fun m => { m with queue := m.queue ++ [cmd], mfeed := 1 }).matShadow i a b
        let k := k.microNext w ((s.routine c (fieldNat (k.ctx.mp.get 7) 42 6)).getD 0)
        s.modCore c fun _ => k

/-- The matrix unit's clock: what the core's current unfrozen clock lands, starts and reads, once (R192). -/
def State.matTick (s : State) (c : CoreId) : State :=
  let k := s.core c
  if k.clk.unf < k.mat.clk then s
  else
    let x := k.mat.clk
    let s := if k.mat.idle then s.modCore c fun k => k.modMat fun m => { m with clk := x + 1 }
      else s.matClock c x 0
    if k.mpRun then s.matFeed c else s

/-- Runs the queue to completion, ahead of the core, for at most `n` clocks (R209): no step is fed, results keep their distance
from the stopped bundle. A feed that waits for room (`wait`) gets as `mfeed` the clocks to the one at which there is room. -/
def State.matDrain (c : CoreId) : Nat → Nat → Bool → State → State
  | 0, _, _, s => s
  | n + 1, ahead, wait, s =>
    let x := (s.core c).mat.clk
    let idle := (s.core c).mat.idle
    let s := if idle then s else s.matClock c x ahead
    let m := (s.core c).mat
    let room := decide (m.queue.length + (m.running.filter fun r => decide (x < r.finish)).length < 8)
    let s := if wait && room then s.modCore c fun k => k.modMat fun m => { m with mfeed := ahead } else s
    if idle then s else State.matDrain c n (ahead + 1) (wait && !room) s

/-- Every command in the queue completes (R209). -/
def State.matFlush (s : State) (c : CoreId) : State :=
  let k := s.core c
  let s := State.matDrain c 4096 (k.mat.clk - k.clk.unf) (k.mpRun && k.mat.mfeed == 0) s
  s.modCore c fun k => { k with clk := { k.clk with unf := k.mat.clk } }

/-- R190: the next command of the core that acts starts, when it may: not before what its clock lands, nor under the freeze line. -/
def execMatrixCommandStart (s : State) : Out :=
  act (fun s =>
    let k := s.me
    let x := k.clk.unf
    if k.run = .running ∧ !k.frozen ∧ !(k.mat.running.any fun r => r.popsAt x) then s.matStart s.dev.cur.core x 0 else s) s

/-- Has the matrix unit made its clock x, or would that clock change nothing that a feed of clock x reads: does nothing land, and no
command start (R192, R207)? -/
def Matrix.settled (m : Matrix) (x : Nat) : Bool :=
  decide (x < m.clk) || (!(m.lands.any fun l => decide (l.clk ≤ x)) && !(m.running.any fun r => r.popsAt x) &&
    match m.queue with
    | [] => true
    | c :: _ => !m.canStart c x)

/-- R207: the sequencer of the core that acts feeds a step, when it may: after what the matrix unit does in the clock, and not under the
freeze line. -/
def execMicroStepFeed (s : State) : Out :=
  act (fun s => if s.me.frozen || !s.me.mat.settled s.me.clk.unf then s else s.matFeed s.dev.cur.core) s

/-! ## Paired passes (R202, R203) -/

/-- The matrix partner of a core: the same core of the other cluster of its pair. -/
def partnerOf (c : CoreId) : CoreId :=
  if c.val / 8 % 2 = 0 then ⟨(c.val + 8) % 128, Nat.mod_lt _ (by decide)⟩ else ⟨c.val - 8, by omega⟩

/-- The task record of the task on a core. -/
def State.taskOf (s : State) (c : CoreId) : Option Task := (s.core c).task.bind s.taskById

/-- Are the `mmap` counts and cohorts of the two tasks such that their halves pair? -/
def State.pairable (s : State) (c p : CoreId) : Bool := match s.taskOf c, s.taskOf p with
  | some a, some b => a.cohort == b.cohort && a.pairs == b.pairs
  | _, _ => false

/-- Do two halves agree in M, KLEN, FA, FB and SAT? -/
def MCmd.agrees (m n : MCmd) : Bool := match m.instr, n.instr with
  | .mmap _ _ _ _ fa fb _ sat, .mmap _ _ _ _ fa' fb' _ sat' =>
    pRows m.a == pRows n.a && pKlen m.a == pKlen n.a && fa == fa' && fb == fb' && sat == sat'
  | _, _ => false

/-- The half of core p as its partner sees it when the pair issues. -/
def State.peerOf (s : State) (p : CoreId) (m : MCmd) : Peer := match m.sources with
  | some (kk, ring) => { core := p, instr := m.instr, a := m.a, ring := (s.core p).ctx.rings.get ring.toFin,
                         latch := s.peeks (latchAddr p kk.toNat 0) latchBytes }
  | none => { core := p, instr := m.instr, a := m.a, ring := 0, latch := [] }

/-- Ends a posted half of core c; no row of a partner has come. -/
def State.endPair (s : State) (c : CoreId) (e : PairEnd) : State :=
  s.modCore c fun k => k.modMat fun m => { m with pairEnd := some e, peerRows := [] }

/-- A posted half that has not ended. -/
def Core.waitingHalf (k : Core) : Option Posted := if k.mat.pairEnd.isSome then none else k.mat.posted

/-- Is a stop a fault of its task: no pre-emption, no request of the dispatcher, no `syscall` (R203, R297)? -/
def faultStop (scause : W64) : Bool := !bitAt scause 8 && fieldNat scause 0 8 != cSyscall

/-- The task of a cohort on core p faults or ends: a half of its partner's that waits has lost it (R203). -/
def State.losePair (s : State) (p : CoreId) (cohort : Nat) : State :=
  let c := partnerOf p
  if (s.core c).waitingHalf.isSome && (s.taskOf c).any (fun t => t.cohort == cohort) then
    s.modCore c fun k => k.modMat fun m => { m with posted := m.posted.map fun a => { a with lost := true } }
  else s

/-- R202: the halves of core c and of its partner are both posted, each within 4,096 clocks of the other: the pair issues. -/
def State.pairIssue (s : State) (c : CoreId) : State :=
  let p := partnerOf c
  match (s.core c).waitingHalf, (s.core p).waitingHalf with
  | some a, some b =>
    if s.pairable c p && a.cmd.agrees b.cmd && decide (a.waited < 4096) && decide (b.waited < 4096) && !a.lost && !b.lost then
      (s.endPair c (.issue (s.peerOf p b.cmd))).endPair p (.issue (s.peerOf c a.cmd))
    else s
  | _, _ => s

/-- R203: the posted half of core c ends without its partner; halves that disagree end together. -/
def State.pairAbort (s : State) (c : CoreId) : State :=
  let p := partnerOf c
  match (s.core c).waitingHalf with
  | none => s
  | some a =>
    if 4096 ≤ a.waited || a.lost then s.endPair c .abort
    else match (s.core p).waitingHalf with
      | some b => if s.pairable c p && !a.cmd.agrees b.cmd then (s.endPair c .abort).endPair p .abort else s
      | none => s

/-- The posted half of a core ends as soon as it can: with its pair, or with PAIR_ABORT (R18, R202, R203). -/
def State.pairUp (s : State) (c : CoreId) : State :=
  if (s.core c).waitingHalf.isNone then s else (s.pairIssue c).pairAbort c

/-- R202: the pair of the core that acts issues, when both halves are posted. -/
def execPairIssue (s : State) : Out := act (fun s => s.pairIssue s.dev.cur.core) s

/-- R203: the posted half of the core that acts ends without its partner, when it must. -/
def execPairAbort (s : State) : Out := act (fun s => s.pairAbort s.dev.cur.core) s

/-- The task of the acting core has completed an `mmap`. -/
def State.countPair (s : State) : State :=
  let bump (t : Task) : Task := if s.me.task = some t.id then { t with pairs := t.pairs + 1 } else t
  s.upd fun d => { d with tasks := d.tasks.map bump }

/-- R202, R203: a paired pass. The half is posted once the queue is empty, for which the bundle waits with the queue going on (log 65);
it then waits under the freeze line until the pair issues or aborts. -/
def execMmap (x : Lent) (t : BitVec 3) (k ring : BitVec 2) (fa fb : BitVec 3) (a : BitVec 6) (sat : Bool) (s : State) : Out :=
  act (syl x (Uses.none.r a) fun s =>
    let s := s.modMe Core.syncSh
    let c := s.me
    let i : Instr := .mmap x t k ring fa fb a sat
    let v := s.sreg a
    if !c.ownsTiles then s.trapAt cTileOwner
    else if 8 ≤ c.matPending || c.routineActive then s.trapAt cIllegalOpcode
    else match c.matFault i v 0 with
      | some code => s.trapAt code
      | none =>
        let done (s : State) : State := (s.modMe fun k => k.modMat fun m => { m with posted := none, pairEnd := none }).countPair
        match c.mat.pairEnd with
        | some (.issue p) => (done (s.queueCmd i v 0 0 (some p))).resOutcome true false 0 false
        | some .abort => (done s).resOutcome true true t.toNat false
        | none =>
          let cmd : MCmd := { instr := i, a := v, b := 0, v := 0, issue := c.clk.unf, micro := false, peer := none }
          if c.mat.posted.isSome then s.holdOn .partner
          else if c.matDone then
            (s.modMe fun k => k.modMat fun m => { m with posted := some { cmd := cmd, waited := 0, lost := false } }).holdOn .partner
          else s.holdOn .queueEmpties) s

end Sys2Proof.Machine
end

