-- ==== Sys2Proof/Machine/Perform.lean ====
section
/-! DEFINITION. Performing accesses: loads, atomics, stores and stream entries on their way (R63, R75 to R86, R184, R413), and what a
walk's return lets go on (R331, R332). -/

namespace Sys2Proof.Machine

/-! ## Settling: what a performed access allows to go on -/

/-- Clears the wait of every result that waits for an operation. -/
def Core.arrive (k : Core) (id : Nat) : Core :=
  { k with flights := k.flights.map fun f => if f.wait = some id then { f with wait := none } else f }

/-- The places in write streams that the results of an operation were to fill. -/
def Core.placesOf (k : Core) (id : Nat) : List Nat := k.flights.filterMap fun f => match f.dest with
  | .wr _ place => if f.wait = some id then some place else none
  | _ => none

/-- The results of a dropped load write nothing; FADDR is the first faulting address (R300, R303). An entry that one was to fill in a
write stream is given up: it writes nothing, and the entries behind it drain (the spec does not say: DESIGN CHOICE, log 62). -/
def Core.dropResults (k : Core) (id va : Nat) : Core :=
  let gone := k.placesOf id
  { k with
    flights := k.flights.map fun f => if f.wait = some id ∧ !f.err then { f with err := true, faddr := w64 va } else f
    wents := if gone.isEmpty then k.wents else k.wents.filter fun e => !gone.contains e.place }

/-- Is a fence's condition met (R81, R83)? -/
def State.fenceMet (s : State) (c : CoreId) (o : MemOp) : Bool := match o.kind with
  | .fence loads all remote =>
    (!loads || s.loadsDone c o.seq) && (!all || (s.accessesDone c o.seq o.scope remote && (remote || s.visibleDone c o.scope)))
  | _ => false

/-- Ends the fences of core c whose condition holds, and lets its release stores and release atomics leave (R81, R84). -/
def State.settle (s : State) (c : CoreId) : State :=
  let done := ((s.core c).ops.filter fun o => s.fenceMet c o).map (·.id)
  let s := if done.isEmpty then s else s.modCore c fun k =>
    done.foldl (fun k id => k.arrive id) { k with ops := k.ops.filter fun o => !done.contains o.id }
  let leave (o : MemOp) : MemOp :=
    if o.rel && s.releaseReady c o.seq o.scope then { o with rel := false, since := s.dev.board.dtime } else o
  let s := if (s.core c).ops.any (·.rel) then s.modCore c fun k => { k with ops := k.ops.map leave } else s
  if s.dev.writes.any (fun w => w.hold.isSome) then
    s.upd fun d => { d with writes := d.writes.map fun w => match w.hold with
      | some sc => if w.core = c && s.releaseReady c w.seq sc then { w with hold := none, since := d.board.dtime } else w
      | none => w }
  else s

/-! ## Loads and atomics -/

/-- Sign- or zero-extends a loaded number (R142). -/
def extLoad (size : Nat) (sx : Bool) (n : Nat) : W64 := if sx then ofI (sgn (8 * size) n) else w64 n

/-- The new value of an `amo` (R144). -/
def amoNew (op : BitVec 3) (size : Nat) (old opnd : Nat) : Nat :=
  let w := 8 * size
  let b := opnd % 2 ^ w
  match op.toNat with
  | 0 => b
  | 1 => (old + b) % 2 ^ w
  | 2 => old &&& b
  | 3 => old ||| b
  | 4 => old ^^^ b
  | 5 => if sgn w old < sgn w b then b else old
  | 6 => if sgn w b < sgn w old then b else old
  | _ => if old < b then b else old

/-- The value of an operation as one of its results takes it: the second register of a pair takes the high half; a result that
only reaches a latch keeps its own. -/
def deliverTo (d : Option (BitVec 6)) (val : V1024) (f : Flight) : Flight := match f.dest, d with
  | .none, _ => { f with wait := none }
  | .s r _, some d => { f with wait := none, val := if r = d then val.setWidth 64 |>.setWidth 1024 else BitVec.ofNat 1024 (val.toNat / 2 ^ 64) }
  | _, _ => { f with wait := none, val := val }

/-- A result of an operation arrives. -/
def Core.deliver (k : Core) (id : Nat) (d : Option (BitVec 6)) (val : V1024) : Core :=
  { k with flights := k.flights.map fun f => if f.wait = some id then deliverTo d val f else f }

/-- Writes bytes to the places of translated parts at once. -/
def State.pokeParts : State → List Part → List Byte → State
  | s, [], _ => s
  | s, p :: ps, bs => State.pokeParts (s.pokes (p.pa.getD 0) (bs.take p.len)) ps (bs.drop p.len)

/-- The value that an operation of core c returns, and the state after it has performed (R84, R142, R144, R179). -/
def State.performOp (s : State) (c : CoreId) (o : MemOp) : V1024 × State :=
  let old := leNat (s.readParts c o.seq o.parts)
  match o.kind with
  | .load size sx => ((extLoad size sx old).setWidth 1024, s)
  | .vload => (BitVec.ofNat 1024 old, s)
  | .amo op size opnd => (BitVec.ofNat 1024 old, s.pokeParts o.parts (toLe size (amoNew op size old opnd.toNat)))
  | .cas size e n =>
    (BitVec.ofNat 1024 old, if old = e.toNat % 2 ^ (8 * size) then s.pokeParts o.parts (toLe size n.toNat) else s)
  | .fence .. => (0, s)

/-- Removes an operation and delivers its value. -/
def State.finishOp (s : State) (c : CoreId) (o : MemOp) : State :=
  let (v, s) := s.performOp c o
  (s.modCore c fun k => { (k.deliver o.id o.dreg v) with ops := k.ops.filter fun x => x.id != o.id }).settle c

/-- Changes an operation of a core. -/
def Core.modOp (k : Core) (id : Nat) (f : MemOp → MemOp) : Core :=
  { k with ops := k.ops.map fun x => if x.id = id then f x else x }

/-- Reports the failed units of an operation, in ascending order, as far as all before them are translated: each is a late error, and
the load is dropped (R181, R300, R332). -/
def State.resolveOp (c : CoreId) (id : Nat) : Nat → State → State
  | 0, s => s
  | n + 1, s => match (s.core c).op id with
    | none => s
    | some o => match firstBad o.parts with
      | none => s
      | some (u, code, va) =>
        let s := s.lateError c o.own code va (dropInfo o.dreg) false
        let left := o.parts.filter fun p => p.unit != u
        State.resolveOp c id n (s.modCore c fun k =>
          let k := k.dropResults id va
          if left.isEmpty then { k.arrive id with ops := k.ops.filter fun x => x.id != id }
          else k.modOp id fun x => { x with parts := left })

/-- Reads the parts of a load that `sel` picks and that may be read now. -/
def State.readNow (s : State) (c : CoreId) (o : MemOp) (sel : Part → Bool) : State :=
  let read (p : Part) : Part := if sel p && s.partReady c o p then { p with got := some (s.readPart c o.seq p) } else p
  s.modCore c fun k => k.modOp o.id fun x => { x with parts := x.parts.map read }

/-- Ends a load all of whose parts have been read (R63). -/
def State.endLoad (s : State) (c : CoreId) (id : Nat) : State := match (s.core c).op id with
  | some o => if !o.isAtomic && o.parts.all (·.got.isSome) then s.finishOp c o else s
  | none => s

/-- The first address of an operation. -/
def MemOp.firstVa (o : MemOp) : Nat := (o.parts.head?.map (·.va)).getD 0

/-- An entry of kind 2 in a tenant's fault log: a memory error (R389, R394). -/
def State.logEcc (s : State) (t : TenantId) (code cls core va : Nat) : State :=
  s.logEntry t (code + t.val * 2 ^ 12 + 2 * 2 ^ 16 + core * 2 ^ 20 + cls * 2 ^ 28) va 0

/-- An outstanding operation of core c ends with an error: a load is dropped, and the error is a late one (R300). -/
def State.dropOp (s : State) (c : CoreId) (o : MemOp) (code : Nat) (timeout : Bool) : State :=
  let s := s.modCore c fun k => { (k.dropResults o.id o.firstVa).arrive o.id with ops := k.ops.filter fun x => x.id != o.id }
  s.lateError c o.own code o.firstVa (dropInfo o.dreg) timeout

/-- Issues a load or atomic: it joins the core's outstanding operations, its faults found so far are reported, and what lies in local
memory performs now (R63, R77); one whose read meets a double-bit error fails (R394). The results already stand among those in flight with
`wait := some id`. -/
def State.issueOp (s : State) (o : MemOp) : State :=
  let c := s.dev.cur.core
  let s := (s.modCore c fun k => { k with ops := k.ops ++ [o] }).resolveOp c o.id o.parts.length
  if (s.core c).ecc then
    ((s.modCore c fun k => { k with ecc := false }).logEcc (s.coreTenant c) cDataUnmapped clsCore c.val o.firstVa).dropOp c o cDataUnmapped false
  else if o.isAtomic then
    match (s.core c).op o.id with
    | some o => if o.parts.all (·.isLocal c) && s.atomReady c o then s.finishOp c o else s
    | none => s
  else (s.readNow c o (·.isLocal c)).endLoad c o.id

/-! ## Stores -/

/-- Puts a write into a next plane: before those of its member's later stores to the word, as they stand in the core's program order
(R92). -/
def insertPlane (w : PlaneWrite) : List PlaneWrite → List PlaneWrite
  | [] => [w]
  | x :: xs => if x.task = w.task ∧ x.core = w.core ∧ x.word = w.word ∧ w.seq < x.seq then w :: x :: xs else x :: insertPlane w xs

/-- A member's write of an aligned word of a zone's window enters the next plane (R67, R92). -/
def State.zoneStore (s : State) (n : BitVec 6) (w : PlaneWrite) : State :=
  s.modPz n fun z => { z with plane := insertPlane w z.plane }

/-- A store's bytes, before they are cut into writes: its place among the accesses, its hold as a release, the stream it drained from,
its number, and whose it is. -/
structure StoreTag where
  seq : Nat
  hold : Option (BitVec 3)
  stream : Option (BitVec 3)
  acc : Nat
  own : Owner
deriving DecidableEq, Repr

/-- Puts a write among the pending ones: behind those of its core that come before it in program order (R75). -/
def insertWrite (w : PendingWrite) : List PendingWrite → List PendingWrite
  | [] => [w]
  | x :: xs => if x.core = w.core ∧ x.lvl = 0 ∧ x.op = none ∧ w.lvl = 0 ∧ w.op = none ∧ w.seq < x.seq then w :: x :: xs
    else x :: insertWrite w xs

/-- Puts a write among the pending ones. -/
def State.addWrite (s : State) (w : PendingWrite) : State := s.upd fun d => { d with writes := insertWrite w d.writes }

/-- Writes the bytes of a pending write from a place on; a byte that it does not write stays. -/
def State.pokeSome : State → Nat → List (Option Byte) → State
  | s, _, [] => s
  | s, a, none :: bs => State.pokeSome s (a + 1) bs
  | s, a, some b :: bs => State.pokeSome (s.poke a b) (a + 1) bs

/-- One granule of a store of core c: a local one performs now unless an earlier local access of the core, or an access to the same
bytes, has not performed, a load of its bundle has bytes to read, or a release holds it (R75 to R77). A write to an SC page adds a landing that waits for it (R85). -/
def State.storeGranule (s : State) (c : CoreId) (g : StoreTag) (p : Part) (bs : List (Option Byte)) : State :=
  let k := s.core c
  let busy := (s.dev.writes.any fun w => w.core == c && w.op.isNone && w.overlaps p.va p.pa p.len) ||
    (k.pushed.any fun e => decide (e.seq < g.seq) && e.overlaps p.va p.len) || s.readAhead c g.seq p || s.bundleReads c g.seq
  if p.isLocal c && g.hold.isNone && !busy && !s.localAhead c g.seq (fun _ => true) p.va then s.pokeSome (p.pa.getD 0) bs
  else
    let (id, s) := s.fresh
    let w : PendingWrite :=
      { id := id, seq := g.seq, core := c, tenant := BitVec.ofNat 4 (s.coreTenant c).val, since := s.dev.board.dtime, va := p.va,
        pa := p.pa, data := bs, lvl := 0, sc := p.sc, hold := g.hold, op := none, stream := g.stream, acc := g.acc, unit := p.unit,
        err := p.err, own := g.own }
    let s := s.addWrite w
    if p.sc then s.modCore c fun k => k.addFlight { k.newFlight 1 .none false 0 with counts := false, wait := some id } else s

/-- The granules of a translated piece of a store. A granule of which no byte is written writes nothing, but in a page that is not
translated it stands for the check of its page (R181). -/
def State.storePiece (s : State) (c : CoreId) (g : StoreTag) (p : Part) (bs : List (Option Byte)) : State :=
  (p.cut.foldl (fun r q =>
    let mine := r.2.take q.len
    (if mine.all (·.isNone) && q.pa.isSome then r.1 else r.1.storeGranule c g q mine, r.2.drop q.len)) (s, bs)).1

/-- The bytes that a part of a store covers in a page. -/
structure Cut where
  va : Nat
  bs : List (Option Byte)
  unit : Nat
deriving DecidableEq, Repr

/-- Element `n` of a store cut at 64 KiB boundaries. `whole`: it fails as a whole (a scalar store, or an element); else each piece of its
span fails by itself (R181, R332). -/
def cutsOf (whole : Bool) (n : Nat) (e : Nat × List (Option Byte)) : List Cut :=
  (spanPieces e.1 e.2.length).zipIdx.map fun p =>
    { va := p.1.1, bs := (e.2.drop (p.1.1 - e.1)).take p.1.2, unit := if whole then 2 * n else 2 * n + p.2 }

/-- The number and first faulting byte of the first unit of a store that has failed, all before it being translated. -/
def State.badWrite (s : State) (c : CoreId) (acc : Nat) : Option (Nat × Nat × Nat) :=
  firstBad ((s.dev.writes.filter fun w => w.core == c && w.op.isNone && w.acc == acc && w.lvl == 0).map fun w : PendingWrite =>
    { va := w.va, len := 0, pa := w.pa, sc := false, unit := w.unit, err := w.err })

/-- A write stream whose drain faults stops: what it still holds is dropped, and it has no further entry (R237, log 18). -/
def Core.stopStream (k : Core) (slot : BitVec 3) : Core :=
  { (k.modStream slot fun x => { x with stopped := true, next := max x.next x.total }) with
    wents := k.wents.filter fun e => e.slot != slot }

/-- Removes the writes that `p` picks; a landing that waits for one is free to land. -/
def State.removeWrites (s : State) (p : PendingWrite → Bool) : State :=
  let gone := s.dev.writes.filter p
  if gone.isEmpty then s
  else
    let s := s.upd fun d => { d with writes := d.writes.filter fun w => !p w }
    gone.foldl (fun s w => s.modCore w.core fun k => k.arrive w.id) s

/-- Is a write one of a core's store, still in the core? -/
def PendingWrite.of (w : PendingWrite) (c : CoreId) (acc : Nat) : Bool :=
  w.core == c && w.op.isNone && w.acc == acc && w.lvl == 0

/-- Reports the failed units of a store, in ascending order, as far as all before them are translated: each is a late error, and
none of its bytes is stored; a stream whose drain fails stops (R181, R237, R300, R332). A translated write that writes nothing has
served its purpose. -/
def State.resolveStore (c : CoreId) (acc : Nat) : Nat → State → State
  | 0, s => s
  | n + 1, s => match s.badWrite c acc with
    | none => s.removeWrites fun w => w.of c acc && w.pa.isSome && w.data.all (·.isNone)
    | some (u, code, va) =>
      let mine (w : PendingWrite) : Bool := w.of c acc && w.unit == u
      let s := match s.dev.writes.find? mine with
        | some w =>
          let s := s.lateError c w.own code va 0 false
          (match w.stream with
            | some st => s.modCore c fun k => k.stopStream st
            | none => s)
        | none => s
      State.resolveStore c acc n (s.removeWrites mine)

/-- Cuts of a store of core c outside every zone's window: each is translated, and its granules become writes, or perform now. -/
def State.storeCuts (s : State) (c : CoreId) (g : StoreTag) (cuts : List Cut) : State :=
  cuts.foldl (fun s x =>
    let (p, s) := s.mkPart c .write true x.va x.bs.length
    s.storePiece c g { p with unit := x.unit } x.bs) s

/-- One element of a store: what lies in a zone's window goes to the next plane, aligned word by aligned word (R67, R92, R182), the rest to
memory. -/
def State.storeElem (s : State) (c : CoreId) (task : Option Nat) (g : StoreTag) (whole : Bool) (n : Nat)
    (e : Nat × List (Option Byte)) : State :=
  match s.zoneAt e.1 e.2.length with
  | none => s.storeCuts c g (cutsOf whole n e)
  | some z =>
    let lo := max e.1 (s.zone z).base
    let hi := min (e.1 + e.2.length) ((s.zone z).base + (s.zone z).size)
    if hi ≤ lo then s.storeCuts c g (cutsOf whole n e)
    else
      let first := (lo + 3) / 4 * 4
      let s := (List.range ((hi - first) / 4)).foldl (fun s i =>
        let bs := (e.2.drop (first + 4 * i - e.1)).take 4
        if bs.any (·.isNone) then s
        else s.zoneStore z { task := task.getD 0, core := c, seq := g.seq, word := first + 4 * i,
                             val := BitVec.ofNat 32 (leNat (bs.filterMap id)) }) s
      s.storeCuts c g ((if e.1 < lo then cutsOf whole n (e.1, e.2.take (lo - e.1)) else []) ++
        (if hi < e.1 + e.2.length then cutsOf whole n (hi, e.2.drop (hi - e.1)) else []))

/-- The elements of a store of core c for a task, in order; then its failed units are reported. -/
def State.storeBytes (s : State) (c : CoreId) (task : Option Nat) (g : StoreTag) (whole : Bool) (els : List (Nat × List (Option Byte))) :
    State :=
  State.resolveStore c g.acc (2 * els.length + 1) (els.zipIdx.foldl (fun s e => s.storeElem c task g whole e.2 e.1) s)

/-! ## Stream entries drain (R184, R235, R237) -/

/-- The first entry of a write stream that may drain (R184). -/
def Core.toDrain (k : Core) (slot : BitVec 3) : Option WEnt := k.wents.find? fun e => e.slot == slot && k.drainable e

/-- The first fault of a store of `len` bytes at `va`, as check 7 finds it. -/
def State.storeFault (s : State) (va len : Nat) : Option (Nat × Nat) :=
  match s.dataFault .write true va len with
  | some f => some f
  | none => if rowOf va = .vault then s.granuleFault va len else none

/-- Drains one entry of a write stream of core c: its bytes become a store of the core (R90, R184). A fault is a late error and stops
the stream (R237). -/
def State.drainSlot (s : State) (c : CoreId) (slot : BitVec 3) : State :=
  match (s.core c).toDrain slot with
  | none => s
  | some e =>
    let cur := s.dev.cur
    let f := (s.upd fun d => { d with cur := { cur with core := c } }).storeFault e.va e.len
    match f with
    | some f => ((s.lateError c e.own f.1 f.2 0 false).modCore c fun k => k.stopStream slot).settle c
    | none =>
      let (id, s) := (s.modCore c fun k => { k with wents := k.wents.filter fun x => x.place != e.place }).fresh
      let bs := toLe e.len ((e.val.getD 0).toNat % 2 ^ (8 * e.len))
      (s.storeBytes c e.own.task { seq := e.seq, hold := none, stream := some slot, acc := id, own := e.own } false
        [(e.va, bs.map some)]).settle c

/-- Drains the first `n` entries of a slot. -/
def State.drainMany (c : CoreId) (slot : BitVec 3) : Nat → State → State
  | 0, s => s
  | n + 1, s => State.drainMany c slot n (s.drainSlot c slot)

/-- Before an access to `els`, the entries that precede it drain: those on the same bytes, or in the same local memory, and those before
them in their streams (R75, R77, R90). -/
def State.drainAhead (s : State) (c : CoreId) (seq : Nat) (els : List (Nat × Nat)) : State :=
  if (s.core c).wents.isEmpty then s
  else forUpto 8 (fun i s =>
    let slot := BitVec.ofNat 3 i
    let k := s.core c
    let l := (k.wents.filter fun e => e.slot == slot && k.drainable e).zipIdx
    let n := (l.filter fun e => els.any fun x => e.1.ahead c seq x.1 x.2).foldl (fun n e => max n (e.2 + 1)) 0
    State.drainMany c slot n s) s

/-- The index of the entry that a read stream fetches next, if it may fetch one: four entries at most stand ahead (R234, R236,
R237). -/
def StreamSlot.nextFetch (st : StreamSlot) : Option Nat :=
  if !st.bound || st.dir || st.stopped || 4 ≤ st.fifo.length then none
  else if st.gath then st.gq.head?.map (·.toNat)
  else if st.next < st.total then some st.next else none

/-! ### Results that a freeze keeps from their entries (R17, R81, R91, R93; log 12)

R17 stops the countdown of a result while the freeze line is asserted, and R81, R90, R91 and R93 make fences, releases and later accesses
wait for the entry that the result is to fill. Where the freeze, or a stop, itself waits for such an access, the result fills its entry
at once; it reaches its latch, and counts as a result in flight, as before. -/

/-- Does an operation of core c wait for an entry? -/
def State.opNeeds (s : State) (c : CoreId) (o : MemOp) (e : WEnt) : Bool :=
  decide (e.seq < o.seq) && match o.kind with
    | .fence _ all remote => all && !(remote && localVa c e.va)
    | _ => o.rel || o.parts.any fun p => p.got.isNone && (e.ahead c o.seq p.va p.len || (p.sc && s.entrySc c e))

/-- Does a write of core c that is still in the core wait for an entry? -/
def State.writeNeeds (s : State) (c : CoreId) (w : PendingWrite) (e : WEnt) : Bool :=
  w.core == c && w.op.isNone && w.lvl == 0 && decide (e.seq < w.seq) &&
    (w.hold.isSome || e.ahead c w.seq w.va w.data.length || (w.sc && s.entrySc c e))

/-- Does an access of core c made at `upto` or before wait for an entry? -/
def State.accessNeeds (s : State) (c : CoreId) (upto : Nat) (e : WEnt) : Bool :=
  ((s.core c).ops.any fun o => decide (o.seq ≤ upto) && s.opNeeds c o e) ||
    s.dev.writes.any fun w => decide (w.seq ≤ upto) && s.writeNeeds c w e

/-- Does an engine operation of the context on core c that has not begun wait for an entry (R87)? -/
def State.engNeeds (s : State) (c : CoreId) (e : WEnt) : Bool :=
  s.dev.eng.any fun o => o.token.isNone && o.stage == 0 && o.pos == 0 && decide (e.seq < o.seq) && (o.acq || localVa c e.va) &&
    match o.owner with
    | .task n d => d == c && (s.core c).task == some n
    | .queue .. => false

/-- Does what keeps core c frozen wait for an entry? -/
def State.freezeNeeds (s : State) (c : CoreId) (e : WEnt) : Bool :=
  let k := s.core c
  (k.flights.any fun f => f.rem == 0 && match f.wait with
    | none => false
    | some id => match k.op id, s.dev.writes.find? fun w => w.id == id with
      | some o, _ => s.accessNeeds c o.seq e
      | none, some w => s.accessNeeds c w.seq e
      | none, none => false) || match k.bun.hold with
    | some (.token _) | some (.fullQueue _) | some (.emptyQueue _) | some (.barrier _) | some (.stepWait _) | some (.record _) =>
      (k.defer.any fun d => decide (e.seq < d.1)) || s.engNeeds c e
    | some (.emptyStream slot) =>
      let st := k.ctx.streams.get slot.toFin
      match st.nextFetch with
      | some i => sameLocal c e.va (st.entryVa i)
      | none => false
    | _ => false

/-- Does the stop that core c completes wait for an entry: every access before it has performed, and every entry whose result has landed
has drained (R184, R299)? -/
def State.stopNeeds (s : State) (c : CoreId) (e : WEnt) : Bool :=
  let k := s.core c
  e.val.isSome || s.accessNeeds c (2 ^ 64) e || (k.defer.any fun d => decide (e.seq < d.1)) || s.engNeeds c e

/-- The entries whose results are to fill them now: those needed, and those before them in their streams. -/
def State.stuck (s : State) (c : CoreId) : List WEnt :=
  let k := s.core c
  let needs (e : WEnt) : Bool := match k.run with
    | .running => k.frozen && s.freezeNeeds c e
    | .stopping _ => s.stopNeeds c e
    | _ => false
  let l := k.pushed.filter fun e => k.unfilled e && needs e
  k.wents.filter fun x => x.val.isNone && l.any fun e => e.slot == x.slot && decide (x.place ≤ e.place)

/-- The results that have their data fill the entries of a list. -/
def Core.fill (k : Core) (l : List WEnt) : Core :=
  let mine (f : Flight) : Bool := f.wait.isNone && !f.err && l.any fun e => f.dest == .wr e.slot e.place
  { (k.flights.filter mine).foldl Core.landDest k with
    flights := k.flights.map fun f => if mine f then { f with dest := .none } else f }

/-- What waits on core c for entries that a freeze or a stop keeps unfilled goes on. -/
def State.unstick (s : State) (c : CoreId) : State :=
  if (s.core c).wents.isEmpty then s
  else match s.stuck c with
    | [] => s
    | l => s.modCore c fun k => k.fill l

/-- Local-store data that is due arrives, whatever of the core's has not performed in its local store: it never freezes the core (R58;
log 61). -/
def State.readDue (s : State) (c : CoreId) : State :=
  if !(s.core c).lateLoad then s
  else ((s.core c).ops.filter fun o => (s.core c).dueNow o.id && o.isAccess && !o.isAtomic && o.parts.all fun p => rowOf p.va != .vault && p.isLocal c).foldl
    (fun s o => ((s.drainAhead c o.seq (o.parts.map fun p => (p.va, p.len))).readNow c o fun p => p.isLocal c).endLoad c o.id) s

/-- A store of the acting core's bundle: elements of bytes in ascending order; a byte that is none is checked but not written. -/
def State.storeMany (s : State) (hold : Option (BitVec 3)) (whole : Bool) (els : List (Nat × List (Option Byte))) : State :=
  let c := s.dev.cur.core
  let seq := s.me.seq 3
  let (id, s) := (s.drainAhead c seq (els.map fun e => (e.1, e.2.length))).fresh
  s.storeBytes c s.me.task { seq := seq, hold := hold, stream := none, acc := id, own := s.me.owner } whole els

/-- A scalar store of the acting core's bundle. -/
def State.store (s : State) (hold : Option (BitVec 3)) (va : Nat) (bs : List Byte) : State :=
  s.storeMany hold true [(va, bs.map some)]

/-! ## Writes on their way (R80, R413) -/

/-- Are all writes of the unit that a write belongs to translated (R332)? -/
def State.unitWhole (s : State) (w : PendingWrite) : Bool :=
  w.op.isSome || s.dev.writes.all fun x => !(x.core == w.core && x.op.isNone && x.acc == w.acc && x.unit == w.unit) ||
    (x.pa.isSome && x.err.isNone)

/-- The pending writes that stand before one. -/
def State.writesBefore (s : State) (w : PendingWrite) : List PendingWrite := s.dev.writes.takeWhile fun x => x.id != w.id

/-- May a write pass the slotted unit before its target (R387)? An engine's write crosses the mesh within the engine's own unit. -/
def State.writeOpen (s : State) (w : PendingWrite) (p : Nat) : Bool :=
  (w.op.isSome && pathClass w.core p == some 6) || s.pathOpen w.core (tid w.tenant) p

/-- May a write move to its next point? -/
def State.writeReady (s : State) (w : PendingWrite) : Bool :=
  let c := w.core
  let k := s.core c
  let len := w.data.length
  match w.lvl, w.pa with
  | 0, some p =>
    let before := s.writesBefore w
    w.hold.isNone && s.unitWhole w &&
      !(k.ops.any fun o => o.isAccess && decide (o.seq < w.seq) && o.parts.any fun p => p.got.isNone && w.overlaps p.va p.pa p.len) &&
      !(before.any fun x => x.core == c && x.lvl == 0 &&
          (x.overlaps w.va w.pa len || (w.stream.isSome && x.stream == w.stream))) &&
      !(k.pushed.any fun e => decide (e.seq < w.seq) && e.overlaps w.va len) && !s.bundleReads c w.seq &&
      !s.localAhead c w.seq (fun x => before.any fun y => y.id == x.id) w.va &&
      (!w.sc || s.scReady c w.seq { va := w.va, len := len, pa := some p, sc := true })
  | 0, none => false
  | 1, some p => match s.dev.writes.find? fun x => x.lvl == 1 && clusterOf x.core == clusterOf c &&
        (match x.pa with | some q => targetOf q == targetOf p | none => false) with
    | some x => x.id == w.id && (decide (16 ≤ targetOf p) || s.writeOpen w p)
    | none => false
  | 2, some p => match s.dev.writes.find? fun x => x.lvl == 2 && clusterOf x.core / 2 == clusterOf c / 2 &&
        (match x.pa with | some q => targetOf q == targetOf p | none => false) with
    | some x => x.id == w.id && s.linkFor p && s.writeOpen w p
    | none => false
  | 3, _ => true
  | _, _ => false

/-- Removes a write. -/
def State.dropWrite (s : State) (id : Nat) : State := s.upd fun d => { d with writes := d.writes.filter fun x => x.id != id }

/-- Moves a write to a point: the latest there. -/
def State.raiseWrite (s : State) (w : PendingWrite) (lvl : Nat) : State :=
  s.upd fun d => { d with writes := (d.writes.filter fun x => x.id != w.id) ++ [{ w with lvl := lvl }] }

/-- A write moves to its next point of R80. At its target its bytes are in memory; an external write stays listed until it is
acknowledged. An SC store lands when it has completed (R85). -/
def State.advanceWrite (s : State) (w : PendingWrite) : State :=
  let pa := w.pa.getD 0
  let tgt := targetOf pa
  let done (s : State) : State := (s.dropWrite w.id).modCore w.core fun k => k.arrive w.id
  let s := match w.lvl with
    | 0 => if localVa w.core w.va && w.op.isNone then done (s.pokeSome pa w.data)
      else s.raiseWrite { w with since := s.dev.board.dtime } 1
    | 1 => if tgt < 16 ∨ tgt = 18 then done (s.pokeSome pa w.data) else s.raiseWrite w 2
    | 2 => if tgt < 18 then done (s.pokeSome pa w.data) else (s.pokeSome pa w.data).raiseWrite w 3
    | _ => done s
  s.settle w.core

/-! ## A walk returns (R331, R332) -/

/-- Is an address among those that a returned walk serves? -/
def inSpan (lo hi va : Nat) : Bool := decide (lo ≤ va) && decide (va < hi)

/-- Does an operation name a form that host and peer memory support (R145)? -/
def MemOp.hostOk (o : MemOp) : Bool := match o.kind with
  | .amo op size _ => decide (op.toNat < 2) && decide (size < 16)
  | _ => true

/-- How an operation's permissions are checked. -/
def MemOp.acc (o : MemOp) : Acc := if o.isAtomic then .rmw else .read

/-- Translates the waiting parts of an operation that a leaf serves; then its failed units are reported in order. -/
def State.fillOp (s : State) (c : CoreId) (t : TenantId) (r : Except Nat TlbEntry) (lo hi : Nat) (o : MemOp) : State :=
  let fill (p : Part) : Part :=
    if p.pa.isSome || p.err.isSome || !inSpan lo hi p.va then p
    else match r with
      | .ok e => if s.leafServes t e o.acc o.hostOk then { p with pa := some (s.placeOf e p.va), sc := e.sc } else { p with err := some cPerm }
      | .error code => { p with err := some code }
  (s.modCore c fun k => k.modOp o.id fun x => { x with parts := x.parts.map fill }).resolveOp c o.id o.parts.length

/-- Translates a waiting write that a leaf serves, or marks it as refused. -/
def State.fillWrite (s : State) (t : TenantId) (r : Except Nat TlbEntry) (w : PendingWrite) : State :=
  let put (f : PendingWrite → PendingWrite) : State :=
    s.upd fun d => { d with writes := d.writes.map fun x => if x.id = w.id then f x else x }
  match r with
  | .ok e => if s.leafOk t e .write then put fun x => { x with pa := some (s.placeOf e x.va), sc := e.sc }
      else put fun x => { x with err := some cPerm }
  | .error code => put fun x => { x with err := some code }

/-- A walk completes: it serves every waiting part that its leaf covers, fills the TLBs of the cores that waited, and ends
(R327, R331, R332). -/
def State.finishWalk (s : State) (w : Walk) : State :=
  let t := tid w.tenant
  let va := w.page * 2 ^ 16
  let r : Except Nat TlbEntry := match s.walk t .walk va with
    | .ok e => .ok e
    | .error f => .error f.1
  let (lo, hi) := match r with
    | .ok e => (e.page, e.page + e.size)
    | .error _ => (va, va + 2 ^ 16)
  let served := s.dev.walks.filter fun x => x.id == w.id || (x.tenant == w.tenant && r.isOk && inSpan lo hi (x.page * 2 ^ 16))
  let cores := served.flatMap (·.cores)
  let s := s.upd fun d => { d with walks := d.walks.filter fun x => !served.any fun y => y.id == x.id }
  let s := cores.foldl (fun s c => match r with | .ok e => s.fillTlbs c e | .error _ => s) s
  let s := cores.foldl (fun s c =>
    ((s.core c).ops.filter fun o => o.parts.any fun p => p.pa.isNone && p.err.isNone && inSpan lo hi p.va).foldl
      (fun s o => (s.fillOp c t r lo hi o).settle c) s) s
  let ws := s.dev.writes.filter fun x => x.tenant == w.tenant && x.pa.isNone && x.err.isNone && inSpan lo hi x.va
  let s := ws.foldl (fun s x => s.fillWrite t r x) s
  ws.foldl (fun s x => (State.resolveStore x.core x.acc (ws.length + 1) s).settle x.core) s

end Sys2Proof.Machine
end

