-- ==== Sys2Proof/Machine/Engine.lean ====
section
/-! DEFINITION. Engine operations: slots and tokens (R213 to R215, R307), their reads and writes (R57, R68, R87), copies (R216 to
R220), done-ring records (R221), and the landing of tokens. -/

namespace Sys2Proof.Machine

/-! ## Operations in flight -/

/-- The engine operation with a number. -/
def State.engOp (s : State) (id : Nat) : Option EngOp := s.dev.eng.find? fun o => o.id == id

/-- Replaces an engine operation. -/
def State.setEng (s : State) (o : EngOp) : State :=
  s.upd fun d => { d with eng := d.eng.map fun x => if x.id = o.id then o else x }

/-- Removes an engine operation. -/
def State.dropEng (s : State) (id : Nat) : State := s.upd fun d => { d with eng := d.eng.filter fun x => x.id != id }

/-- The core whose local store the operation names: the one on which its context is loaded, else the one that issued it (R57). -/
def State.engCore (s : State) (o : EngOp) : Option CoreId := match o.owner with
  | .task n c => match s.taskById n with
    | some t => match t.where_ with
      | .on d => some d
      | _ => some c
    | none => some c
  | .queue .. => none

/-- The task an operation belongs to. -/
def EngOp.task (o : EngOp) : Option Nat := match o.owner with
  | .task n _ => some n
  | .queue .. => none

/-- Is the operation a copy? -/
def EngOp.isCopy (o : EngOp) : Bool := match o.kind with
  | .copy | .copyc | .ccopy | .ccopyC => true
  | _ => false

/-- Gives an operation its token; it has ended but for writing it. -/
def EngOp.finish (o : EngOp) (status code count : Nat) : EngOp := { o with token := some (tokenWord status code count) }

/-- An operation of the core that acts, before its operands are filled in. -/
def State.newEng (s : State) (kind : EngKind) (a b : W64) : EngOp :=
  let k := s.me
  { id := 0, slot := 0, kind := kind, owner := .task (k.task.getD 0) s.dev.cur.core,
    tenant := BitVec.ofNat 4 (s.coreTenant s.dev.cur.core).val, seq := k.seq 1, a := a, b := b, desc := 0, reqs := [],
    kvslot := k.ctx.kvslot, ord := false, acq := false, rel := false, scope := 0, stage := 0, pos := 0, count := 0, token := none,
    faddr := 0, crc := 0, list := [], grains := [], fail := none, ents := [] }

/-- The lowest free place of a token table. -/
def freeSlot (l : List Tok) : Nat := ((List.range 64).find? fun n => !l.any fun t => t.slot == n).getD 0

/-- Issues an engine operation whose token register is D: it takes one of the context's 64 places, and D is pending from
issue + 1; with all places taken it is refused (R213, R215). -/
def State.issueEng (s : State) (d : BitVec 6) (o : EngOp) : State :=
  let k := s.me
  if 64 ≤ k.ctx.toks.length then
    if d = 0 then s
    else s.modMe fun k => k.addFlight { k.newFlight 1 (.s d k.priv) false (BitVec.ofNat 1024 (3 * 2 ^ 56)) with counts := false }
  else
    let (id, s) := s.fresh
    let n := freeSlot k.ctx.toks
    let bank := isBanked k.priv d
    let tok : Tok := { op := id, slot := n, reg := d, bank := bank, pend := false, value := 0 }
    let s := s.modMe fun k => k.modCtx fun x => { x with toks := x.toks ++ [tok] }
    let s := if d = 0 then s else s.resX (.pend d bank id) 0
    s.upd fun dv => { dv with eng := dv.eng ++ [{ o with id := id, slot := n }] }

/-- The core that issued an operation. -/
def EngOp.issuer (o : EngOp) : Option CoreId := match o.owner with
  | .task _ c => some c
  | .queue .. => none

/-- Has an entry of a write stream that the issuing context pushed to local memory before the operation not performed (R87)? -/
def State.engEntries (s : State) (o : EngOp) (c : CoreId) : Bool :=
  (s.core c).pushed.any fun e => decide (e.seq < o.seq) && localVa c e.va

/-- Have the issuing context's writes performed at the operation's scope? After a stop, which they reach device scope before, those to host
and peers may still be short of system scope (R78, R87). -/
def State.taskWritesDone (s : State) (o : EngOp) (n : Nat) : Bool :=
  !s.dev.writes.any fun w => w.op.isNone && w.own.task == some n && !w.own.sv && !w.performed o.scope

/-- May the operation start its first read (R87, R89): its acquire waits for the issuing core's earlier accesses, any for that core's
earlier stores to local memory, and its order flag for that core's earlier copies to write their tokens or records? -/
def State.engStart (s : State) (o : EngOp) : Bool := match o.owner with
  | .task n c =>
    (if s.engCore o == some c then (!o.acq || s.accessesDone c o.seq o.scope false) && !s.engEntries o c
      else !o.acq || s.taskWritesDone o n) &&
      (!o.ord || !s.dev.eng.any fun x => x.isCopy && x.issuer == some c && decide (x.id < o.id) &&
        !(x.kind == .copyc && x.stage == 1))
  | .queue .. => true

/-- Have all the writes of the operation performed at the scope its token promises, and with the release flag also those of others that the
operation could see (R83, R87)? -/
def State.engWritesDone (s : State) (o : EngOp) : Bool :=
  (!s.dev.writes.any fun w => w.op == some o.id && !w.performed (if o.rel then o.scope else 0)) &&
    (!o.rel || match s.engCore o with
      | none => true
      | some c => !s.dev.writes.any fun w => !w.performed o.scope &&
          ([0, 1, 2].any (fun l => w.shownTo (.eng c o.seq) l) || w.lvl == 3))

/-! ## Reads and writes of an engine -/

/-- Bytes `lo` to `lo + n - 1` of a descriptor. -/
def descNat (d : BitVec 1024) (lo n : Nat) : Nat := d.toNat / 2 ^ (8 * lo) % 2 ^ (8 * n)

/-- The bytes of one piece: for a core, with the core's earlier stores to local memory and the writes that reached its cluster's egress
or its pair's port (R80, R87). -/
def State.engPiece (s : State) (o : EngOp) (c : Option CoreId) (va len pa : Nat) : List Byte := match c with
  | some c =>
    if rowOf va = .vlat then (addrs (va - Config.vlatBase) len).map fun n => BitVec.ofNat 8 (vlat c n)
    else s.shownBytes (.eng c o.seq) va pa len
  | none => s.peeks pa len

/-- The bytes of a span that an engine reads, or the code and the first faulting byte. -/
def State.engBytes (s : State) (o : EngOp) (va len : Nat) : Except (Nat × Nat) (List Byte) :=
  let c := s.engCore o
  match s.engSpan (tid o.tenant) c .read va len with
  | .error f => .error f
  | .ok l => .ok (((engPieces va len).zip l).flatMap fun x => s.engPiece o c x.1.1 x.1.2 x.2.1)

/-- The first fault of an engine's write of [va, va + len), which belongs to the row [lo, hi) of destination bytes: translation and
ownership; a zone whose group the task is not in (PERM); a word of a zone that the row covers in part (PLANE_GRANULE) (R67, R68). -/
def State.engWriteFault (s : State) (o : EngOp) (lo hi va len : Nat) : Option (Nat × Nat) :=
  let tr := match s.engSpan (tid o.tenant) (s.engCore o) .write va len with
    | .error f => some f
    | .ok _ => none
  if rowOf va ≠ .vault then tr
  else
    let zs := (s.zonesAt va len).filter fun z => decide (max va z.base < min (va + len) (z.base + z.size))
    let perm := (zs.find? fun z => !s.zoneMember z o.task).map fun z => (cPerm, max va z.base)
    let gran := zs.findSome? fun z =>
      let a := max lo z.base
      let b := min hi (z.base + z.size)
      if a % 4 ≠ 0 ∧ va ≤ a + (3 - a % 4) then some (cPlaneGranule, max va a)
      else if b % 4 ≠ 0 ∧ b - b % 4 < va + len then some (cPlaneGranule, max va (b - b % 4))
      else none
    [tr, perm, gran].foldl (fun r f => match r, f with
      | some a, some b => if b.2 < a.2 then some b else some a
      | none, f => f
      | r, none => r) none

/-- Bytes that a member's engine writes to a zone's window: they enter its next plane word by word (R68, R92). -/
def State.zoneBytes (s : State) (n : BitVec 6) (task : Nat) (c : CoreId) : Nat → List Byte → State
  | _, [] => s
  | va, b :: bs =>
    let w := va - va % 4
    let old := ((s.zone n).plane.reverse.find? fun p => p.task == task && p.word == w).map (·.val)
    let v := (old.getD 0).toNat
    let sh := 8 * (va % 4)
    let new := v - v / 2 ^ sh % 256 * 2 ^ sh + b.toNat * 2 ^ sh
    let e : PlaneWrite := { task := task, core := c, seq := 0, word := w, val := BitVec.ofNat 32 new }
    (s.modPz n fun z =>
      let rest := if old.isSome then z.plane.filter (fun p => !(p.task == task && p.word == w)) else z.plane
      { z with plane := rest ++ [e] }).zoneBytes n task c (va + 1) bs

/-- A write of an engine for core c, from the cluster's egress on; to an SC page or not (R85). -/
def State.engSend (s : State) (o : EngOp) (c : CoreId) (va pa : Nat) (bs : List Byte) : State :=
  let (id, s) := s.fresh
  s.addWrite { id := id, seq := o.seq, core := c, tenant := o.tenant, since := s.dev.board.dtime, va := va, pa := some pa,
               data := bs.map some, lvl := 1, sc := s.scVa c va, hold := none, op := some o.id, stream := none, acc := id, unit := 0,
               err := none, own := { sv := false, task := o.task } }

/-- An engine's write of the bytes of one piece: at once into local memory, else, granule by granule, as writes on their way from the
cluster's egress (R80, R86, R88). -/
def State.engPut (s : State) (o : EngOp) (c : Option CoreId) (va pa : Nat) (bs : List Byte) : State := match c with
  | some c =>
    if localVa c va then s.pokes pa bs
    else (granulesOf va bs.length).foldl (fun s g => s.engSend o c g.1 (pa + (g.1 - va)) ((bs.drop (g.1 - va)).take g.2)) s
  | none => s.pokes pa bs

/-- Writes pieces that have been translated. -/
def State.engPuts (s : State) (o : EngOp) (c : Option CoreId) : List ((Nat × Nat) × (Nat × Nat)) → List Byte → State
  | [], _ => s
  | p :: ps, bs =>
    let n := p.1.2
    let s := match rowOf p.1.1, s.zoneAt p.1.1 n with
      | .vault, some z => s.zoneBytes z (o.task.getD 0) (o.issuer.getD 0) p.1.1 (bs.take n)
      | _, _ => s.engPut o c p.1.1 p.2.1 (bs.take n)
    s.engPuts o c ps (bs.drop n)

/-- Writes the bytes of a span that has no fault. -/
def State.engWrite (s : State) (o : EngOp) (va : Nat) (bs : List Byte) : State :=
  let c := s.engCore o
  match s.engSpan (tid o.tenant) c .write va bs.length with
  | .error _ => s
  | .ok l => s.engPuts o c ((engPieces va bs.length).zip l) bs

/-- Each byte before a faulting byte of its unit may or may not be written (R219): a free byte says which (log 8). -/
def State.engMaybe (s : State) (o : EngOp) : Nat → List Byte → State
  | _, [] => s
  | va, b :: bs =>
    let (f, s) := s.drawByte
    (if f.toNat % 2 = 1 then s.engWrite o va [b] else s).engMaybe o (va + 1) bs

/-- A fault of an engine operation enters the tenant's fault log: a MEMWIN, and a write that a zone refuses, but for a copy, whose token
alone carries PERM (R59, R389, R414). -/
def State.engLog (s : State) (o : EngOp) (code va : Nat) : State :=
  let core := ((s.engCore o).map (·.val)).getD 0x7F
  if o.isCopy && code != cMemwin then s else s.logEngine (tid o.tenant) code clsCopy core va

/-! ## Copies (R216 to R219) -/

/-- Dimensions of a copy less one. -/
def copyNdm1 (d : BitVec 1024) : Nat := descNat d 16 1 % 8
/-- Inline function. -/
def copyFn (d : BitVec 1024) : Nat := descNat d 16 1 / 16
/-- Count of dimension k. -/
def copyCnt (d : BitVec 1024) (k : Nat) : Nat := descNat d (24 + 2 * k) 2 + 1
/-- Source bytes of one item of the inline function. -/
def itemSrc (fn : Nat) : Nat := if fn = 3 then 17 else 1
/-- Destination bytes of one item. -/
def itemDst (fn : Nat) : Nat := if fn = 3 then 64 else if fn = 2 then 2 else 1
/-- Destination bytes of one row of dimension 0 (R218). -/
def copyRow (d : BitVec 1024) : Nat := copyCnt d 0 / itemSrc (copyFn d) * itemDst (copyFn d)
/-- Rows of the copy. -/
def copyRows (d : BitVec 1024) : Nat := (List.range (copyNdm1 d)).foldl (fun n k => n * copyCnt d (k + 1)) 1
/-- Destination bytes of the copy. -/
def copyTotal (d : BitVec 1024) : Nat := copyRows d * copyRow d

/-- The offset of row `r` by the strides that stand at byte `at_` of the descriptor, dimension 1 innermost (R217). -/
def copyOff (d : BitVec 1024) (at_ : Nat) : Nat → Nat → Nat → Int
  | 0, _, _ => 0
  | n + 1, k, r =>
    sgn 32 (descNat d (at_ + 4 * (k - 1)) 4) * (r % copyCnt d k : Nat) + copyOff d at_ n (k + 1) (r / copyCnt d k)

/-- A run of a copy inside one row: its source and destination addresses and lengths, and the row's destination range. -/
structure CopySeg where
  src : Nat
  nsrc : Nat
  dst : Nat
  ndst : Nat
  lo : Nat
  hi : Nat
deriving DecidableEq, Repr

/-- An address modulo 2^64. -/
def addrOf (n : Int) : Nat := (n % 2 ^ 64).toNat

/-- The runs of `left` destination bytes from byte `pos` of the walk. -/
def copySegs (d : BitVec 1024) : Nat → Nat → Nat → List CopySeg
  | 0, _, _ => []
  | f + 1, pos, left =>
    if left = 0 then []
    else
      let row := copyRow d
      let fn := copyFn d
      let r := pos / row
      let o := pos % row
      let n := min left (row - o)
      let base := addrOf ((descNat d 8 8 : Int) + copyOff d 68 (copyNdm1 d) 1 r)
      { src := addrOf ((descNat d 0 8 : Int) + (o / itemDst fn * itemSrc fn : Nat) + copyOff d 40 (copyNdm1 d) 1 r),
        nsrc := n / itemDst fn * itemSrc fn, dst := (base + o) % 2 ^ 64, ndst := n, lo := base, hi := base + row } ::
        copySegs d f (pos + n) (left - n)

/-- A value times 2^(P1 - 127) in BF16; P1 = 0xFF gives NaN (R218). -/
def widen (p1 : Nat) (v : FVal) : List Byte :=
  let n := if p1 = 255 then 0x7FC0 else bf16.round 0 false false (match v with
    | .fin neg m e => .fin neg m (e + p1 - 127)
    | v => v)
  toLe 2 n

/-- The 64 bytes of a widened NXF4 block of 17 (R42, R218). -/
def widenBlock (p1 : Nat) (b : List Byte) : List Byte :=
  let special := (nth b 16 0).toNat
  (List.range 32).flatMap fun i =>
    let q := nxf4 ((nth b (i / 2) 0).toNat / 16 ^ (i % 2) % 16) special
    widen p1 (FVal.ofInt q (-2) false)

/-- The inline function of a copy on source bytes (R218). -/
def copyFunc (d : BitVec 1024) (bs : List Byte) : List Byte := match copyFn d with
  | 2 => bs.flatMap fun b => widen (descNat d 104 1) (e4m3.decode b.toNat)
  | 3 => (List.range (bs.length / 17)).flatMap fun i => widenBlock (descNat d 104 1) ((bs.drop (17 * i)).take 17)
  | _ => bs

/-- One byte enters the CRC-64 (R218). -/
def crcByte (c : W64) (b : Byte) : W64 :=
  (List.range 8).foldl (fun c _ => if bitAt c 63 then (c <<< 1) ^^^ 0x42F0E1EBA9EA3693 else c <<< 1) (c ^^^ (b.setWidth 64 <<< 56))

/-- The CRC-64 of bytes. -/
def crcBytes (c : W64) (bs : List Byte) : W64 := bs.foldl crcByte c

/-- The first fault of a run: the place in its destination bytes, the code and the address. -/
def State.segFault (s : State) (o : EngOp) (g : CopySeg) : Option (Nat × Nat × Nat) :=
  let fn := copyFn o.desc
  let rd := match s.engSpan (tid o.tenant) (s.engCore o) .read g.src g.nsrc with
    | .error f => some ((f.2 - g.src) / itemSrc fn * itemDst fn, f.1, f.2)
    | .ok _ => none
  let wr := (s.engWriteFault o g.lo g.hi g.dst g.ndst).map fun f => (f.2 - g.dst, f.1, f.2)
  match rd, wr with
  | some a, some b => if b.1 < a.1 then some b else some a
  | some a, none => some a
  | none, b => b

/-- The source bytes of a run without a fault. -/
def State.segBytes (s : State) (o : EngOp) (g : CopySeg) : List Byte := match s.engBytes o g.src g.nsrc with
  | .ok l => l
  | .error _ => []

/-- The part of a run before byte `n` of its destination: whole items of the source, cut to n bytes. -/
def State.segMaybe (s : State) (o : EngOp) (g : CopySeg) (n : Nat) : State :=
  let fn := copyFn o.desc
  let items := (n + itemDst fn - 1) / itemDst fn
  let bs := copyFunc o.desc (s.segBytes o { g with nsrc := items * itemSrc fn })
  s.engMaybe o g.dst (bs.take n)

/-- A copy meets a fault in the unit that begins at `o.pos` (R219): it checks no further unit. -/
def State.copyFails (s : State) (o : EngOp) (code va : Nat) : State :=
  (s.engLog o code va).setEng { o with fail := some (code, va) }

/-- The place where an engine reaches an address that has been translated: its local store is that of the core where the context now
is (R57). -/
def State.engPa (s : State) (o : EngOp) (va pa : Nat) : Nat := match rowOf va, s.engCore o with
  | .ls, some c => lsAddr c (va - Config.lsBase)
  | _, _ => pa

/-- The parts in which an engine reads a span without a fault: aligned 8-byte granules (R86). -/
def State.readParts8 (s : State) (o : EngOp) (va len : Nat) : List Part :=
  (granulesOf va len).map fun g =>
    { va := g.1, len := g.2, pa := (s.engPlace (tid o.tenant) (s.engCore o) .read g.1).toOption, sc := false }

/-- The granules of a run without a fault, numbered from `id` on (R86, R218). -/
def State.segGrains (s : State) (o : EngOp) (id : Nat) (g : CopySeg) : List Grain :=
  let fn := copyFn o.desc
  (granulesOf g.dst g.ndst).zipIdx.map fun x =>
    let off := x.1.1 - g.dst
    let i0 := off / itemDst fn
    let i1 := (off + x.1.2 + itemDst fn - 1) / itemDst fn
    { id := id + x.2, src := s.readParts8 o (g.src + i0 * itemSrc fn) ((i1 - i0) * itemSrc fn), skip := off - i0 * itemDst fn,
      dst := x.1.1, len := x.1.2, place := ((s.engPlace (tid o.tenant) (s.engCore o) .write x.1.1).toOption).getD 0, put := false }

/-- The granules of a list of runs. -/
def State.unitGrains (s : State) (o : EngOp) : Nat → List CopySeg → List Grain
  | _, [] => []
  | id, g :: gs =>
    let l := s.segGrains o id g
    l ++ s.unitGrains o (id + l.length) gs

/-- The last move of a copy: with FN 1 the CRC is written to P0 (R218, R219). -/
def State.copyEnds (s : State) (o : EngOp) : State :=
  if copyFn o.desc ≠ 1 then s.setEng (o.finish 1 0 o.pos)
  else
    let p0 := descNat o.desc 96 8
    match s.engWriteFault o p0 (p0 + 8) p0 8 with
    | some f => (s.engLog o f.1 f.2).setEng { o.finish 2 f.1 o.pos with faddr := w64 f.2 }
    | none => (s.engWrite o p0 (toLe 8 o.crc.toNat)).setEng (o.finish 1 0 o.pos)

/-- The copy checks its next unit of 4 KiB of destination bytes: its granules may then be read and written, or a fault ends the walk
(R217, R219). -/
def State.copyUnit (s : State) (o : EngOp) : State :=
  let total := copyTotal o.desc
  let n := min 4096 (total - o.pos)
  let segs := copySegs o.desc (n + 1) o.pos n
  match segs.zipIdx.findSome? fun g => (s.segFault o g.1).map fun f => (g.2, f) with
  | some (i, at_, code, va) =>
    let s := (segs.take i).foldl (fun s g => s.segMaybe o g g.ndst) s
    let s := match segs[i]? with
      | some g => s.segMaybe o g at_
      | none => s
    s.copyFails o code va
  | none =>
    s.setEng { o with pos := o.pos + n, grains := o.grains ++ s.unitGrains o (o.pos * 2) segs }

/-- The source bytes of a granule, as far as they have been read. -/
def Grain.got (g : Grain) : List Byte := g.src.flatMap fun p => p.got.getD []

/-- A granule that is written leaves the list when all before it are written too; with FN 1 its source bytes enter the CRC, in walk
order (R218). -/
def EngOp.trim (o : EngOp) : EngOp :=
  let done := o.grains.takeWhile (·.put)
  { o with grains := o.grains.drop done.length
           crc := if copyFn o.desc = 1 then done.foldl (fun c g => crcBytes c g.got) o.crc else o.crc }

/-- Reads part `i` of a granule (R86, R88). -/
def State.grainRead (s : State) (o : EngOp) (g : Grain) (i : Nat) : State :=
  let read (p : Part) : Part := { p with got := some (s.engPiece o (s.engCore o) p.va p.len (s.engPa o p.va (p.pa.getD 0))) }
  let g' : Grain := { g with src := g.src.zipIdx.map fun p => if p.2 = i then read p.1 else p.1 }
  s.setEng { o with grains := o.grains.map fun x => if x.id = g.id then g' else x }

/-- Writes a granule whose source has been read (R88, R218). -/
def State.grainPut (s : State) (o : EngOp) (g : Grain) : State :=
  let bs := ((copyFunc o.desc g.got).drop g.skip).take g.len
  let o := ({ o with grains := o.grains.map fun x => if x.id = g.id then { x with put := true } else x } : EngOp).trim
  (s.engPuts o (s.engCore o) [((g.dst, g.len), (s.engPa o g.dst g.place, g.len))] bs).setEng o

/-- A move of a copy. -/
inductive CopyMove where
  | read (g : Grain) (i : Nat)
  | put (g : Grain)
  | check
deriving DecidableEq, Repr

/-- The moves of a granule: to read a part not yet read; when all are, to be written. -/
def Grain.moves (g : Grain) : List CopyMove :=
  if g.put then []
  else
    let l := (g.src.zipIdx.filter fun p => p.1.got.isNone).map fun p => CopyMove.read g p.2
    if l.isEmpty then [.put g] else l

/-- The moves open to a copy, in any order (R219): those of its granules, and the check of its next unit. -/
def EngOp.moves (o : EngOp) : List CopyMove :=
  o.grains.flatMap Grain.moves ++ if o.fail.isNone && decide (o.pos < copyTotal o.desc) then [.check] else []

/-- A copy makes a move that it is given. -/
def State.copyMove (s : State) (o : EngOp) : CopyMove → State
  | .read g i => s.grainRead o g i
  | .put g => s.grainPut o g
  | .check => s.copyUnit o

/-- A copy makes its next move; which of several is free (R219, log 8). With none left it ends: as it failed, or with its token. -/
def State.copyTurn (s : State) (o : EngOp) : State :=
  if o.token.isSome || (o.pos == 0 && !s.engStart o) then s
  else match o.moves with
    | [] => match o.fail with
      | some f => s.setEng { o.finish 2 f.1 o.pos with faddr := w64 f.2 }
      | none => s.copyEnds o
    | [m] => s.copyMove o m
    | ms =>
      let (n, s) := s.drawNat
      match ms[n % ms.length]? with
      | some m => s.copyMove o m
      | none => s

/-! ## Done rings (R221) -/

/-- Is a done ring enabled for a tenant (R212, R356)? -/
def State.dnOwned (s : State) (n : BitVec 8) (t : TenantId) : Bool :=
  let r := s.dev.dns.get n.toFin
  r.owner == some (BitVec.ofNat 4 t.val) && bitAt r.dw0 0

/-- First byte of a done ring. -/
def DoneRing.base (r : DoneRing) : Nat := fieldNat r.dw1 6 46 * 64

/-- A producer takes the next record of a ring and writes it: doublewords 1 to 7, then SEQ; then PCNT advances. A record whose write
faults is lost and logged; one for a ring that is disabled is discarded (R357). A fault of the write of PCNT itself is logged likewise, and
PCNT counts on (DESIGN CHOICE, log 119). -/
def State.postRecord (s : State) (n : BitVec 8) (t : TenantId) (cls core : Nat) (dws : List Nat) : State :=
  if !s.dnOwned n t then s
  else
  let r := s.dev.dns.get n.toFin
  let rec_ := r.seq
  let at_ := r.base + 64 + 64 * (rec_ % 2 ^ fieldNat r.dw0 16 5)
  let bytes := toLe 8 (rec_ + 1) ++ (List.range 7).flatMap fun i => toLe 8 (nth dws i 0)
  let s := match s.devWrite t at_ bytes with
    | .ok s => s
    | .error f => s.logFault t f.1 cls core f.2
  let s := s.modDn n fun r => { r with seq := r.seq + 1, pcnt := rec_ + 1 }
  match s.devWrite t r.base (toLe 8 (rec_ + 1)) with
  | .ok s => s
  | .error f => s.logFault t f.1 cls core f.2

/-! ## Copy instructions (R216, R220) -/

/-- The fault of a copy descriptor found at issue (R216). -/
def State.descFault (s : State) (rec_ : Bool) (t : TenantId) (d : BitVec 1024) : Option Nat :=
  let ctl := descNat d 16 8
  let fn := copyFn d
  if 4 ≤ fn ∨ ctl / 8 % 2 ≠ 0 ∨ ctl / 2 ^ 16 % 2 ^ 16 ≠ 0 ∨ descNat d 105 23 ≠ 0 then some cIllegalOpcode
  else if fn = 3 ∧ copyCnt d 0 % 17 ≠ 0 then some cIllegalOpcode
  else if fn = 0 ∧ descNat d 96 9 ≠ 0 then some cIllegalOpcode
  else if rec_ && !s.dnOwned (BitVec.ofNat 8 (descNat d 17 1)) t then some cPerm
  else none

/-- The 128 bytes of a descriptor in the acting core's local store. -/
def State.lsDesc (s : State) (off : Nat) : BitVec 1024 :=
  let c := s.dev.cur.core
  BitVec.ofNat 1024 (leNat (s.readPart c (s.me.seq 0)
    { va := Config.lsBase + off, len := 128, pa := some (lsAddr c off), sc := false }))

/-- Issues a copy (R216, R220). -/
def copyIssue (rec_ : Bool) (d a : BitVec 6) (ord acq rel : Bool) (scope : BitVec 3) (s : State) : State :=
  let off := s.sreg a
  if 2 ^ 20 ≤ off.toNat ∨ off.toNat % 64 ≠ 0 ∨ 2 ^ 20 < off.toNat + 128 then s.trapAt cDataUnmapped
  else
    let desc := s.lsDesc off.toNat
    match s.descFault rec_ (s.coreTenant s.dev.cur.core) desc with
    | some code => if code = cPerm then s.trapResource else s.trapAt code
    | none => s.issueEng d { s.newEng (if rec_ then .copyc else .copy) off 0 with
        desc := desc, ord := ord, acq := acq, rel := rel, scope := scope }

/-- R220: a copy with a token. -/
def execCopy (x : Lent) (d a : BitVec 6) (ord acq rel : Bool) (scope : BitVec 3) (s : State) : Out :=
  act (syl x (Uses.none.r a) (copyIssue false d a ord acq rel scope)) s

/-- R220: a copy with a token and a completion record. -/
def execCopyc (x : Lent) (d a : BitVec 6) (ord acq rel : Bool) (scope : BitVec 3) (s : State) : Out :=
  act (syl x (Uses.none.r a) (copyIssue true d a ord acq rel scope)) s

/-- The completion record of a copy (R221). -/
def State.copyRecord (s : State) (o : EngOp) (core : Nat) : State :=
  s.postRecord (BitVec.ofNat 8 (descNat o.desc 17 1)) (tid o.tenant) clsCopy core
    [(o.token.getD 0).toNat, descNat o.desc 20 4 + core * 2 ^ 32 + o.tenant.toNat * 2 ^ 40, o.faddr.toNat]

/-- R219: the copy named by the cursor ends: its walk is over and its writes have performed as its flags ask (R87); with a record,
it writes the record. -/
def execCopyCompletion (s : State) : Out :=
  act (fun s => match s.engOp s.dev.cur.n with
    | some o =>
      if o.isCopy && o.token.isSome && o.stage == 0 && s.engWritesDone o then
        let s := match o.kind, o.owner with
          | .copyc, .task _ c => s.copyRecord o c.val
          | .ccopyC, _ => s.copyRecord o 0x7F
          | _, _ => s
        s.setEng { o with stage := 1 }
      else s
    | none => s) s

/-! ## Tokens land (R215, R307) -/

/-- The token reaches its register on core c, unless the link is broken, and its place in the table is free. -/
def Core.landToken (k : Core) (id : Nat) (w : W64) : Core :=
  match k.ctx.toks.find? fun t => t.op == id with
  | none => k
  | some t =>
    let k := if t.pend then k.setS t.reg t.bank w else k
    k.modCtx fun x => { x with toks := x.toks.filter fun t => t.op != id }

/-- The token of a context that is switched out goes into its entry of the saved token table, and PEND there is cleared (R307). An entry
that is saved live and not pending (its link is broken) keeps LIVE, so that no `crest` takes the token for the register's (log 64). A refused
write is lost, and logged (R328, R414). -/
def State.saveToken (s : State) (o : EngOp) (area : Nat) (w : W64) : State :=
  let t := tid o.tenant
  let at_ := area + 0x600 + 16 * o.slot
  let lost (f : Nat × Nat) : State := s.logEngine t f.1 clsCopy ((o.issuer.map (·.val)).getD 0x7F) f.2
  match s.devNat t (at_ + 8) 8 with
  | .error f => lost f
  | .ok d =>
    let broken := d / 64 % 4 = 2
    match s.devWrite t at_ (toLe 8 w.toNat ++ toLe 8 (d % 64 + if broken then 128 else 0)) with
    | .ok s => s
    | .error f => lost f

/-- May the operation's token be written now? -/
def State.tokenReady (s : State) (o : EngOp) : Bool :=
  o.token.isSome && s.engWritesDone o && (!o.isCopy || o.stage == 1) &&
    (match s.engCore o with
      | some c => !(s.core c).flights.any fun f => match f.dest with
        | .pend _ _ id => id == o.id
        | _ => false
      | none => true)

/-- The token of an operation of a task: to the register of a loaded context, to the save area of one that is switched out; that
of an ended task is discarded. -/
def State.taskToken (s : State) (o : EngOp) (n : Nat) (w : W64) : State :=
  match s.taskById n with
  | some t => match t.where_ with
    | .on c => s.modCore c fun k => k.landToken o.id w
    | .saved => match t.area with
      | some a => s.saveToken o a w
      | none => s
    | _ => s
  | none => s

/-- The token of a `ccopy`: to the command register that still awaits it (R361). -/
def State.queueToken (s : State) (id : Nat) (t : TenantId) (q : QueueId) (w : W64) : State :=
  s.modCq t q fun cq =>
    match cq.awaits.find? fun a => a.2 == id with
    | some a => { cq with c := cq.c.set a.1.toNat w a.1.isLt, awaits := cq.awaits.filter fun x => x.2 != id }
    | none => cq

end Sys2Proof.Machine
end

