-- ==== Sys2Proof/Machine/Kv.lean ====
section
/-! DEFINITION. KV operations (R69 to R73, R96, R223 to R233, R287, R288, R337 to R341). -/

namespace Sys2Proof.Machine

/-! ## Arenas and slots (R337, R338) -/

/-- An arena's descriptor, with the pieces of a slot's region. -/
structure Arena where
  dva : Nat
  slots : Nat
  maxlen : Nat
  pos : Nat
  page : Nat
  npiece : Nat
  bt : Nat
  st : Nat
  pool : Nat
  fr : Nat
  npool : Nat
  fplog : Nat
  fp : Nat
  sr : Nat
deriving DecidableEq, Repr

/-- An arena from the 128 bytes of its descriptor at `dva`: none when it is undefined (R70, R337). -/
def arenaOf (dva : Nat) (d : BitVec 1024) : Option Arena :=
  let w (n : Nat) : Nat := descNat d (8 * n) 8
  let f (n lo len : Nat) : Nat := w n / 2 ^ lo % 2 ^ len
  let page := 4096 * 4 ^ f 0 1 2
  let region := (f 0 32 22 * f 1 0 27 + page - 1) / page
  let reserved := f 0 3 13 + f 0 29 3 + f 0 54 10 + f 1 27 37 + f 6 29 35 + f 9 25 39 + f 10 24 7 + f 10 32 32 + descNat d 88 40
  if f 0 0 1 = 1 ∧ f 0 1 2 ≠ 3 ∧ reserved = 0 ∧ 1 ≤ f 0 16 13 ∧ f 0 16 13 ≤ 4096 ∧ 1 ≤ f 0 32 22 ∧ f 0 32 22 ≤ 2 ^ 21 ∧
      64 ≤ f 1 0 27 ∧ f 1 0 27 ≤ 2 ^ 26 ∧ f 1 0 27 % 64 = 0 ∧ w 2 % 64 = 0 ∧ w 3 % 128 = 0 ∧ w 4 % page = 0 ∧ w 5 % 16 = 0 ∧
      1 ≤ f 6 0 24 ∧ f 6 24 5 ≤ 20 ∧ w 7 % 16 = 0 then
    some { dva := dva, slots := f 0 16 13, maxlen := f 0 32 22, pos := f 1 0 27, page := page, npiece := region, bt := w 2,
           st := w 3, pool := w 4, fr := w 5, npool := f 6 0 24, fplog := f 6 24 5, fp := w 7, sr := w 8 }
  else none

/-- The address of an arena's descriptor (R322, R337). -/
def State.arenaVa (s : State) (t : TenantId) (n : Nat) : Nat := fieldNat (s.tenant t).kvdt 11 41 * 2048 + 128 * n

/-- Reads arena n of a tenant as an observer sees it: the fault of an unreadable descriptor; none when undefined. -/
def State.arena (s : State) (v : View) (t : TenantId) (n : Nat) : Except (Nat × Nat) (Option Arena) :=
  match s.readAs v t (s.arenaVa t n) 128 with
  | .ok l => .ok (arenaOf (s.arenaVa t n) (BitVec.ofNat 1024 (leNat l)))
  | .error f => .error f

/-- Arena of a KVA (R70). -/
def kvArena (a : W64) : Nat := fieldNat a 60 4
/-- Slot of a KVA. -/
def kvSlot (a : W64) : Nat := fieldNat a 48 12
/-- Offset of a KVA. -/
def kvOff (a : W64) : Nat := fieldNat a 0 48

/-! ## Steps of a KV operation -/

/-- A step of an engine on the structures of an arena: it may fail with a code and an address, and what it wrote stays. -/
abbrev Kv (α : Type) := ExceptT (Nat × Nat) (StateM State) α

/-- For whom an engine works on an arena: the tenant, and how it reads (R79, R87). -/
structure KvAs where
  t : TenantId
  v : View
deriving DecidableEq, Repr

/-- How the engine of an operation reads. -/
def State.engView (s : State) (o : EngOp) : View := match s.engCore o with
  | some c => .eng c o.seq
  | none => .dev

/-- Reads a number as the engine sees it (R87). -/
def kvGet (t : KvAs) (va n : Nat) : Kv Nat := fun s => match s.readAs t.v t.t va n with
  | .ok l => (.ok (leNat l), s)
  | .error f => (.error f, s)

/-- Fails with a code. -/
def kvFail {α : Type} (code : Nat) : Kv α := fun s => (.error (code, 0), s)

/-- The move cannot be made yet: the operation stays as it was before it (code 0, which is no fault's). -/
def kvWait {α : Type} : Kv α := kvFail 0

/-- Writes a number at device scope (R96). It waits for a write to the same bytes that the engine sees and that is still on its way: a
read-modify-write follows what it has read in coherence order (R74). -/
def kvPut (t : KvAs) (va n v : Nat) : Kv Unit := fun s =>
  let pa := (s.engPlace t.t none .write va).toOption
  if s.dev.writes.any fun w => w.overlaps va pa n && (w.shownTo t.v 0 || w.shownTo t.v 1 || w.shownTo t.v 2) then kvWait s
  else match s.devWrite t.t va (toLe n v) with
    | .ok s => (.ok (), s)
    | .error f => (.error f, s)

/-- Waits while the KV data that an engine has stored into [va, va + len) has not performed (R231, R233). -/
def kvQuiet (t : KvAs) (va len : Nat) : Kv Unit := fun s =>
  if s.dev.writes.any fun w => w.op.isSome && tid w.tenant == t.t && w.overlaps va none len then kvWait s else (.ok (), s)

/-- Reads something of the state. -/
def kvAsk {α : Type} (f : State → α) : Kv α := fun s => (.ok (f s), s)

/-- Draws a free number (log 8). -/
def kvFree : Kv Nat := fun s => let (n, s) := s.drawNat; (.ok n, s)

/-- Keeps a result or fails. -/
def kvOf {α : Type} (r : Except (Nat × Nat) α) : Kv α := fun s => (r, s)

/-- Changes a bit field of a number. -/
def putBits (n lo len v : Nat) : Nat := n - n / 2 ^ lo % 2 ^ len * 2 ^ lo + v % 2 ^ len * 2 ^ lo

/-- A block-table entry's address (R339). -/
def Arena.entVa (r : Arena) (slot piece : Nat) : Nat := r.bt + 4 * (slot * r.npiece + piece)
/-- Reads a block-table entry. -/
def Arena.ent (r : Arena) (t : KvAs) (slot piece : Nat) : Kv Nat := kvGet t (r.entVa slot piece) 4
/-- Is an entry mapped? -/
def entMapped (e : Nat) : Bool := e / 2 ^ 24 % 4 == 1
/-- The page of an entry. -/
def entPage (e : Nat) : Nat := e % 2 ^ 24
/-- A mapped entry. -/
def entOf (p : Nat) : Nat := p % 2 ^ 24 + 2 ^ 24

/-- A frame entry's address (R340). -/
def Arena.frameVa (r : Arena) (p : Nat) : Nat := r.fr + 16 * p
/-- A page's first byte. -/
def Arena.pageVa (r : Arena) (p : Nat) : Nat := r.pool + p * r.page
/-- A page's reference count. -/
def Arena.count (r : Arena) (t : KvAs) (p : Nat) : Kv Nat := do return (← kvGet t (r.frameVa p) 8) % 2 ^ 16

/-- Changes fields of doubleword 0 of a frame entry. -/
def Arena.modFrame (r : Arena) (t : KvAs) (p : Nat) (f : Nat → Nat) : Kv Unit := do
  kvPut t (r.frameVa p) 8 (f (← kvGet t (r.frameVa p) 8))

/-- Free pages of the arena. -/
def Arena.nfree (r : Arena) (t : KvAs) : Kv Nat := do return (← kvGet t (r.dva + 72) 8) % 2 ^ 25

/-- Takes the page at the head of the free list: COUNT 1, FP 0 (R226, R340). With the list left empty FHEAD is free (log 8). -/
def Arena.popHead (r : Arena) (t : KvAs) : Kv (Option Nat) := do
  let h ← kvGet t (r.dva + 80) 8
  if h / 2 ^ 31 % 2 = 1 then return none
  let p := h % 2 ^ 24
  let fr ← kvGet t (r.frameVa p) 8
  let nx := fr / 2 ^ 32
  if nx = 2 ^ 32 - 1 then kvPut t (r.dva + 80) 8 (2 ^ 31 + (← kvFree) % 2 ^ 24) else kvPut t (r.dva + 80) 8 (nx % 2 ^ 24)
  kvPut t (r.frameVa p) 8 (putBits fr 0 17 1)
  kvPut t (r.frameVa p + 8) 8 0
  return some p

/-- Pops a page from the free list, if it has one (R226). -/
def Arena.pop (r : Arena) (t : KvAs) : Kv (Option Nat) := do
  let n ← r.nfree t
  if n = 0 then return none
  kvPut t (r.dva + 72) 8 (n - 1)
  r.popHead t

/-- The index entries that a fingerprint probes (R341). -/
def Arena.probes (r : Arena) (f : Nat) : List Nat :=
  (List.range 16).map fun k => r.fp + 16 * ((f + k) % 2 ^ r.fplog)

/-- The page that the index holds for a fingerprint (R341). -/
def lookupAt (t : KvAs) (f : Nat) : List Nat → Kv (Option Nat)
  | [] => return none
  | va :: rest => do
    let w ← kvGet t (va + 8) 8
    let g ← kvGet t va 8
    if w / 2 ^ 31 % 2 = 1 ∧ g = f then return some (w % 2 ^ 24)
    else if w / 2 ^ 30 % 4 = 0 then return none
    else lookupAt t f rest

/-- Puts a fingerprint into the first probed entry that is not VALID; says whether there was one (R341). -/
def insertAt (t : KvAs) (f p : Nat) : List Nat → Kv Bool
  | [] => return false
  | va :: rest => do
    let w ← kvGet t (va + 8) 8
    if w / 2 ^ 31 % 2 = 1 then insertAt t f p rest
    else
      kvPut t va 8 f
      kvPut t (va + 8) 8 (p + 2 ^ 31)
      return true

/-- Removes the index entries of a page: VALID cleared, TOMB set (R341). -/
def unindexAt (t : KvAs) (p : Nat) : List Nat → Kv Unit
  | [] => return ()
  | va :: rest => do
    let w ← kvGet t (va + 8) 8
    if w / 2 ^ 31 % 2 = 1 ∧ w % 2 ^ 24 = p then kvPut t (va + 8) 8 (putBits (putBits w 31 1 0) 30 1 1)
    unindexAt t p rest

/-- Decrements a page's count; at 0 it goes to the head of the free list and leaves the index (R228, R340); what has been stored into it
performs before (R233). Says whether it was freed. -/
def Arena.release (r : Arena) (t : KvAs) (p : Nat) : Kv Bool := do
  let fr ← kvGet t (r.frameVa p) 8
  let c := fr % 2 ^ 16
  if 1 < c then
    kvPut t (r.frameVa p) 8 (putBits fr 0 16 (c - 1))
    return false
  else
    kvQuiet t (r.pageVa p) r.page
    if fr / 2 ^ 17 % 2 = 1 ∧ r.fplog ≠ 0 then unindexAt t p ((List.range (2 ^ r.fplog)).map fun k => r.fp + 16 * k)
    let h ← kvGet t (r.dva + 80) 8
    let nx := if h / 2 ^ 31 % 2 = 1 then 2 ^ 32 - 1 else h % 2 ^ 24
    kvPut t (r.frameVa p) 8 (putBits (putBits fr 0 18 (2 ^ 16)) 32 32 nx)
    kvPut t (r.dva + 80) 8 p
    kvPut t (r.dva + 72) 8 ((← r.nfree t) + 1)
    return true

/-- Doubleword i of a slot's state (R338). -/
def Arena.slotVa (r : Arena) (slot i : Nat) : Nat := r.st + 128 * slot + 8 * i

/-- Bytes of a page as the engine reads them. -/
def kvBytes (o : EngOp) (va n : Nat) : Kv (List Byte) := fun s => (s.engBytes o va n, s)

/-- Stores data bytes for the operation (R87). -/
def kvStore (o : EngOp) (va : Nat) (bs : List Byte) : Kv Unit := fun s =>
  match s.engWriteFault o va (va + bs.length) va bs.length with
  | some f => (.error f, s)
  | none => (.ok (), s.engWrite o va bs)

/-! ## The operations -/

/-- The arena of a KVA as the operation finds it: KV_RANGE when it is undefined or the slot does not exist (R70, R339). -/
def kvArenaOf (o : EngOp) (a : W64) : Kv Arena := do
  match ← kvOf (← kvAsk fun s => s.arena (s.engView o) (tid o.tenant) (kvArena a)) with
  | some r => if r.slots ≤ kvSlot a then kvFail cKvRange else return r
  | none => kvFail cKvRange

/-- How the operation's engine reads and writes the arena's structures. -/
def kvAs (o : EngOp) : Kv KvAs := kvAsk fun s => { t := tid o.tenant, v := s.engView o }

/-- The block-table entry of a piece as the operation has it: read once, at its first access to the piece (R339). -/
def kvEnt (o : EngOp) (r : Arena) (slot piece : Nat) : Kv (Nat × EngOp) := do
  match o.ents.lookup piece with
  | some e => return (e, o)
  | none =>
    let e ← r.ent (← kvAs o) slot piece
    return (e, { o with ents := o.ents ++ [(piece, e)] })

/-- The page of an offset of a slot (R339). -/
def kvFind (o : EngOp) (r : Arena) (slot off : Nat) : Kv (Nat × EngOp) := do
  if r.npiece * r.page ≤ off then kvFail cKvRange
  else
    let (e, o) ← kvEnt o r slot (off / r.page)
    if !entMapped e ∨ r.npool ≤ entPage e then kvFail cKvRange else return (entPage e, o)

/-- The first half of a copy-on-write (R96, R226): a fresh page with the old page's bytes. -/
def kvCopyPage (o : EngOp) (r : Arena) (p : Nat) : Kv Nat := do
  let t ← kvAs o
  match ← r.pop t with
  | none => kvFail cFreelistEmpty
  | some n =>
    let bs ← kvBytes o (r.pageVa p) r.page
    match ← kvAsk fun s => s.devWrite t.t (r.pageVa n) bs with
    | .ok s => (fun _ => (.ok (), s) : Kv Unit)
    | .error f => kvOf (.error f)
    return n

/-- Raises PEND to a position (R225). -/
def kvRaise (t : KvAs) (r : Arena) (slot pos : Nat) : Kv Unit := do
  let d ← kvGet t (r.slotVa slot 0) 8
  kvPut t (r.slotVa slot 0) 8 (putBits d 32 22 (max (d / 2 ^ 32 % 2 ^ 22) pos))

/-- How a move of an operation ends: with its new progress, or with its token. -/
abbrev Move := Kv EngOp

/-- Ends an operation well. -/
def EngOp.done (o : EngOp) : EngOp := o.finish 1 0 o.count

/-- Stores the piece of a `kst` or `kapp` that begins at byte `o.pos` into page p (R225). -/
def kstPut (o : EngOp) (r : Arena) (p : Nat) : Move := do
  let len := fieldNat o.b 32 21
  let off := kvOff o.a + o.pos
  let n := min (len - o.pos) (r.page - off % r.page)
  let bs ← kvBytes o (Config.lsBase + fieldNat o.b 0 20 + o.pos) n
  kvStore o (r.pageVa p + off % r.page) bs
  if o.kind = .kapp then kvRaise (← kvAs o) r (kvSlot o.a) ((off + n - 1) / r.pos + 1)
  let o := { o with pos := o.pos + n, count := o.count + n, ents := [], list := [] }
  return if o.pos < len then o else o.done

/-- The next move of a `kst` or `kapp` (R225, R226): a piece whose page has count 1 is stored in place; for one whose page is shared a
fresh page takes a copy, and `list` holds both. In a second move the entry is rewritten, the old page released and the piece stored,
if the entry still holds the old page; else the fresh page goes back, and the piece is treated anew (R233). -/
def kstMove (o : EngOp) : Move := do
  let t ← kvAs o
  let r ← kvArenaOf o o.a
  let slot := kvSlot o.a
  let off := kvOff o.a + o.pos
  match o.list with
  | [p, n] =>
    let e ← r.ent t slot (off / r.page)
    if entMapped e ∧ entPage e = p then
      kvPut t (r.entVa slot (off / r.page)) 4 (entOf n)
      let _ ← r.release t p
      kstPut o r n
    else
      let _ ← r.release t n
      return { o with list := [], ents := [] }
  | _ =>
    let (p, o) ← kvFind o r slot off
    if (← r.count t p) ≤ 1 then kstPut o r p else return { o with list := [p, ← kvCopyPage o r p] }

/-- The pieces that a request of `kalloc` names (R227). -/
def reqPieces (w : W64) : List (Nat × Nat) := (List.range (fieldNat w 16 8)).map fun i => (fieldNat w 0 12, fieldNat w 24 40 + i)

/-- Checks that no piece of a list is mapped or evicted. -/
def kallocCheck (t : KvAs) (r : Arena) : List (Nat × Nat) → Kv Unit
  | [] => return ()
  | p :: ps => do
    if (← r.ent t p.1 p.2) / 2 ^ 24 % 4 ≠ 0 then kvFail cKvRange
    kallocCheck t r ps

/-- The next move of a `kalloc` (R227): first it checks every request and takes N off NFREE; then it maps the pieces one by one. -/
def kallocMove (o : EngOp) : Move := do
  let t ← kvAs o
  match ← kvOf (← kvAsk fun s => s.arena t.v t.t (kvArena o.a)) with
  | none => kvFail cKvRange
  | some r =>
    let ps := o.reqs.flatMap reqPieces
    if o.stage = 0 then
      if ps.any (fun p => decide (r.slots ≤ p.1) || decide (r.npiece ≤ p.2)) ∨ ¬ps.Nodup then kvFail cKvRange
      kallocCheck t r ps
      let free ← r.nfree t
      if free < ps.length then return o.finish 2 cFreelistEmpty (ps.length - free)
      kvPut t (r.dva + 72) 8 (free - ps.length)
      return { o with stage := 1 }
    else match ps[o.pos]? with
      | none => return o.done
      | some p => match ← r.popHead t with
        | none => kvFail cFreelistEmpty
        | some n =>
          kvPut t (r.entVa p.1 p.2) 4 (entOf n)
          let o := { o with pos := o.pos + 1, count := o.count + 1 }
          return if o.pos < ps.length then o else o.done

/-- Unmaps a piece: whether its page was freed (R228). -/
def kvUnmap (t : KvAs) (r : Arena) (slot piece : Nat) (evictedToo : Bool) : Kv Bool := do
  let e ← r.ent t slot piece
  if entMapped e then
    kvPut t (r.entVa slot piece) 4 0
    r.release t (entPage e)
  else
    if evictedToo ∧ e / 2 ^ 25 % 2 = 1 then kvPut t (r.entVa slot piece) 4 0
    return false

/-- One piece of a `kfree` (R228). -/
def kfreeMove (o : EngOp) : Move := do
  let r ← kvArenaOf o o.a
  let first := kvOff o.a / r.page
  let last := min (first + o.b.toNat) r.npiece
  if last ≤ first + o.pos then return o.done
  else
    let freed ← kvUnmap (← kvAs o) r (kvSlot o.a) (first + o.pos) true
    let o := { o with pos := o.pos + 1, count := o.count + freed.toNat }
    return if first + o.pos < last then o else o.done

/-- Is a piece among the pinned ones of a slot (R230, R338)? -/
def kvPinned (t : KvAs) (r : Arena) (slot piece : Nat) : Nat → Kv (Option Nat)
  | 0 => return none
  | n + 1 => do
    let w ← kvGet t (r.slotVa slot (8 + n)) 8
    if w / 2 ^ 63 % 2 = 1 ∧ w % 2 ^ 48 = piece then return some n else kvPinned t r slot piece n

/-- The next move of a `kcommit` (R229, R230): stage 1 the lengths, stage 2 the eviction of piece `pos`, stage 3 the trim of piece
`pos`. -/
def kcommitMove (o : EngOp) : Move := do
  let t ← kvAs o
  let r ← kvArenaOf o o.a
  let slot := kvSlot o.a
  let len := fieldNat o.b 0 22
  let trimFrom := (len * r.pos + r.page - 1) / r.page
  if o.stage = 0 then
    let d ← kvGet t (r.slotVa slot 0) 8
    if len < d % 2 ^ 22 ∨ r.maxlen < len then kvFail cKvRange
    kvPut t (r.slotVa slot 0) 8 (putBits (putBits d 0 22 len) 32 22 (max (d / 2 ^ 32 % 2 ^ 22) len))
    return { o with stage := 2, pos := 0 }
  else if o.stage = 2 then
    let w := (← kvGet t (r.slotVa slot 1) 8) % 2 ^ 16
    let bound := (len * r.pos - 1) / r.page + 1 - w
    if w = 0 ∨ len = 0 ∨ bound ≤ o.pos then
      return if bitAt o.b 63 then { o with stage := 3, pos := trimFrom } else o.done
    else
      let e ← r.ent t slot o.pos
      if entMapped e ∧ (← kvPinned t r slot o.pos 8).isNone then
        kvPut t (r.entVa slot o.pos) 4 ((← kvFree) % 2 ^ 24 + 2 ^ 25)
        let _ ← r.release t (entPage e)
      return { o with pos := o.pos + 1 }
  else if o.pos < r.npiece then
    let freed ← kvUnmap t r slot o.pos false
    return { o with pos := o.pos + 1, count := o.count + freed.toNat }
  else
    let d ← kvGet t (r.slotVa slot 0) 8
    kvPut t (r.slotVa slot 0) 8 (putBits d 32 22 len)
    return o.done

/-- One piece of a `kdedup`: it waits for the KV stores to the two pages that are on their way (R231, R288, R340). -/
def kdedupMove (o : EngOp) : Move := do
  let t ← kvAs o
  let r ← kvArenaOf o o.a
  let slot := kvSlot o.a
  let first := kvOff o.a / r.page
  let last := min (first + o.b.toNat) r.npiece
  let j := first + o.pos
  if last ≤ j then return o.done
  let next (o : EngOp) : EngOp := if first + o.pos < last then o else o.done
  let o := { o with pos := o.pos + 1 }
  let e ← r.ent t slot j
  if !entMapped e then return next o
  let p := entPage e
  kvQuiet t (r.pageVa p) r.page
  let bs ← kvBytes o (r.pageVa p) r.page
  let f := (crcBytes 0 bs).toNat
  kvPut t (r.frameVa p + 8) 8 f
  if r.fplog = 0 then return next o
  match ← lookupAt t f (r.probes f) with
  | some q =>
    if q = p ∨ r.npool ≤ q then return next o
    kvQuiet t (r.pageVa q) r.page
    let qs ← kvBytes o (r.pageVa q) r.page
    if qs = bs ∧ (← r.count t q) < 65535 then
      r.modFrame t q fun w => putBits w 0 16 (w % 2 ^ 16 + 1)
      kvPut t (r.entVa slot j) 4 (entOf q)
      let _ ← r.release t p
      return next { o with count := o.count + 1 }
    else return next o
  | none =>
    if ← insertAt t f p (r.probes f) then r.modFrame t p fun w => putBits w 17 1 1
    return next o

/-- The entries of a slot's row. -/
def kvRow (t : KvAs) (r : Arena) (slot : Nat) : List Nat → Kv (List Nat)
  | [] => return []
  | j :: js => do
    let e ← r.ent t slot j
    return e :: (← kvRow t r slot js)

/-- Checks that the counts of pages can be raised by what a list of pages asks (R340). -/
def kforkCheck (t : KvAs) (r : Arena) (all : List Nat) : List Nat → Kv Unit
  | [] => return ()
  | p :: ps => do
    if 65535 < (← r.count t p) + all.count p then kvFail cKvRange
    kforkCheck t r all ps

/-- Writes entries from a piece on. -/
def kvWriteRow (t : KvAs) (r : Arena) (slot : Nat) : Nat → List Nat → Kv Unit
  | _, [] => return ()
  | j, e :: es => do
    kvPut t (r.entVa slot j) 4 e
    kvWriteRow t r slot (j + 1) es

/-- Copies doublewords of a slot's state. -/
def kvCopyState (t : KvAs) (r : Arena) (src dst : Nat) : List Nat → Kv Unit
  | [] => return ()
  | i :: is => do
    kvPut t (r.slotVa dst i) 8 (← kvGet t (r.slotVa src i) 8)
    kvCopyState t r src dst is

/-- The next move of a `kfork` (R232, R287). Stage 0 reads the source row and checks every count; stage 1 raises one count after another,
where it does not pass 65,535 (R340); stage 2 writes the row and the slot's settings at once; stage 3 releases one page after another.
`list` holds the source's entries, in stage 3 the pages to be released. -/
def kforkMove (o : EngOp) : Move := do
  let t ← kvAs o
  let r ← kvArenaOf o o.a
  if kvArena o.a ≠ kvArena o.b ∨ r.slots ≤ kvSlot o.b then kvFail cKvRange
  else if kvSlot o.a = kvSlot o.b then return o.done
  else if o.stage = 0 then
    let src ← kvRow t r (kvSlot o.a) (List.range r.npiece)
    let pages := (src.filter entMapped).map entPage
    kforkCheck t r pages pages
    return { o with stage := 1, list := src, count := pages.dedup.length }
  else
    let pages := (o.list.filter entMapped).map entPage
    if o.stage = 1 then match pages[o.pos]? with
      | some p =>
        let w ← kvGet t (r.frameVa p) 8
        if w % 2 ^ 16 < 65535 then kvPut t (r.frameVa p) 8 (putBits w 0 16 (w % 2 ^ 16 + 1))
        return { o with pos := o.pos + 1 }
      | none => return { o with stage := 2, pos := 0 }
    else if o.stage = 2 then
      let old ← kvRow t r (kvSlot o.b) (List.range r.npiece)
      kvWriteRow t r (kvSlot o.b) 0 o.list
      kvCopyState t r (kvSlot o.a) (kvSlot o.b) (0 :: 1 :: (List.range 8).map (· + 8))
      return { o with stage := 3, list := (old.filter entMapped).map entPage }
    else match o.list with
      | p :: ps =>
        let _ ← r.release t p
        return { o with list := ps }
      | [] => return o.done

/-- `kwin` (R230). -/
def kwinMove (o : EngOp) : Move := do
  let t ← kvAs o
  let r ← kvArenaOf o o.a
  let d ← kvGet t (r.slotVa (kvSlot o.a) 1) 8
  kvPut t (r.slotVa (kvSlot o.a) 1) 8 (putBits d 0 16 (fieldNat o.b 0 16))
  return o.done

/-- A place for a pin that is not valid. -/
def kvPinPlace (t : KvAs) (r : Arena) (slot : Nat) : List Nat → Kv (Option Nat)
  | [] => return none
  | n :: ns => do
    if (← kvGet t (r.slotVa slot (8 + n)) 8) / 2 ^ 63 % 2 = 1 then kvPinPlace t r slot ns else return some n

/-- `kpin` (R230). -/
def kpinMove (o : EngOp) : Move := do
  let t ← kvAs o
  let r ← kvArenaOf o o.a
  let slot := kvSlot o.a
  let piece := kvOff o.a / r.page
  if r.npiece ≤ piece then kvFail cKvRange
  let d ← kvGet t (r.slotVa slot 1) 8
  let n := d / 2 ^ 16 % 16
  match ← kvPinned t r slot piece 8, bitAt o.b 0 with
  | some i, true =>
    kvPut t (r.slotVa slot (8 + i)) 8 0
    kvPut t (r.slotVa slot 1) 8 (putBits d 16 4 (n - 1))
    return o.done
  | none, false => match ← kvPinPlace t r slot (List.range 8) with
    | none => kvFail cKvRange
    | some i =>
      kvPut t (r.slotVa slot (8 + i)) 8 (piece % 2 ^ 48 + 2 ^ 63)
      kvPut t (r.slotVa slot 1) 8 (putBits d 16 4 (n + 1))
      return o.done
  | _, _ => return o.done

/-! ## `kld` (R224, R233) -/

/-- Rows of a `kld`. -/
def kldRows (b : W64) : Nat := fieldNat b 0 12
/-- Ring of a `kld`. -/
def kldRing (b : W64) : BitVec 2 := bits b 12 2
/-- Widening of a `kld`. -/
def kldWid (b : W64) : Nat := fieldNat b 14 2
/-- Bytes that a row takes in KV space. -/
def kldBytes (b w : W64) : Nat := match kldWid b with
  | 1 => 256 | 2 => 136 | _ => rStride w

/-- The bytes of a run in KV space, piece by piece, with the operation that then holds the entries it has read. -/
def kvRead (o : EngOp) (r : Arena) (slot : Nat) : Nat → Nat → Nat → Kv (List Byte × EngOp)
  | 0, _, _ => return ([], o)
  | f + 1, off, n => do
    if n = 0 then return ([], o)
    let k := min n (r.page - off % r.page)
    let (p, o) ← kvFind o r slot off
    let bs ← kvBytes o (r.pageVa p + off % r.page) k
    let (rest, o) ← kvRead o r slot f (off + k) (n - k)
    return (bs ++ rest, o)

/-- A row as the ring gets it. -/
def kldWiden (b : W64) (bs : List Byte) : List Byte :=
  let p1 := fieldNat b 16 8
  match kldWid b with
  | 1 => bs.flatMap fun x => widen p1 (e4m3.decode x.toNat)
  | 2 => (List.range 8).flatMap fun i => widenBlock p1 ((bs.drop (17 * i)).take 17)
  | _ => bs

/-- Has the program changed the ring under the `kld`: its set-up or its TAIL (R224)? `list` holds the ring word at the start. -/
def kldDetached (o : EngOp) (w : W64) : Bool :=
  let w0 := w64 (nth o.list 0 0)
  o.stage == 2 || rTail w != rStep w0 (rTail w0) o.pos || rSize w != rSize w0 || rBase w != rBase w0 || rNx w != rNx w0

/-- Is an earlier `kld` of the context into the ring still in flight? -/
def State.kldBefore (s : State) (o : EngOp) : Bool :=
  s.dev.eng.any fun x => x.kind == .kld && x.token.isNone && x.task == o.task && kldRing x.b == kldRing o.b && decide (x.id < o.id)

/-- Is a ring command that issued before the `kld` still to come (log 17)? -/
def Core.ringBusy (k : Core) (o : EngOp) : Bool :=
  k.mat.queue.any fun c => decide (c.issue < o.count) && match c.instr with
    | .ringcfg _ r _ _ | .ringpush _ r _ _ => r == kldRing o.b
    | _ => false

/-- Writes one row into the ring and advances TAIL (R224). -/
def State.kldRow (s : State) (o : EngOp) (c : CoreId) (w : W64) (bs : List Byte) : State :=
  let w0 := w64 (nth o.list 0 0)
  let det := kldDetached o w
  let s := s.pokes (lsAddr c (rOffset w0 (rStep w0 (rTail w0) o.pos))) bs
  let s := if det then s
    else s.modCore c fun k => k.setRing (kldRing o.b) (setField w 12 12 (rStep w (rTail w) 1))
  let o := { o with pos := o.pos + 1, stage := if det then 2 else 1 }
  let bytes := o.pos * bs.length
  s.setEng (if o.pos < kldRows o.b then o else o.finish 1 0 bytes)

/-- The next row of a `kld`: it waits while the ring is full, and while the context is not loaded. A piece that KV space does not map ends
it with KV_RANGE, a fault at the address that its entry gives with that fault's code (R224, R339). -/
def State.kldTurn (s : State) (o : EngOp) : State :=
  match s.engCore o with
  | none => s
  | some c =>
    let loaded := match o.task.bind s.taskById with
      | some t => t.where_ == .on c
      | none => false
    if o.token.isSome || !loaded then s
    else
      let w := (s.core c).ctx.rings.get (kldRing o.b).toFin
      if o.stage = 0 then
        if s.engStart o && !s.kldBefore o && !(s.core c).ringBusy o then s.setEng { o with stage := 1, list := [w.toNat] } else s
      else if !kldDetached o w && rCount w == rSize w then s
      else
        let w0 := w64 (nth o.list 0 0)
        let off := kvOff o.a + o.pos * fieldNat o.b 32 26
        let n := kldBytes o.b w0
        let (r, s) := (do let r ← kvArenaOf o o.a; kvRead o r (kvSlot o.a) n off n : Kv (List Byte × EngOp)).run s
        match r with
        | .ok (bs, o) => s.kldRow o c w (kldWiden o.b bs)
        | .error f => (s.engLog o f.1 f.2).setEng (o.finish 2 f.1 (o.pos * (if rNx w0 then 544 else 512)))

/-! ## Turns of KV operations -/

/-- Does a `kcommit` still wait for an earlier store of the core to its slot (R229)? -/
def State.kcommitWaits (s : State) (o : EngOp) : Bool :=
  s.dev.eng.any fun x => (x.kind == .kst || x.kind == .kapp) && x.task == o.task && decide (x.id < o.id) &&
    x.tenant == o.tenant && kvArena x.a == kvArena o.a && kvSlot x.a == kvSlot o.a

/-- The move of a KV operation other than `kld`. -/
def kvMove (o : EngOp) : Move := match o.kind with
  | .kst | .kapp => kstMove o
  | .kalloc => kallocMove o
  | .kfree => kfreeMove o
  | .kcommit => kcommitMove o
  | .kdedup => kdedupMove o
  | .kfork => kforkMove o
  | .kwin => kwinMove o
  | .kpin => kpinMove o
  | _ => return o

/-- A KV operation makes its next move; a fault ends it with its code (R225, R333). One that must wait stays as it is. -/
def State.kvTurn (s : State) (o : EngOp) : State :=
  if o.token.isSome || (o.pos == 0 && o.stage == 0 && !s.engStart o) || (o.kind == .kcommit && o.stage == 0 && s.kcommitWaits o) then s
  else match (kvMove o).run s with
    | (.ok o, s) => s.setEng o
    | (.error f, t) => if f.1 = 0 then s else (t.engLog o f.1 f.2).setEng (o.finish 2 f.1 o.count)

/-! ## Issue (R223) -/

/-- How the acting core's engines read at issue. -/
def State.issueView (s : State) : View := .eng s.dev.cur.core (s.me.seq 1)

/-- The fault of a KVA at issue: an undefined arena or a slot that does not exist (R70, R223). An unreadable descriptor is left to
the engine. -/
def State.kvaFault (s : State) (a : W64) : Bool :=
  match s.arena s.issueView (s.coreTenant s.dev.cur.core) (kvArena a) with
  | .ok (some r) => decide (r.slots ≤ kvSlot a)
  | .ok none => true
  | .error _ => false

/-- Is the arena of an operand undefined? -/
def State.arenaUndef (s : State) (a : W64) : Bool :=
  match s.arena s.issueView (s.coreTenant s.dev.cur.core) (kvArena a) with
  | .ok none => true
  | _ => false

/-- The checks that a KV instruction makes at issue: `bad` operand values, `range` of arena and slot, `ls`: a range that leaves the
local store. -/
def kvIssue (kind : EngKind) (d a b : BitVec 6) (acq rel : Bool) (scope : BitVec 3) (bad : W64 → W64 → Bool)
    (range : State → W64 → W64 → Bool) (ls : W64 → W64 → Bool) (s : State) : State :=
  let va := s.sreg a
  let vb := s.sreg b
  if bad va vb then s.trapAt cIllegalOpcode
  else if range s va vb then s.trapAt cKvRange
  else if ls va vb then s.trapAt cDataUnmapped
  else s.issueEng d { s.newEng kind va vb with acq := acq, rel := rel, scope := scope }

/-- The form of a KV syllable. -/
def kvSyl (kind : EngKind) (x : Lent) (d a b : BitVec 6) (acq rel : Bool) (scope : BitVec 3) (bad : W64 → W64 → Bool)
    (range : State → W64 → W64 → Bool) (ls : W64 → W64 → Bool) : State → State :=
  syl x ((Uses.none.r a).r b) (kvIssue kind d a b acq rel scope bad range ls)

/-- The operands of `kst` and `kapp`: length 1 to 2^20. -/
def storeBad (_ b : W64) : Bool :=
  (b &&& 0xFFE00000FFF00000) != 0 || fieldNat b 32 21 == 0 || decide (2 ^ 20 < fieldNat b 32 21)

/-- Does the source range of `kst` and `kapp` leave the local store? -/
def storeLs (_ b : W64) : Bool := decide (Config.lsBytes < fieldNat b 0 20 + fieldNat b 32 21)

/-- The committed length of a slot, where it can be read. -/
def State.clenOf (s : State) (a : W64) : Nat :=
  let t := s.coreTenant s.dev.cur.core
  match s.arena s.issueView t (kvArena a) with
  | .ok (some r) => match s.devNat t (r.slotVa (kvSlot a) 0) 8 with
    | .ok d => d % 2 ^ 22
    | .error _ => 0
  | _ => 0

/-- Does a byte that `kapp` writes lie below the committed length (R225)? -/
def State.kappFault (s : State) (a : W64) : Bool :=
  match s.arena s.issueView (s.coreTenant s.dev.cur.core) (kvArena a) with
  | .ok (some r) => decide (kvOff a / r.pos < s.clenOf a)
  | _ => false

/-- The operands of `kfree` and `kdedup`: 1 to 2^32 - 1 pieces. -/
def piecesBad (_ b : W64) : Bool := b == 0 || decide (2 ^ 32 ≤ b.toNat)

/-- R224: rows of KV space into an operand ring. -/
def execKld (x : Lent) (d a b : BitVec 6) (acq rel : Bool) (scope : BitVec 3) (s : State) : Out :=
  act (syl x ((Uses.none.r a).r b) fun s =>
    let s := s.modMe Core.syncSh
    let va := s.sreg a
    let vb := s.sreg b
    let w := s.me.mat.shRing.get (kldRing vb).toFin
    if (vb &&& 0xFC000000FF000000) ≠ 0 ∨ kldRows vb = 0 ∨ 2048 < kldRows vb ∨ kldWid vb = 3 ∨ 2 ^ 26 < fieldNat vb 32 26 then
      s.trapAt cIllegalOpcode
    else if s.kvaFault va then s.trapAt cKvRange
    else if rSize w = 0 ∨ rSize w < kldRows vb ∨ (kldWid vb ≠ 0 ∧ rNx w) then s.trapAt cMatfmt
    else s.issueEng d { s.newEng .kld va vb with acq := acq, rel := rel, scope := scope, count := s.me.clk.unf }) s

/-- R224: the `kld` that the cursor names writes one row into its ring. -/
def execKldRow (s : State) : Out :=
  act (fun s => match s.engOp s.dev.cur.n with
    | some o => if o.kind = .kld then s.kldTurn o else s
    | none => s) s

/-- R225: local-store bytes to KV space. -/
def execKst (x : Lent) (d a b : BitVec 6) (acq rel : Bool) (scope : BitVec 3) (s : State) : Out :=
  act (kvSyl .kst x d a b acq rel scope storeBad (fun s a _ => s.kvaFault a) storeLs) s

/-- R225: local-store bytes to provisional positions. -/
def execKapp (x : Lent) (d a b : BitVec 6) (acq rel : Bool) (scope : BitVec 3) (s : State) : Out :=
  act (kvSyl .kapp x d a b acq rel scope storeBad (fun s a _ => s.kvaFault a || s.kappFault a) storeLs) s

/-- R227: maps fresh pages. The list is read at issue. -/
def execKalloc (x : Lent) (d a b : BitVec 6) (acq rel : Bool) (scope : BitVec 3) (s : State) : Out :=
  act (syl x ((Uses.none.r a).r b) fun s =>
    let va := s.sreg a
    let vb := s.sreg b
    let off := fieldNat va 0 20
    if off % 8 ≠ 0 ∨ vb = 0 ∨ 256 < vb.toNat then s.trapAt cIllegalOpcode
    else if s.arenaUndef va then s.trapAt cKvRange
    else if Config.lsBytes < off + 8 * vb.toNat then s.trapAt cDataUnmapped
    else
      let c := s.dev.cur.core
      let bs := s.readPart c (s.me.seq 0) { va := Config.lsBase + off, len := 8 * vb.toNat, pa := some (lsAddr c off), sc := false }
      let reqs := (List.range vb.toNat).map fun i => w64 (leNat ((bs.drop (8 * i)).take 8))
      if reqs.any fun w => fieldNat w 16 8 == 0 || fieldNat w 12 4 != 0 then s.trapAt cIllegalOpcode
      else s.issueEng d { s.newEng .kalloc va vb with reqs := reqs, acq := acq, rel := rel, scope := scope }) s

/-- R228: unmaps pieces. -/
def execKfree (x : Lent) (d a b : BitVec 6) (acq rel : Bool) (scope : BitVec 3) (s : State) : Out :=
  act (kvSyl .kfree x d a b acq rel scope piecesBad (fun s a _ => s.kvaFault a) fun _ _ => false) s

/-- R229: sets the committed length. -/
def execKcommit (x : Lent) (d a b : BitVec 6) (acq rel : Bool) (scope : BitVec 3) (s : State) : Out :=
  act (kvSyl .kcommit x d a b acq rel scope (fun _ b => (b &&& 0x7FFFFFFFFFC00000) != 0) (fun s a _ => s.kvaFault a)
    fun _ _ => false) s

/-- R231: shares pages of equal contents. -/
def execKdedup (x : Lent) (d a b : BitVec 6) (acq rel : Bool) (scope : BitVec 3) (s : State) : Out :=
  act (kvSyl .kdedup x d a b acq rel scope piecesBad (fun s a _ => s.kvaFault a) fun _ _ => false) s

/-- R232: shares a slot's pages with another. -/
def execKfork (x : Lent) (d a b : BitVec 6) (acq rel : Bool) (scope : BitVec 3) (s : State) : Out :=
  act (kvSyl .kfork x d a b acq rel scope (fun _ b => fieldNat b 0 48 != 0) (fun s a b => s.kvaFault a || s.kvaFault b)
    fun _ _ => false) s

/-- R230: sets a slot's window. -/
def execKwin (x : Lent) (d a b : BitVec 6) (acq rel : Bool) (scope : BitVec 3) (s : State) : Out :=
  act (kvSyl .kwin x d a b acq rel scope (fun _ b => decide (2 ^ 16 ≤ b.toNat)) (fun s a _ => s.kvaFault a) fun _ _ => false) s

/-- R230: pins a piece, or unpins it. -/
def execKpin (x : Lent) (d a b : BitVec 6) (acq rel : Bool) (scope : BitVec 3) (s : State) : Out :=
  act (kvSyl .kpin x d a b acq rel scope (fun _ b => decide (2 ≤ b.toNat)) (fun s a _ => s.kvaFault a) fun _ _ => false) s

end Sys2Proof.Machine
end

