-- ==== Sys2Proof/Machine/Stream.lean ====
section
/-! DEFINITION. Streams: `sbind`, `sfree`, `ixq`, and the fetch and drain of entries (R183 to R185, R234 to R237). -/

namespace Sys2Proof.Machine

/-! ## Binding -/

/-- The slot that a stream event names: the cursor's number. -/
def State.curSlot (s : State) : BitVec 3 := BitVec.ofNat 3 s.dev.cur.n

/-- Does a pattern break a rule of R234 for the direction? -/
def patternBad (dir : Bool) (p : BitVec 512) : Bool :=
  let st : StreamSlot := { Reset.stream with pat := p }
  let ctl := st.patNat 8 8
  decide (32 ≤ ctl) || ctl % 4 == 3 || (st.gath && dir) ||
    (!st.gath && (List.range (ctl / 4 % 4 + 1)).any fun d => st.cnt d == 0)

/-- R234: binds a register to a stream from issue + 1. -/
def execSbind (x : Lent) (slot vr : BitVec 3) (dir : Bool) (a : BitVec 6) (s : State) : Out :=
  act (syl x (Uses.none.r a) fun s =>
    let off := fieldNat (s.sreg a) 0 20
    if off % 64 ≠ 0 then s.trapAt cDataUnmapped
    else
      let k := s.me
      let c := s.dev.cur.core
      let p := BitVec.ofNat 512 (leNat (s.readPart c (k.seq 0)
        { va := Config.lsBase + off, len := 64, pa := some (lsAddr c off), sc := false }))
      if patternBad dir p || (k.ctx.streams.get slot.toFin).bound || (k.boundSlot (24 + vr.setWidth 5)).isSome then
        s.trapAt cIllegalOpcode
      else s.resX (.bind slot vr dir) (p.setWidth 1024)) s

/-- R235: ends a binding from issue + 1. -/
def execSfree (x : Lent) (slot : BitVec 3) (s : State) : Out :=
  act (syl x Uses.none fun s => if (s.me.ctx.streams.get slot.toFin).bound then s.resX (.unbind slot) 0 else s) s

/-! ## Fetching -/

/-- The bytes of the pieces of an entry as a core's transfer unit reads them, or the first fault. -/
def State.fetchPieces (c : CoreId) : List (Nat × Nat) → State → Except (Nat × Nat) (List Byte) × State
  | [], s => (.ok [], s)
  | p :: ps, s =>
    let reach (s : State) (pa : Nat) : Except Nat Nat × State :=
      (if s.placeWaits (some c) (s.coreTenant c) pa then .error cWait else .ok pa, s)
    let (pl, s) : Except Nat Nat × State := match rowOf p.1 with
      | .paged => match s.coreXlate c .read p.1 with
        | (.ok e, s) => reach s (s.placeOf e p.1)
        | (.error code, s) => (.error code, s)
      | .vault => reach s (vaultPlace p.1)
      | .ls => (.ok (lsAddr c (p.1 - Config.lsBase)), s)
      | .vlat => (.ok (vlatAddr c (p.1 - Config.vlatBase)), s)
      | .hole => (.error cDataUnmapped, s)
    match pl with
    | .error code => (.error (code, p.1), s)
    | .ok pa =>
      let bs := if rowOf p.1 = .vlat then (addrs (p.1 - Config.vlatBase) p.2).map fun n => BitVec.ofNat 8 (vlat c n)
        else s.shownBytes (.eng c (2 ^ 64)) p.1 pa p.2
      match State.fetchPieces c ps s with
      | (.ok l, s) => (.ok (bs ++ l), s)
      | r => r

/-- What a read stream fetches for an entry: its bytes or the code and first faulting byte. The core's stream entries for the same local
memory drain first (R77, R90). -/
def State.fetchEntry (s : State) (va len : Nat) : Except (Nat × Nat) (List Byte) × State :=
  match s.dataFault .read true va len with
  | some f => (.error f, s)
  | none =>
    let c := s.dev.cur.core
    (if localVa c va then s.drainAhead c (2 ^ 64) [(va, len)] else s).fetchPieces c (engPieces va len)

/-- Fetches the next entry of a read stream of the core that acts; a faulted entry stops the stream (R237), and a MEMWIN is logged (R59,
R328). -/
def State.streamFetch (s : State) (slot : BitVec 3) : State :=
  let st := s.me.ctx.streams.get slot.toFin
  match st.nextFetch with
  | none => s
  | some i =>
    let (r, s) := s.fetchEntry (st.entryVa i) st.entryBytes
    let e : FifoEnt := match r with
      | .ok bs => { idx := i, val := BitVec.ofNat 1024 (leNat bs), fault := none }
      | .error f => { idx := i, val := 0, fault := some (BitVec.ofNat 8 f.1, w64 f.2) }
    let s := match r with
      | .ok _ => s
      | .error f => if f.1 = cMemwin then s.logFault (s.coreTenant s.dev.cur.core) f.1 clsCore s.dev.cur.core.val f.2 else s
    s.modMe fun k => k.modStream slot fun st =>
      { st with fifo := st.fifo ++ [e], gq := if st.gath then st.gq.drop 1 else st.gq,
                next := if st.gath then st.next else st.next + 1, stopped := e.fault.isSome }

/-- Must the next fetch of a read stream wait: for an entry of a write stream in the same local memory
whose result has not landed (R77, R90), or for a write to an SC page that has not performed (R85)? -/
def State.fetchWaits (s : State) (slot : BitVec 3) : Bool :=
  let c := s.dev.cur.core
  let st := s.me.ctx.streams.get slot.toFin
  match st.nextFetch with
  | some i => (s.me.pushed.any fun e => s.me.unfilled e && sameLocal c e.va (st.entryVa i)) || s.scPending c
  | none => false

/-- R234: a read stream of the core that acts fetches an entry while its context runs. -/
def execStreamEntryFetch (s : State) : Out :=
  act (fun s => if s.me.run = .running ∧ !s.me.priv ∧ !s.fetchWaits s.curSlot then s.streamFetch s.curSlot else s) s

/-! ## Gather indices (R236) -/

/-- R236: pushes an index to a gather queue. The queue holds 64 beyond the FIFO: with 64 in it, the push moves the oldest on into the FIFO,
or, where that has no place for it, raises ILLEGAL_OPCODE. -/
def execIxq (x : Lent) (slot : BitVec 3) (a : BitVec 6) (s : State) : Out :=
  act (syl x (Uses.none.r a) fun s =>
    let st := s.me.ctx.streams.get slot.toFin
    if !st.bound || st.dir || !st.gath then s.trapAt cIllegalOpcode
    else
      let s1 := if 64 ≤ st.gq.length then s.streamFetch slot else s
      if 64 ≤ (s1.me.ctx.streams.get slot.toFin).gq.length then s.trapAt cIllegalOpcode
      else
        let i := bits (s.sreg a) 0 32
        s1.modMe fun k => k.modStream slot fun st => { st with gq := st.gq ++ [i] }) s

/-! ## Draining -/

/-- R235: a write stream of the core that acts drains an entry. -/
def execStreamEntryDrain (s : State) : Out := act (fun s => s.drainSlot s.dev.cur.core s.curSlot) s

end Sys2Proof.Machine
end

