-- ==== Sys2Proof/Machine/Sync.lean ====
section
/-! DEFINITION. Hardware queues and frame slots (R238, R239, R356), done-ring waits (R222), barriers (R34 to R36, R241, R286), step
groups and planes (R37, R92 to R95, R242 to R246, R284, R285), and what the end of a task does to them. -/

namespace Sys2Proof.Machine

/-! ## Who waits -/

/-- Puts a deferred release among those of the core that acts: it counts when earlier accesses have performed (R91, R93). -/
def State.deferOn (s : State) (d : Deferred) : State := s.modMe fun k => { k with defer := k.defer ++ [(k.seq 1, d)] }

/-- Is the resource record owned by the tenant of the core that acts (R212)? -/
def State.mine (s : State) (o : Option (BitVec 4)) : Bool := o == some (BitVec.ofNat 4 (s.coreTenant s.dev.cur.core).val)

/-! ## Hardware queues (R238) -/

/-- A queue. -/
def State.hq (s : State) (q : BitVec 8) : HwQueue := s.dev.hqs.get q.toFin
/-- Is a queue enabled? -/
def HwQueue.en (h : HwQueue) : Bool := bitAt h.dw0 0
/-- Depth of a queue. -/
def HwQueue.depth (h : HwQueue) : Nat := fieldNat h.dw0 8 7
/-- May party `n` put (R356)? -/
def HwQueue.mayPut (h : HwQueue) (n : Nat) : Bool := bitAt h.dw1 n
/-- May party `n` get (R356)? -/
def HwQueue.mayGet (h : HwQueue) (n : Nat) : Bool := bitAt h.dw1 (8 + n)
/-- Has the queue room for one more token? -/
def HwQueue.room (h : HwQueue) : Bool := decide (h.toks.length + h.resv < h.depth)

/-- A frame ring. -/
def State.fring (s : State) (n : BitVec 8) : FrameRing := s.dev.frings.get n.toFin
/-- Is a frame ring enabled? -/
def FrameRing.en (f : FrameRing) : Bool := bitAt (f.dw.get 0) 0
/-- Slots of a frame ring. -/
def FrameRing.nslot (f : FrameRing) : Nat := fieldNat (f.dw.get 0) 8 5
/-- The queue of role 0 (FREEQ), 1 (DECQ) or 2 (ENCQ). -/
def FrameRing.queue (f : FrameRing) (role : Nat) : BitVec 8 := bits (f.dw.get 3) (8 * role) 8

/-- The enabled frame ring that a queue belongs to, with its role. -/
def State.roleOf (s : State) (q : BitVec 8) : Option (BitVec 8 × Nat) :=
  ((List.range 256).map (BitVec.ofNat 8)).findSome? fun n =>
    let f := s.fring n
    if !f.en then none else ((List.range 3).find? fun r => f.queue r == q).map fun r => (n, r)

/-- Slot of a frame token (R239). -/
def tokSlot (w : W64) : Nat := fieldNat w 32 4
/-- Frame ring of a frame token (R239). -/
def tokRing (w : W64) : BitVec 8 := bits w 36 8

/-- Moves a frame slot (R239). -/
def State.setSlot (s : State) (f : BitVec 8) (n : Nat) (st : SlotState) : State :=
  s.modFring f fun r => { r with slots := r.slots.set n st }

/-- Does a core's `qput` of a token break R239 or R356? -/
def State.putRefused (s : State) (q : BitVec 8) (w : W64) : Bool :=
  !(s.hq q).mayPut 0 || match s.roleOf q with
    | none => false
    | some (f, role) =>
      role == 2 || fieldNat w 56 8 != 1 || tokRing w != f || decide ((s.fring f).nslot ≤ tokSlot w) ||
        (s.fring f).slots[tokSlot w]? != some .render

/-- Does a core's `qget` break R239 or R356? -/
def State.getRefused (s : State) (q : BitVec 8) : Bool :=
  !(s.hq q).mayGet 0 || match s.roleOf q with
    | none => false
    | some (_, role) => role != 0

/-- A token enters a queue where a place is reserved for it. -/
def State.enterToken (s : State) (q : BitVec 8) (w : W64) : State :=
  s.modHq q fun h => { h with toks := h.toks ++ [w], resv := h.resv - 1 }

/-- A hardware party puts a token: at once, its earlier writes having performed (R91). -/
def State.partyPut (s : State) (q : BitVec 8) (p : Putter) (w : W64) : State :=
  s.modHq q fun h => { h with toks := h.toks ++ [w], putters := h.putters.filter (· != p) }

/-- Joins a list of waiting parties once. -/
def joinList {α : Type} [DecidableEq α] (c : α) (l : List α) : List α := if c ∈ l then l else l ++ [c]

/-- Is a party the next to be served (R238)? -/
def firstIn {α : Type} [DecidableEq α] (c : α) (l : List α) : Bool := l.isEmpty || l.head? == some c

/-- A hardware party that finds no room, or others before it, waits in the queue's order (R238). -/
def State.partyWaits (s : State) (q : BitVec 8) (p : Putter) : State := s.modHq q fun h => { h with putters := joinList p h.putters }

/-! ## Barriers (R34 to R36) -/

/-- A barrier. -/
def State.hb (s : State) (n : BitVec 6) : Barrier := s.dev.hbs.get n.toFin

/-- The task with a rank in a cohort. -/
def State.taskAt (s : State) (cohort rank : Nat) : Option Task := s.dev.tasks.find? fun t => t.cohort == cohort && t.rank == rank

/-- Has a task not ended? -/
def Task.alive (t : Task) : Bool := match t.where_ with
  | .ended _ => false
  | _ => true

/-- Is an arrival of a task at a barrier on its way? -/
def State.arriving (s : State) (n : BitVec 6) (task : Nat) : Bool :=
  (List.finRange 128).any fun c => (s.core c).defer.any fun d => match d.2 with
    | .arrive m t _ => m == n && t == task
    | _ => false

/-- Is the arrival of a task's held `barw` at a barrier on its way (R125)? -/
def State.arrivingHeld (s : State) (n : BitVec 6) (task : Nat) : Bool :=
  (List.finRange 128).any fun c => (s.core c).defer.any fun d => d.2 == .arrive n task true

/-- Can a member still arrive in the current phase (R35)? A member that has ended while the arrival of its `bara` was on its way still
arrives (the spec does not say: DESIGN CHOICE, log 75). -/
def State.canArrive (s : State) (n : BitVec 6) (b : Barrier) (rank : Nat) : Bool :=
  !b.arrived.contains rank && match b.cohort.bind fun c => s.taskAt c rank with
    | some t => t.alive || s.arriving n t.id
    | none => false

/-- The test of R36: a barrier that can no longer complete breaks, and its phase ends broken. -/
def State.testBarrier (s : State) (n : BitVec 6) : State :=
  let b := s.hb n
  if b.cohort.isNone || b.broken then s
  else
    let can := ((List.range 128).filter fun r => bitAt b.members r && s.canArrive n b r).length
    if b.count + can < b.expect then
      s.modHb n fun b => { b with broken := true, bad := b.phase :: b.bad, phase := b.phase + 1 }
    else s

/-- An arrival counts (R34): the last one expected completes the phase, and the next begins (R36). -/
def State.countArrival (s : State) (n : BitVec 6) (task : Nat) (waits : Bool) : State :=
  match s.taskById task with
  | none => s
  | some t =>
    let b := s.hb n
    if b.broken || b.cohort != some t.cohort || !bitAt b.members t.rank then s
    else
      let s := s.modHb n fun b =>
        let mark (n : Nat) (l : List (Nat × Nat)) : List (Nat × Nat) := (n, b.phase) :: l.filter fun x => x.1 != n
        { b with count := b.count + 1, arrived := t.rank :: b.arrived, last := if waits then b.last else mark t.rank b.last,
                 waits := if waits then mark task b.waits else b.waits }
      if b.count + 1 < b.expect then s
      else (s.modHb n fun b => { b with count := 0, arrived := [], phase := b.phase + 1 }).testBarrier n

/-! ## Step groups (R242 to R246) -/

/-- The zones of a group, ascending. -/
def State.groupZones (s : State) (g : BitVec 5) : List (BitVec 6) :=
  ((List.range 64).map (BitVec.ofNat 6)).filter fun n => (s.zone n).en && (s.zone n).group == g

/-- Changes the zones of a group. -/
def State.modZones (s : State) (g : BitVec 5) (f : Zone → Zone) : State := (s.groupZones g).foldl (fun s n => s.modPz n f) s

/-- Inserts a member in member order: ascending index, then rank (R242). -/
def insertMember (m : Member) : List Member → List Member
  | [] => [m]
  | x :: xs => if m.index < x.index ∨ (m.index = x.index ∧ m.rank < x.rank) then m :: x :: xs else x :: insertMember m xs

/-- Members in member order. -/
def memberOrder (l : List Member) : List Member := l.foldl (fun r m => insertMember m r) []

/-- The last value of a task for a word of a next plane (R92). -/
def lastValue (plane : List PlaneWrite) (task word : Nat) : Option (BitVec 32) :=
  (plane.reverse.find? fun p => p.task == task && p.word == word).map (·.val)

/-- The collision rule on values in member order (R244). -/
def collide (rule : Nat) : List (BitVec 32) → BitVec 32
  | [] => 0
  | v :: vs => match rule with
    | 1 => vs.foldl (· + ·) v
    | 2 => vs.foldl (fun a b => toF32 (FVal.add 0 (f32 a) (f32 b))) v
    | _ => v

/-- The distinct words of a plane, ascending. -/
def planeWords (plane : List PlaneWrite) : List Nat := ((plane.map (·.word)).dedup).mergeSort (· ≤ ·)

/-- A word of a zone at its commit: its value, and the members that collided. -/
def commitWord (rule : Nat) (members : List Member) (plane : List PlaneWrite) (w : Nat) : BitVec 32 × List Nat :=
  let vals := members.filterMap fun m => (lastValue plane m.task w).map fun v => (m.task, v)
  (collide rule (vals.map (·.2)), if 1 < vals.length then vals.map (·.1) else [])

/-- The `fault` zones in which a task has collided in a commit, lowest first, each with its lowest colliding word and the number of
colliding words of the zone, whoever collided there (R245). -/
def collisionsOf (hits : List (Nat × Nat × List Nat)) (task : Nat) : List (Nat × Nat × Nat) :=
  let mine := hits.filter fun h => h.2.2.contains task
  ((mine.map (·.1)).dedup).map fun z =>
    let ws := (hits.filter fun h => h.1 == z).map (·.2.1)
    (z, ws.headD 0, ws.length)

/-- The STEP_COLLISION of a task (R245, R297); a number of words past its field stands as 65,535 (log 76). -/
def collisionRec : List (Nat × Nat × Nat) → Option LateErr
  | [] => none
  | (z, a, n) :: rest =>
    some { scause := w64 (cStepCollision + 0x400), sfaddr := w64 a,
           sfinfo := w64 (z + min n 65535 * 2 ^ 16 + if rest.isEmpty then 0 else 2 ^ 32) }

/-- A group whose last member has left is unbound (R246). -/
def unbindIfEmpty (g : StepGroup) : StepGroup := if g.members.isEmpty then { g with cohort := none, broken := false } else g

/-- The group commits over all its zones (R243 to R245): the written words become present, the next planes are empty, members that
left are gone, and collisions in `fault` zones are owed. -/
def State.commitStep (s : State) (n : BitVec 5) : State :=
  let g := s.sg n
  let order := memberOrder g.members
  let words := (s.groupZones n).flatMap fun z =>
    (planeWords (s.zone z).plane).map fun w => (z, w, commitWord (s.zone z).rule order (s.zone z).plane w)
  let s := words.foldl (fun s x => s.pokes (vaultPlace x.2.1) (toLe 4 x.2.2.1.toNat)) s
  let hits := (words.filter fun x => (s.zone x.1).rule == 3 && !x.2.2.2.isEmpty).map fun x => (x.1.toNat, x.2.1, x.2.2.2)
  let s := s.modZones n fun z => { z with plane := [] }
  let s := g.members.foldl (fun s m => match collisionRec (collisionsOf hits m.task) with
    | none => s
    | some e => if m.leaving then s.errorTo s.dev.cur.core (some m.task) e else s.modSg n fun g => { g with owed := g.owed ++ [(m.task, e)] }) s
  s.modSg n fun g => unbindIfEmpty { g with
    steps := g.steps + 1, members := (g.members.filter fun m => !m.leaving).map fun m => { m with arrived := false } }

/-- A step that cannot complete breaks: nothing commits (R37, R95). -/
def State.breakStep (s : State) (n : BitVec 5) : State :=
  let s := s.modZones n fun z => { z with plane := [] }
  s.modSg n fun g => unbindIfEmpty { g with
    broken := true, bad := g.steps :: g.bad, steps := g.steps + 1,
    members := (g.members.filter fun m => !m.leaving).map fun m => { m with arrived := false } }

/-- Drops a member's words of the open step. -/
def State.dropWords (s : State) (n : BitVec 5) (task : Nat) : State :=
  s.modZones n fun z => { z with plane := z.plane.filter fun p => p.task != task }

/-- A member's arrival counts (R93, R243, R246). -/
def State.countStep (s : State) (n : BitVec 5) (task : Nat) (leave : Bool) : State :=
  let g := s.sg n
  if (g.member task).isNone then s
  else if g.broken then
    let s := s.dropWords n task
    if leave then s.modSg n fun g => unbindIfEmpty { g with members := g.members.filter fun m => m.task != task }
    else s.modSg n fun g => { g with bad := g.steps :: g.bad, steps := g.steps + 1, waits := (task, g.steps) :: g.waits }
  else
    let s := s.modSg n fun g => { g with
      members := g.members.map fun m => if m.task = task then { m with arrived := true, leaving := m.leaving || leave } else m
      waits := if leave then g.waits else (task, g.steps) :: g.waits.filter fun w => w.1 != task }
    if (s.sg n).members.all (·.arrived) then s.commitStep n else s

/-! ## Deferred releases -/

/-- Have all accesses of a member to the zones of a group before `seq` performed, and its copies of numbers below `next` ended (R93)? -/
def State.zoneDone (s : State) (c : CoreId) (n : BitVec 5) (task seq next : Nat) : Bool :=
  let zs := (s.groupZones n).map s.zone
  let hit (va len : Nat) : Bool := zs.any fun z => decide (va < z.base + z.size) && decide (z.base < va + len)
  let k := s.core c
  !(k.ops.any fun o => o.isAccess && decide (o.seq < seq) && o.parts.any fun p => p.got.isNone && hit p.va p.len) &&
    !(k.pushed.any fun e => decide (e.seq < seq) && hit e.va e.len) &&
    !(s.dev.eng.any fun o => o.isCopy && o.task == some task && o.token.isNone && decide (o.id < next))

/-- May a deferred release count? At a broken group a `step` or `stepleave` takes effect at once (R246). -/
def State.deferReady (s : State) (c : CoreId) (d : Nat × Deferred) : Bool := match d.2 with
  | .stepArrive n task _ next => (s.sg n).broken || s.zoneDone c n task d.1 next
  | _ => s.releaseReady c d.1 3

/-- Is an earlier put of the core to the same queue still waiting (R91)? -/
def putBefore (d : Deferred) (l : List (Nat × Deferred)) : Bool := match d with
  | .put q _ => l.any fun x => match x.2 with
    | .put r _ => r == q
    | _ => false
  | _ => false

/-- A deferred release has its effect. -/
def State.release (s : State) (d : Deferred) : State := match d with
  | .put q w => s.enterToken q w
  | .arrive n task waits => s.countArrival n task waits
  | .stepArrive n task leave _ => s.countStep n task leave

/-- Lets every deferred release of a core that may count do so, in order. -/
def State.runDefers (s : State) (c : CoreId) : State :=
  let (left, s) := (s.core c).defer.foldl (fun r d =>
    if !putBefore d.2 r.1 && r.2.deferReady c d then (r.1, r.2.release d.2) else (r.1 ++ [d], r.2)) ([], s)
  s.modCore c fun k => { k with defer := left }

/-! ## The end of a task (R27, R36, R37, R246) -/

/-- Is it an arrival of a task at a step, by `stepleave` or not? -/
def Deferred.isStep (d : Deferred) (n : BitVec 5) (task : Nat) (leave : Bool) : Bool := match d with
  | .stepArrive m t l _ => m == n && t == task && l == leave
  | _ => false

/-- Is an arrival of a task at a step, by `stepleave` or not, on its way, from whichever core it issued? -/
def State.stepSoon (s : State) (n : BitVec 5) (task : Nat) (leave : Bool) : Bool :=
  (List.finRange 128).any fun c => (s.core c).defer.any fun d => d.2.isStep n task leave

/-- Is a `stepleave` of a task on its way? -/
def State.leavingSoon (s : State) (n : BitVec 5) (task : Nat) : Bool := s.stepSoon n task true

/-- A step group when a task ends: a member that has not left breaks the open step; it waits for nothing more and is owed nothing. -/
def State.groupLoses (s : State) (n : BitVec 5) (task : Nat) : State :=
  let s := if (s.sg n).waits.any (fun w => w.1 == task) || (s.sg n).owed.any (fun w => w.1 == task) then
      s.modSg n fun g => { g with waits := g.waits.filter fun w => w.1 != task, owed := g.owed.filter fun w => w.1 != task }
    else s
  match (s.sg n).member task with
  | none => s
  | some m =>
    if m.leaving || s.leavingSoon n task then s
    else
      let s := s.modSg n fun g => { g with members := g.members.filter fun x => x.task != task }
      if (s.sg n).broken then s.modSg n unbindIfEmpty else s.breakStep n

/-- Barriers and step groups when a task ends or is killed; a barrier whose whole cohort has ended is unbound (R36, R37, R241). -/
def State.leaveSync (s : State) (task : Nat) : State :=
  match s.taskById task with
  | none => s
  | some t =>
    let gone := s.dev.tasks.all fun x => x.cohort != t.cohort || !x.alive
    let s := forUpto 64 (fun i s =>
      let n := BitVec.ofNat 6 i
      let s := if (s.hb n).waits.any (fun w => w.1 == task) then
          s.modHb n fun b => { b with waits := b.waits.filter fun w => w.1 != task }
        else s
      if (s.hb n).cohort != some t.cohort then s
      else if gone then s.modHb n fun b => { b with cohort := none }
      else if bitAt (s.hb n).members t.rank then s.testBarrier n else s) s
    forUpto 32 (fun i s => s.groupLoses (BitVec.ofNat 5 i) task) s

/-! ## Syllables: queues and done rings -/

/-- R238: puts a token: its place is reserved when the bundle issues, and it enters after every earlier access of the core has
performed at device scope (R91). A queue disabled under a frozen bundle leaves it frozen (R357). -/
def execQput (x : Lent) (q : BitVec 8) (a : BitVec 6) (s : State) : Out :=
  act (syl x (Uses.none.r a) fun s =>
    let h := s.hq q
    let c := s.dev.cur.core
    let w := s.sreg a
    let frozen := s.me.waiting.queue == some q
    let wait (s : State) : State :=
      ((s.modHq q fun h => { h with putters := joinList (.core c) h.putters }).modMe fun k =>
        { k with waiting := { k.waiting with queue := some q } }).holdOn (.fullQueue q)
    if !s.mine h.owner || !h.en then (if frozen then wait s else s.trapResource)
    else if s.putRefused q w then s.trapAt cPerm
    else if !h.room || !firstIn (.core c) h.putters then wait s
    else
      let s := s.modHq q fun h => { h with resv := h.resv + 1, putters := h.putters.filter (· != .core c) }
      let s := match s.roleOf q with
        | some (f, role) => s.setSlot f (tokSlot w) (if role = 1 then .decode else .empty)
        | none => s
      (s.deferOn (.put q w)).runDefers c) s

/-- R238: takes the oldest token; it lands at issue + 8. -/
def execQget (x : Lent) (q : BitVec 8) (d : BitVec 6) (s : State) : Out :=
  act (syl x Uses.none fun s =>
    let h := s.hq q
    let c := s.dev.cur.core
    let frozen := s.me.waiting.queue == some q
    let wait (s : State) : State :=
      ((s.modHq q fun h => { h with getters := joinList c h.getters }).modMe fun k =>
        { k with waiting := { k.waiting with queue := some q } }).holdOn (.emptyQueue q)
    if !s.mine h.owner || !h.en then (if frozen then wait s else s.trapResource)
    else if s.getRefused q then s.trapAt cPerm
    else match h.toks, firstIn c h.getters with
      | w :: rest, true =>
        let s := s.modHq q fun h => { h with toks := rest, getters := h.getters.filter (· != c) }
        let s := match s.roleOf q with
          | some (_, 0) => s.setSlot (tokRing w) (tokSlot w) .render
          | _ => s
        s.resR 8 d w
      | _, _ => wait s) s

/-- R222: waits until PCNT passes A; D is PCNT. -/
def execCrwait (x : Lent) (dn : BitVec 8) (a d : BitVec 6) (s : State) : Out :=
  act (syl x (Uses.none.r a) fun s =>
    if !s.dnOwned dn (s.coreTenant s.dev.cur.core) then s.trapResource
    else
      let p := (s.dev.dns.get dn.toFin).pcnt
      if p ≤ (s.sreg a).toNat then s.holdOn (.record dn) else s.resR 1 d (w64 p)) s

/-! ## Syllables: barriers -/

/-- The task of the core that acts. -/
def State.myTask (s : State) : Option Task := s.me.task.bind s.taskById

/-- May the core that acts use a barrier (R34, R212, R241): the PERM that it gets else? -/
def State.barrierFault (s : State) (n : BitVec 6) : Option Bool :=
  let b := s.hb n
  if !s.mine b.owner || !b.en then some true
  else match s.myTask with
    | some t => if b.cohort == some t.cohort && bitAt b.members t.rank then none else some false
    | none => some false

/-- R34, R91: arrives, as a release at device scope. -/
def execBara (x : Lent) (hb : BitVec 6) (s : State) : Out :=
  act (syl x Uses.none fun s => match s.barrierFault hb with
    | some foreign => if foreign then s.trapResource else s.trapAt cPerm
    | none => (s.deferOn (.arrive hb (s.me.task.getD 0) false)).runDefers s.dev.cur.core) s

/-- The outcome of the wait that a task's `barw` has begun: broken, complete, or not yet. -/
def Barrier.outcome (b : Barrier) (task : Nat) : Option (Option Bool) :=
  (b.waits.find? fun w => w.1 == task).map fun w =>
    if b.bad.contains w.2 then some true else if w.2 < b.phase then some false else none

/-- A `barw` that has arrived where it arrives: it waits for the phase of its task's last arrival, else for the current one; its
outcome goes to p15 and TOKSTAT (R14, R34, R36). -/
def State.barWait (s : State) (hb : BitVec 6) : State :=
  let b := s.hb hb
  let task := s.me.task.getD 0
  let rank := match s.myTask with | some t => t.rank | none => 0
  let finish (bad : Bool) (s : State) : State :=
    (s.modHb hb fun b => { b with waits := b.waits.filter fun w => w.1 != task }).resOutcome false bad hb.toNat false
  match b.outcome task with
  | some (some bad) => finish bad s
  | some none => s.holdOn (.barrier hb)
  | none =>
    if b.broken then finish true s
    else if s.arriving hb task then s.holdOn (.barrier hb)
    else
      let ph := match b.last.find? fun l => l.1 == rank with | some l => l.2 | none => b.phase
      let s := s.modHb hb fun b => { b with
        waits := (task, ph) :: b.waits, last := b.last.filter fun l => l.1 != rank }
      match (s.hb hb).outcome task with
      | some (some bad) => finish bad s
      | _ => s.holdOn (.barrier hb)

/-- The PERM of a `barw`; one whose wait has ended resumes, whatever the barrier has become (R36, R241). -/
def State.waitFault (s : State) (hb : BitVec 6) : Option Bool := match (s.hb hb).outcome (s.me.task.getD 0) with
  | some (some _) => none
  | _ => s.barrierFault hb

/-- R34, R36: waits for a phase to complete or break. -/
def execBarw (x : Lent) (hb : BitVec 6) (s : State) : Out :=
  act (syl x Uses.none fun s => match s.waitFault hb with
    | some foreign => if foreign then s.trapResource else s.trapAt cPerm
    | none => s.barWait hb) s

/-- R125: arrives and waits. -/
def execBarwA (x : Lent) (hb : BitVec 6) (s : State) : Out :=
  act (syl x Uses.none fun s => match s.waitFault hb with
    | some foreign => if foreign then s.trapResource else s.trapAt cPerm
    | none =>
      let task := s.me.task.getD 0
      if ((s.hb hb).outcome task).isSome || s.arrivingHeld hb task || (s.hb hb).broken then s.barWait hb
      else ((s.deferOn (.arrive hb task true)).runDefers s.dev.cur.core).barWait hb) s

/-- The tasks whose `barw` a barrier holds on their cores. -/
def State.barHeld (s : State) (n : BitVec 6) : List Nat :=
  (List.finRange 128).filterMap fun c => if (s.core c).bun.hold = some (.barrier n) then (s.core c).task else none

/-- Every waiter of a barrier is to resume broken (R241): those whose wait has begun, and those held whose arrival is still on its way,
which arrive no more. -/
def State.breakWaiters (s : State) (n : BitVec 6) : State :=
  let held := s.barHeld n
  let keep (k : Core) : Core := { k with defer := k.defer.filter fun d => match d.2 with
    | .arrive m t true => !(m == n && held.contains t)
    | _ => true }
  let s := if held.isEmpty then s else s.upd fun d => { d with cores := d.cores.map keep }
  s.modHb n fun b => { b with
    waits := b.waits ++ (held.filter fun t => !b.waits.any fun w => w.1 == t).map fun t => (t, b.phase)
    bad := b.phase :: b.bad, phase := b.phase + 1 }

/-- R241, R286: binds a barrier to the executing task's cohort: expected count A, member set at offset B. Its waiters resume broken,
and a new phase begins. -/
def execBarset (x : Lent) (hb a b : BitVec 6) (s : State) : Out :=
  act (syl x ((Uses.none.r a).r b) fun s =>
    let r := s.hb hb
    let va := s.sreg a
    let vb := s.sreg b
    let c := s.dev.cur.core
    if !s.mine r.owner || !r.en then s.trapResource
    else if va = 0 ∨ 256 ≤ va.toNat ∨ 2 ^ 20 ≤ vb.toNat then s.trapAt cIllegalOpcode
    else if Config.lsBytes < vb.toNat + 16 then s.trapAt cDataUnmapped
    else
      let off := vb.toNat
      let m : BitVec 128 := BitVec.ofNat 128 (leNat (s.readPart c (s.me.seq 0)
        { va := Config.lsBase + off, len := 16, pa := some (lsAddr c off), sc := false }))
      let size := match s.myTask.bind fun t => s.cohortById t.cohort with | some h => h.size | none => 128
      if m.toNat / 2 ^ size ≠ 0 then s.trapAt cIllegalOpcode
      else
        let t := s.myTask
        ((s.breakWaiters hb).modHb hb fun b => { b with
          cohort := t.map (·.cohort), expect := va.toNat, members := m, count := 0, arrived := [], last := [],
          broken := false }).testBarrier hb) s

/-! ## Syllables: step groups -/

/-- R242, R284: joins a step group, counting in the open step. -/
def execStepjoin (x : Lent) (sg : BitVec 5) (s : State) : Out :=
  act (syl x Uses.none fun s =>
    let g := s.sg sg
    match s.myTask with
    | none => s.trapAt cPerm
    | some t =>
      if !s.mine g.owner || !g.en then s.trapResource
      else if (g.member t.id).isSome || (g.cohort.isSome && g.cohort != some t.cohort) || 128 ≤ g.members.length then s.trapAt cPerm
      else s.modSg sg fun g => { g with
        cohort := some t.cohort,
        members := g.members ++ [{ task := t.id, index := s.dev.cur.core.val, rank := t.rank, arrived := false, leaving := false }] }) s

/-- May the core that acts use a step group as a member: the PERM that it gets else (R212, R243)? A member that waits for a step may
have left the group meanwhile. -/
def State.groupFault (s : State) (n : BitVec 5) : Option Bool :=
  let g := s.sg n
  if !s.mine g.owner || !g.en then some true
  else match s.me.task with
    | some t => if (g.member t).isSome || g.waits.any fun w => w.1 == t then none else some false
    | none => some false

/-- The outcome of the `step` that a task has begun: broken, committed, or not yet. -/
def StepGroup.outcome (g : StepGroup) (task : Nat) : Option (Option Bool) :=
  (g.waits.find? fun w => w.1 == task).map fun w =>
    if g.bad.contains w.2 then some true else if w.2 < g.steps then some false else none

/-- Ends a `step`: its outcome in p15 and TOKSTAT, and the collision it is owed becomes pending (R14, R243, R245). -/
def State.stepEnds (s : State) (n : BitVec 5) (task : Nat) (bad : Bool) : State :=
  let owed := ((s.sg n).owed.filter fun o => o.1 == task).map (·.2)
  let s := s.modSg n fun g => { g with
    waits := g.waits.filter fun w => w.1 != task, owed := g.owed.filter fun o => o.1 != task }
  let s := s.modMe fun k => k.modCtx fun x => { x with lates := x.lates ++ owed }
  s.resOutcome false bad n.toNat true

/-- R243: arrives and holds until the group commits or breaks. -/
def execStep (x : Lent) (sg : BitVec 5) (s : State) : Out :=
  act (syl x Uses.none fun s => match s.groupFault sg with
    | some foreign => if foreign then s.trapResource else s.trapAt cPerm
    | none =>
      let task := s.me.task.getD 0
      let onWay := s.stepSoon sg task false
      let s := if ((s.sg sg).outcome task).isSome || onWay then s
        else (s.deferOn (.stepArrive sg task false s.dev.nextId)).runDefers s.dev.cur.core
      match (s.sg sg).outcome task with
      | some (some bad) => s.stepEnds sg task bad
      | _ => s.holdOn (.stepWait sg)) s

/-- R246: arrives without waiting, and leaves the group after the commit. -/
def execStepleave (x : Lent) (sg : BitVec 5) (s : State) : Out :=
  act (syl x Uses.none fun s => match s.groupFault sg with
    | some foreign => if foreign then s.trapResource else s.trapAt cPerm
    | none =>
      let task := s.me.task.getD 0
      if s.leavingSoon sg task then s
      else (s.deferOn (.stepArrive sg task true s.dev.nextId)).runDefers s.dev.cur.core) s

end Sys2Proof.Machine
end

