-- ==== Sys2Proof/Machine/SamplerCmd.lean ====
section
/-! DEFINITION. The sampler instructions of a core (R247 to R250): `seqbind`, `logit`, `verify` and `mbox`. -/

namespace Sys2Proof.Machine

/-- ACQ, REL and SCOPE of a sampler operation stand in B[63:59] (R248). -/
def smpFlags (b : W64) (o : EngOp) : EngOp := { o with acq := bitAt b 63, rel := bitAt b 62, scope := bits b 59 3 }

/-- Is the SCOPE of R79? -/
def smpScopeBad (b : W64) : Bool := decide (4 < fieldNat b 59 3)

/-- R247: names the sequence whose record and length the context uses, from issue + 1. -/
def execSeqbind (x : Lent) (a : BitVec 6) (s : State) : Out :=
  act (syl x (Uses.none.r a) fun s =>
    let v := s.sreg a
    let kva := w64 (fieldNat v 12 4 * 2 ^ 60 + fieldNat v 0 12 * 2 ^ 48)
    if 2 ^ 17 ≤ v.toNat then s.trapAt cIllegalOpcode
    else if bitAt v 16 && s.kvaFault kva then s.trapAt cKvRange
    else s.resX (.spr 0x05) (v.setWidth 1024)) s

/-- R248: sends a chunk of logits from a tile to the sampler. A bit of A or B that R248 calls zero, and is not, raises ILLEGAL_OPCODE
(DEDUCED, log 120). -/
def execLogit (x : Lent) (d a b : BitVec 6) (s : State) : Out :=
  act (syl x ((Uses.none.r a).r b) fun s =>
    let s := s.modMe Core.syncSh
    let va := s.sreg a
    let vb := s.sreg b
    let k := s.me
    let t : BitVec 3 := bits va 0 3
    if (va &&& 0xFF8080F8) ≠ 0 ∨ (vb &&& 0x07FFFFFFFFFFFFFE) ≠ 0 ∨ smpScopeBad vb then s.trapAt cIllegalOpcode
    else if !bitAt k.ctx.kvslot 16 then s.trapAt cKvRange
    else if !k.ownsTiles then s.trapAt cTileOwner
    else match k.rowsFault t (fieldNat va 8 7) (fieldNat va 16 7 + 1) with
      | some code => s.trapAt code
      | none =>
        if tcInt (k.shTile t) then s.trapAt cMatfmt
        else s.issueEng d (smpFlags vb { s.newEng .logit va vb with count := k.clk.unf, pos := tcCols (k.shTile t) + 1 })) s

/-- R249: sends a draft tree to the sampler. A tree past the end of the local store raises DATA_UNMAPPED, and A[63:20] are not looked at
(DESIGN CHOICE, log 121). -/
def execVerify (x : Lent) (d a b : BitVec 6) (s : State) : Out :=
  act (syl x ((Uses.none.r a).r b) fun s =>
    let va := s.sreg a
    let vb := s.sreg b
    let n := fieldNat vb 0 7
    if n = 0 ∨ 64 < n ∨ (vb &&& 0x07FFFFFFFFFFFF80) ≠ 0 ∨ smpScopeBad vb then s.trapAt cIllegalOpcode
    else if !bitAt s.me.ctx.kvslot 16 then s.trapAt cKvRange
    else if Config.lsBytes < fieldNat va 0 20 + 8 * n then s.trapAt cDataUnmapped
    else s.issueEng d (smpFlags vb (s.newEng .verify va vb))) s

/-- R250: posts a value to the mailbox of the bound sequence. A nonzero bit of B[58:8] raises ILLEGAL_OPCODE (DEDUCED, log 122). -/
def execMbox (x : Lent) (d a b : BitVec 6) (s : State) : Out :=
  act (syl x ((Uses.none.r a).r b) fun s =>
    let vb := s.sreg b
    if (vb &&& 0x07FFFFFFFFFFFF00) ≠ 0 ∨ smpScopeBad vb then s.trapAt cIllegalOpcode
    else if bitAt vb 7 then s.trapAt cPerm
    else if !bitAt s.me.ctx.kvslot 16 then s.trapAt cKvRange
    else s.issueEng d (smpFlags vb (s.newEng .mbox (s.sreg a) vb))) s

/-- Have the matrix commands that issued before a `logit` completed (R248)? -/
def Core.logitReady (k : Core) (o : EngOp) : Bool :=
  !(k.mat.queue.any fun c => decide (c.issue < o.count)) &&
    !(k.mat.running.any fun r => decide (r.cmd.issue < o.count) && decide (k.mat.clk ≤ r.finish)) &&
    !(k.mat.lands.any fun l => decide (l.ord < o.count))

/-- Reads the rows of a `logit` from the tile of the core that issued it: the logits in vocabulary order (R248). -/
def State.logitRead (s : State) (o : EngOp) : State := match o.owner with
  | .task _ c =>
    let t := fieldNat o.a 0 3
    let rows := (List.range (fieldNat o.a 16 7 + 1)).map (· + fieldNat o.a 8 7)
    let l := rows.flatMap fun r => (List.range o.pos).map fun i => s.peekNat (tileAddr c t (512 * r + 4 * i)) 4
    s.setEng { o with stage := 1, list := l }
  | .queue .. => s

/-- Is an earlier chunk of the same core still to be read (R255)? -/
def State.logitBefore (s : State) (o : EngOp) : Bool :=
  s.dev.eng.any fun x => x.kind == .logit && x.token.isNone && x.stage == 0 && decide (x.id < o.id) && x.issuer == o.issuer

/-- A `logit` makes its next move: its rows are read, in issue order (R87, R248, R255). -/
def State.logitTurn (s : State) (o : EngOp) : State := match o.owner with
  | .task _ c => if o.stage == 0 && s.engStart o && (s.core c).logitReady o && !s.logitBefore o then s.logitRead o else s
  | .queue .. => s

end Sys2Proof.Machine
end

