-- ==== Sys2Proof/Machine/Sampler.lean ====
section
/-! DEFINITION. The samplers (R252 to R268): sequence records, rounds and chunks, select-and-accumulate, the draw, draft trees, the
grammar automaton, completions, PIP_FAULT, and mailbox posts. -/

namespace Sys2Proof.Machine

/-! ## Records (R252 to R254) -/

/-- Bytes of a sequence record. -/
def recordBytes : Nat := 0x20000

/-- The sequence of a KVSLOT value for a tenant. -/
def seqKey (t : BitVec 4) (kvslot : W64) : SeqKey := { tenant := t, arena := bits kvslot 12 4, slot := bits kvslot 0 12 }

/-- How sampler k reads for a tenant: as an observer of its pair of clusters (R79). -/
def smpAs (k : SamplerId) (t : BitVec 4) : KvAs := { t := tid t, v := .pair k.val }

/-- A number that an observer reads. -/
def State.numAs (s : State) (a : KvAs) (va n : Nat) : Except (Nat × Nat) Nat := match s.readAs a.v a.t va n with
  | .ok l => .ok (leNat l)
  | .error f => .error f

/-- The address of a sequence's record: SRBASE + slot × 128 KiB (R252, R337). -/
def State.recordVa (s : State) (k : SamplerId) (q : SeqKey) : Except (Nat × Nat) Nat :=
  match s.numAs (smpAs k q.tenant) (s.arenaVa (tid q.tenant) q.arena.toNat + 64) 8 with
  | .ok b => .ok (b + q.slot.toNat * recordBytes)
  | .error f => .error f

/-- Header doubleword i as a round holds it. -/
def Round.dw (r : Round) (i : Nat) : W64 := nth r.hdr i 0
/-- MODE. -/
def Round.mode (r : Round) : Nat := fieldNat (r.dw 0) 0 2
/-- PIPON. -/
def Round.pipon (r : Round) : Bool := bitAt (r.dw 0) 3
/-- K. -/
def Round.k (r : Round) : Nat := fieldNat (r.dw 0) 8 8
/-- VOCAB. -/
def Round.vocab (r : Round) : Nat := fieldNat (r.dw 3) 0 32
/-- EOS. -/
def Round.eos (r : Round) : Nat := fieldNat (r.dw 3) 32 32
/-- GBASE. -/
def Round.gbase (r : Round) : Nat := (r.dw 4).toNat
/-- STEP. -/
def Round.step (r : Round) : Nat := fieldNat (r.dw 1) 32 32
/-- The tenant of a round. -/
def Round.tenant (r : Round) : TenantId := tid r.key.tenant
/-- How its sampler reads for the round. -/
def Round.as (r : Round) : KvAs := smpAs r.smp r.key.tenant

/-- Is a header invalid: K, VOCAB or a reserved bit (R253)? -/
def headerBad (h : List W64) : Bool :=
  let w (i : Nat) : W64 := nth h i 0
  let k := fieldNat (w 0) 8 8
  let v := fieldNat (w 3) 0 32
  k == 0 || decide (64 < k) || v == 0 || decide (2 ^ 24 < v) || (w 0 &&& 0xFFFF0000FF0000F0) != 0 || fieldNat (w 5) 40 24 != 0 ||
    fieldNat (w 6) 8 56 != 0 || fieldNat (w 7) 4 60 != 0 || fieldNat (w 8) 32 32 != 0 || (h.drop 9).any (· != 0)

/-! ## Accesses of a sampler: a failure has a cause (R267) and an address -/

/-- Logs a refused access of a sampler (R387, R389, R414). -/
def State.smpLog (s : State) (t : TenantId) (code va : Nat) : State := s.logEngine t code clsSampler 0x7F va

/-- The bytes of a write that lie in [pa, pa + n) no longer go out. -/
def PendingWrite.mask (w : PendingWrite) (pa n : Nat) : PendingWrite := match w.pa with
  | some p =>
    let keep (x : Option Byte × Nat) : Option Byte := if physOf pa ≤ physOf p + x.2 ∧ physOf p + x.2 < physOf pa + n then none else x.1
    { w with data := w.data.zipIdx.map keep }
  | none => w

/-- A write that an observer makes at its target follows, in coherence order, those on their way that it sees (R74): of these, its bytes
do not come after it. -/
def State.maskSeen (s : State) (v : View) (l : List (Nat × Nat)) : State :=
  let hit (w : PendingWrite) : Bool := w.shownTo v 0 || w.shownTo v 1 || w.shownTo v 2
  let cut (w : PendingWrite) : PendingWrite := if hit w then l.foldl (fun w p => w.mask p.1 p.2) w else w
  if s.dev.writes.any hit then s.upd fun d => { d with writes := d.writes.map cut } else s

/-- Bytes that a sampler writes. -/
def State.smpWrite (s : State) (a : KvAs) (va : Nat) (bs : List Byte) : Except (Nat × Nat) State :=
  match s.devCanWrite a.t va bs.length with
  | .error f => .error f
  | .ok l => .ok ((s.maskSeen a.v l).pokeSpan l bs)

/-- Reads a number: a fault is cause 5. -/
def smGet (a : KvAs) (va n : Nat) : Kv Nat := fun s => match s.numAs a va n with
  | .ok v => (.ok v, s)
  | .error f => (.error (5, f.2), s.smpLog a.t f.1 f.2)

/-- Writes bytes: a fault is cause 5. -/
def smBytes (a : KvAs) (va : Nat) (bs : List Byte) : Kv Unit := fun s => match s.smpWrite a va bs with
  | .ok s => (.ok (), s)
  | .error f => (.error (5, f.2), s.smpLog a.t f.1 f.2)

/-- Writes a number: a fault is cause 5. -/
def smPut (a : KvAs) (va n v : Nat) : Kv Unit := smBytes a va (toLe n v)

/-- A write of the fault steps: lost when it faults, with a kind 0 entry in the fault log (R267). -/
def State.smLose (s : State) (a : KvAs) (va lo len v : Nat) : State :=
  match s.numAs a va 8 with
  | .error f => s.logFault a.t f.1 clsSampler 0x7F f.2
  | .ok d => match s.smpWrite a va (toLe 8 (putBits d lo len v)) with
    | .ok s => s
    | .error f => s.logFault a.t f.1 clsSampler 0x7F f.2

/-! ## The hashed tables (R254) -/

/-- The hash of a token. -/
def tokHash (v : Nat) : Nat := v * 0x9E3779B1 % 2 ^ 32

/-- The probed entries of a token in a table of 2^w entries at `base`. -/
def probesOf (base w v : Nat) : List Nat := (List.range 16).map fun k => base + 8 * ((tokHash v / 2 ^ (32 - w) + k) % 2 ^ w)

/-- Looks a token up: 0 when it is not found. -/
def lookIn (t : KvAs) (v : Nat) : List Nat → Kv Nat
  | [] => return 0
  | va :: rest => do
    let e ← smGet t va 8
    if e % 2 ^ 32 = v + 1 then return e / 2 ^ 32
    else if e % 2 ^ 32 = 0 then return 0
    else lookIn t v rest

/-- Increments a token's count, or claims the first empty entry; says whether an entry was found. -/
def countIn (t : KvAs) (v : Nat) : List Nat → Kv Bool
  | [] => return false
  | va :: rest => do
    let e ← smGet t va 8
    if e % 2 ^ 32 = v + 1 then
      smPut t va 8 (v + 1 + min (e / 2 ^ 32 + 1) (2 ^ 32 - 1) * 2 ^ 32)
      return true
    else if e % 2 ^ 32 = 0 then
      smPut t va 8 (v + 1 + 2 ^ 32)
      return true
    else countIn t v rest

/-- Counts an emitted token; a dropped update adds 1 to DROPS. -/
def countToken (t : KvAs) (rec_ v : Nat) : Kv Unit := do
  if ← countIn t v (probesOf (rec_ + 0x10000) 12 v) then return ()
  let d ← smGet t (rec_ + 64) 8
  smPut t (rec_ + 64) 8 (putBits d 0 32 (d + 1))

/-- The count of a token in the table. -/
def countOf (r : Round) (v : Nat) : Kv Nat := lookIn r.as v (probesOf (r.recBase + 0x10000) 12 v)
/-- The bias of a token. -/
def biasOf (r : Round) (v : Nat) : Kv Nat := lookIn r.as v (probesOf (r.recBase + 0xC000) 10 v)

/-! ## The grammar automaton (R265) -/

/-- A transition: NEXT, ACT and SYM. -/
structure Trans where
  next : Nat
  act : Nat
  sym : Nat
deriving DecidableEq, Repr

/-- The transition of a state on a token. -/
def transOf (t : KvAs) (gbase state v : Nat) : Kv Trans := do
  let nclass := (← smGet t gbase 8) / 2 ^ 32 % 2 ^ 16
  let cls ← smGet t ((← smGet t (gbase + 8) 8) + 2 * v) 2
  let e ← smGet t ((← smGet t (gbase + 16) 8) + 8 * (state * nclass + cls)) 8
  return { next := e % 2 ^ 24, act := e / 2 ^ 24 % 4, sym := e / 2 ^ 32 % 2 ^ 16 }

/-- A node of the stack pool. -/
def poolNode (t : KvAs) (rec_ i : Nat) : Kv Nat := smGet t (rec_ + 0x600 + 4 * i) 4

/-- Is a transition allowed for an automaton? -/
def transAllowed (t : KvAs) (rec_ : Nat) (a : Auto) (x : Trans) : Kv Bool := do
  if x.next = 0xFFFFFF then return false
  else match x.act with
    | 0 => return true
    | 1 => return decide (a.depth < 64)
    | 2 => if a.depth = 0 then return false else return (← poolNode t rec_ a.top) % 2 ^ 16 == x.sym
    | _ => return false

/-- The pool nodes on the chain from a top. -/
def chainFrom (t : KvAs) (rec_ : Nat) : Nat → Nat → Kv (List Nat)
  | 0, _ => return []
  | n + 1, top => do
    if 0xFF ≤ top then return []
    else
      let w ← poolNode t rec_ top
      return top :: (← chainFrom t rec_ n (w / 2 ^ 16 % 256))

/-- The chains from several tops. -/
def chainsFrom (t : KvAs) (rec_ : Nat) : List Nat → Kv (List Nat)
  | [] => return []
  | top :: rest => do return (← chainFrom t rec_ 65 top) ++ (← chainsFrom t rec_ rest)

/-- The stacks that live while a round of a tree, or none, is resolved: GTOP's and those of the snapshots (R265). -/
def liveTops (base : Auto) (snaps : List Auto) : List Nat := base.top :: (snaps.filter fun a => !a.dead).map (·.top)

/-- Advances an automaton by an allowed transition; `tops` are the stacks that live. -/
def advance (t : KvAs) (rec_ : Nat) (tops : List Nat) (a : Auto) (x : Trans) : Kv Auto := do
  match x.act with
  | 1 =>
    let live ← chainsFrom t rec_ tops
    let i := ((List.range 255).find? fun n => !live.contains n).getD 0
    smPut t (rec_ + 0x600 + 4 * i) 4 (x.sym + a.top % 256 * 2 ^ 16)
    return { a with state := x.next, top := i, depth := a.depth + 1 }
  | 2 => return { a with state := x.next, top := (← poolNode t rec_ a.top) / 2 ^ 16 % 256, depth := a.depth - 1 }
  | _ => return { a with state := x.next }

/-- The committed automaton of a header (R253). -/
def committed (h : List W64) : Auto :=
  { state := fieldNat (nth h 5 0) 0 24, top := fieldNat (nth h 5 0) 24 8, depth := fieldNat (nth h 5 0) 32 8, dead := false }

/-- A snapshot as it stands in the record. -/
def Auto.word (a : Auto) : Nat := a.state % 2 ^ 24 + a.top % 256 * 2 ^ 24 + a.depth % 256 * 2 ^ 32 + (if a.dead then 2 ^ 40 else 0)
/-- A snapshot from the record. -/
def Auto.ofWord (w : Nat) : Auto :=
  { state := w % 2 ^ 24, top := w / 2 ^ 24 % 256, depth := w / 2 ^ 32 % 256, dead := w / 2 ^ 40 % 2 == 1 }

/-! ## Posts (R250, R268, R404) -/

/-- The outbox posts of a sequence. -/
def State.outboxOf (s : State) (q : SeqKey) : List Post := (s.dev.outbox.filter fun p => p.1 == q).map (·.2)

/-- Is a mailbox full: 16 undelivered posts? -/
def State.mailFull (s : State) (t : TenantId) (m : BitVec 12) : Bool :=
  decide (16 ≤ ((s.tenant t).mail.filter fun p => p.mbox == m).length)

/-- Posts to a mailbox with room. -/
def State.mailPut (s : State) (t : TenantId) (p : Post) : State := s.modTenant t fun x => { x with mail := x.mail ++ [p] }

/-- A post enters the outbox of a record: which of its 96 places it takes, and how its 16 bytes stand there, the spec does not say, so
both are free (R252, R268; DESIGN CHOICE, log 74). A refused write is lost, and logged (R328, R414). -/
def State.outboxBytes (s : State) (k : SamplerId) (q : SeqKey) : State :=
  match s.recordVa k q with
  | .error f => s.smpLog (tid q.tenant) f.1 f.2
  | .ok rec_ =>
    let (n, s) := s.drawNat
    let (bs, s) := State.drawBytes 16 s
    match s.smpWrite (smpAs k q.tenant) (rec_ + 0xF00 + 16 * (n % 96)) bs with
    | .ok s => s
    | .error f => s.smpLog (tid q.tenant) f.1 f.2

/-- Queues a post of a sequence: behind those in the outbox, else to the mailbox if it has room (R268). -/
def State.queuePost (s : State) (k : SamplerId) (q : SeqKey) (p : Post) : State :=
  if (s.outboxOf q).isEmpty && !s.mailFull (tid q.tenant) p.mbox then s.mailPut (tid q.tenant) p
  else (s.outboxBytes k q).upd fun d => { d with outbox := d.outbox ++ [(q, p)] }

/-- The mailbox of a header. -/
def mailboxOf (h : List W64) : BitVec 12 := BitVec.ofNat 12 (fieldNat (nth h 0 0) 32 16)

/-- R268: the outbox post that the cursor's number counts out is delivered, if its mailbox has room; posts of one sequence go in order. -/
def execMailboxPost (s : State) : Out :=
  act (fun s =>
    let l := s.dev.outbox
    match l[s.dev.cur.n]? with
    | some (q, p) =>
      if s.mailFull (tid q.tenant) p.mbox || (l.take s.dev.cur.n).any fun y => y.1 == q then s
      else (s.mailPut (tid q.tenant) p).upd fun d => { d with outbox := d.outbox.eraseIdx s.dev.cur.n }
    | none => s) s

/-! ## The end of a round (R257, R266, R267) -/

/-- The open round of a sequence at a sampler. -/
def State.roundOf (s : State) (k : SamplerId) (q : SeqKey) : Option Round := (s.dev.samplers.get k).rounds.find? fun r => r.key == q
/-- The unfinished tree of a sequence, whichever sampler took it (R263). -/
def State.treeOf (s : State) (q : SeqKey) : Option Tree := (s.dev.samplers.toList.flatMap (·.trees)).find? fun t => t.key == q

/-- Changes every sampler. -/
def State.modSamplers (s : State) (f : Sampler → Sampler) : State := s.upd fun d => { d with samplers := d.samplers.map f }

/-- Replaces the tree of a sequence. -/
def State.setTree (s : State) (t : Tree) : State :=
  s.modSamplers fun x => { x with trees := x.trees.map fun y => if y.key = t.key then t else y }

/-- Frees a round's place. -/
def State.dropRound (s : State) (k : SamplerId) (q : SeqKey) : State :=
  s.modSampler k fun x => { x with
    rounds := x.rounds.filter fun r => r.key != q
    job := match x.job with | some j => if j.key = q then none else some j | none => none }

/-- Frees a tree. -/
def State.dropTree (s : State) (q : SeqKey) : State := s.modSamplers fun x => { x with trees := x.trees.filter fun t => t.key != q }

/-- The completion record (R266): token, DW3 to DW5, and the round whose candidate list it names. -/
def State.smpRecord (s : State) (t : TenantId) (h : List W64) (recBase core token dw3 dw4 dw5 index : Nat) : State :=
  s.postRecord (BitVec.ofNat 8 (fieldNat (nth h 0 0) 16 8)) t clsSampler core
    [token, fieldNat (nth h 2 0) 32 32 + core * 2 ^ 32 + t.val * 2 ^ 40 + 2 ^ 44, dw3, dw4, dw5,
     recBase + 0x2000 + 512 * index, recBase + 0x1500]

/-- A PIP_FAULT (R267): CAUSE, QUAR and LOCK are written, then the record, STEP, and the post. `tree`: it ends a tree, or a round of one. -/
def State.pipFault (s : State) (k : SamplerId) (q : SeqKey) (h : List W64) (tree : Bool) (recBase core index cause addr : Nat) : State :=
  let t := tid q.tenant
  let a := smpAs k q.tenant
  let step := fieldNat (nth h 1 0) 32 32
  let s := if tree then s.dropTree q else s
  let s := s.smLose a (recBase + 48) 0 8 cause
  let s := s.smLose a recBase 2 1 1
  let s := s.smLose a (recBase + 56) 0 4 0
  let s := s.smpRecord t h recBase core (tokenWord 2 cPipFault 0).toNat (if cause = 5 then addr else 0) 0
    ((if tree then 2 ^ 17 else 0) + 2 ^ 18 + cause * 2 ^ 24 + step * 2 ^ 32) index
  let s := s.smLose a (recBase + 8) 32 32 (step + 1)
  s.queuePost k q { mbox := mailboxOf h, kind := 0x82, val := w64 cause }

/-- The PIP_FAULT of an open round: the round ends, with the whole tree if it is one of a tree. -/
def State.roundFault (s : State) (k : SamplerId) (r : Round) (core cause addr : Nat) : State :=
  (s.dropRound k r.key).pipFault k r.key r.hdr r.tree r.recBase core r.index cause addr

/-! ## Select-and-accumulate (R259) -/

/-- A sum rounded to FP32. -/
def fadd (a b : BitVec 32) : BitVec 32 := toF32 (FVal.add 0 (f32 a) (f32 b))
/-- A product rounded to FP32. -/
def fmul (a b : BitVec 32) : BitVec 32 := toF32 (FVal.mul (f32 a) (f32 b))
/-- exp(a − b) rounded once; 1 for two infinities of one sign (R259). -/
def fexpDiff (a b : BitVec 32) : BitVec 32 := match f32 a, f32 b with
  | .inf x, .inf y => if x = y then 0x3F800000 else toF32 (FVal.exp (.inf x))
  | x, y => toF32 (FVal.exp (FVal.add 0 x y.neg))
/-- Is a above b? -/
def fgt (a b : BitVec 32) : Bool := (f32 b).lt (f32 a)
/-- −∞ in FP32. -/
def negInf : BitVec 32 := 0xFF800000

/-- Inserts a candidate: descending x, ties by ascending v. -/
def insertCand (x : BitVec 32) (v : Nat) : List (BitVec 32 × Nat) → List (BitVec 32 × Nat)
  | [] => [(x, v)]
  | c :: cs =>
    if fgt c.1 x || (!fgt x c.1 && decide (c.2 < v)) then c :: insertCand x v cs else (x, v) :: c :: cs

/-- One lane's output enters the round; none when it is NaN. -/
def Round.select (r : Round) (x : BitVec 32) (v : Nat) : Option Round :=
  if (f32 x).isNan then none
  else if x = negInf then some r
  else
    let r := if fgt x r.mx then { r with sum := fmul r.sum (fexpDiff r.mx x), mx := x } else r
    some { r with sum := fadd r.sum (fexpDiff x r.mx), cands := (insertCand x v r.cands).take r.k }

/-- The outputs of a group enter the round in order. -/
def Round.selects (r : Round) : List (Nat × BitVec 32) → Option Round
  | [] => some r
  | l :: ls => match r.select l.2 l.1 with
    | some r => r.selects ls
    | none => none

/-! ## The draw (R260, R261) -/

/-- Is a at least b? Nothing is at least a NaN. -/
def fge (a b : BitVec 32) : Bool := !(f32 a).isNan && !(f32 b).isNan && !fgt b a

/-- The shortest prefix whose running sum reaches a target; all if none does. -/
def prefixTo (target : BitVec 32) : BitVec 32 → List (BitVec 32) → Nat
  | _, [] => 0
  | acc, e :: es => let a := fadd acc e; if fge a target then 1 else 1 + prefixTo target a es

/-- How many of the weights, from the first, or which, are kept: places in C. -/
def keptOf (r : Round) (es : List (BitVec 32)) : List Nat := match r.mode with
  | 0 => [0]
  | 1 => List.range es.length
  | 2 => List.range (prefixTo (fmul (BitVec.ofNat 32 (fieldNat (r.dw 2) 0 32)) r.sum) 0 es)
  | _ =>
    let p := BitVec.ofNat 32 (fieldNat (r.dw 2) 0 32)
    let l := (List.range es.length).filter fun i => fge (nth es i 0) p
    if l.isEmpty then [0] else l

/-- The first kept entry whose running sum exceeds T, or the last. -/
def pickOver (t : BitVec 32) (es : List (BitVec 32)) : BitVec 32 → List Nat → Nat
  | _, [] => 0
  | _, [i] => i
  | acc, i :: is => let a := fadd acc (nth es i 0); if fgt a t then i else pickOver t es a is

/-- The place in C that a random word chooses. -/
def Round.choose (r : Round) (w : BitVec 32) : Nat :=
  let es := r.cands.map fun c => fexpDiff c.1 r.mx
  let kept := keptOf r es
  if r.mode = 0 then 0
  else
    let total := kept.foldl (fun a i => fadd a (nth es i 0)) 0
    pickOver (toF32 (FVal.mul (.fin false (w.toNat / 256) (-24)) (f32 total))) es 0 kept

/-- The log-probability of an output (R260). -/
def Round.logp (r : Round) (x : BitVec 32) : BitVec 32 :=
  let d : FVal := match f32 x, f32 r.mx with
    | .inf false, .inf false => .fin false 0 0
    | a, b => FVal.add 0 a b.neg
  toF32 (FVal.add 0 d (FVal.ln (f32 r.sum)).neg)

/-- The draw of a round: the cause of a PIP_FAULT, or the token and its log-probability. -/
def State.drawToken (s : State) (r : Round) : Except Nat (Nat × BitVec 32) :=
  if r.cands.isEmpty then .error 3
  else
    let go (w : BitVec 32) : Except Nat (Nat × BitVec 32) :=
      let c := nth r.cands (r.choose w) (0, 0)
      .ok (c.2, r.logp c.1)
    if r.mode = 0 then go 0
    else match (s.tenant r.tenant).gkey with
      | none => .error 6
      | some key => go (drawWordOf key (fieldNat (r.dw 1) 0 32) r.step r.index)

/-! ## Completion (R266) -/

/-- What a completion commits: the emitted tokens with their L, acc, and the number and candidate list of the round whose draw gave the
last of them (R266). -/
structure Emit where
  toks : List (Nat × BitVec 32)
  acc : Nat
  index : Nat
  cands : List (BitVec 32 × Nat)
deriving DecidableEq, Repr

/-- The automaton after the final emitted token. A push at depth 64 or ACT 11 is cause 4; a token that is not allowed for another
reason leaves an automaton that the spec does not state: a free one (log 8). -/
def commitAuto (r : Round) (a : Auto) (tok : Nat) : Kv Auto := do
  if r.gbase = 0 then return a
  else
    let x ← transOf r.as r.gbase a.state tok
    if x.next ≠ 0xFFFFFF ∧ (x.act = 3 ∨ (x.act = 1 ∧ 64 ≤ a.depth)) then kvFail 4
    else if ← transAllowed r.as r.recBase a x then
      let tree ← kvAsk fun s => s.treeOf r.key
      let snaps := if r.tree then r.snaps else (tree.map (·.snaps)).getD []
      advance r.as r.recBase (a.top :: liveTops (committed r.hdr) snaps) a x
    else return { state := (← kvFree) % 2 ^ 24, top := (← kvFree) % 256, depth := (← kvFree) % 65, dead := false }

/-- Counts each emitted token. -/
def countAll (t : KvAs) (rec_ : Nat) : List (Nat × BitVec 32) → Kv Unit
  | [] => return ()
  | x :: xs => do
    countToken t rec_ x.1
    countAll t rec_ xs

/-- Steps 1 to 3 of a completion. The advance is made first, since its failure precedes step 1; it writes only a free pool node. -/
def commitWrites (r : Round) (a : Auto) (e : Emit) : Kv Unit := do
  let t := r.as
  let a ← commitAuto r a ((e.toks.getLast?.map (·.1)).getD 0)
  countAll t r.recBase e.toks
  smPut t (r.recBase + 40) 8 (Auto.word { a with dead := false })
  smBytes t (r.recBase + 0x1500) (e.toks.flatMap fun x => toLe 4 x.1 ++ toLe 4 x.2.toNat)
  smBytes t (r.recBase + 0x2000 + 512 * e.index) (e.cands.flatMap fun c => toLe 4 c.2 ++ toLe 4 c.1.toNat)

/-- A completion (R266): its writes, the record, STEP, and the posts. -/
def State.complete (s : State) (k : SamplerId) (r : Round) (core : Nat) (a : Auto) (e : Emit) : State :=
  let t := r.tenant
  let (res, s) := (commitWrites r a e).run s
  match res with
  | .error f => s.roundFault k r core f.1 f.2
  | .ok () =>
    let s := s.dropRound k r.key
    let s := if r.tree then s.dropTree r.key else s
    let last := (e.toks.getLast?).getD (0, 0)
    let eos := e.toks.any fun x => x.1 == r.eos
    let s := s.smpRecord t r.hdr r.recBase core (tokenWord 1 0 e.toks.length).toNat 0 (last.1 + last.2.toNat * 2 ^ 32)
      (e.acc + e.cands.length * 2 ^ 8 + (if eos then 2 ^ 16 else 0) + (if r.tree then 2 ^ 17 else 0) + r.step * 2 ^ 32) e.index
    let s := s.smLose r.as (r.recBase + 8) 32 32 (r.step + 1)
    let mb := mailboxOf r.hdr
    e.toks.foldl (fun s x =>
      let v := w64 (x.1 + x.2.toNat * 2 ^ 32)
      let s := s.queuePost k r.key { mbox := mb, kind := 0x80, val := v }
      if x.1 = r.eos then s.queuePost k r.key { mbox := mb, kind := 0x81, val := v } else s) s

/-! ## Draft trees (R262 to R264) -/

/-- The child of a place in a tree: the lowest node that is not DEAD, has the parent and the token. -/
def childOf (nodes : List (Nat × Nat × Bool)) (parent tok : Nat) : Option Nat :=
  (nodes.zipIdx.find? fun x => !x.1.2.2 && x.1.2.1 == parent && x.1.1 == tok).map (·.2)

/-- What a resolution finds: the emitted tokens, the accepted length, the last accepted node, and the round of the last draw (R264). -/
structure Resolved where
  toks : List (Nat × BitVec 32)
  acc : Nat
  node : Option Nat
  index : Nat
deriving DecidableEq, Repr

/-- The resolution from round j on (R264). -/
def resolveTree (t : Tree) (eos : Nat) : Nat → Nat → Resolved
  | 0, j => { toks := [], acc := 0, node := if j = 0 then none else some (j - 1), index := j }
  | f + 1, j =>
    let d := nth t.draws j (0, 0)
    let stop : Resolved := { toks := [d], acc := 0, node := if j = 0 then none else some (j - 1), index := j }
    if d.1 = eos then stop
    else match childOf t.nodes (if j = 0 then 0x7F else j - 1) d.1 with
      | none => stop
      | some c =>
        let r := resolveTree t eos f (c + 1)
        { r with toks := d :: r.toks, acc := r.acc + 1 }

/-- The tokens on the path from the root through a node (R263). -/
def pathTo (nodes : List (Nat × Nat × Bool)) : Nat → Nat → List Nat
  | 0, _ => []
  | f + 1, i =>
    let n := nth nodes i (0, 0x7F, false)
    n.1 :: (if n.2.1 = 0x7F then [] else pathTo nodes f n.2.1)

/-- The tokens that a round's counts include beside the table. -/
def State.pathTokens (s : State) (r : Round) : List Nat := match s.treeOf r.key with
  | some t => if !r.tree || r.index = 0 then [] else pathTo t.nodes 65 (r.index - 1)
  | none => []

/-- A round of a tree ends: its result is stored; after round N the tree is resolved, with the snapshots that the round holds (R263, R264). -/
def State.treeRound (s : State) (k : SamplerId) (r : Round) (t : Tree) (core : Nat) (d : Nat × BitVec 32) : State :=
  let (res, s) := (smBytes r.as (r.recBase + 0xA00 + 16 * r.index)
    (toLe 4 d.1 ++ toLe 4 d.2.toNat ++ toLe 4 r.mx.toNat ++ toLe 4 r.sum.toNat)).run s
  match res with
  | .error f => s.roundFault k r core f.1 f.2
  | .ok () =>
    let t := { t with draws := t.draws ++ [d], lists := t.lists ++ [r.cands], next := t.next + 1 }
    if t.next ≤ t.nodes.length then (s.dropRound k r.key).setTree t
    else
      let x := resolveTree t r.eos 65 0
      let a : Auto := match x.node with
        | none => committed r.hdr
        | some i => nth r.snaps i (committed r.hdr)
      s.complete k r core a { toks := x.toks, acc := x.acc, index := x.index, cands := nth t.lists x.index [] }

/-- A round closes (R255, R257, R260): LOCK is cleared at its draw. -/
def State.closeRound (s : State) (k : SamplerId) (r : Round) (core : Nat) : State :=
  match s.drawToken r with
  | .error cause => s.roundFault k r core cause 0
  | .ok d =>
    let s := s.smLose r.as (r.recBase + 56) 0 4 0
    match s.treeOf r.key, r.tree with
    | some t, true => s.treeRound k r t core d
    | _, _ => s.complete k r core (committed r.hdr) { toks := [d], acc := 0, index := r.index, cands := r.cands }

/-- Puts a round back among the open ones. -/
def State.setRound (s : State) (k : SamplerId) (r : Round) : State :=
  s.modSampler k fun x => { x with rounds := x.rounds.map fun y => if y.key = r.key then r else y }

/-! ## Pip programs (R270) -/

/-- The N of a Pip skip. -/
def skipOf : Instr → Option Nat
  | .pskip n | .pskipNz _ n | .pskipZ _ n | .pskipNone _ n => some n.toNat
  | _ => none

/-- Is the program from a word on valid: every word up to the first `pend` decodes, and no skip passes that `pend`? `lim`: the skips
seen must not reach beyond the place of `pend`. -/
def pipValid : List (BitVec 32) → Nat → Nat → Bool
  | [], _, _ => false
  | w :: ws, i, far => match decodePip w with
    | .error _ => false
    | .ok ins => match ins with
      | .pend _ => decide (far ≤ i)
      | _ => pipValid ws (i + 1) (match skipOf ins with | some n => max far (i + 1 + n) | none => far)

/-! ## Chunks (R255 to R258) -/

/-- The sampler of a core's cluster pair. -/
def samplerOf (c : CoreId) : SamplerId := ⟨c.val / 16, by omega⟩

/-- Opens a round: the record is read, with the snapshots for a round of a tree; LOCK is written, the header and program are checked
(R256, R257, R263, R270). The fault of an unreadable record, or the round and whether it is invalid. -/
def State.openRound (s : State) (k : SamplerId) (q : SeqKey) (recBase : Nat) : Except (Nat × Nat) (Round × Bool × State) :=
  let a := smpAs k q.tenant
  let tree := s.treeOf q
  let index := match tree with | some x => x.next | none => 0
  match s.readAs a.v a.t recBase (if tree.isSome then 0x600 else 0x200) with
  | .error f => .error f
  | .ok bs =>
    let w (i : Nat) : W64 := w64 (leNat ((bs.drop (8 * i)).take 8))
    let p (i : Nat) : BitVec 32 := BitVec.ofNat 32 (leNat ((bs.drop i).take 4))
    let hdr := (List.range 16).map w
    let snaps := match tree with
      | some x => (List.range x.nodes.length).map fun i => Auto.ofWord (w (128 + i)).toNat
      | none => []
    let r : Round :=
      { key := q, smp := k, recBase := recBase, hdr := hdr, param := (List.range 8).map fun i => p (0x80 + 4 * i),
        prog := (List.range 64).map fun i => p (0x100 + 4 * i), mx := negInf, sum := 0, cands := [], tree := tree.isSome,
        index := index, snaps := snaps, auto := if index = 0 then committed hdr else nth snaps (index - 1) (committed hdr) }
    let s := s.smLose a (recBase + 56) 0 4 (k.val + 1)
    .ok (r, headerBad hdr || (r.pipon && !pipValid r.prog 0 0),
      s.modSampler k fun x => { x with rounds := x.rounds ++ [r] })

/-- The lanes of the next group: 64 elements; one at or above VOCAB enters as −∞ (R258). -/
def groupLanes (vocab : Nat) (l : List (Nat × BitVec 32)) : List (Nat × BitVec 32) :=
  l.map fun x => if x.1 < vocab then x else (x.1, negInf)

/-- Pip's registers at the start of a group. -/
def Job.group (j : Job) (r : Round) : Job :=
  let lanes := groupLanes r.vocab (j.rest.take 64)
  { j with rest := j.rest.drop 64, lanes := lanes, pip := 0, w := .replicate 8 (lanes.map fun _ => 0),
           h := Vector.ofFn fun i => nth r.param i.val 0 }

/-- A group's outputs enter the round; then the next group begins, or the chunk ends and may close the round (R255, R258, R259). -/
def State.groupDone (s : State) (k : SamplerId) (j : Job) (r : Round) (outs : List (Nat × BitVec 32)) : State :=
  match r.selects (outs.filter fun x => decide (x.1 < r.vocab)) with
  | none => s.roundFault k r j.core.val 2 0
  | some r =>
    let s := s.setRound k r
    if !j.rest.isEmpty then s.modSampler k fun x => { x with job := some (j.group r) }
    else
      let s := s.modSampler k fun x => { x with job := none }
      if j.last then s.closeRound k r j.core.val else s

/-- A chunk without a Pip program passes unchanged, whole (R270). -/
def State.plainChunk (s : State) (k : SamplerId) (j : Job) (r : Round) : State :=
  s.groupDone k { j with rest := [] } r j.rest

/-- What a sampler finds when a chunk comes: it waits, it is dropped with a code, its record cannot be read, or it is taken (R248, R256,
R257, R267). -/
inductive Arrival where
  | wait
  | drop (code : Nat)
  | refuse (f : Nat × Nat)
  | take (recBase : Nat)
deriving DecidableEq, Repr

/-- What becomes of a chunk of a sequence at a sampler. -/
def State.arrival (s : State) (k : SamplerId) (q : SeqKey) : Arrival :=
  let a := smpAs k q.tenant
  match s.recordVa k q with
  | .error f => .refuse f
  | .ok rec_ => match s.numAs a rec_ 8, s.numAs a (rec_ + 56) 8 with
    | .ok d0, .ok d7 =>
      if d0 / 4 % 2 = 1 then .drop cPipFault
      else if d7 % 16 ≠ 0 ∧ d7 % 16 ≠ k.val + 1 then .drop cPerm
      else if (s.roundOf k q).isSome then .take rec_
      else if !(s.outboxOf q).isEmpty || 64 ≤ (s.dev.samplers.get k).rounds.length then .wait
      else .take rec_
    | .error f, _ => .refuse f
    | _, .error f => .refuse f

/-- Must a chunk give way to an earlier one of its core: to one of its own sequence, and to any that does not itself wait at the
sampler's input (R255, R256)? -/
def State.chunkBefore (s : State) (k : SamplerId) (o : EngOp) : Bool :=
  s.dev.eng.any fun x => x.kind == .logit && x.token.isNone && decide (x.id < o.id) && x.issuer == o.issuer &&
    ((x.kvslot == o.kvslot && x.tenant == o.tenant) || x.stage == 0 || s.arrival k (seqKey x.tenant x.kvslot) != .wait)

/-- A sampler takes a chunk (R255): it joins the open round of its sequence or opens one, and Pip begins on its first group. -/
def State.takeChunk (s : State) (k : SamplerId) (o : EngOp) (c : CoreId) : State :=
  let q := seqKey o.tenant o.kvslot
  match s.arrival k q with
  | .wait => s
  | .drop code => s.setEng (o.finish 2 code 0)
  | .refuse f => (s.smpLog (tid o.tenant) f.1 f.2).setEng (o.finish 2 cDataUnmapped 0)
  | .take rec_ =>
    let opened : Except (Nat × Nat) (Round × Bool × State) := match s.roundOf k q with
      | some r => .ok (r, false, s)
      | none => s.openRound k q rec_
    match opened with
    | .error f => (s.smpLog (tid o.tenant) f.1 f.2).setEng (o.finish 2 cDataUnmapped 0)
    | .ok (r, bad, s) =>
      let s := s.setEng (o.finish 1 0 (4 * o.list.length))
      if bad then s.roundFault k r c.val 1 0
      else
        let j : Job :=
          { op := o.id, core := c, key := q, last := bitAt o.b 0,
            rest := o.list.zipIdx.map fun x => (fieldNat o.a 32 32 + x.2, BitVec.ofNat 32 x.1),
            lanes := [], w := .replicate 8 [], h := .replicate 8 0, pip := 0 }
        if r.pipon then s.modSampler k fun x => { x with job := some (j.group r) } else s.plainChunk k j r

/-- R255: the sampler that the cursor names takes the chunk of the `logit` that it names. -/
def execLogitChunkTaken (s : State) : Out :=
  act (fun s =>
    let k := s.dev.cur.k
    match s.engOp s.dev.cur.n with
    | some o => match o.owner with
      | .task _ c =>
        if o.kind == .logit && o.stage == 1 && o.token.isNone && samplerOf c == k && (s.dev.samplers.get k).job.isNone &&
            !s.chunkBefore k o then s.takeChunk k o c
        else s
      | .queue .. => s
    | none => s) s

/-- The nodes of a draft tree from its bytes: token, PARENT, and the bits that must be zero. -/
def treeNodes (bs : List Byte) : List (Nat × Nat × Nat) :=
  (List.range (bs.length / 8)).map fun i =>
    let w := leNat ((bs.drop (8 * i)).take 8)
    (w % 2 ^ 32, w / 2 ^ 32 % 2 ^ 7, w / 2 ^ 39)

/-- Does a tree break a rule of R262? -/
def treeBad (vocab : Nat) (l : List (Nat × Nat × Nat)) : Bool :=
  l.zipIdx.any fun x => decide (vocab ≤ x.1.1) || x.1.2.2 != 0 || (x.1.2.1 != 0x7F && decide (x.2 ≤ x.1.2.1))

/-- Walks a tree in index order and writes the snapshots (R263). A DEAD node's automaton is not stated: it is free (log 8). -/
def walkTree (r : Round) :
    List (Nat × Nat × Nat) → Nat → List (Nat × Nat × Bool) → List Auto → Kv (List (Nat × Nat × Bool) × List Auto)
  | [], _, nodes, snaps => return (nodes, snaps)
  | n :: ns, i, nodes, snaps => do
    let t := r.as
    let from_ : Auto := if n.2.1 = 0x7F then committed r.hdr else nth snaps n.2.1 (committed r.hdr)
    let next : Option Auto ← if from_.dead then pure none
      else if r.gbase = 0 then pure (some from_)
      else do
        let x ← transOf t r.gbase from_.state n.1
        if ← transAllowed t r.recBase from_ x then
          pure (some (← advance t r.recBase (liveTops (committed r.hdr) snaps) from_ x))
        else pure none
    let a ← match next with
      | some a => pure { a with dead := false }
      | none => do pure { state := (← kvFree) % 2 ^ 24, top := (← kvFree) % 256, depth := (← kvFree) % 65, dead := true }
    smPut t (r.recBase + 0x400 + 8 * i) 8 a.word
    walkTree r ns (i + 1) (nodes ++ [(n.1, n.2.1, a.dead)]) (snaps ++ [a])

/-- A `verify` or `mbox` whose record cannot be read ends with the fault's code (R333). -/
def State.treeLost (s : State) (o : EngOp) (f : Nat × Nat) : State :=
  (s.smpLog (tid o.tenant) f.1 f.2).setEng (o.finish 2 f.1 0)

/-- A sampler takes a draft tree (R262, R263). The token's COUNT is the number of nodes (DESIGN CHOICE, log 121). -/
def State.takeTree (s : State) (k : SamplerId) (o : EngOp) (c : CoreId) : State :=
  let q := seqKey o.tenant o.kvslot
  let a := smpAs k o.tenant
  let n := fieldNat o.b 0 7
  match s.recordVa k q with
  | .error f => s.treeLost o f
  | .ok rec_ => match s.readAs a.v a.t rec_ 128, s.engBytes o (Config.lsBase + fieldNat o.a 0 20) (8 * n) with
    | .error f, _ => s.treeLost o f
    | _, .error f => s.treeLost o f
    | .ok h, .ok bs =>
      let hdr := (List.range 16).map fun i => w64 (leNat ((h.drop (8 * i)).take 8))
      let nodes := treeNodes bs
      if bitAt (nth hdr 0 0) 2 then s.setEng (o.finish 2 cPipFault 0)
      else if treeBad (fieldNat (nth hdr 3 0) 0 32) nodes then s.setEng (o.finish 2 cIllegalOpcode 0)
      else
        let r : Round := { key := q, smp := k, recBase := rec_, hdr := hdr, param := [], prog := [], mx := negInf, sum := 0,
                           cands := [], tree := true, index := 0, snaps := [], auto := committed hdr }
        let s := s.setEng (o.finish 1 0 n)
        let (res, s) := (do smBytes a (rec_ + 0x200) bs; walkTree r nodes 0 [] [] :
          Kv (List (Nat × Nat × Bool) × List Auto)).run s
        match res with
        | .error f => s.pipFault k q hdr true rec_ c.val 0 f.1 f.2
        | .ok x =>
          let tree : Tree := { key := q, nodes := x.1, snaps := x.2, draws := [], lists := [], next := 0 }
          s.modSampler k fun x => { x with trees := x.trees ++ [tree] }

/-- Is a sequence quarantined at a sampler (R267)? -/
def State.quarantined (s : State) (k : SamplerId) (q : SeqKey) : Bool := match s.recordVa k q with
  | .error _ => false
  | .ok rec_ => match s.numAs (smpAs k q.tenant) rec_ 8 with
    | .ok d0 => d0 / 4 % 2 == 1
    | .error _ => false

/-- R262: the sampler that the cursor names takes the tree of the `verify` that it names, unless a tree of the sequence is
unfinished; that of a quarantined sequence it refuses at once (R267). -/
def execDraftTreeTaken (s : State) : Out :=
  act (fun s =>
    let k := s.dev.cur.k
    match s.engOp s.dev.cur.n with
    | some o => match o.owner with
      | .task _ c =>
        let q := seqKey o.tenant o.kvslot
        if o.kind == .verify && o.token.isNone && samplerOf c == k && s.engStart o &&
            ((s.treeOf q).isNone || s.quarantined k q) then s.takeTree k o c
        else s
      | .queue .. => s
    | none => s) s

/-- An `mbox` makes its move: a quarantined sequence and a full mailbox refuse it; else it waits behind the sequence's outbox (R250,
R267, R268). -/
def State.mboxTurn (s : State) (o : EngOp) : State :=
  let q := seqKey o.tenant o.kvslot
  let t := tid o.tenant
  let k := samplerOf (o.issuer.getD 0)
  if o.token.isSome || !s.engStart o then s
  else match s.recordVa k q with
    | .error f => s.treeLost o f
    | .ok rec_ => match s.numAs (smpAs k o.tenant) rec_ 8 with
      | .error f => s.treeLost o f
      | .ok d0 =>
        let m := BitVec.ofNat 12 (d0 / 2 ^ 32 % 2 ^ 16)
        if d0 / 4 % 2 = 1 then s.setEng (o.finish 2 cPipFault 0)
        else if s.mailFull t m then s.setEng (o.finish 3 0 0)
        else if !(s.outboxOf q).isEmpty then s
        else (s.mailPut t { mbox := m, kind := BitVec.ofNat 8 (fieldNat o.b 0 7), val := o.a }).setEng (o.finish 1 0 0)

end Sys2Proof.Machine
end

