-- ==== Sys2Proof/Machine/Pip.lean ====
section
/-! DEFINITION. The Pip instructions (R269): each acts on the group of lanes that the cursor's sampler holds, and moves on to the
next word of the round's program. -/

namespace Sys2Proof.Machine

/-! ## Running one word -/

/-- The rows that a lane operation sees: each lane's token and incoming logit. -/
abbrev Lanes := List (Nat × BitVec 32)

/-- Runs a Pip word on the group in hand, with its round; without one nothing happens (log 1). A fault of the record ends the round
(R267). -/
def pipStep (f : Job → Round → Kv Job) (s : State) : State :=
  let k := s.dev.cur.k
  match (s.dev.samplers.get k).job with
  | none => s
  | some j => match s.roundOf k j.key with
    | none => s
    | some r =>
      let (res, s) := (f j r).run s
      match res with
      | .error e => s.roundFault k r j.core.val e.1 e.2
      | .ok j => s.modSampler k fun x => { x with job := some { j with pip := j.pip + 1 } }

/-- Register wA of a group, by lane. -/
def Job.wreg (j : Job) (a : BitVec 3) : List (BitVec 32) := j.w.get a.toFin
/-- Register hA. -/
def Job.hreg (j : Job) (a : BitVec 3) : BitVec 32 := j.h.get a.toFin
/-- Writes register wD. -/
def Job.setW (j : Job) (d : BitVec 3) (l : List (BitVec 32)) : Job := { j with w := j.w.set d.toNat l d.isLt }
/-- Writes register hD. -/
def Job.setH (j : Job) (d : BitVec 3) (v : BitVec 32) : Job := { j with h := j.h.set d.toNat v d.isLt }

/-- wB, or hB broadcast to every lane (S = 1). -/
def Job.wOrH (j : Job) (b : BitVec 3) (s : Bool) : List (BitVec 32) := if s then j.lanes.map fun _ => j.hreg b else j.wreg b

/-- A lane operation of one source. -/
def pip1 (f : FVal → FVal) (d a : BitVec 3) (j : Job) (_r : Round) : Kv Job :=
  return j.setW d ((j.wreg a).map fun x => toF32 (f (f32 x)))

/-- A lane operation of two sources, the second a lane or a broadcast register. -/
def pip2 (f : FVal → FVal → FVal) (d a b : BitVec 3) (h : Bool) (j : Job) (_r : Round) : Kv Job :=
  return j.setW d (List.zipWith (fun x y => toF32 (f (f32 x) (f32 y))) (j.wreg a) (j.wOrH b h))

/-- Is a lane's value above 0? -/
def fpos (x : BitVec 32) : Bool := (FVal.fin false 0 0).lt (f32 x)

/-- Is a value other than 0? A NaN is. -/
def fnz (x : BitVec 32) : Bool := !(f32 x).eqv (.fin false 0 0)

/-- A value for each active lane, looked up in order; 0 for an inactive lane, which no one sees (R258). -/
def pipLook (vocab : Nat) (f : Nat → Kv (BitVec 32)) : Lanes → Kv (List (BitVec 32))
  | [] => return []
  | l :: ls => do
    let v ← if l.1 < vocab then f l.1 else pure 0
    return v :: (← pipLook vocab f ls)

/-- Cnt(v): the table's count and the tokens of the path (R263), rounded. -/
def pipCount (r : Round) (v : Nat) : Kv (BitVec 32) := do
  let path ← kvAsk fun s => s.pathTokens r
  let c ← countOf r v
  return toF32 (.fin false (c + (path.filter (· == v)).length) 0)

/-- Is a token allowed for the automaton that masks the round (R263, R265)? -/
def pipAllowed (r : Round) (v : Nat) : Kv Bool := do
  transAllowed r.as r.recBase r.auto (← transOf r.as r.gbase r.auto.state v)

/-- A penalty on an occurring token: A / hC above 0, A × hC below. -/
def penalty (a b c : BitVec 32) : BitVec 32 :=
  if fpos b then (if fpos a then toF32 (FVal.div (f32 a) (f32 c)) else fmul a c) else a

/-- A − hC × B − (B > 0 ? hE : 0), exact, rounded once. -/
def freqPen (a b c e : BitVec 32) : BitVec 32 :=
  let x := FVal.add 0 (f32 a) (FVal.mul (f32 c) (f32 b)).neg
  toF32 (if fpos b then FVal.add 0 x (f32 e).neg else x)

/-- COND of `pcmp`: a NaN makes every condition but `.ne` false. -/
def condP (c : BitVec 3) (a b : FVal) : Bool :=
  let u := a.isNan || b.isNan
  match c.toNat with
  | 0 => a.eqv b
  | 1 => u || !a.eqv b
  | 2 => a.lt b
  | 3 => !u && !b.lt a
  | 4 => b.lt a
  | _ => !u && !a.lt b

/-- 1.0 in FP32. -/
def oneF : BitVec 32 := 0x3F800000

/-- A skip: the next N words, if the condition holds. -/
def pipSkip (cond : Job → Round → Bool) (n : BitVec 6) (j : Job) (r : Round) : Kv Job :=
  return if cond j r then { j with pip := j.pip + n.toNat } else j

/-! ## The instructions -/

/-- R269. -/
def execPld (d : BitVec 3) (s : State) : Out := act (pipStep fun j _ => return j.setW d (j.lanes.map (·.2))) s

/-- R269: v as FP32 is exact below 2^24. -/
def execPldIdx (d : BitVec 3) (s : State) : Out :=
  act (pipStep fun j _ => return j.setW d (j.lanes.map fun l => toF32 (.fin false l.1 0))) s

/-- R269, R263. -/
def execPcnt (d : BitVec 3) (s : State) : Out :=
  act (pipStep fun j r => do return j.setW d (← pipLook r.vocab (pipCount r) j.lanes)) s

/-- R269, R254. -/
def execPbias (d : BitVec 3) (s : State) : Out :=
  act (pipStep fun j r => do return j.setW d (← pipLook r.vocab (fun v => do return BitVec.ofNat 32 (← biasOf r v)) j.lanes)) s

/-- R269. -/
def execPadd (d a b : BitVec 3) (h : Bool) (s : State) : Out := act (pipStep (pip2 (FVal.add 0) d a b h)) s
/-- R269. -/
def execPsub (d a b : BitVec 3) (h : Bool) (s : State) : Out := act (pipStep (pip2 (fun x y => FVal.add 0 x y.neg) d a b h)) s
/-- R269. -/
def execPmul (d a b : BitVec 3) (h : Bool) (s : State) : Out := act (pipStep (pip2 FVal.mul d a b h)) s
/-- R269, R45. -/
def execPmax (d a b : BitVec 3) (h : Bool) (s : State) : Out := act (pipStep (pip2 (FVal.minmax true) d a b h)) s
/-- R269, R45. -/
def execPmin (d a b : BitVec 3) (h : Bool) (s : State) : Out := act (pipStep (pip2 (FVal.minmax false) d a b h)) s
/-- R269. -/
def execPexp (d a : BitVec 3) (s : State) : Out := act (pipStep (pip1 FVal.exp d a)) s
/-- R269. -/
def execPlog (d a : BitVec 3) (s : State) : Out := act (pipStep (pip1 FVal.ln d a)) s

/-- R269. -/
def execPpen (d a b c : BitVec 3) (s : State) : Out :=
  act (pipStep fun j _ => return j.setW d (List.zipWith (fun x y => penalty x y (j.hreg c)) (j.wreg a) (j.wreg b))) s

/-- R269. -/
def execPfreq (d a b c e : BitVec 3) (s : State) : Out :=
  act (pipStep fun j _ =>
    return j.setW d (List.zipWith (fun x y => freqPen x y (j.hreg c) (j.hreg e)) (j.wreg a) (j.wreg b))) s

/-- R269, R265. -/
def execPmask (d a : BitVec 3) (s : State) : Out :=
  act (pipStep fun j r => do
    if r.gbase = 0 then return j.setW d (j.wreg a)
    else
      let ok ← pipLook r.vocab (fun v => do return (if ← pipAllowed r v then 1 else 0)) j.lanes
      return j.setW d (List.zipWith (fun x m => if m = 1 then x else negInf) (j.wreg a) ok)) s

/-- R269, R45. -/
def execPclamp (d a b c : BitVec 3) (s : State) : Out :=
  act (pipStep fun j r =>
    pip1 (fun x => FVal.minmax false (FVal.minmax true x (f32 (j.hreg b))) (f32 (j.hreg c))) d a j r) s

/-- R269. -/
def execPsel (d c a b : BitVec 3) (s : State) : Out :=
  act (pipStep fun j _ =>
    return j.setW d (List.zipWith (fun m (p : BitVec 32 × BitVec 32) => if fnz m then p.1 else p.2) (j.wreg c)
      ((j.wreg a).zip (j.wreg b)))) s

/-- R269. -/
def execPimm (d : BitVec 3) (imm : BitVec 18) (s : State) : Out :=
  act (pipStep fun j _ => return j.setH d (BitVec.ofNat 32 (imm.toNat * 2 ^ 14))) s

/-- R269. -/
def execPcmp (d a b : BitVec 3) (h : Bool) (cond : BitVec 3) (s : State) : Out :=
  act (pipStep fun j _ =>
    return j.setW d (List.zipWith (fun x y => if condP cond (f32 x) (f32 y) then oneF else 0) (j.wreg a) (j.wOrH b h))) s

/-- R269. -/
def execPskip (n : BitVec 6) (s : State) : Out := act (pipStep (pipSkip (fun _ _ => true) n)) s
/-- R269. -/
def execPskipNz (a : BitVec 3) (n : BitVec 6) (s : State) : Out := act (pipStep (pipSkip (fun j _ => fnz (j.hreg a)) n)) s
/-- R269. -/
def execPskipZ (a : BitVec 3) (n : BitVec 6) (s : State) : Out := act (pipStep (pipSkip (fun j _ => !fnz (j.hreg a)) n)) s
/-- R269: only active lanes count. -/
def execPskipNone (a : BitVec 3) (n : BitVec 6) (s : State) : Out :=
  act (pipStep (pipSkip (fun j r => !(List.zipWith (fun l x => decide (l.1 < r.vocab) && fnz x) j.lanes (j.wreg a)).any id) n)) s

/-- R269. -/
def execPnop (s : State) : Out := act (pipStep fun j _ => return j) s

/-- R269, R258: the lanes' outputs go to select-and-accumulate, and the group ends. -/
def execPend (d : BitVec 3) (s : State) : Out :=
  act (fun s =>
    let k := s.dev.cur.k
    match (s.dev.samplers.get k).job with
    | none => s
    | some j => match s.roundOf k j.key with
      | none => s
      | some r => s.groupDone k j r (List.zipWith (fun l x => (l.1, x)) j.lanes (j.wreg d))) s

/-! ## The sampler's next word -/

/-- The Pip instruction that a sampler runs next: the word of the round's program at the group's place. -/
def State.pipNext (s : State) (k : SamplerId) : Option Instr :=
  match (s.dev.samplers.get k).job with
  | none => none
  | some j => match s.roundOf k j.key with
    | none => none
    | some r => match decodePip (nth r.prog j.pip 0) with
      | .ok i => some i
      | .error _ => none

end Sys2Proof.Machine
end

