-- ==== Sys2Proof/Machine/Tasks.lean ====
section
/-! DEFINITION. Launches, cohorts and tasks (R22 to R27, R359, R366, R371): the checks of a start vector, the streams' frame
boundaries, what the end or the kill of a task does, done words, and the fault of a command queue (R351). -/

namespace Sys2Proof.Machine

/-! ## Access -/

/-- Changes a task. -/
def State.modTask (s : State) (id : Nat) (f : Task → Task) : State :=
  s.upd fun d => { d with tasks := d.tasks.map fun t => if t.id = id then f t else t }

/-- Changes a cohort. -/
def State.modCohort (s : State) (id : Nat) (f : Cohort → Cohort) : State :=
  s.upd fun d => { d with cohorts := d.cohorts.map fun t => if t.id = id then f t else t }

/-- Changes a launch. -/
def State.modLaunch (s : State) (id : Nat) (f : Launch → Launch) : State :=
  s.upd fun d => { d with launches := d.launches.map fun t => if t.id = id then f t else t }

/-- The tasks of a cohort, by rank. -/
def State.cohortTasks (s : State) (c : Nat) : List Task := s.dev.tasks.filter fun t => t.cohort == c

/-- The cohorts of a launch. -/
def State.launchCohorts (s : State) (l : Nat) : List Cohort := s.dev.cohorts.filter fun c => c.launch == l

/-- The tasks of a launch. -/
def State.launchTasks (s : State) (l : Nat) : List Task := (s.launchCohorts l).flatMap fun c => s.cohortTasks c.id

/-- The core that holds a task. -/
def State.coreOf (s : State) (id : Nat) : Option CoreId := (List.finRange 128).find? fun c => (s.core c).task == some id

/-- Has a task ended, and its core with its stores been released (R27)? -/
def State.taskGone (s : State) (t : Task) : Bool := !t.alive && (s.coreOf t.id).isNone

/-- Have all tasks of a launch ended and been released? -/
def State.launchGone (s : State) (l : Nat) : Bool := (s.launchTasks l).all s.taskGone

/-- Does a launch have tasks that have not ended? -/
def State.launchAlive (s : State) (l : Nat) : Bool := (s.launchTasks l).any (·.alive)

/-! ## Start vectors (R22, R23) -/

/-- Width of field f_i. -/
def Launch.width (l : Launch) (i : Nat) : Nat := fieldNat (l.dw 0) (6 * i) 6
/-- Count N_i. -/
def Launch.countN (l : Launch) (i : Nat) : Nat := fieldNat (l.dw (3 + i / 2)) (32 * (i % 2)) 32
/-- COHORT; 7 counts as 6 (log 19). -/
def Launch.level (l : Launch) : Nat := min 6 (fieldNat (l.dw 0) 36 3)
/-- PLACE. -/
def Launch.placeCode (l : Launch) : Nat := fieldNat (l.dw 0) 39 2
/-- PRIO. -/
def Launch.prio (l : Launch) : Nat := fieldNat (l.dw 0) 41 2
/-- RUNG. -/
def Launch.rung (l : Launch) : Nat := fieldNat (l.dw 0) 43 3
/-- STREAM. -/
def Launch.stream (l : Launch) : BitVec 8 := bits (l.dw 0) 46 8
/-- SV. -/
def Launch.sv (l : Launch) : Bool := bitAt (l.dw 0) 54
/-- Initial OCC, at most 256 (log 19). -/
def Launch.occ (l : Launch) : W64 := w64 (min 256 (fieldNat (l.dw 1) 32 9))
/-- Initial DRAFT, at most 64 (log 19). -/
def Launch.draft (l : Launch) : W64 := w64 (min 64 (fieldNat (l.dw 1) 41 7))
/-- S, the sum of the widths. -/
def Launch.total (l : Launch) : Nat := ((List.range 6).map l.width).foldl (· + ·) 0
/-- The base value b_i of field i. -/
def Launch.base (l : Launch) (i : Nat) : Nat :=
  (l.dw 2).toNat / 2 ^ (((List.range 6).drop (i + 1)).map l.width).foldl (· + ·) 0 % 2 ^ l.width i
/-- The cohort size. -/
def Launch.size (l : Launch) : Nat := (((List.range 6).drop l.level).map l.countN).foldl (· * ·) 1

/-- All combinations of numbers below the given counts, in ascending order. -/
def combos : List Nat → List (List Nat)
  | [] => [[]]
  | n :: ns => (List.range n).flatMap fun j => (combos ns).map (j :: ·)

/-- The WID of a combination j_0 … j_5. -/
def Launch.widOf (l : Launch) (j : List Nat) : W64 :=
  w64 ((List.range 6).foldl (fun w i => w * 2 ^ l.width i + (l.base i + nth j i 0)) 0)

/-! ## Streams (R371 to R376) -/

/-- A stream record. -/
def State.strm (s : State) (n : BitVec 8) : StreamRec := s.dev.streams.get n.toFin
/-- Doubleword i of a stream record. -/
def StreamRec.word (r : StreamRec) (i : Nat) : W64 := r.dw.get ⟨i % 32, Nat.mod_lt _ (by decide)⟩
/-- A field of a stream record. -/
def StreamRec.get (r : StreamRec) (dw lo len : Nat) : Nat := fieldNat (r.word dw) lo len
/-- Changes a field of a stream record. -/
def StreamRec.put (r : StreamRec) (dw lo len v : Nat) : StreamRec :=
  { r with dw := r.dw.set (dw % 32) (setField (r.word dw) lo len v) (Nat.mod_lt _ (by decide)) }

/-- The deadline of frame n: EPOCH + n × PERIOD + DOFF (R371). -/
def StreamRec.deadline (r : StreamRec) (n : Nat) : Nat := r.get 2 0 64 + n * r.get 1 0 32 + r.get 1 32 32

/-- A counter of 16 bits that saturates. -/
def satInc (n : Nat) : Nat := min (n + 1) 65535

/-- The rung change at a boundary (R375). -/
def StreamRec.takeRung (r : StreamRec) : StreamRec :=
  if r.get 0 14 1 = 0 then r
  else
    let old := r.get 0 8 3
    let new := r.get 0 11 3
    let r := (((r.put 0 8 3 new).put 0 14 1 0).put 0 15 1 0).put 0 16 5 0
    if old < new then r.put 4 32 16 (satInc (r.get 4 32 16))
    else if new < old then r.put 4 48 16 (satInc (r.get 4 48 16))
    else r

/-- One frame boundary: frame DONEF completed at DTIME d (R375). -/
def StreamRec.boundary (r : StreamRec) (d : Nat) : StreamRec :=
  let f := r.get 3 32 32
  let r := if r.deadline f < d then r.put 4 0 32 (r.get 4 0 32 + 1) else r
  (r.put 3 32 32 (f + 1)).takeRung

/-- The cohort of a stream's frame that has completed and whose boundary has not fallen. -/
def State.frameWaiting (s : State) (n : BitVec 8) (f : Nat) : Option Cohort :=
  s.dev.cohorts.find? fun c => c.frame == f && c.frameDone.isSome &&
    (match s.launchById c.launch with | some l => l.sv && l.stream == n | none => false)

/-- The boundaries that may fall now, in frame order (R375). -/
def State.boundaries (n : BitVec 8) : Nat → State → State
  | 0, s => s
  | fuel + 1, s => match s.frameWaiting n ((s.strm n).get 3 32 32) with
    | some c =>
      State.boundaries n fuel ((s.modStream n fun r => r.boundary (c.frameDone.getD 0)).modCohort c.id fun c => { c with frameDone := none })
    | none => s

/-- The ladder at the admission of a frame with slack `sl` (R374, R376). -/
def StreamRec.admission (r : StreamRec) (sl : Int) : StreamRec :=
  let r := { r with dw := r.dw.set 5 (BitVec.ofInt 64 sl) }
  let rung := r.get 0 8 3
  if r.get 0 1 1 = 0 ∨ r.get 0 15 1 = 1 then r
  else if sl < 0 then
    let r := r.put 0 16 5 0
    if rung < r.get 0 2 3 then (r.put 0 11 3 (rung + 1)).put 0 14 1 1 else r
  else if (r.get 1 0 32 : Int) < 4 * sl then
    let good := min 16 (r.get 0 16 5 + 1)
    if good = 16 ∧ 0 < rung ∧ r.get 0 14 1 = 0 then ((r.put 0 11 3 (rung - 1)).put 0 14 1 1).put 0 16 5 0
    else r.put 0 16 5 good
  else r.put 0 16 5 0

/-! ## Command queues: progress and faults (R351, R365) -/

/-- PROG advances by one, and the watchdog's windows start again (R365). -/
def State.progress (s : State) (t : TenantId) (q : QueueId) : State :=
  let now := s.dev.board.dtime
  s.modCq t q fun c => { c with prog := c.prog + 1, since := now, wdPre := false }

/-- A queue enters FAULTED with a code; the fault log gets an entry of kind 1, and vector 31 is raised (R351). -/
def State.queueFault (s : State) (t : TenantId) (q : QueueId) (code addr : Nat) : State :=
  let s := s.modCq t q fun c => { c with state := 3, code := BitVec.ofNat 8 code }
  let wp := (s.tenant t).flwp
  let s := s.logEntry t (code + q.val * 2 ^ 8 + t.val * 2 ^ 12 + 2 ^ 16 + 0x7F * 2 ^ 20 + clsWorker * 2 ^ 28) (s.cq t q).cpc.toNat addr
  if (s.tenant t).flwp = wp then s.msix t 31 else s

/-- Something has happened at which the dispatchers of a tenant decide (R366; log 38). -/
def State.wantDecision (s : State) (t : TenantId) : State := s.modTenant t fun x => { x with due := true }

/-! ## The end of a task (R27, R36, R37, R295, R311, R312) -/

/-- A task has ended or been killed: its area is free, barriers and step groups are tested, PROG advances, and a frame may be
complete (R27, R312, R365, R375). -/
def State.taskEnds (s : State) (id : Nat) (killed : Bool) : State :=
  match s.taskById id with
  | none => s
  | some t =>
    let s := match t.place with
      | some p => s.losePair p t.cohort
      | none => s
    let s := s.modTask id fun t => { t with where_ := .ended killed, ctxid := 0, area := none }
    match s.cohortById t.cohort with
    | none => s
    | some c => match s.launchById c.launch with
      | none => s
      | some l =>
        let s := if t.ctxid = 0 then s
          else s.modTenant l.tenant fun x => { x with areas := x.areas.filter (· != t.ctxid - 1) }
        let s := if killed then s.modLaunch l.id fun x => { x with killed := true } else s
        let s := ((s.leaveSync id).progress l.tenant l.queue).wantDecision l.tenant
        if (s.cohortTasks c.id).any (·.alive) then s
        else
          let now := s.dev.board.dtime
          let s := s.modCohort c.id fun x => { x with state := .done, frameDone := if l.sv then some now else none }
          if l.sv then State.boundaries l.stream s.dev.cohorts.length s else s

/-- Takes a core out of the queues that it waits at (R238). -/
def State.unqueue (s : State) (c : CoreId) : State :=
  let out (h : HwQueue) : HwQueue :=
    if h.getters.contains c || h.putters.contains (.core c) then
      { h with getters := h.getters.filter (· != c), putters := h.putters.filter (· != .core c) }
    else h
  s.upd fun d => { d with hqs := d.hqs.map out }

/-- Does an operation write memory? -/
def MemOp.writes (o : MemOp) : Bool := match o.kind with
  | .amo .. | .cas .. => true
  | _ => false

/-- A core's context ends: it issues nothing more, results in flight write nothing, matrix commands complete, and only what writes
memory goes on (R27, R157). `run` is what the core does next. -/
def State.endContext (s : State) (c : CoreId) (run : Run) : State :=
  let s := (s.matFlush c).unqueue c
  s.modCore c fun k =>
    let st : Vector StreamSlot 8 := k.ctx.streams.map fun x => if x.dir then x else Reset.stream
    { k with
      run := run, flights := [], snap := [], held := .replicate 2 none, heldSnap := .replicate 2 none, waiting := Reset.waiting,
      ops := k.ops.filter (·.writes), wents := k.wents.filter (·.val.isSome), preempt := false
      mat := { k.mat with posted := none, pairEnd := none, rptLeft := none, mfeed := 0 }
      clk := { k.clk with gap := 0 }
      sv := { k.sv with priv := true, pdef := false, ctxid := 0 }
      sysop := k.sysop.map fun o => { o with reg := 0 }
      ctx := { k.ctx with toks := [], lates := [], lateOvf := false, loops := [], streams := st,
                          mp := k.ctx.mp.set 7 (setField (k.ctx.mp.get 7) 63 1 0) } }

/-- `exit` has issued on a core (R27): its task has ended. -/
def State.exitTask (s : State) (c : CoreId) : State :=
  let id := (s.core c).task
  let s := s.endContext c .ending
  match id with
  | some id => s.taskEnds id false
  | none => s

/-- The tile files that a context owns are owned no more (R311). -/
def State.dropTiles (s : State) (t : TenantId) (ctxid : Nat) : State :=
  let lose (i : CoreId) : Core :=
    let k : Core := s.core i
    if s.owner (clusterOf i) == some t && bitAt k.sv.town 32 && fieldNat k.sv.town 0 32 == ctxid then
      { k with sv := { k.sv with town := setBit k.sv.town 32 false } }
    else k
  if ctxid = 0 then s else s.upd fun d => { d with cores := Vector.ofFn lose }

/-- A task is killed: it ends as R27 states; its snapshot and saved areas are discarded (R311, R312). -/
def State.killTask (s : State) (id : Nat) : State :=
  match s.taskById id with
  | none => s
  | some t =>
    if !t.alive then s
    else
      let s := match s.launchOf id with
        | some l => s.dropTiles l.tenant t.ctxid
        | none => s
      let s := match s.coreOf id with
        | some c => s.endContext c (if (s.core c).run == Run.halted then Run.halted else Run.ending)
        | none => s
      s.taskEnds id true

/-- Adds 1 to the done word of a launch, as one event on a word that the dispatcher may write (R359). A refused write is lost, and logged
as one of Hazel's (R328, R414; log 109). -/
def State.doneWord (s : State) (l : Launch) : State :=
  if l.doneWord = 0 then s
  else match s.devCanWrite l.tenant l.doneWord.toNat 8 with
    | .error f => s.logEngine l.tenant f.1 clsWorker 0x7F f.2
    | .ok ps => s.pokeSpan ps (toLe 8 (leNat (ps.flatMap fun p => s.peeks p.1 p.2) + 1))

/-- Can the done word of a launch be written now, its path and its translation to be had (R331, R387)? -/
def State.doneOpen (s : State) (l : Launch) : Bool :=
  l.doneWord == 0 || match (s.upd fun d => { d with probe := some false }).devCanWrite l.tenant l.doneWord.toNat 8 with
    | .error f => f.1 != cWait
    | .ok _ => true

/-- Has a core whose task has ended performed its stores and drained its write streams (R27)? -/
def State.coreDrained (s : State) (c : CoreId) : Bool :=
  let k := s.core c
  k.run == .ending && k.wents.isEmpty && k.defer.isEmpty && s.accessesDone c (2 ^ 64) 4 false

/-- Releases a core whose task has ended, once its stores have performed; the last task of a launch increments the done word
(R27, R359). -/
def State.releaseCore (s : State) (c : CoreId) : State :=
  let s := s.runDefers c
  if !s.coreDrained c then s
  else
    let free (s : State) : State := s.modCore c fun k => { k with run := .free, task := none, ops := [] }
    match (s.core c).task.bind s.launchOf with
    | some l =>
      if !(free s).launchGone l.id || l.killed then free s
      else if s.doneOpen l then (free s).doneWord l else s
    | none => free s

/-- A halted core leaves service: the context that it holds, if it holds one, is killed, and Hazel logs the core number, once (R321). -/
def State.reapHalted (s : State) (c : CoreId) : State :=
  if (s.core c).run ≠ .halted ∨ (s.core c).reaped then s
  else
    let s := match (s.core c).task with
      | some id => s.killTask id
      | none => s
    (s.modCore c fun k => { k with task := none, reaped := true }).emit (.deviceLog 0 c.val)

/-! ## Accepting a launch (R24, R25, R359, R371) -/

/-- The clusters of a tenant. -/
def State.clusters (s : State) (t : TenantId) : List Nat := (List.range 16).filter fun c => s.owner c == some t

/-- Does a tenant own a whole cluster pair? -/
def State.ownsPair (s : State) (t : TenantId) : Bool :=
  (List.range 8).any fun p => (s.clusters t).contains (2 * p) && (s.clusters t).contains (2 * p + 1)

/-- The first reason of R359 for which the dispatchers reject a launch, or 0. An SV launch that names a stream which is enabled but
belongs to another tenant is rejected with reason 12 (R24; DESIGN CHOICE, log 22). -/
def State.rejection (s : State) (l : Launch) : Nat :=
  let six := List.range 6
  let st := s.strm l.stream
  if 64 < l.total then 1
  else if fieldNat (l.dw 0) 59 5 ≠ 0 ∨ fieldNat (l.dw 1) 48 16 ≠ 0 ∨ l.dw 6 ≠ 0 ∨ l.dw 7 ≠ 0 then 2
  else if six.any (fun i => l.countN i == 0 || (l.width i == 0 && l.countN i != 1)) then 3
  else if six.any (fun i => decide (2 ^ l.width i < l.base i + l.countN i)) then 4
  else if (l.dw 2).toNat / 2 ^ l.total ≠ 0 then 5
  else if l.placeCode = 3 then 6
  else if fieldNat (l.dw 0) 55 4 ≠ l.tenant.val then 7
  else if !(s.tenant l.tenant).images.any (fun i => i.id == l.image) then 8
  else if 128 < l.size ∨ 8 * (s.clusters l.tenant).length < l.size then 9
  else if l.placeCode = 2 ∧ !s.ownsPair l.tenant then 10
  else if (l.entries.take l.size).any (fun e => e.toNat % 4 != 0 || decide (2 ^ 52 ≤ e.toNat)) then 11
  else if l.sv && (st.owner != some (BitVec.ofNat 4 l.tenant.val) || st.get 0 0 1 == 0) then 12
  else if l.doneWord ≠ 0 && (l.doneWord.toNat % 8 != 0 || !(s.devCanWrite l.tenant l.doneWord.toNat 8).isOk) then 14
  else if !bitAt (s.tenant l.tenant).svcb 0 || decide ((s.tenant l.tenant).svNctx < l.size) then 15
  else 0

/-- Reads a start vector and what the command says of the launch; none where it cannot be read (R22, log 19). The deadline of a best-effort
cohort is fixed here (R368; log 39). -/
def State.readLaunch (s : State) (t : TenantId) (q : QueueId) (va : Nat) (done : W64) : Option Launch :=
  if va % 64 ≠ 0 then none
  else match s.devRead t va 1088 with
    | .error _ => none
    | .ok bs =>
      let w (i : Nat) : W64 := w64 (leNat ((bs.drop (8 * i)).take 8))
      some { id := 0, tenant := t, queue := q, hdr := Vector.ofFn fun i => w i.val,
             entries := (List.range 128).map fun k => w (8 + k), doneWord := done, arrival := s.dev.board.dtime,
             due := s.dev.board.dtime + max 1 (fieldNat (s.tenant t).dsctl 0 24) * 1000, killed := false }

/-- The tasks of cohort `cid` whose prefix is `pre`. -/
def State.makeTasks (s : State) (l : Launch) (cid : Nat) (pre : List Nat) : State :=
  (combos (((List.range 6).drop l.level).map l.countN)).zipIdx.foldl (fun s x =>
    let (id, s) := s.fresh
    let t : Task :=
      { id := id, cohort := cid, rank := x.2, wid := l.widOf (pre ++ x.1), where_ := .fresh, ctxid := 0, area := none,
        place := none, pairs := 0 }
    s.upd fun d => { d with tasks := d.tasks ++ [t] }) s

/-- An accepted launch: its cohorts in ascending prefix order, each with its frame number, and its tasks (R23, R25, R371); the dispatchers
decide (R366). -/
def State.acceptLaunch (s : State) (l : Launch) : State :=
  let (lid, s) := s.fresh
  let l := { l with id := lid }
  let s := (s.upd fun d => { d with launches := d.launches ++ [l] }).wantDecision l.tenant
  (combos (((List.range 6).take l.level).map l.countN)).zipIdx.foldl (fun s x =>
    let (cid, s) := s.fresh
    let f := if l.sv then (s.strm l.stream).get 3 0 32 else 0
    let s := if l.sv then s.modStream l.stream fun r => r.put 3 0 32 (f + 1) else s
    let c : Cohort :=
      { id := cid, launch := lid, order := x.2, size := l.size, frame := f, state := .ready, admitted := false, asked := false,
        frameDone := none }
    (s.upd fun d => { d with cohorts := d.cohorts ++ [c] }).makeTasks l cid x.1) s

/-- Is the tenant's launch list full: 256 launches with tasks that have not ended (R359)? -/
def State.launchListFull (s : State) (t : TenantId) : Bool :=
  decide (256 ≤ (s.dev.launches.filter fun l => l.tenant == t && s.launchAlive l.id).length)

/-- Has a tenant a resident or ready task (R294, R383)? -/
def State.tenantBusy (s : State) (t : TenantId) : Bool :=
  s.dev.launches.any fun l => l.tenant == t && !s.launchGone l.id

end Sys2Proof.Machine
end

