-- ==== Sys2Proof/Machine/Area.lean ====
section
/-! DEFINITION. The context save area (R303, R305 to R308, R317) and the tile save area (R310, R318, R382): what is written and what is
read back. -/

namespace Sys2Proof.Machine

/-! ## Moving bytes for a system engine operation

An operation that faults ends with its code; the second number of its failure is how many bytes it had moved (R214, R317). -/

/-- The failure of a system engine operation at an address: a MEMWIN is logged (R389). -/
def areaFail {α : Type} (c : CoreId) (t : TenantId) (f : Nat × Nat) (done : Nat) : Kv α := fun s =>
  (.error (f.1, done), if f.1 = cMemwin then s.logFault t f.1 clsCore c.val f.2 else s)

/-- Writes bytes, piece by piece; gives the bytes moved so far. -/
def areaPuts (c : CoreId) (t : TenantId) : List (Nat × Nat) → List Byte → Nat → Kv Nat
  | [], _, done => return done
  | p :: ps, bs, done => fun s => match s.devWrite t p.1 (bs.take p.2) with
    | .ok s => areaPuts c t ps (bs.drop p.2) (done + p.2) s
    | .error f => areaFail c t f done s

/-- Writes bytes at an address. -/
def areaPut (c : CoreId) (t : TenantId) (va : Nat) (bs : List Byte) (done : Nat) : Kv Nat :=
  areaPuts c t (engPieces va bs.length) bs done

/-- Reads bytes, piece by piece. -/
def areaGets (c : CoreId) (t : TenantId) : List (Nat × Nat) → Nat → Kv (List Byte)
  | [], _ => return []
  | p :: ps, done => fun s => match s.devRead t p.1 p.2 with
    | .ok bs => (do return bs ++ (← areaGets c t ps (done + p.2)) : Kv (List Byte)) s
    | .error f => areaFail c t f done s

/-- Reads bytes at an address. -/
def areaGet (c : CoreId) (t : TenantId) (va n done : Nat) : Kv (List Byte) := areaGets c t (engPieces va n) done

/-- The token of an operation that moved bytes: complete with COUNT, or faulted with its code. -/
def areaToken : Except (Nat × Nat) Nat → W64
  | .ok n => tokenWord 1 0 n
  | .error f => tokenWord 2 f.1 f.2

/-! ## Snapshot entries (R303) -/

/-- The code of a vector width in a tag. -/
def widthCode : Width → Nat
  | .w256 => 0
  | .w512 => 1
  | .w1024 => 2

/-- The width of a code. -/
def widthOf (n : Nat) : Width := if n = 0 then .w256 else if n = 1 then .w512 else .w1024

/-- KIND, REG and W of a result; those of a result with no register are not stated: `free` gives them (log 8). -/
def FDest.tagBits (free : Nat) (d : FDest) : Nat := match d with
  | .s r _ => r.toNat * 2 ^ 16
  | .p n _ => 2 ^ 13 + n.toNat * 2 ^ 16
  | .v r w => 2 * 2 ^ 13 + r.toNat * 2 ^ 16 + widthCode w * 2 ^ 22
  | .qs => 3 * 2 ^ 13
  | .wr slot _ => 4 * 2 ^ 13 + slot.toNat * 2 ^ 16
  | .m r w => 5 * 2 ^ 13 + r.toNat * 2 ^ 16 + widthCode w * 2 ^ 22
  | _ => free % 6 * 2 ^ 13 + free / 6 % 64 * 2 ^ 16

/-- The tag of a snapshot entry. -/
def Flight.tag (f : Flight) (free : Nat) : Nat :=
  min f.rem 1023 + (if f.valid then 2 ^ 10 else 0) + (if f.err then 2 ^ 11 else 0) + (if f.div then 2 ^ 12 else 0) +
    f.dest.tagBits free + f.faddr.toNat * 2 ^ 64

/-- The entry that a tag and a value stand for; a write-stream entry gets the place `place`. -/
def flightOfTag (w val place : Nat) : Flight :=
  let reg := w / 2 ^ 16 % 64
  let wd := widthOf (w / 2 ^ 22 % 4)
  let dest : FDest := if w / 2 ^ 10 % 2 = 0 then .none else match w / 2 ^ 13 % 8 with
    | 0 => .s (BitVec.ofNat 6 reg) false
    | 1 => .p (BitVec.ofNat 4 reg) false
    | 2 => .v (BitVec.ofNat 5 reg) wd
    | 3 => .qs
    | 4 => .wr (BitVec.ofNat 3 reg) place
    | _ => .m (BitVec.ofNat 3 reg) wd
  { rem := w % 1024, dest := dest, latch := none, epoch := 0, ord := 0, val := BitVec.ofNat 1024 val, wait := none, counts := true,
    div := w / 2 ^ 12 % 2 == 1, valid := w / 2 ^ 10 % 2 == 1, err := w / 2 ^ 11 % 2 == 1, faddr := w64 (w / 2 ^ 64) }

/-- Is a tag one that `crest` refuses: a reserved bit, or KIND 110 or 111 (R317)? -/
def tagBad (w : Nat) : Bool := decide (6 ≤ w / 2 ^ 13 % 8) || w / 2 ^ 24 % 2 ^ 40 != 0

/-! ## The context save area, written (R305) -/

/-- Lays out parts at ascending offsets, with zero bytes between. -/
def layOut : Nat → List (Nat × List Byte) → Nat → List Byte
  | _, [], 0 => []
  | at_, [], n => zeros (n - at_)
  | at_, (off, bs) :: ps, n => zeros (off - at_) ++ (bs ++ layOut (off + bs.length) ps n)

/-- Doublewords, low byte first. -/
def dwords (l : List Nat) : List Byte := l.flatMap (toLe 8)

/-- A held syllable as the area has it. -/
def heldWord : Option HeldSyl → Nat
  | some h => h.word.toNat + h.ext.toNat * 2 ^ 32 + 2 ^ 40
  | none => 0

/-- The FIFO entries of a read stream that hold data, up to a faulted one. -/
def StreamSlot.goodFifo (st : StreamSlot) : List FifoEnt := st.fifo.takeWhile fun e => e.fault.isNone

/-- The index of the first faulted FIFO entry. -/
def StreamSlot.badIdx (st : StreamSlot) : Option Nat := (st.fifo.find? fun e => e.fault.isSome).map (·.idx)

/-- The gather indices that are saved: a faulted entry is fetched again (R237). -/
def StreamSlot.savedGq (st : StreamSlot) : List Nat := (match st.badIdx with
  | some i => if st.gath then [i] else []
  | none => []) ++ st.gq.map (·.toNat)

/-- The gather indices that stand in the queue's 64 places: with one more to be fetched first, that one stands in DW0 (R237, R305; DESIGN
CHOICE, log 63). -/
def StreamSlot.placedGq (st : StreamSlot) : List Nat := st.savedGq.drop (st.savedGq.length - 64)

/-- DW0 and DW1 of a stream's state; `owed`: entries of a write stream that have not drained. Those of a freed stream keep its index
(R235; the layout states no place for them: DESIGN CHOICE, log 63). -/
def StreamSlot.stateWords (st : StreamSlot) (owed : Nat) : List Nat :=
  if !st.bound then (if owed = 0 then [0, 0] else [st.next - owed, 2 ^ 6])
  else
    let next := if st.dir then st.next - owed else if st.gath then (if 64 < st.savedGq.length then st.savedGq.headD 0 else st.next) else st.badIdx.getD st.next
    [next, st.goodFifo.length + st.vr.toNat * 2 ^ 3 + (if st.dir then 2 ^ 6 else 0) + 2 ^ 7 +
      (if st.dir then 0 else st.savedGq.length * 2 ^ 8)]

/-- The token table's entry for place i. -/
def tokEntry (l : List Tok) (i : Nat) : List Nat := match l.find? fun t => t.slot == i with
  | some t => [0, t.reg.toNat + (if t.pend && !t.bank then 2 ^ 6 else 0) + 2 ^ 7]
  | none => [0, 0]

/-- Pads bytes to a length. -/
def padTo (n : Nat) (l : List Byte) : List Byte := l ++ zeros (n - l.length)

/-- The 24 KiB of a context's save area; `free` stands for what the spec does not state. -/
def Core.areaBytes (k : Core) (free : Nat) : List Byte :=
  let x := k.ctx
  let st := x.streams.toList
  let owed (i : Nat) : Nat := (k.wents.filter fun e => e.slot.toNat == i).length
  layOut 0 [
    (0x0000, dwords [k.sv.sepc.toNat, if x.fz then 1 else 0, x.wid.toNat, x.tenant.toNat, x.occ.toNat, x.draft.toNat,
      x.tokstat.toNat, x.kvslot.toNat, x.qs.toNat, x.p.toNat / 2 * 2 + 1, k.sv.lsmask.toNat, k.snap.length,
      heldWord (k.heldSnap.get 0), heldWord (k.heldSnap.get 1), k.mat.mfeed % 1024, fieldNat k.sv.ctxid 0 32, k.sv.scause.toNat,
      k.sv.sfaddr.toNat, k.sv.sfinfo.toNat, k.sv.cycAt.toNat, x.loops.length,
      x.lates.length % 64 + (if x.lateOvf then 2 ^ 7 else 0)]),
    (0x0100, x.loops.flatMap fun l => dwords [l.start.toNat, l.stop.toNat, l.trip, l.idx]),
    (0x01C0, dwords (x.rings.toList.map (·.toNat))),
    (0x0200, dwords (x.mp.toList.map (·.toNat))),
    (0x0240, x.ag.toList.flatMap fun a => toLe 16 a.toNat),
    (0x0280, x.m.toList.flatMap fun a => toLe 16 a.toNat),
    (0x0400, dwords (0 :: (x.s.toList.drop 1).map (·.toNat))),
    (0x0600, dwords ((List.range 64).flatMap (tokEntry x.toks))),
    (0x0A00, st.zipIdx.flatMap fun t => if t.1.bound || owed t.2 != 0 then toLe 64 t.1.pat.toNat else zeros 64),
    (0x0C00, dwords (st.zipIdx.flatMap fun t => t.1.stateWords (owed t.2))),
    (0x1000, st.flatMap fun t => padTo 256 ((if t.bound && !t.dir then t.placedGq else []).flatMap (toLe 4))),
    (0x1800, (k.snap.take 64).zipIdx.flatMap fun f => toLe 16 (f.1.tag (free + f.2))),
    (0x1C00, x.v.toList.flatMap fun v => toLe 128 v.toNat),
    (0x2C00, (k.snap.take 64).flatMap fun f => toLe 128 f.val.toNat),
    (0x4C00, st.flatMap fun t => padTo 512 ((if t.bound && !t.dir then (t.goodFifo.take 4).map (·.val.toNat) else []).flatMap (toLe 128))),
    (0x5C00, (x.lates.take 32).flatMap fun e => dwords [e.scause.toNat, e.sfaddr.toNat, e.sfinfo.toNat, 0])] 0x6000

/-- The live granules of the local store are written (R306). -/
def granulesOut (c : CoreId) (t : TenantId) (base : Nat) : List Nat → Nat → Kv Nat
  | [], done => return done
  | g :: gs, done => do
    let bs ← kvAsk fun s => s.peeks (lsAddr c (g * 0x10000)) 0x10000
    granulesOut c t base gs (← areaPut c t (base + g * 0x10000) bs done)

/-- The granules whose LSMASK bit has a value. -/
def granules (m : BitVec 16) (b : Bool) : List Nat := (List.range 16).filter fun g => bitAt m g == b

/-- R317: writes the suspended context of a core and its live granules; how many bytes. -/
def saveContext (c : CoreId) (t : TenantId) : Kv Nat := do
  let k ← kvAsk fun s => s.core c
  let f ← kvFree
  let n ← areaPut c t k.sv.ssave.toNat (k.areaBytes f) 0
  granulesOut c t k.sv.slsave.toNat (granules k.sv.lsmask true) n

/-! ## The context save area, read back (R305 to R308, R317) -/

/-- A number of `n` bytes at an offset of a byte list. -/
def pick (b : Array Byte) (off n : Nat) : Nat := leNat ((List.range n).map fun i => b.getD (off + i) 0)

/-- Has a doubleword of the area a bit set at or above bit `n`? -/
def above (b : Array Byte) (off n : Nat) : Bool := pick b off 8 / 2 ^ n != 0

/-- The bytes of the area that R305 names nothing in. -/
def areaGaps : List (Nat × Nat) := [(0xB0, 0x100), (0x1E0, 0x200), (0x300, 0x400), (0xC80, 0x1000)]

/-- Does the area hold what `crest` refuses: a reserved bit of a field, a byte that stands for nothing and is not 0, SNAPN above 64, a
reserved tag (R72, R174, R188, R208, R234, R293, R297, R305, R317, log 20)? -/
def areaBad (b : Array Byte) : Bool :=
  let w (off : Nat) : Nat := pick b off 8
  let has (off lo len : Nat) : Bool := w off / 2 ^ lo % 2 ^ len != 0
  areaGaps.any (fun g => pick b g.1 (g.2 - g.1) != 0) || has 0 0 2 || above b 0 52 || decide (64 < w 0x58) || decide (6 < w 0xA0) || decide (32 < w 0xA8 % 64) || above b 0x8 1 || above b 0x18 4 ||
    has 0x30 2 6 || above b 0x30 15 || above b 0x38 17 || above b 0x40 12 || above b 0x48 16 || above b 0x50 16 ||
    above b 0x60 41 || above b 0x68 41 || above b 0x70 10 || above b 0x78 32 || above b 0x80 12 || above b 0xA8 8 || has 0xA8 6 1 ||
    (List.range 4).any (fun i => has (0x1C0 + 8 * i) 27 5) || has 0x238 48 15 ||
    (List.range 4).any (fun i => has (0x240 + 16 * i) 17 15 || above b (0x240 + 16 * i) 59 || above b (0x248 + 16 * i) 48) ||
    (List.range (min 64 (w 0x58))).any (fun i => tagBad (pick b (0x1800 + 16 * i) 16)) ||
    (List.range 64).any (fun i => above b (0x608 + 16 * i) 8) ||
    (List.range 8).any (fun i => above b (0xC08 + 16 * i) 15 || above b (0xA08 + 64 * i) 5) ||
    (List.range (w 0xA8 % 64)).any fun i => above b (0x5C00 + 32 * i) 12 || above b (0x5C18 + 32 * i) 0

/-- A held syllable of the area. -/
def heldOf (w : Nat) : Option HeldSyl :=
  if w / 2 ^ 40 % 2 = 1 then some { word := BitVec.ofNat 32 w, ext := BitVec.ofNat 8 (w / 2 ^ 32) } else none

/-- Stream slot i of the area; `owed` write-stream entries stand in the snapshot. -/
def streamOf (b : Array Byte) (i owed : Nat) : StreamSlot :=
  let d0 := pick b (0xC00 + 16 * i) 8
  let d1 := pick b (0xC08 + 16 * i) 8
  if d1 / 2 ^ 7 % 2 = 0 then
    { Reset.stream with pat := BitVec.ofNat 512 (pick b (0xA00 + 64 * i) 64), dir := d1 / 2 ^ 6 % 2 == 1, next := d0 + owed }
  else
    { bound := true, dir := d1 / 2 ^ 6 % 2 == 1, vr := BitVec.ofNat 3 (d1 / 8), pat := BitVec.ofNat 512 (pick b (0xA00 + 64 * i) 64),
      next := d0 + owed, stopped := false,
      fifo := (List.range (d1 % 8)).map fun j =>
        { idx := 0, val := BitVec.ofNat 1024 (pick b (0x4C00 + 128 * (4 * i + j)) 128), fault := none }
      gq := (if 64 < d1 / 2 ^ 8 % 128 then [BitVec.ofNat 32 d0] else []) ++
        (List.range (min 64 (d1 / 2 ^ 8 % 128))).map fun j => BitVec.ofNat 32 (pick b (0x1000 + 256 * i + 4 * j) 4) }

/-- The token table as it stands after a restore: the operations of the task that are in flight, at their places (R307). -/
def toksOf (b : Array Byte) (ops : List EngOp) : List Tok := ops.map fun o =>
  let d1 := pick b (0x608 + 16 * o.slot) 8
  { op := o.id, slot := o.slot, reg := BitVec.ofNat 6 d1, bank := false, pend := d1 / 2 ^ 6 % 2 == 1, value := 0 }

/-- The scalar registers of the area, with the tokens that were written while the context was out: an entry that is neither pending nor
live holds one (R307; log 64). -/
def sregsOf (b : Array Byte) : Vector W64 64 :=
  let toks := (List.range 64).filterMap fun i =>
    let d0 := pick b (0x600 + 16 * i) 8
    let d1 := pick b (0x608 + 16 * i) 8
    if d1 / 2 ^ 6 % 4 = 0 ∧ d0 ≠ 0 then some (d1 % 64, d0) else none
  Vector.ofFn fun r => if r.val = 0 then 0
    else match toks.find? fun x => x.1 == r.val with
      | some x => w64 x.2
      | none => w64 (pick b (0x400 + 8 * r.val) 8)

/-- The context and the snapshot of an area's bytes; `first` numbers the places of write-stream entries. -/
def Core.loadArea (k : Core) (b : Array Byte) (ops : List EngOp) (first : Nat) : Core :=
  let w (off : Nat) : Nat := pick b off 8
  let snap := (List.range (w 0x58)).map fun i => flightOfTag (pick b (0x1800 + 16 * i) 16) (pick b (0x2C00 + 128 * i) 128) (first + i)
  let owes := snap.filterMap fun f => match f.dest with
    | .wr slot place => some (slot, place)
    | _ => none
  let owed (i : Nat) : Nat := (owes.filter fun x => x.1.toNat == i).length
  let st : Vector StreamSlot 8 := Vector.ofFn fun i => streamOf b i.val (owed i.val)
  let wents := owes.zipIdx.map fun x =>
    let s := st.get x.1.1.toFin
    let before := ((owes.take x.2).filter fun y => y.1 == x.1.1).length
    ({ slot := x.1.1, place := x.1.2, seq := 0, va := s.entryVa (s.next - owed x.1.1.toNat + before), len := s.entryBytes,
       val := none, own := { sv := false, task := k.task } } : WEnt)
  { k with
    snap := snap, wents := wents
    heldSnap := #v[heldOf (w 0x60), heldOf (w 0x68)]
    sv := { k.sv with sepc := w64 (w 0) &&& 0xFFFFFFFFFFFFC, lsmask := BitVec.ofNat 16 (w 0x50) }
    mat := { k.mat with mfeed := w 0x70 }
    ctx := { k.ctx with
      fz := w 8 % 2 == 1, wid := w64 (w 0x10), tenant := BitVec.ofNat 4 (w 0x18), occ := w64 (w 0x20), draft := w64 (w 0x28),
      tokstat := w64 (w 0x30), kvslot := w64 (w 0x38), qs := BitVec.ofNat 32 (w 0x40), p := BitVec.ofNat 16 (w 0x48 / 2 * 2 + 1),
      loops := (List.range (w 0xA0)).map fun i =>
        { start := w64 (w (0x100 + 32 * i)), stop := w64 (w (0x108 + 32 * i)), trip := w (0x110 + 32 * i), idx := w (0x118 + 32 * i) }
      rings := Vector.ofFn fun i => w64 (w (0x1C0 + 8 * i.val)), mp := Vector.ofFn fun i => w64 (w (0x200 + 8 * i.val))
      ag := Vector.ofFn fun i => BitVec.ofNat 128 (pick b (0x240 + 16 * i.val) 16)
      m := Vector.ofFn fun i => BitVec.ofNat 128 (pick b (0x280 + 16 * i.val) 16)
      s := sregsOf b, v := Vector.ofFn fun i => BitVec.ofNat 1024 (pick b (0x1C00 + 128 * i.val) 128)
      toks := toksOf b ops, streams := st
      lates := (List.range (w 0xA8 % 64)).map fun i =>
        { scause := w64 (w (0x5C00 + 32 * i)), sfaddr := w64 (w (0x5C08 + 32 * i)), sfinfo := w64 (w (0x5C10 + 32 * i)) }
      lateOvf := w 0xA8 / 2 ^ 7 % 2 == 1 } }

/-- A stream slot of free contents. -/
def freeStream (n : Nat) : StreamSlot :=
  let w := Config.freeWord
  { bound := bitAt (w n) 0, dir := bitAt (w n) 1, vr := bits (w n) 2 3, next := (w (n + 1)).toNat, stopped := false, gq := [],
    pat := w (n + 2) ++ w (n + 3) ++ w (n + 4) ++ w (n + 5) ++ w (n + 6) ++ w (n + 7) ++ w (n + 8) ++ w (n + 9)
    fifo := (List.range ((w n).toNat / 2 ^ 5 % 5)).map fun i =>
      { idx := 0, val := (w (n + 10 + i)).setWidth 1024, fault := none } }

/-- The user state after a `crest` that ended with ILLEGAL_OPCODE: unpredictable, so free (R317, log 8); `ops`: the task's operations in
flight. -/
def Core.scramble (k : Core) (ops : List EngOp) (n : Nat) : Core :=
  let w (i : Nat) : W64 := Config.freeWord (n + i)
  let held (i : Nat) : Option HeldSyl :=
    if bitAt (w i) 40 then some { word := (w i).setWidth 32, ext := bits (w i) 32 8 } else none
  { k with
    sv := { k.sv with sepc := w 700 &&& 0xFFFFFFFFFFFFC, lsmask := (w 701).setWidth 16 }
    mat := { k.mat with mfeed := (w 702).toNat % 1024 }
    heldSnap := #v[held 703, held 704]
    snap := (List.range ((w 705).toNat % 65)).map fun i =>
      flightOfTag ((w (710 + i)).toNat / 2 ^ 13 % 2 * 2 ^ 13 + (w (710 + i)).toNat % 2 ^ 12 + (w (710 + i)).toNat / 2 ^ 16 % 64 * 2 ^ 16)
        (w (780 + i)).toNat 0
    ctx := { k.ctx with
      loops := (List.range ((w 596).toNat % 7)).map fun i =>
        { start := w (600 + 4 * i), stop := w (601 + 4 * i), trip := (w (602 + 4 * i)).toNat, idx := (w (603 + 4 * i)).toNat }
      s := Vector.ofFn fun i => if i.val = 0 then 0 else w i.val
      p := (w 0).setWidth 16 ||| 1
      v := Vector.ofFn fun i => (List.range 16).foldl (fun a j => a ++ w (64 + 16 * i.val + j) |>.setWidth 1024) (0 : V1024)
      m := Vector.ofFn fun i => w (576 + 2 * i.val) ++ w (577 + 2 * i.val)
      qs := (w 592).setWidth 12 |>.setWidth 32, occ := w 593, draft := w 594, tokstat := w 595 &&& 0x7F03
      ag := Vector.ofFn fun i => (w (630 + 2 * i.val) &&& 0xFFFFFFFFFFFF) ++ (w (631 + 2 * i.val) &&& 0x7FFFFFF0001FFFF)
      mp := Vector.ofFn fun i => w (640 + i.val), rings := Vector.ofFn fun i => w (650 + i.val)
      wid := w 660, tenant := (w 661).setWidth 4, kvslot := w 662 &&& 0x1FFFF, fz := bitAt (w 663) 0
      toks := ops.map fun o => { op := o.id, slot := o.slot, reg := (w (1000 + o.slot)).setWidth 6, bank := false,
                                 pend := bitAt (w (1000 + o.slot)) 6, value := 0 }
      lates := [], lateOvf := bitAt (w 664) 0
      streams := Vector.ofFn fun i => freeStream (n + 850 + 16 * i.val) } }

/-- The local store's granules come back; those that are not live hold unpredictable bytes (R306). -/
def granulesIn (c : CoreId) (t : TenantId) (base : Nat) : List Nat → Nat → Kv Nat
  | [], done => return done
  | g :: gs, done => do
    let bs ← areaGet c t (base + g * 0x10000) 0x10000 done
    let _ ← (fun s => (.ok (), s.pokes (lsAddr c (g * 0x10000)) bs) : Kv Unit)
    granulesIn c t base gs (done + 0x10000)

/-- The bytes of granule g become unpredictable. -/
def State.loseGranule (s : State) (c : CoreId) (g : Nat) : State :=
  let n := s.dev.free
  (s.pokes (lsAddr c (g * 0x10000)) ((List.range 0x10000).map fun i => Config.freeByte (n + i))).upd fun d =>
    { d with free := d.free + 0x10000 }

/-- The repeats left of the step of an active routine are not in the area: free, up to RPT (R206, R305, log 21). -/
def State.freeRpt (s : State) (c : CoreId) : State :=
  let k := s.core c
  if !k.mpRun then s
  else
    let rpt := s.peekNat (microAddr c (8 * fieldNat (k.ctx.mp.get 7) 32 10) + 5) 1
    let (n, s) := s.drawNat
    s.modCore c fun k => k.modMat fun m => { m with rptLeft := some (n % (rpt + 1)) }

/-- R317: reads the area of a core's task and its granules back, as an acquire at device scope; how many bytes. -/
def restoreContext (c : CoreId) (t : TenantId) (task : Nat) : Kv Nat := do
  let k ← kvAsk fun s => s.core c
  let b := (← areaGet c t k.sv.ssave.toNat 0x6000 0).toArray
  if areaBad b then
    let _ ← (fun s =>
      let ops := s.dev.eng.filter fun o => o.task == some task
      (.ok (), (s.modCore c fun k => k.scramble ops s.dev.free).upd fun d => { d with free := d.free + 1100 }) : Kv Unit)
    (fun s => (.error (cIllegalOpcode, 0x6000), s) : Kv Nat)
  else
    let _ ← (fun s =>
      let ops := s.dev.eng.filter fun o => o.task == some task
      let s := (s.modCore c fun k => k.loadArea b ops s.dev.nextId).upd fun d => { d with nextId := d.nextId + 64 }
      (.ok (), (s.freeRpt c).modCore c Core.syncSh) : Kv Unit)
    let m := BitVec.ofNat 16 (pick b 0x50 8)
    let n ← granulesIn c t k.sv.slsave.toNat (granules m true) 0x6000
    (fun s => (.ok n, (granules m false).foldl (fun s g => s.loseGranule c g) s) : Kv Nat)

/-! ## The tile save area (R310, R318, R382) -/

/-- CFG and DIRTY of a TCFG. -/
def tcDirty (w : BitVec 32) : Bool := tcOn w && bitAt w 19

/-- TAG, TAGSET and the scale slot of a latch as the area has them. -/
def Core.tagWord (k : Core) (n : Nat) : Nat :=
  (match (k.mat.tag.toList.getD n none) with | some f => f.toNat + 8 | none => 0) + (k.mat.scale.toList.getD n 0).toNat * 2 ^ 8

/-- Clears DIRTY of a tile. -/
def Core.cleanTile (k : Core) (n : Nat) : Core :=
  k.modMat fun m => { m with tcfg := m.tcfg.set (n % 8) (setBit (m.tcfg.get ⟨n % 8, Nat.mod_lt _ (by decide)⟩) 19 false) (Nat.mod_lt _ (by decide)) }

/-- Writes the dirty tiles. -/
def tilesOut (c : CoreId) (t : TenantId) (base : Nat) : List Nat → Nat → Kv Nat
  | [], done => return done
  | n :: ns, done => do
    let w ← kvAsk fun s => (s.core c).mat.tcfg.toList.getD n 0
    if tcDirty w then
      let bs ← kvAsk fun s => s.peeks (tileAddr c n 0) 0x10000
      let done ← areaPut c t (base + n * 0x10000) bs done
      let _ ← (fun s => (.ok (), s.modCore c fun k => k.cleanTile n) : Kv Unit)
      tilesOut c t base ns done
    else tilesOut c t base ns done

/-- Writes the dirty latches. -/
def latchesOut (c : CoreId) (t : TenantId) (base : Nat) : List Nat → Nat → Kv Nat
  | [], done => return done
  | n :: ns, done => do
    let k ← kvAsk fun s => s.core c
    if bitAt k.sv.town (36 + n) then
      let bs ← kvAsk fun s => s.peeks (latchAddr c n 0) latchBytes
      latchesOut c t base ns (← areaPut c t (base + 0x80000 + n * 0x12000) (bs ++ toLe 8 (k.tagWord n)) done)
    else latchesOut c t base ns done

/-- The first block of R318: the owner's dirty state, its TCFGs with DIRTY clear, and TVALID. -/
def tileFileOut (c : CoreId) (t : TenantId) : Kv Nat := do
  let base ← kvAsk fun s => (s.core c).sv.towna.toNat
  let n ← tilesOut c t base (List.range 8) 0
  let n ← latchesOut c t base (List.range 4) n
  let cfg ← kvAsk fun s => (s.core c).mat.tcfg.toList.map (·.toNat)
  areaPut c t (base + 0xC8000) (dwords (cfg.map (fun w => w % 2 ^ 19) ++ [1])) n

/-- Reads the tiles that are configured. -/
def tilesIn (c : CoreId) (t : TenantId) (base : Nat) : List Nat → List Nat → Nat → Kv Nat
  | w :: ws, n :: ns, done => do
    if w / 2 ^ 18 % 2 = 1 then
      let bs ← areaGet c t (base + n * 0x10000) 0x10000 done
      let _ ← (fun s => (.ok (), s.pokes (tileAddr c n 0) bs) : Kv Unit)
      tilesIn c t base ws ns (done + 0x10000)
    else tilesIn c t base ws ns done
  | _, _, done => return done

/-- Sets the tag and scale slot of a latch from the area's word. -/
def Core.setTag (k : Core) (n w : Nat) : Core :=
  k.modMat fun m => { m with
    tag := m.tag.set (n % 4) (if w / 8 % 2 = 1 then some (BitVec.ofNat 3 w) else none) (Nat.mod_lt _ (by decide))
    scale := m.scale.set (n % 4) (BitVec.ofNat 32 (w / 2 ^ 8)) (Nat.mod_lt _ (by decide)) }

/-- Reads the latches. -/
def latchesIn (c : CoreId) (t : TenantId) (base : Nat) : List Nat → Nat → Kv Nat
  | [], done => return done
  | n :: ns, done => do
    let bs ← areaGet c t (base + 0x80000 + n * 0x12000) (latchBytes + 8) done
    let _ ← (fun s => (.ok (), (s.pokes (latchAddr c n 0) (bs.take latchBytes)).modCore c fun k =>
      k.setTag n (leNat (bs.drop latchBytes))) : Kv Unit)
    latchesIn c t base ns (done + latchBytes + 8)

/-- The second block of R318: the current context's tile file, from its area or empty; the reserved bits of a TCFG read 0 (R6, R189). -/
def tileFileIn (c : CoreId) (t : TenantId) (done : Nat) : Kv Nat := do
  let base ← kvAsk fun s => (s.core c).sv.stsave.toNat
  let tv := leNat (← areaGet c t (base + 0xC8040) 8 done)
  if tv % 2 = 1 then
    let bs ← areaGet c t (base + 0xC8000) 64 (done + 8)
    let cfg := (List.range 8).map fun i => leNat ((bs.drop (8 * i)).take 8)
    let n ← tilesIn c t base cfg (List.range 8) (done + 72)
    let _ ← (fun s => (.ok (), s.modCore c fun k => k.modMat fun m =>
      { m with tcfg := Vector.ofFn fun i => BitVec.ofNat 32 (nth cfg i.val 0) &&& 0x77F7F }) : Kv Unit)
    latchesIn c t base (List.range 4) n
  else
    (fun s => (.ok (done + 8), (s.clearLatches c).modCore c Core.emptyTiles) : Kv Nat)

/-- Makes the loaded context the owner of the tile file. -/
def Core.takeTiles (k : Core) : Core :=
  { k with sv := { k.sv with town := w64 (fieldNat k.sv.ctxid 0 32 + 2 ^ 32), towna := k.sv.stsave } }

/-- R318: hands the tile file to the current context; how many bytes moved. For its owner nothing changes: R382 says so, where the last line of
R318 would write TOWN (log 110). -/
def tileHandover (c : CoreId) (t : TenantId) : Kv Nat := do
  let k ← kvAsk fun s => s.core c
  if k.ownsTiles then pure 0
  else
    let n ← if bitAt k.sv.town 32 then tileFileOut c t else pure 0
    let n ← tileFileIn c t n
    (fun s => (.ok n, s.modCore c fun k => k.takeTiles.syncSh) : Kv Nat)

/-- R318, R382: the first block, and the file is owned no more; KDIRTY stays. -/
def tileOut (c : CoreId) (t : TenantId) : Kv Nat := do
  let k ← kvAsk fun s => s.core c
  let n ← if bitAt k.sv.town 32 then tileFileOut c t else pure 0
  (fun s => (.ok n, s.modCore c fun k => { k with sv := { k.sv with town := setBit k.sv.town 32 false } }) : Kv Nat)

end Sys2Proof.Machine
end

