-- ==== Sys2Proof/Machine/Control.lean ====
section
/-! DEFINITION. The control instructions of major 0101 (R147 to R157) and the header (R106, R119): transfers, hardware loops,
schedule selection, pausing and ending. -/

namespace Sys2Proof.Machine

/-- A taken control transfer: the bundle at the target issues `clocks` clocks after this one; the latches are stale and holds end
(R16, R114, R150). A misaligned target traps (R117). -/
def State.transfer (s : State) (target : W64) (clocks : Nat) : State :=
  if target.toNat % 4 ≠ 0 then s.trap 7 cInstrAlign target
  else s.modMe fun k =>
    let k := k.staleAll
    { k with
      ctx := { k.ctx with pc := target }
      clk := { k.clk with gap := clocks - 1 }
      held := .replicate 2 none
      bun := { k.bun with taken := true } }

/-- The target of a relative transfer: syllables from the bundle's first address (R147). -/
def State.relTarget (s : State) (disp : Int) : W64 := s.me.bun.base + ofI (disp * 4)

/-- The link of a call: the next bundle's address in s63 at issue + 1, with no latch (R149). -/
def State.link (s : State) : State := s.resR 1 63 s.me.bun.next

/-- R147: a relative branch. -/
def execBr (x : Lent) (disp : BitVec 23) (s : State) : Out :=
  act (syl x Uses.none fun s => s.transfer (s.relTarget (immS x disp)) 2) s

/-- R148: a relative branch on a predicate. -/
def execBrc (x : Lent) (neg : Bool) (p : BitVec 4) (disp : BitVec 18) (s : State) : Out :=
  act (syl x Uses.none fun s => if s.me.pred p != neg then s.transfer (s.relTarget (immS x disp)) 2 else s) s

/-- R147: an indirect branch. -/
def execBri (x : Lent) (a : SSrc) (s : State) : Out := act (syl x (Uses.none.s a) fun s => s.transfer (s.src a) 3) s

/-- R149: a relative call. -/
def execCall (x : Lent) (disp : BitVec 23) (s : State) : Out :=
  act (syl x Uses.none fun s => s.link.andThen fun s => s.transfer (s.relTarget (immS x disp)) 2) s

/-- R149: an indirect call. -/
def execCalli (x : Lent) (a : SSrc) (s : State) : Out :=
  act (syl x (Uses.none.s a) fun s =>
    let t := s.src a
    s.link.andThen fun s => s.transfer t 3) s

/-- R149: a return. -/
def execRet (x : Lent) (a : SSrc) (s : State) : Out := act (syl x (Uses.none.s a) fun s => s.transfer (s.src a) 3) s

/-- Skips an end bundle that does not issue: the address after it, or what a fetch of it raises (R151). -/
def State.afterBundle (s : State) (va : W64) (f : W64 → State) : State :=
  match s.fetchBundle s.dev.cur.core va.toNat with
  | .wait a => s.holdOn (.overlay a)
  | .fault code a => s.trapData (code, a)
  | .words ws => if stopped ws then f (va + w64 (4 * ws.length)) else s.trap 7 cIllegalBundle va

/-- Pushes a loop level, or skips the loop on a trip count of 0 (R30, R151). A seventh level, and supervisor level, raise
ILLEGAL_OPCODE (R290). -/
def State.pushLoop (s : State) (trip off : Nat) : State :=
  let k := s.me
  let stop := k.bun.base + w64 (4 * off)
  if k.priv || 6 ≤ k.ctx.loops.length then s.trapAt cIllegalOpcode
  else if trip = 0 then s.afterBundle stop fun a => s.transfer a 2
  else s.modMe fun k =>
    { k with
      ctx := { k.ctx with loops := k.ctx.loops ++ [{ start := k.bun.next, stop := stop, trip := trip, idx := 0 }] }
      bun := { k.bun with pushed := true } }

/-- The trip count that `loop` reads from a register (R151). -/
def tripOf (a : W64) : Nat := if 2 ^ 32 ≤ a.toNat then 2 ^ 32 - 1 else a.toNat

/-- R151: pushes a level with a register or immediate trip count. -/
def execLoop (x : Lent) (cnt : LoopCount) (off : BitVec 12) (s : State) : Out :=
  let u := match cnt with
    | .reg a => Uses.none.s a
    | .imm _ => Uses.none
  act (syl x u fun s =>
    let trip := match cnt with
      | .reg a => tripOf (s.src a)
      | .imm n => n.toNat
    s.pushLoop trip (immU x off)) s

/-- The state of the slot that KVSLOT names: the address of its doubleword 0, or none (R73, R337, R338). -/
def State.slotState (s : State) (t : TenantId) (kvslot : W64) : Option Nat :=
  if !bitAt kvslot 16 then none
  else
    let arena := fieldNat kvslot 12 4
    match s.devNat t (fieldNat (s.tenant t).kvdt 11 41 * 2048 + 128 * arena + 24) 8 with
    | .ok base => some (base + 128 * fieldNat kvslot 0 12)
    | .error _ => none

/-- SEQLEN: the committed length of the slot that KVSLOT names, 0 when none is bound (R13, R73). An unreadable slot state reads
as 0, which the spec does not state (log 15). -/
def State.seqlen (s : State) (c : CoreId) : W64 :=
  match s.slotState (s.coreTenant c) (s.core c).ctx.kvslot with
  | some a => match s.devNat (s.coreTenant c) a 8 with
    | .ok n => w64 (n % 2 ^ 22)
    | .error _ => 0
  | none => 0

/-- R151: pushes a level whose trip count is SEQLEN, OCC or DRAFT. -/
def execLoopx (x : Lent) (sr : BitVec 4) (off : BitVec 12) (s : State) : Out :=
  act (syl x Uses.none fun s =>
    let v := match sr.toNat with
      | 0 => s.seqlen s.dev.cur.core
      | 1 => s.me.ctx.occ
      | _ => s.me.ctx.draft
    s.pushLoop v.toNat (immU x off)) s

/-- R153: pops the innermost level and continues after its end bundle. -/
def execBrk (x : Lent) (s : State) : Out :=
  act (syl x Uses.none fun s =>
    let k := s.me
    if k.priv then s.trapAt cIllegalOpcode
    else match k.ctx.loops.getLast? with
      | none => s.trapAt cIllegalOpcode
      | some l => s.afterBundle l.stop fun a =>
        (s.modMe fun k => k.modCtx fun x => { x with loops := x.loops.dropLast }).transfer a 3) s

/-- Bits of a number: BitLength(0) = 0 (R32). -/
def bitLength (n : Nat) : Nat := if n = 0 then 0 else n.log2 + 1

/-- The bucket of R32. -/
def bucketOf (occ draft : Nat) : Nat :=
  (if occ = 0 then 0 else min 7 (bitLength (occ - 1))) * 8 + min 7 (bitLength draft)

/-- The base of a `bsel` table: A with its bits [2:0] ignored (R155). -/
def State.selBase (s : State) (a : SSrc) : Nat := (s.src a).toNat / 8 * 8

/-- The entry that a `bsel` reads from its table (R155). -/
def State.selEntry (s : State) (a : SSrc) : W64 :=
  let at_ := s.selBase a + 8 * bucketOf s.me.ctx.occ.toNat s.me.ctx.draft.toNat
  let c := s.dev.cur.core
  w64 (leNat (s.readPart c (s.me.seq 0) { va := at_, len := 8, pa := some (lsAddr c (at_ - Config.lsBase)), sc := false }))

/-- R155: branches through the 64-entry table in the local store: its entry as it stood before the stores of the bundle (R76). -/
def execBsel (x : Lent) (a : SSrc) (s : State) : Out :=
  act (syl x (Uses.none.s a) fun s =>
    let base := s.selBase a
    if rowSpan base 512 ≠ .ls then s.trap 7 cDataUnmapped (w64 (if rowOf base = .ls then Config.vaLimit else base))
    else s.transfer (s.me.bun.entry.getD (s.selEntry a)) 6) s

/-- The clocks that `pause` holds its bundle (R156). -/
def pauseClocks (x : Lent) (cnt : PauseCount) (s : State) : Nat := match cnt with
  | .reg a => min (s.src a).toNat (2 ^ 24 - 1)
  | .imm n => immU x n

/-- R156: holds the bundle for n unfrozen clocks: it issues when the clocks left, kept while the bundle waits, are 0. -/
def execPause (x : Lent) (cnt : PauseCount) (s : State) : Out :=
  let u := match cnt with
    | .reg a => Uses.none.s a
    | .imm _ => Uses.none
  act (syl x u fun s =>
    let left := match s.me.waiting.pause with
      | some n => n
      | none => pauseClocks x cnt s
    if left = 0 then s
    else (s.modMe fun k => { k with waiting := { k.waiting with pause := some left } }).holdOn .pause) s

/-- R27, R157: ends the task when its bundle issues; results in flight write nothing, and the core is free once the context's
stores have performed. At supervisor level it raises ILLEGAL_OPCODE (R290). -/
def execExit (x : Lent) (s : State) : Out :=
  act (syl x Uses.none fun s =>
    if s.me.priv then s.trapAt cIllegalOpcode
    else s.modBun fun b => { b with exiting := true }) s

/-- R106, R119: a header alone has no effect but its overlay mark. -/
def execNop (ovl : Bool) (_e0 _e1 e2 : BitVec 8) (s : State) : Out :=
  act (fun s => if ovl then s.overlayMark s.dev.cur.core e2.toNat else s) s

/-- R156: the clocks of a pause have passed: its bundle is held no more, and issues at the core's next clock. -/
def execPauseHoldEnds (s : State) : Out :=
  act (fun s =>
    if s.me.waiting.pause = some 0 ∧ s.me.bun.hold = some .pause then s.modBun fun b => { b with hold := none } else s) s

end Sys2Proof.Machine
end

