-- ==== Sys2Proof/Machine/System.lean ====
section
/-! DEFINITION. The system instructions (R289 to R293, R313 to R321), the removal of translations (R335), and the landing of tokens
(R215, R307). -/

namespace Sys2Proof.Machine

/-! ## Special registers (R13, R292, R293) -/

/-- Index[d], or 0 when level d is not active (R154). -/
def Ctx.loopIndex (x : Ctx) (d : Nat) : W64 := match x.loops[d]? with
  | some l => w64 l.idx
  | none => 0

/-- MODE (R293). -/
def Core.mode (k : Core) : W64 :=
  w64 ((if k.ctx.fz then 1 else 0) + (if k.sv.priv then 2 else 0) + (if k.sv.pdef then 4 else 0))

/-- The value of a special register of the core that acts, as `mfsr` reads it (R13, R292). -/
def State.sprRead (s : State) (n : BitVec 8) : W64 :=
  let k := s.me
  match n.toNat with
  | 0x00 => k.ctx.wid
  | 0x01 => w64 s.dev.cur.core.val
  | 0x02 => k.ctx.tenant.setWidth 64
  | 0x03 => k.clk.cycle
  | 0x04 => s.seqlen s.dev.cur.core
  | 0x05 => k.ctx.kvslot
  | 0x06 => k.ctx.occ
  | 0x07 => k.ctx.draft
  | 0x08 => k.ctx.tokstat
  | 0x09 => k.ctx.qs.setWidth 64
  | 0x40 => k.mode
  | 0x41 => k.sv.stvec
  | 0x42 => k.sv.sepc
  | 0x43 => k.sv.scause
  | 0x44 => k.sv.sfaddr
  | 0x45 => k.sv.sfinfo
  | 0x46 => k.sv.ssave
  | 0x47 => k.sv.stsave
  | 0x48 => k.sv.slsave
  | 0x49 => k.sv.lsmask.setWidth 64
  | 0x4A => k.sv.town
  | 0x4B => k.sv.towna
  | 0x4C => k.sv.ctxid
  | 0x4D => k.sv.snext
  | 0x4E => w64 k.snap.length
  | m =>
    if 0x10 ≤ m ∧ m < 0x16 then k.ctx.loopIndex (m - 0x10)
    else if 0x18 ≤ m ∧ m < 0x20 then (k.mat.tcfg.toList.getD (m - 0x18) 0).setWidth 64
    else 0

/-- May user level read the register (R292)? -/
def userReads (n : BitVec 8) : Bool := decide (n.toNat < 0x40)

/-- May `mtsr` write the register at the level (R13, R292)? -/
def mayWrite (priv : Bool) (n : BitVec 8) : Bool :=
  n == 0x06 || n == 0x07 || (priv && [0x40, 0x41, 0x42, 0x46, 0x47, 0x48, 0x49].contains n.toNat)

/-- R316: reads a special register, at issue + 1. -/
def execMfsr (x : Lent) (d : BitVec 6) (srn : BitVec 8) (s : State) : Out :=
  act (syl x Uses.none fun s =>
    if !s.me.priv && !userReads srn then s.trapAt cPerm else s.resR 1 d (s.sprRead srn)) s

/-- R316: writes the RW fields of a special register, at issue + 1. -/
def execMtsr (x : Lent) (a : SSrc) (srn : BitVec 8) (s : State) : Out :=
  act (syl x (Uses.none.s a) fun s =>
    if !mayWrite s.me.priv srn then s.trapAt cPerm
    else s.resX (.spr srn) ((sprMask srn (s.src a)).setWidth 1024)) s

/-! ## Levels (R314, R315, R320, R321) -/

/-- R314: the trap follows the bundle's effect. At supervisor level it is not taken: the core halts (R291). -/
def execSyscall (x : Lent) (n : BitVec 16) (s : State) : Out :=
  act (syl x Uses.none fun s => s.modBun fun b => { b with syscall := some (n.setWidth 64) }) s

/-- The task whose context a core holds is loaded there. -/
def State.loadTask (s : State) (c : CoreId) : State := match (s.core c).task with
  | some id => s.modTask id fun t => { t with where_ := .on c }
  | none => s

/-- The context that a core holds is switched out: later tokens go to its save area at SSAVE (R307). -/
def State.switchOut (s : State) (c : CoreId) : State := match (s.core c).task with
  | some id => s.modTask id fun t => { t with where_ := .saved, area := some (s.core c).sv.ssave.toNat }
  | none => s

/-- Is the context that a core holds loaded? -/
def State.isLoaded (s : State) (c : CoreId) : Bool := match (s.core c).task.bind s.taskById with
  | some t => t.where_ == .on c
  | none => false

/-- A privileged syllable: PERM at user level (R291). -/
def privSyl (x : Lent) (u : Uses) (body : State → State) : State → State :=
  syl x u fun s => if !s.me.priv then s.trapAt cPerm else body s

/-- R315: returns to user level; it must be alone in its bundle. -/
def execEret (x : Lent) (s : State) : Out :=
  act (privSyl x Uses.none fun s =>
    if !s.me.bun.single then s.trapAt cIllegalOpcode
    else ((s.modMe Core.returnToUser).loadTask s.dev.cur.core).modBun fun b => { b with taken := true }) s

/-- A `crest` that has not begun never begins. -/
def SysOp.forget (o : SysOp) : Option SysOp := match o.todo with
  | some .crest => none
  | _ => some { o with reg := 0 }

/-- R320: ends the supervisor's run: the core holds no context and is free. -/
def execWfi (x : Lent) (s : State) : Out :=
  act (privSyl x Uses.none fun s =>
    let c := s.dev.cur.core
    let s := if s.isLoaded c then s.switchOut c else s
    let s := s.endContext c .free
    s.modMe fun k => { k with task := none, sysop := k.sysop.bind SysOp.forget, bun := { k.bun with taken := true } }) s

/-- R321: stops the core until reset; the context that it holds is killed. -/
def execHalt (x : Lent) (s : State) : Out :=
  act (privSyl x Uses.none fun s =>
    let c := s.dev.cur.core
    (s.modMe fun k => { k with run := .halted, bun := { k.bun with taken := true } }).reapHalted c) s

/-! ## System engine operations (R313, R317, R318, R382) -/

/-- The form of a system engine operation: one at a time (R313). -/
def sysSyl (x : Lent) (u : Uses) (body : State → State) : State → State :=
  privSyl x u fun s => if s.me.sysop.isSome then s.trapAt cIllegalOpcode else body s

/-- A system engine operation is in flight; D is pending from issue + 1. -/
def State.startSys (s : State) (d : BitVec 6) (token : W64) (todo : Option SysWork) : State :=
  let (id, s) := s.fresh
  let o : SysOp := { op := id, reg := 0, token := token, todo := todo, seq := s.me.seq 0, waits := [] }
  (s.modMe fun k => { k with sysop := some o }).resX (.pend d (isBanked true d) id) 0

/-- R317: saves the suspended context, its snapshot and its live granules as they stand at issue. -/
def execCsave (x : Lent) (d : BitVec 6) (s : State) : Out :=
  act (sysSyl x Uses.none fun s =>
    let c := s.dev.cur.core
    let r := (saveContext c (s.coreTenant c)).run s
    (r.2.switchOut c).startSys d (areaToken r.1) none) s

/-- R317: restores a context; it reads the area as an acquire, once the core's earlier accesses have performed. -/
def execCrest (x : Lent) (d : BitVec 6) (s : State) : Out := act (sysSyl x Uses.none fun s => s.startSys d 0 (some .crest)) s

/-- R318: hands the tile file to the current context. -/
def execTsave (x : Lent) (d : BitVec 6) (s : State) : Out :=
  act (sysSyl x Uses.none fun s =>
    let c := s.dev.cur.core
    let r := (tileHandover c (s.coreTenant c)).run s
    r.2.startSys d (areaToken r.1) none) s

/-- R318, R382: saves the owner's dirty tile state, and the tile file is owned no more. -/
def execTsaveOut (x : Lent) (d : BitVec 6) (s : State) : Out :=
  act (sysSyl x Uses.none fun s =>
    let c := s.dev.cur.core
    let r := (tileOut c (s.coreTenant c)).run s
    r.2.startSys d (areaToken r.1) none) s

/-- R335: removes the translations of the page that holds A. -/
def execTlbinvPage (x : Lent) (d a : BitVec 6) (s : State) : Out :=
  act (sysSyl x (Uses.none.r a) fun s => s.startSys d 0 (some (.inv 0 (s.sreg a)))) s

/-- R319: removes every translation of a tenant. -/
def execTlbinvTen (x : Lent) (d a : BitVec 6) (s : State) : Out :=
  act (sysSyl x (Uses.none.r a) fun s => s.startSys d 0 (some (.inv 1 (s.sreg a)))) s

/-- R319: removes every translation. -/
def execTlbinvAll (x : Lent) (d : BitVec 6) (s : State) : Out := act (sysSyl x Uses.none fun s => s.startSys d 0 (some (.inv 2 0))) s

/-! ## Removing translations (R319, R335) -/

/-- What a removal covers: a tenant, or every one, and a span of addresses. -/
structure Cover where
  tenant : Option TenantId
  lo : Nat
  hi : Nat
deriving DecidableEq, Repr

/-- Does a cover concern a tenant? -/
def Cover.of (v : Cover) (t : TenantId) : Bool := v.tenant.all (· == t)

/-- Does a cover take in a TLB entry? -/
def Cover.entry (v : Cover) (e : TlbEntry) : Bool := v.of (tid e.tenant) && decide (v.lo < e.page + e.size) && decide (e.page < v.hi)

/-- Does a cover take in a paged address of a tenant? -/
def Cover.va (v : Cover) (t : TenantId) (a : Nat) : Bool := v.of t && rowOf a == .paged && inSpan v.lo v.hi a

/-- The page that holds an address, as the TLBs have it or as its leaf stands; the block of the largest page when neither is known
(log 50). -/
def State.pageSpan (s : State) (t : TenantId) (a : Nat) : Cover :=
  let es := (s.dev.cores.toList.flatMap (·.utlb) ++ s.dev.ctlb.toList.flatten ++ s.dev.lltlb).filter fun e => e.maps t a
  let es := match s.walk t .walk a with
    | .ok e => e :: es
    | .error _ => es
  let size := if es.isEmpty then 2 ^ 25 else es.foldl (fun n e => max n e.size) 0
  { tenant := some t, lo := a / size * size, hi := a / size * size + size }

/-- The entries of every TLB that a cover takes in are removed. -/
def State.dropTlb (s : State) (v : Cover) : State :=
  let core (k : Core) : Core := { k with utlb := k.utlb.filter fun e => !v.entry e }
  s.upd fun d => { d with
    cores := d.cores.map core
    ctlb := d.ctlb.map fun l => l.filter fun e => !v.entry e
    lltlb := d.lltlb.filter fun e => !v.entry e }

/-- The landed lines of a half that touch [lo, hi) are held invalid (R116). -/
def Half.lose (h : Half) (lo hi : Nat) : Half :=
  let first := (lo - h.addr) / 64
  let last := min 2048 ((hi - h.addr + 63) / 64)
  let m : BitVec 2048 := if first < last then BitVec.ofNat 2048 (2 ^ last - 2 ^ first) else 0
  { h with have_ := h.have_ &&& ~~~m, bad := h.bad ||| (h.have_ &&& m) }

/-- The instruction-memory lines of covered pages are held invalid (R335). -/
def State.dropLines (s : State) (v : Cover) : State :=
  let lose (c : CoreId) : Core :=
    let k : Core := s.core c
    if v.of (s.coreTenant c) then { k with imem := { k.imem with halves := k.imem.halves.map fun h => h.map fun x => x.lose v.lo v.hi } }
    else k
  s.upd fun d => { d with cores := Vector.ofFn lose }

/-- Has a granule of a copy been translated by a covered entry, and not been written (R335)? -/
def EngOp.uses (o : EngOp) (v : Cover) : Bool :=
  o.grains.any fun g => !g.put && (v.va (tid o.tenant) g.dst || g.src.any fun p => p.got.isNone && v.va (tid o.tenant) p.va)

/-- The accesses on their way that were translated by a covered entry; a copy's by the copy's number (R335). -/
def State.translated (s : State) (v : Cover) : List Nat :=
  (s.dev.eng.filter fun o => o.uses v).map (·.id) ++ (s.dev.writes.filter fun w => w.pa.isSome && v.va (tid w.tenant) w.va).map (·.id) ++
    (List.finRange 128).flatMap fun c =>
      (((s.core c).ops.filter fun o => o.parts.any fun p => p.pa.isSome && v.va (s.coreTenant c) p.va)).map (·.id)

/-- Has one of the accesses not performed at device scope? -/
def State.anyPending (s : State) (ids : List Nat) : Bool :=
  (s.dev.eng.any fun o => ids.contains o.id && o.grains.any (!·.put)) ||
    (s.dev.writes.any fun w => (ids.contains w.id || w.op.any ids.contains) && !w.performed 3) ||
    (List.finRange 128).any fun c => (s.core c).ops.any fun o => ids.contains o.id

/-- Removes what a cover takes in. -/
def State.removePages (s : State) (v : Cover) : State := (s.dropTlb v).dropLines v

/-! ## Beginning and ending a system engine operation -/

/-- A system engine operation has done its work: its token, and the accesses it still waits for. -/
def State.sysDone (s : State) (c : CoreId) (token : W64) (waits : List Nat) : State :=
  s.modCore c fun k => { k with sysop := k.sysop.map fun o => { o with todo := none, token := token, waits := waits } }

/-- Restores the context of a core's task (R307, R317). -/
def State.crestWork (s : State) (c : CoreId) : State :=
  let task := (s.core c).task.getD 0
  let r := (restoreContext c (s.coreTenant c) task).run s
  let s := match r.1 with
    | .ok _ => r.2.loadTask c
    | .error _ => r.2
  s.sysDone c (areaToken r.1) []

/-- A `tlbinv` removes what it covers (R319, R335). -/
def State.invWork (s : State) (c : CoreId) (kind : BitVec 2) (a : W64) : State :=
  let t := s.coreTenant c
  if kind = 1 ∧ fieldNat a 0 4 ≠ t.val then s.sysDone c (tokenWord 2 cPerm 0) []
  else
    let v : Cover := match kind.toNat with
      | 0 => s.pageSpan t a.toNat
      | 1 => { tenant := some t, lo := 0, hi := 2 ^ 64 }
      | _ => { tenant := none, lo := 0, hi := 2 ^ 64 }
    let ids := s.translated v
    (s.removePages v).sysDone c (tokenWord 1 0 0) ids

/-- A system engine operation that waits begins when every earlier access of its core has performed at device scope (R317,
R335). -/
def State.sysBegin (s : State) (c : CoreId) : State := match (s.core c).sysop with
  | some o => match o.todo with
    | none => s
    | some w =>
      if !s.accessesDone c o.seq 3 false then s
      else match w with
        | .crest => s.crestWork c
        | .inv kind a => s.invWork c kind a
  | none => s

/-- The token of a core's system engine operation is written, when it may be. -/
def State.sysLand (s : State) (c : CoreId) : State := match (s.core c).sysop with
  | some o =>
    let onWay := (s.core c).flights.any fun f => match f.dest with
      | .pend _ _ id => id == o.op
      | _ => false
    if o.todo.isSome || onWay || s.anyPending o.waits then s
    else s.modCore c fun k => { (if o.reg = 0 then k else k.setS o.reg true o.token) with sysop := none }
  | none => s

/-! ## Tokens land -/

/-- R215: the token of the operation that the cursor names is written: to the register that awaits it, or to the save area. The core
of the cursor tells which core's system engine operation is meant. -/
def execTokenLands (s : State) : Out :=
  act (fun s => match s.engOp s.dev.cur.n with
    | some o =>
      if !s.tokenReady o then s
      else
        let w := o.token.getD 0
        let s := s.dropEng o.id
        match o.owner with
        | .task n _ => s.taskToken o n w
        | .queue t q => s.queueToken o.id t q w
    | none =>
      let c := s.dev.cur.core
      match (s.core c).sysop with
      | some o => if o.op = s.dev.cur.n then (s.sysBegin c).sysLand c else s
      | none => s) s

end Sys2Proof.Machine
end

