-- ==== Sys2Proof/Machine/Tmove.lean ====
section
/-! DEFINITION. `tmove` (R251, R336) and the turns of engine operations. -/

namespace Sys2Proof.Machine

/-- Pages of a `tmove`. -/
def tmPages (b : W64) : Nat := fieldNat b 0 16
/-- Tier code of a `tmove`. -/
def tmTier (b : W64) : Nat := fieldNat b 16 2
/-- Bytes of the near or far tier. -/
def tierBytes (tier : Nat) : Nat := if tier = 0 then Config.nearBytes else Config.farBytes
/-- The place of byte 0 of the near or far tier. -/
def tierAt (tier : Nat) : Nat := if tier = 0 then Config.nearAt else Config.farAt

/-- R251: moves pages between the near and the far tier. -/
def execTmove (x : Lent) (d a b : BitVec 6) (s : State) : Out :=
  act (syl x ((Uses.none.r a).r b) fun s =>
    let va := s.sreg a
    let vb := s.sreg b
    let size := match s.walk (s.coreTenant s.dev.cur.core) .walk va.toNat with
      | .ok e => if rowOf va.toNat = .paged then e.size else 2 ^ 16
      | .error _ => 2 ^ 16
    if tmPages vb = 0 ∨ 2 ≤ tmTier vb ∨ vb.toNat / 2 ^ 18 ≠ 0 then s.trapAt cIllegalOpcode
    else if va.toNat % size ≠ 0 then s.trapAt cDataUnmapped
    else s.issueEng d (s.newEng .tmove va vb)) s

/-- The place of the leaf that maps an address, from level `lv` on at table offset `tb` (R327). -/
def State.leafFrom (s : State) (va : Nat) : Nat → Nat → Nat → Option Nat
  | 0, _, _ => none
  | n + 1, lv, tb =>
    let at_ := tb + 8 * (va / 2 ^ (43 - 9 * lv) % 512)
    let e := w64 (s.peekNat (Config.nearAt + at_) 8)
    if fieldNat e 0 2 = 1 then State.leafFrom s va n (lv + 1) (fieldNat e 12 44 * 4096)
    else if fieldNat e 0 2 = 2 then some (Config.nearAt + at_) else none

/-- The place of the leaf that maps a paged address of a tenant. -/
def State.leafPlace (s : State) (t : TenantId) (va : Nat) : Option Nat :=
  s.leafFrom va 4 0 (fieldNat (s.tenant t).troot 12 44 * 4096)

/-- A page that the supervisor's pool for a tier gives, if it has one: which, and whether, is not stated, so it is free; it lies in a
window of the tenant (log 51). -/
def State.poolPage (s : State) (t : TenantId) (tier size : Nat) : Option Nat × State :=
  let (has, s) := s.drawNat
  let (n, s) := s.drawNat
  let frame := n % (tierBytes tier / size) * size
  (if has % 2 = 1 ∧ s.inWindow t tier 0 frame (frame + size) then some frame else none, s)

/-- The table entries of a leaf's page: 32 for a page of 2 MiB (R326). -/
def TlbEntry.entries (e : TlbEntry) : Nat := if e.size = 2 ^ 21 then 32 else 1

/-- Switches a page to a frame of the other tier at once: its translations are removed, its bytes copied, under their key (R391), and
every entry of its leaf rewritten (R326, R336), as `walkFrom` reads it (log 108). -/
def State.switchPage (s : State) (t : TenantId) (e : TlbEntry) (tier frame : Nat) : State :=
  let s := s.removePages { tenant := some t, lo := e.page, hi := e.page + e.size }
  let pte := setField (setField e.pte 16 40 (frame / 2 ^ 16)) 8 2 tier
  let s := s.pokes (s.placeOf { e with pte := pte } e.page) (s.peeks (s.placeOf e e.page) e.size)
  match s.leafPlace t e.page with
  | some p => forUpto e.entries (fun i s => s.pokes (p + 8 * i) (toLe 8 pte.toNat)) s
  | none => s

/-- The next move of a `tmove`, page by page. For a page to be moved it takes a frame, removes the page's translations and holds its new
walks; it switches the page once every access translated to it has performed, and releases the walks (R251, R336). -/
def State.tmoveTurn (s : State) (o : EngOp) : State :=
  if o.token.isSome || (o.stage == 0 && !s.engStart o) then s
  else
    let t := tid o.tenant
    let va := o.a.toNat + o.pos
    let fails (s : State) (code : Nat) : State := (s.engLog o code va).setEng { o.finish 2 code o.count with list := [] }
    if rowOf va ≠ .paged then fails s cDataUnmapped
    else match s.walk t .write va with
      | .error f => fails s f.1
      | .ok e =>
        let tier := tmTier o.b
        let next (s : State) (n : Nat) : State :=
          let o := { o with pos := o.pos + e.size, stage := o.stage + 1, count := o.count + n, list := [] }
          s.setEng (if o.stage < tmPages o.b then o else o.done)
        let v : Cover := { tenant := some t, lo := e.page, hi := e.page + e.size }
        if 2 ≤ e.tier || !s.leafOk t e .write then fails s cPerm
        else if e.tier = tier then next s 0
        else match o.list with
          | [lo, hi, frame] =>
            if lo ≠ e.page ∨ hi ≠ e.page + e.size then s.setEng { o with list := [] }
            else if !(s.translated v).isEmpty then s
            else next (s.switchPage t e tier frame) e.size
          | _ => match s.poolPage t tier e.size with
            | (none, s) => fails s cFreelistEmpty
            | (some frame, s) => (s.removePages v).setEng { o with list := [e.page, e.page + e.size, frame] }

/-- An engine operation makes its next move. -/
def State.engineTurn (s : State) (id : Nat) : State := match s.engOp id with
  | none => s
  | some o => match o.kind with
    | .copy | .copyc | .ccopy | .ccopyC => s.copyTurn o
    | .kld => s.kldTurn o
    | .kst | .kapp | .kalloc | .kfree | .kcommit | .kdedup | .kfork | .kwin | .kpin => s.kvTurn o
    | .logit => s.logitTurn o
    | .tmove => s.tmoveTurn o
    | .mbox => s.mboxTurn o
    | .verify => s

end Sys2Proof.Machine
end

