-- ==== Sys2Proof/Machine/Dispatcher.lean ====
section
/-! DEFINITION. The dispatchers (R25, R26, R295, R320, R366 to R378) and the watchdog (R365). -/

namespace Sys2Proof.Machine

/-! ## The order of ready cohorts (R367, R368) -/

/-- Tasks of a cohort that have not ended. -/
def State.aliveTasks (s : State) (c : Nat) : List Task := (s.cohortTasks c).filter (·.alive)

/-- The slack of a cohort at `now`, in 64-bit signed arithmetic (R368). -/
def State.slack (s : State) (l : Launch) (c : Cohort) (now : Nat) : Int :=
  let exact : Int := if l.sv then
      let r := s.strm l.stream
      (r.deadline c.frame : Int) - now - ((s.aliveTasks c.id).length * r.get (9 + 2 * l.rung) 0 32 : Nat)
    else (l.due : Int) - now
  (BitVec.ofInt 64 exact).toInt

/-- A cohort with its launch and its slack bucket. -/
structure Ranked where
  launch : Launch
  cohort : Cohort
  slack : Int
deriving DecidableEq, Repr

/-- ⌊slack / 2^20⌋. -/
def Ranked.bucket (r : Ranked) : Int := r.slack / 2 ^ 20

/-- Was launch a accepted before launch b (R367 key 4)? Launches accepted at one DTIME count as accepted in the same clock (DESIGN CHOICE,
log 38). -/
def Launch.first (a b : Launch) : Bool :=
  if a.arrival ≠ b.arrival then decide (a.arrival < b.arrival)
  else if a.queue ≠ b.queue then decide (a.queue < b.queue)
  else decide (a.id < b.id)

/-- Does `a` come before `b` in the order of R367? -/
def Ranked.before (a b : Ranked) : Bool :=
  if a.bucket ≠ b.bucket then decide (a.bucket < b.bucket)
  else if a.launch.prio ≠ b.launch.prio then decide (a.launch.prio < b.launch.prio)
  else if a.launch.id ≠ b.launch.id then a.launch.first b.launch
  else decide (a.cohort.order < b.cohort.order)

/-- The cohorts of a tenant in a state. -/
def State.ranked (s : State) (t : TenantId) (st : CohortState) : List Ranked :=
  s.dev.cohorts.filterMap fun c =>
    if c.state ≠ st then none
    else match s.launchById c.launch with
      | some l => if l.tenant = t then some { launch := l, cohort := c, slack := s.slack l c s.dev.board.dtime } else none
      | none => none

/-- The head of the ready list. -/
def State.readyHead (s : State) (t : TenantId) : Option Ranked :=
  (s.ranked t .ready).foldl (fun r x => match r with
    | none => some x
    | some y => if x.before y then some x else some y) none

/-! ## Placement (R26) -/

/-- Is a core promised to a task of a resident cohort that has not started or resumed there? -/
def State.reserved (s : State) (c : CoreId) : Bool :=
  s.dev.tasks.any fun t => t.place == some c && (t.where_ == .fresh || t.where_ == .saved) &&
    (match s.cohortById t.cohort with | some h => h.state == .resident | none => false) && (s.coreOf t.id).isNone

/-- The free cores of a tenant. -/
def State.freeCores (s : State) (t : TenantId) : List CoreId :=
  (List.finRange 128).filter fun c => s.owner (clusterOf c) == some t && (s.core c).run == .free && !s.reserved c

/-- Core j of cluster cl. -/
def coreAt (cl j : Nat) : CoreId := ⟨(8 * cl + j % 8) % 128, Nat.mod_lt _ (by decide)⟩

/-- Clusters all of whose cores are listed. -/
def wholeClusters (free : List CoreId) : List Nat :=
  (List.range 16).filter fun cl => (List.range 8).all fun j => free.contains (coreAt cl j)

/-- Pairs both of whose clusters are whole. -/
def wholePairs (free : List CoreId) : List Nat :=
  (List.range 8).filter fun p => (wholeClusters free).contains (2 * p) && (wholeClusters free).contains (2 * p + 1)

/-- Do the listed cores allow a placement of a cohort of which `alive` tasks have not ended? -/
def Launch.fits (l : Launch) (alive : Nat) (free : List CoreId) : Bool := match l.placeCode with
  | 1 => decide ((l.size + 7) / 8 ≤ (wholeClusters free).length)
  | 2 => decide ((l.size + 15) / 16 ≤ (wholePairs free).length)
  | _ => decide (alive ≤ free.length)

/-- Keeps `m` of a list: which ones is the dispatcher's choice, so free (log 52). -/
def State.keepSome {α : Type} (m : Nat) : Nat → List α → State → List α × State
  | 0, l, s => (l, s)
  | n + 1, l, s =>
    if l.length ≤ m then (l, s)
    else
      let (k, s) := s.drawNat
      State.keepSome m n (l.eraseIdx (k % l.length)) s

/-- The core of rank k, for PLACE 1 and 2. -/
def blockCore (code : Nat) (blocks : List Nat) (k : Nat) : Option CoreId :=
  if code = 1 then (blocks[k / 8]?).map fun cl => coreAt cl k
  else (blocks[k / 16]?).map fun p => coreAt (2 * p + k / 8 % 2) k

/-- Gives each task that has not ended one of the listed cores, chosen freely. -/
def State.scatter : List Task → List CoreId → State → State
  | [], _, s => s
  | t :: ts, free, s =>
    let (n, s) := s.drawNat
    let i := n % max 1 free.length
    State.scatter ts (free.eraseIdx i) (s.modTask t.id fun t => { t with place := free[i]? })

/-- Places the tasks of a cohort. -/
def State.placeTasks (s : State) (l : Launch) (c : Nat) (free : List CoreId) : State :=
  let all := s.cohortTasks c
  if l.placeCode = 0 then
    let s := all.foldl (fun s t => s.modTask t.id fun t => { t with place := none }) s
    State.scatter (all.filter (·.alive)) free s
  else
    let blocks := if l.placeCode = 1 then wholeClusters free else wholePairs free
    let need := if l.placeCode = 1 then (l.size + 7) / 8 else (l.size + 15) / 16
    let (used, s) := s.keepSome need blocks.length blocks
    all.foldl (fun s t => s.modTask t.id fun t => { t with place := blockCore l.placeCode used t.rank }) s

/-- Context areas that no task holds or is about to get (R295). -/
def State.freeAreas (s : State) (t : TenantId) : Nat :=
  let owed := (s.dev.tasks.filter fun x => x.where_ == .fresh && x.ctxid == 0 && (match s.cohortById x.cohort with
    | some h => h.state == .resident && (match s.launchById h.launch with | some l => l.tenant == t | none => false)
    | none => false)).length
  (s.tenant t).svNctx - (s.tenant t).areas.length - owed

/-- Makes a cohort resident (R26, R370); the first time, a stream cohort is admitted (R374). -/
def State.makeResident (s : State) (r : Ranked) (free : List CoreId) : State :=
  let s := s.placeTasks r.launch r.cohort.id free
  let s := if r.launch.sv && !r.cohort.admitted then s.modStream r.launch.stream fun x => x.admission r.slack else s
  s.modCohort r.cohort.id fun c => { c with state := .resident, admitted := true, asked := false }

/-! ## Pre-emption by the dispatchers (R377, R378) -/

/-- A cohort is to be pre-empted. -/
def State.preemptCohort (s : State) (c : Nat) : State := s.modCohort c fun c => { c with state := .preempting, asked := false }

/-- The cores that a resident cohort's tasks hold or are promised. -/
def State.cohortCores (s : State) (c : Nat) : List CoreId :=
  (s.cohortTasks c).filterMap fun t => match s.coreOf t.id with
    | some k => some k
    | none => if t.alive then t.place else none

/-- Inserts a victim: descending slack bucket, then latest launch order (R377). -/
def insertVictim (x : Ranked) : List Ranked → List Ranked
  | [] => [x]
  | y :: ys =>
    let first := if x.bucket ≠ y.bucket then decide (y.bucket < x.bucket)
      else if x.launch.id ≠ y.launch.id then y.launch.first x.launch
      else decide (y.cohort.order < x.cohort.order)
    if first then x :: y :: ys else y :: insertVictim x ys

/-- The victims to pre-empt so that a cohort fits, or none. -/
def State.victims (s : State) (l : Launch) (alive : Nat) : List Ranked → List CoreId → List Nat → Option (List Nat)
  | [], _, _ => none
  | v :: vs, free, chosen =>
    let free := free ++ (s.cohortCores v.cohort.id).filter fun c => !free.contains c
    let chosen := v.cohort.id :: chosen
    if l.fits alive free then some chosen else s.victims l alive vs free chosen

/-- Deadline pre-emption for the head of the ready list (R377). -/
def State.deadlinePreempt (s : State) (t : TenantId) (r : Ranked) (free : List CoreId) : State :=
  let alive := (s.aliveTasks r.cohort.id).length
  if bitAt (s.tenant t).dsctl 24 && r.launch.sv && decide (r.slack < 0) && !r.launch.fits alive free then
    let vs := ((s.ranked t .resident).filter fun x => !x.launch.sv).foldl (fun l x => insertVictim x l) []
    match s.victims r.launch alive vs free [] with
    | some ids => ids.foldl (fun s c => s.preemptCohort c) s
    | none => s
  else s

/-- Places the head of the ready list, then the next, until one does not fit (R370). -/
def State.dispatch (t : TenantId) : Nat → State → State
  | 0, s => s
  | n + 1, s => match s.readyHead t with
    | none => s
    | some r =>
      let free := s.freeCores t
      let alive := s.aliveTasks r.cohort.id
      let fresh := (alive.filter fun x => x.ctxid == 0).length
      if r.launch.fits alive.length free && decide (fresh ≤ s.freeAreas t) then
        State.dispatch t n (s.makeResident r free)
      else s.deadlinePreempt t r free

/-- Is a cohort of a queue being pre-empted? -/
def State.queuePreempting (s : State) (t : TenantId) (q : QueueId) : Bool :=
  s.dev.cohorts.any fun c => c.state == .preempting && (match s.launchById c.launch with
    | some l => l.tenant == t && l.queue == q
    | none => false)

/-- The pre-emption of a cohort completes once no task of it that has not ended is on a core: the cohort is ready again (R27, R366, R378). -/
def State.preemptDone (s : State) (n : Nat) : State := match s.cohortById n with
  | some c =>
    if c.state ≠ .preempting ∨ (s.aliveTasks c.id).any (fun t => (s.coreOf t.id).isSome) then s
    else
      let st : CohortState := if (s.aliveTasks c.id).isEmpty then .done else .ready
      let s := s.modCohort c.id fun c => { c with state := st }
      match s.launchById c.launch with
      | some l =>
        let s := s.wantDecision l.tenant
        if s.queuePreempting l.tenant l.queue then s else s.modCq l.tenant l.queue fun x => { x with preAt := none }
      | none => s
  | none => s

/-- Every pre-emption that has come to its end completes. -/
def State.preemptsDone (s : State) : State := s.dev.cohorts.foldl (fun s c => s.preemptDone c.id) s

/-- The dispatchers of a tenant decide (R366, R370). No cohort becomes resident while Hazel recovers (R345) or a checkpoint runs
(R399). -/
def State.decideFor (s : State) (t : TenantId) : State :=
  let now := s.dev.board.dtime
  let s := s.preemptsDone.modTenant t fun x => { x with lastDec := now, due := false }
  if s.dev.board.recovery || s.dev.board.ckptJob.isSome then s else State.dispatch t s.dev.cohorts.length s

/-- R366, R370: the dispatchers of the tenant that the cursor names decide. -/
def execDispatchDecision (s : State) : Out := act (fun s => s.decideFor s.dev.cur.t) s

/-- The decisions that may wait no longer, as the clock stands: of a tenant for which something has happened, the end of a pre-emption
among it, and of one whose last decision lies 2^20 ns back (R366). -/
def State.decisions (s : State) : State :=
  forUpto 16 (fun i s =>
    let t : TenantId := ⟨i % 16, Nat.mod_lt _ (by decide)⟩
    let x := s.tenant t
    if x.due || decide (x.lastDec + 2 ^ 20 ≤ s.dev.board.dtime) then s.decideFor t else s) s.preemptsDone

/-- How long it is to the next decision that the interval of R366 asks for. -/
def State.untilDecision (s : State) : Nat :=
  (List.finRange 16).foldl (fun n t => min n ((s.tenant t).lastDec + 2 ^ 20 - s.dev.board.dtime)) (2 ^ 20)

/-- A core is asked to stop its context (R301). -/
def Core.askStop (k : Core) : Core :=
  { k with preempt := true, sv := { k.sv with pdef := k.priv || k.mat.posted.isSome } }

/-- R301, R378: every core that holds a task of the cohort named by the cursor is asked at once to stop. -/
def execPreemptionRequest (s : State) : Out :=
  act (fun s => match s.cohortById s.dev.cur.n with
    | some c =>
      if c.state ≠ .preempting ∨ c.asked then s
      else
        let s := (s.aliveTasks c.id).foldl (fun s t => match s.coreOf t.id with
          | some k => s.modCore k Core.askStop
          | none => s) s
        s.modCohort c.id fun c => { c with asked := true }
    | none => s) s

/-- R378: every core of the cohort named by the cursor has stopped or ended: the cohort is ready again. -/
def execPreemptionCompletes (s : State) : Out := act (fun s => s.preemptDone s.dev.cur.n) s

/-! ## Starting and resuming a task (R25, R295, R320) -/

/-- The lowest context area of a tenant that is free (R295). -/
def State.lowestArea (s : State) (t : TenantId) : Nat :=
  ((List.range 4097).find? fun k => !(s.tenant t).areas.contains k).getD 0

/-- First byte of context area k (R295). -/
def State.areaBase (s : State) (t : TenantId) (k : Nat) : Nat := (s.tenant t).svBase.toNat + k * 0x200000

/-- The registers that the dispatcher writes for the context of area k, each in its field (R293, R295). -/
def Core.placeArea (c : Core) (entry : W64) (base k : Nat) : Core :=
  { c with sv := { c.sv with
      stvec := sprMask 0x41 entry, ssave := sprMask 0x46 (w64 (base + 0x1D0000)), stsave := sprMask 0x47 (w64 (base + 0x100000)),
      slsave := sprMask 0x48 (w64 base), ctxid := w64 (k + 1) } }

/-- Is a micro-step well formed (R206)? -/
def microStepOk (w : W64) : Bool :=
  match decodeSyllable (bits w 0 32) 0 with
  | .error _ => false
  | .ok i =>
    fieldNat w 27 4 == 9 && (match i with
        | .mmap .. | .mcall .. | .mpload .. | .trowmv _ _ _ _ (.y _) => false
        | _ => true) &&
      (stepScalars i).all (fun r => decide (r.toNat < 7)) && fieldNat w 35 1 == 0 && fieldNat w 36 3 != 7 && fieldNat w 49 15 == 0

/-- Is the routine that begins at a step well formed up to its END, within the store (R205)? -/
def routineOk (bs : Array Byte) : Nat → Nat → Bool
  | 0, _ => false
  | n + 1, i =>
    if 1024 ≤ i then false
    else
      let w := w64 (pick bs (8 * i) 8)
      microStepOk w && (bitAt w 31 || routineOk bs n (i + 1))

/-- Is a microprogram section one that the store accepts: well-formed steps, and routines that reach their END (R205)? A word of zeros is no
step: the place is unused (log 16, also for the layout). -/
def sectionOk (bs : List Byte) : Bool :=
  let b := bs.toArray
  (List.range 1024).all (fun i => pick b (8 * i) 8 == 0 || microStepOk (w64 (pick b (8 * i) 8))) && (List.range 64).all fun i =>
    let e := pick b (2 ^ 13 + 8 * i) 8
    e / 2 ^ 63 % 2 == 0 || routineOk b 1024 (e % 1024)

/-- The microprogram store is loaded with the routines of an image, unless it holds them; a section that the store does not accept
leaves it empty (R205, R360; log 16). -/
def State.loadMicro (s : State) (c : CoreId) (t : TenantId) (l : Launch) : State :=
  let key := (BitVec.ofNat 4 t.val, l.image)
  if (s.core c).microImg = some key then s
  else
    let va := match (s.tenant t).images.find? fun i => i.id == l.image with
      | some i => i.micro.toNat
      | none => 0
    let bs := if va = 0 then zeros 8704 else match s.devRead t va 8704 with
      | .ok bs => if sectionOk bs then bs else zeros 8704
      | .error _ => zeros 8704
    (s.pokes (microAddr c 0) bs).modCore c fun k => { k with microImg := some key }

/-- The tile file that a task finds (R12, R320): TOWN stays as it is, and a file that no context owns, or that TOWN says is the task's
because an ended context had its CTXID, is at the values of task start. On other cores of the tenant TOWN names that context no more
(DESIGN CHOICE, log 68). -/
def State.freshTiles (s : State) (c : CoreId) (t : TenantId) (ctxid : Nat) : State :=
  let w := (s.core c).sv.town
  let s := (s.dropTiles t ctxid).modCore c fun k => { k with sv := { k.sv with town := w } }
  if !bitAt w 32 || fieldNat w 0 32 == ctxid then (s.clearLatches c).modCore c Core.emptyTiles else s

/-- A core begins a task at its entry bundle, with the context of R12. -/
def Core.beginTask (k : Core) (l : Launch) (t : Task) : Core :=
  let k := k.staleAll
  { k with
    ctx := { Reset.ctx with pc := nth l.entries t.rank 0, wid := t.wid, tenant := BitVec.ofNat 4 l.tenant.val, occ := l.occ,
                            draft := l.draft }
    sv := { k.sv with lsmask := 0xFFFF, priv := false, pdef := false, snext := 0 }
    flights := [], snap := [], held := .replicate 2 none, heldSnap := .replicate 2 none, ops := [], wents := [], defer := []
    mat := { k.mat with posted := none, pairEnd := none, rptLeft := none, mfeed := 0 }
    imem := { k.imem with lastHalf := none, waiting := none }
    clk := { k.clk with gap := 0 }
    bun := Reset.bundle, waiting := Reset.waiting, run := .running, task := some t.id, preempt := false }

/-- The cohort and launch of a task that may run on its core: the cohort is resident and the core free. -/
def State.mayRun (s : State) (t : Task) : Option (Launch × CoreId) :=
  match s.cohortById t.cohort, s.launchOf t.id, t.place with
  | some c, some l, some k => if c.state == .resident && (s.core k).run == .free then some (l, k) else none
  | _, _, _ => none

/-- R12, R25, R295: the task that the cursor names starts on its core. -/
def execTaskStart (s : State) : Out :=
  act (fun s => match s.taskById s.dev.cur.n with
    | some t => match t.where_, s.mayRun t with
      | .fresh, some (l, c) =>
        let a := s.lowestArea l.tenant
        let base := s.areaBase l.tenant a
        let s := (s.freshTiles c l.tenant (a + 1)).modTenant l.tenant fun x => { x with areas := a :: x.areas }
        let entry := (s.tenant l.tenant).svEntry
        let s := match s.devWrite l.tenant (base + 0x100000 + 0xC8040) (zeros 8) with
          | .ok s => s
          | .error _ => s
        let s := s.loadMicro c l.tenant l
        let s := s.modCore c fun k => (k.placeArea entry base a).beginTask l t
        s.modTask t.id fun t => { t with where_ := .on c, ctxid := a + 1, area := some (base + 0x1D0000), pairs := 0 }
      | _, _ => s
    | none => s) s

/-- A core enters the supervisor to resume a context (R320): no context is loaded; SEPC, SFADDR and SFINFO are not stated, so free
(log 53). -/
def Core.beginResume (k : Core) (t : TenantId) (id : Nat) (epc fa fi : W64) : Core :=
  let k := { k with flights := [], snap := [], held := .replicate 2 none, ops := [], wents := [], preempt := false }
  let k := k.enterSupervisor { chk := 0, epc := epc, scause := 0x300, sfaddr := fa, sfinfo := fi }
  { k with
    sv := { k.sv with snext := k.sv.ssave ||| 0x8000000000000000 }
    ctx := { k.ctx with toks := [], loops := [], lates := [], lateOvf := false, streams := .replicate 8 Reset.stream,
                        tenant := BitVec.ofNat 4 t.val }
    imem := { k.imem with lastHalf := none, waiting := none }
    bun := Reset.bundle, waiting := Reset.waiting, task := some id }

/-- R320: the core of the saved task that the cursor names enters the supervisor with KIND 11. -/
def execResumeRequest (s : State) : Out :=
  act (fun s => match s.taskById s.dev.cur.n with
    | some t => match t.where_, s.mayRun t with
      | .saved, some (l, c) =>
        let base := s.areaBase l.tenant (t.ctxid - 1)
        let entry := (s.tenant l.tenant).svEntry
        let s := s.loadMicro c l.tenant l
        let (a, s) := s.drawWord
        let (b, s) := s.drawWord
        let (d, s) := s.drawWord
        s.modCore c fun k => (k.placeArea entry base (t.ctxid - 1)).beginResume l.tenant t.id a b d
      | _, _ => s
    | none => s) s

/-! ## The watchdog (R365) -/

/-- The launches of a queue. -/
def State.queueLaunches (s : State) (t : TenantId) (q : QueueId) : List Launch :=
  s.dev.launches.filter fun l => l.tenant == t && l.queue == q

/-- Is a queue watched: it has an accepted launch with tasks that have not ended? -/
def State.watched (s : State) (t : TenantId) (q : QueueId) : Bool := (s.queueLaunches t q).any fun l => s.launchAlive l.id

/-- Kills tasks and faults the queue with WATCHDOG. -/
def State.watchKill (s : State) (t : TenantId) (q : QueueId) (ids : List Nat) : State :=
  let s := ids.foldl (fun s id => s.killTask id) s
  (s.modCq t q fun c => { c with preAt := none }).queueFault t q cWatchdog 0

/-- R365: no progress for WD1: the resident tasks of the queue are pre-empted, or, if the watchdog had pre-empted some, its tasks killed. With
none to pre-empt, the window starts again (log 111). -/
def execWatchdogWd1 (s : State) : Out :=
  act (fun s =>
    let t := s.dev.cur.t
    let q := s.dev.cur.q
    let c := s.cq t q
    let now := s.dev.board.dtime
    if s.dev.board.recovery || c.wd1 == 0 || !s.watched t q || decide (now < c.since + c.wd1.toNat * 1000) then s
    else if c.wdPre then
      s.watchKill t q (((s.queueLaunches t q).flatMap fun l => s.launchTasks l.id).filter (·.alive) |>.map (·.id))
    else
      let held := ((s.queueLaunches t q).flatMap fun l => s.launchCohorts l.id).filter fun c =>
        c.state == .resident || c.state == .preempting
      if held.isEmpty then s.modCq t q fun c => { c with since := now }
      else
        let s := s.modCq t q fun c => { c with wdPre := true, since := now, preAt := some now }
        (held.filter fun c => c.state == .resident).foldl (fun s c => s.preemptCohort c.id) s) s

/-- R365: the watchdog's pre-emption has not completed within WD2, and the watchdog is not disabled: the tasks still resident are killed. -/
def execWatchdogWd2 (s : State) : Out :=
  act (fun s =>
    let t := s.dev.cur.t
    let q := s.dev.cur.q
    let c := s.cq t q
    let now := s.dev.board.dtime
    match c.preAt with
    | none => s
    | some at_ =>
      if s.dev.board.recovery || c.wd1 == 0 || decide (now < at_ + c.wd2.toNat * 1000) then s
      else if !s.queuePreempting t q then s.modCq t q fun c => { c with preAt := none }
      else
        let ids := ((s.queueLaunches t q).flatMap fun l => s.launchCohorts l.id).filter (fun c => c.state == .preempting)
          |>.flatMap fun c => (s.aliveTasks c.id).filter (fun t => (s.coreOf t.id).isSome) |>.map (·.id)
        s.watchKill t q ids) s

end Sys2Proof.Machine
end

