-- ==== Sys2Proof/Machine/CoreEvents.lean ====
section
/-! DEFINITION. What reaches a core from outside its schedule: landings, load data, timeouts, late errors, walks and writes (R17, R63,
R80, R300, R327), and the completion of a stop (R299, R302, R303). The cursor names the core and, by its number, the operation. -/

namespace Sys2Proof.Machine

/-! ## Results and responses -/

/-- R17: the results due on the core that acts are written, in a clock in which no bundle issues and no stop can fall; those of any
other clock are written by the core's move of that clock. -/
def execResultLands (s : State) : Out :=
  act (fun s =>
    let k := s.me
    if k.run = .running ∧ k.clk.gap ≠ 0 ∧ !k.lateLoad then s.modMe Core.landDue else s) s

/-- Does an access touch a vault? -/
def MemOp.onVault (o : MemOp) : Bool := o.parts.any fun p => rowOf p.va == .vault

/-- Lets go on what a write or read that performed allows: fences, releases and tokens of every core (R81, R83, R91). -/
def State.wake (s : State) : State :=
  (List.finRange 128).foldl (fun s c =>
    let k := s.core c
    let s := if (k.ops.any fun o => !o.isAccess || o.rel) || (s.dev.writes.any fun w => w.hold.isSome && w.core == c) then s.settle c
      else s
    if k.defer.isEmpty then s else s.runDefers c) s

/-- One part of a load that may be read now is read: a free number says which (R78, R86, log 8). -/
def State.readSome (s : State) (c : CoreId) (o : MemOp) : State :=
  let ready := o.parts.filter (s.partReady c o)
  let (n, s) := s.drawNat
  match ready[n % ready.length]? with
  | some p => (s.readNow c o fun q => q.va == p.va && q.unit == p.unit).endLoad c o.id
  | none => s

/-- R63: data of an outstanding operation of the core that acts arrives: an atomic's one event, or a granule of a load; with its last
granule the load has its data. Whether the read met a single-bit error, corrected and logged, is free (R394, log 54). -/
def execLoadDataArrives (s : State) : Out :=
  act (fun s =>
    let c := s.dev.cur.core
    match (s.core c).op s.dev.cur.n with
    | some o =>
      if !s.opReady c o then s
      else
        let s := if o.onVault then
            let (f, s) := s.drawByte
            if f = 1 then s.logEcc (s.coreTenant c) 0 clsCore c.val o.firstVa else s
          else s
        (if o.isAtomic then s.finishOp c o else s.readSome c o).wake
    | none => s) s

/-- An outstanding operation of core c ends with an error, and what waited for it goes on (R300). -/
def State.failOp (s : State) (c : CoreId) (o : MemOp) (code : Nat) (timeout : Bool) : State := (s.dropOp c o code timeout).wake

/-- A write of a core ends with an error (R300). -/
def State.failWrite (s : State) (w : PendingWrite) (code : Nat) (timeout : Bool) : State :=
  let s := (s.dropWrite w.id).modCore w.core fun k => k.arrive w.id
  (s.lateError w.core w.own code w.va 0 timeout).wake

/-- A write of a core, by its number. -/
def State.coreWrite (s : State) (c : CoreId) (id : Nat) : Option PendingWrite :=
  s.dev.writes.find? fun w => w.id == id && w.core == c && w.op.isNone

/-- Has an operation, which has left its core, had no response for 20 µs (R63)? -/
def State.opLate (s : State) (o : MemOp) : Bool := o.isAccess && !o.rel && decide (o.since + 20000 ≤ s.dev.board.dtime)

/-- Has a write, which has left its core, not performed for 20 µs (R413)? -/
def State.writeLate (s : State) (w : PendingWrite) : Bool :=
  w.op.isNone && decide (1 ≤ w.lvl) && decide (w.since + 20000 ≤ s.dev.board.dtime)

/-- R63, R299: an access that has had no response for 20 µs ends as a late error with TIMEOUT. -/
def execResponseTimeout (s : State) : Out :=
  act (fun s =>
    let c := s.dev.cur.core
    match (s.core c).op s.dev.cur.n with
    | some o => if s.opLate o then s.failOp c o cDataUnmapped true else s
    | none => match s.coreWrite c s.dev.cur.n with
      | some w => if s.writeLate w then s.failWrite w cDataUnmapped true else s
      | none => s) s

/-- Every access that is late ends: the device promises it within 20 µs (R63, R413). -/
def State.expire (s : State) : State :=
  let s := (List.finRange 128).foldl (fun s c =>
    ((s.core c).ops.filter s.opLate).foldl (fun s o => s.failOp c o cDataUnmapped true) s) s
  (s.dev.writes.filter s.writeLate).foldl (fun s w => s.failWrite w cDataUnmapped true) s

/-- The requester class of an engine operation's log entries (R389). -/
def EngOp.logClass (o : EngOp) : Nat := if o.sampled then clsSampler else clsCopy

/-- A soft error (R394): one bit is corrected, and logged with code 0; two bits make the read fail: the requester receives DATA_UNMAPPED, and
the entry carries it. A matrix command whose read fails goes no further (log 54). -/
def State.softError (s : State) : SoftError → State
  | .corrected t cls core va => s.logEcc t 0 cls.val core.val va.toNat
  | .load c => s.modCore c fun k => { k with ecc := true }
  | .write c id => match s.coreWrite c id with
    | some w => (s.logEcc (s.coreTenant c) cDataUnmapped clsCore c.val w.va).failWrite w cDataUnmapped false
    | none => s
  | .matrix c => match (s.core c).mat.running with
    | _ :: rs =>
      ((s.modCore c fun k => k.modMat fun m => { m with running := rs }).logEcc (s.coreTenant c) cDataUnmapped clsCore c.val 0).lateError c
        { sv := false, task := (s.core c).task } cDataUnmapped 0 0 false
    | [] => s
  | .engine id => match s.engOp id with
    | some o =>
      if o.token.isSome then s
      else
        let s := s.logEcc (tid o.tenant) cDataUnmapped o.logClass (((s.engCore o).map (·.val)).getD 0x7F) 0
        if o.isCopy then s.setEng { o with fail := some (cDataUnmapped, 0) } else s.setEng { (o.finish 2 cDataUnmapped 0) with list := [] }
    | none => s
  | .command t q =>
    let c := s.cq t q
    if c.en && c.state == 1 then (s.logEcc t cDataUnmapped clsWorker 0x7F 0).queueFault t q cDataUnmapped 0 else s

/-- Does an access go to host or peer memory? -/
def MemOp.external (o : MemOp) : Bool := o.parts.any fun p => match p.pa with
  | some a => decide (19 ≤ targetOf a)
  | none => false

/-- R300: an error response arrives for an access of the core that acts: host or peer memory refuses it (R145), or a vault read meets a
double-bit error, which is logged (R394). -/
def execLateErrorResponse (s : State) : Out :=
  act (fun s =>
    let c := s.dev.cur.core
    match (s.core c).op s.dev.cur.n with
    | some o =>
      if !o.isAccess || o.rel then s
      else if o.external then s.failOp c o cDataUnmapped false
      else if o.onVault then
        (s.logEcc (s.coreTenant c) cDataUnmapped clsCore c.val o.firstVa).failOp c o cDataUnmapped false
      else s
    | none => match s.coreWrite c s.dev.cur.n with
      | some w => if w.lvl = 2 ∧ w.external then s.failWrite w cDataUnmapped false else s
      | none => s) s

/-- R327, R331: the walk that the cursor names completes; 64 walks run at a time. A page that is being switched holds it (R336). -/
def execPageWalk (s : State) : Out :=
  act (fun s => match (s.dev.walks.take 64).find? fun w => w.id == s.dev.cur.n with
    | some w => if w.turn.isSome || s.heldPage (tid w.tenant) (w.page * 2 ^ 16) then s else (s.finishWalk w).wake
    | none => s) s

/-- R80, R413: the write that the cursor names reaches its next point. -/
def execWritePerforms (s : State) : Out :=
  act (fun s => match s.dev.writes.find? fun w => w.id == s.dev.cur.n with
    | some w => if s.writeReady w then (s.advanceWrite w).wake else s
    | none => s) s

/-! ## A stop completes (R299) -/

/-- Have the parts of R299 that other parties decide completed: every access of earlier bundles has its response, fences and drains among
them (R21, R81), every write has performed or been dropped, also those to hosts and peers, so that no error of one arrives later (R291),
and every landed entry of a write stream has drained? -/
def State.stopReady (s : State) (c : CoreId) : Bool :=
  (s.core c).ops.isEmpty && !((s.core c).wents.any fun e => e.val.isSome) &&
    !(s.dev.writes.any fun w => w.core == c && w.op.isNone)

/-- The logits of a context that still lie in its tiles are read before the tiles can change hands (R248). -/
def State.readLogits (s : State) (c : CoreId) : State :=
  (s.dev.eng.filter fun o => o.kind == .logit && o.stage == 0 && o.token.isNone && (match o.owner with
    | .task n d => (s.core c).task == some n && d == c
    | .queue .. => false)).foldl (fun s o => s.logitRead o) s

/-- A snapshot entry (R303): a result that reaches only a latch is not valid. -/
def Flight.entry (f : Flight) : Flight := { f with valid := f.dest != .none, latch := none, wait := none }

/-- The results in flight that count become the snapshot, in issue order; the other effects on their way take place. -/
def Core.takeSnapshot (k : Core) : Core :=
  let k := (k.flights.filter fun f => !f.counts).foldl (fun k f => k.landDest f) { k with flights := k.flights.filter (·.counts) }
  { k with snap := k.flights.map Flight.entry, flights := [] }

/-- R299: the stop of the core that acts completes: its matrix queue runs out, its fault record is written, and the supervisor's first
bundle is next. -/
def execSupervisorEntry (s : State) : Out :=
  act (fun s =>
    let c := s.dev.cur.core
    match s.me.run with
    | .stopping r =>
      if !s.stopReady c then s
      else
        let s := ((s.matFlush c).readLogits c).runDefers c
        s.modMe fun k =>
          let k := { k with mat := { k.mat with posted := none, pairEnd := none } }
          k.takeSnapshot.enterSupervisor r
    | _ => s) s

end Sys2Proof.Machine
end

