-- ==== Sys2Proof/Machine/Command.lean ====
section
/-! DEFINITION. The command instruction set (R343 to R364): fetching a command, the 23 commands, resource records (R355 to R358, R373),
and the taking, resuming and abandoning of submissions. -/

namespace Sys2Proof.Machine

/-! ## One command -/

/-- What a command does: it waits; it faults with a code, an address, and whether the access was one that the tenant was not given
(R387); it completes and the next command follows; or it completes and the queue transfers to an address. -/
inductive CmdRes where
  | hold
  | fault (code addr : Nat) (refused : Bool)
  | next (s : State)
  | go (s : State) (pc : W64)

/-- A fault of the command's own access to memory. -/
def memFault (f : Nat × Nat) : CmdRes := .fault f.1 f.2 (f.1 == cMemwin)

/-- Does a register await a copy's token (R361)? -/
def CmdQueue.pending (c : CmdQueue) (r : BitVec 4) : Bool := c.awaits.any fun a => a.1 == r

/-- Register r of a queue. -/
def CmdQueue.reg (c : CmdQueue) (r : BitVec 4) : W64 := c.c.get r.toFin

/-- Writes a command register: a token that it awaits is discarded (R361). -/
def CmdQueue.setReg (c : CmdQueue) (r : BitVec 4) (w : W64) : CmdQueue :=
  { c with c := c.c.set r.toNat w r.isLt, awaits := c.awaits.filter fun a => a.1 != r }

/-- A command register that the acting queue writes. -/
def State.setC (s : State) (r : BitVec 4) (w : W64) : State := s.modMyCq fun c => c.setReg r w

/-- May the acting queue run a command: enabled and RUNNING, with no recovery (R345), and no register that it reads pending (R361)? -/
def State.cmdReady (s : State) (reads : List (BitVec 4)) : Bool :=
  s.myCq.en && s.myCq.state == 1 && !s.dev.board.recovery && !reads.any s.myCq.pending

/-- A command faults (R351): no effect but the fault; a refused access has its own entry too (R387). -/
def State.cmdFault (s : State) (code addr : Nat) (refused : Bool) : State :=
  let t := s.dev.cur.t
  let s := if refused then s.logRefused t code clsWorker 0x7F addr (s.logPa t addr) else s
  s.queueFault t s.dev.cur.q code addr

/-- Runs a command of `len` bytes on the acting queue: it completes as a whole, faults, or waits (R344, R351, R365). -/
def cmdRun (len : Nat) (reads : List (BitVec 4)) (body : TenantId → CmdQueue → State → CmdRes) (s : State) : State :=
  let t := s.dev.cur.t
  let q := s.dev.cur.q
  if !s.cmdReady reads then s
  else match body t s.myCq s with
  | .hold => s
  | .fault code addr refused => s.cmdFault code addr refused
  | .next s => (s.modCq t q fun c => { c with cpc := c.cpc + w64 len }).progress t q
  | .go s pc => (s.modCq t q fun c => { c with cpc := pc }).progress t q

/-- A command whose whole effect is a value for cD. -/
def cmdVal (len : Nat) (d : BitVec 4) (reads : List (BitVec 4)) (f : CmdQueue → W64) (s : State) : State :=
  cmdRun len reads (fun _ c s => .next (s.setC d (f c))) s

/-! ## Registers (R352) -/

/-- R352: copies a register. -/
def execCmov (d a : BitVec 4) (s : State) : Out := act (cmdVal 4 d [a] fun c => c.reg a) s
/-- R352: loads a signed immediate. -/
def execCmovi (d : BitVec 4) (imm : BitVec 14) (s : State) : Out := act (cmdVal 4 d [] fun _ => imm.signExtend 64) s
/-- R352: loads the extension word. -/
def execCmoviExt (d : BitVec 4) (ext : BitVec 64) (s : State) : Out := act (cmdVal 12 d [] fun _ => ext) s
/-- R352: adds. -/
def execCadd (d a b : BitVec 4) (s : State) : Out := act (cmdVal 4 d [a, b] fun c => c.reg a + c.reg b) s
/-- R352: adds an immediate. -/
def execCaddImm (d a : BitVec 4) (ext : BitVec 64) (s : State) : Out := act (cmdVal 12 d [a] fun c => c.reg a + ext) s
/-- R352: subtracts. -/
def execCsub (d a b : BitVec 4) (s : State) : Out := act (cmdVal 4 d [a, b] fun c => c.reg a - c.reg b) s
/-- R352: subtracts an immediate. -/
def execCsubImm (d a : BitVec 4) (ext : BitVec 64) (s : State) : Out := act (cmdVal 12 d [a] fun c => c.reg a - ext) s
/-- R352: ANDs. -/
def execCand (d a b : BitVec 4) (s : State) : Out := act (cmdVal 4 d [a, b] fun c => c.reg a &&& c.reg b) s
/-- R352: ANDs with an immediate. -/
def execCandImm (d a : BitVec 4) (ext : BitVec 64) (s : State) : Out := act (cmdVal 12 d [a] fun c => c.reg a &&& ext) s
/-- R352: ORs. -/
def execCor (d a b : BitVec 4) (s : State) : Out := act (cmdVal 4 d [a, b] fun c => c.reg a ||| c.reg b) s
/-- R352: ORs with an immediate. -/
def execCorImm (d a : BitVec 4) (ext : BitVec 64) (s : State) : Out := act (cmdVal 12 d [a] fun c => c.reg a ||| ext) s
/-- 1 or 0. -/
def boolWord (b : Bool) : W64 := if b then 1 else 0
/-- R352: compares under the conditions of R135. -/
def execCcmp (d a b : BitVec 4) (cond : BitVec 3) (s : State) : Out :=
  act (cmdVal 4 d [a, b] fun c => boolWord (condS cond (c.reg a) (c.reg b))) s
/-- R352: compares with an immediate. -/
def execCcmpImm (d a : BitVec 4) (ext : BitVec 64) (cond : BitVec 3) (s : State) : Out :=
  act (cmdVal 12 d [a] fun c => boolWord (condS cond (c.reg a) ext)) s

/-! ## Control (R353) -/

/-- The target of a displacement: relative to the command's own address (R350). -/
def CmdQueue.target (c : CmdQueue) (disp : BitVec 14) : W64 := c.cpc + disp.signExtend 64 * 4

/-- R353: transfers when MODE holds. -/
def execCbr (mode : BitVec 2) (d : BitVec 4) (disp : BitVec 14) (s : State) : Out :=
  act (cmdRun 4 (if mode = 0 then [] else [d]) fun _ c s =>
    if mode = 0 ∨ (mode = 1 ∧ c.reg d = 0) ∨ (mode = 2 ∧ c.reg d ≠ 0) then .go s (c.target disp) else .next s) s

/-- R353: counts down, and transfers while the count is not 0. -/
def execCloop (d : BitVec 4) (disp : BitVec 14) (s : State) : Out :=
  act (cmdRun 4 [d] fun _ c s =>
    let v := c.reg d
    if v = 0 then .next s
    else if v = 1 then .next (s.setC d 0)
    else .go (s.setC d (v - 1)) (c.target disp)) s

/-- A call: a ninth level faults (R353). -/
def cmdCall (c : CmdQueue) (pc : W64) (s : State) : CmdRes :=
  if 8 ≤ c.stack.length then .fault cIllegalOpcode 0 false
  else .go (s.modMyCq fun x => { x with stack := (x.cpc + 4) :: x.stack }) pc

/-- R353: calls relative. -/
def execCcall (disp : BitVec 14) (s : State) : Out := act (cmdRun 4 [] fun _ c s => cmdCall c (c.target disp) s) s

/-- R353: calls the address in cA. -/
def execCcallIndirect (a : BitVec 4) (s : State) : Out := act (cmdRun 4 [a] fun _ c s => cmdCall c (c.reg a) s) s

/-- R347, R353: returns, or ends the submission. -/
def execCret (s : State) : Out :=
  act (cmdRun 4 [] fun _ c s => match c.stack with
    | pc :: rest => .go (s.modMyCq fun x => { x with stack := rest }) pc
    | [] => .go (s.modMyCq fun x => { x with rp := x.rp + 1, state := 0 }) c.cpc) s

/-- R364: halts the queue with CPC on the next command. -/
def execChalt (s : State) : Out := act (cmdRun 4 [] fun _ _ s => .next (s.modMyCq fun x => { x with state := 2 })) s

/-! ## Memory (R354, R363) -/

/-- The address of an offset form (R354, R355). -/
def CmdQueue.addr (c : CmdQueue) (a : BitVec 4) (off : BitVec 13) : W64 := c.reg a + off.signExtend 64 * 8

/-- The 8 bytes at an address (R354). -/
def State.cmdLoad (s : State) (t : TenantId) (va : W64) : Except (Nat × Nat) Nat :=
  if va.toNat % 8 ≠ 0 then .error (cDataUnmapped, va.toNat) else s.devNat t va.toNat 8

/-- Stores 8 bytes at an address (R354). -/
def State.cmdStore (s : State) (t : TenantId) (va w : W64) : Except (Nat × Nat) State :=
  if va.toNat % 8 ≠ 0 then .error (cDataUnmapped, va.toNat) else s.devWrite t va.toNat (toLe 8 w.toNat)

/-- R354: loads 8 bytes. -/
def execCld (d a : BitVec 4) (off : BitVec 13) (s : State) : Out :=
  act (cmdRun 4 [a] fun t c s => match s.cmdLoad t (c.addr a off) with
    | .ok n => .next (s.setC d (w64 n))
    | .error f => memFault f) s

/-- R354: stores 8 bytes. -/
def execCst (d a : BitVec 4) (off : BitVec 13) (s : State) : Out :=
  act (cmdRun 4 [a, d] fun t c s => match s.cmdStore t (c.addr a off) (c.reg d) with
    | .ok s => .next s
    | .error f => memFault f) s

/-- R363: waits until the word at c(A) meets the condition with c(B). -/
def execCwait (a b : BitVec 4) (cond : BitVec 3) (s : State) : Out :=
  act (cmdRun 4 [a, b] fun t c s => match s.cmdLoad t (c.reg a) with
    | .ok n =>
      let m := w64 n
      let met := if cond = 0 then m == c.reg b else if cond = 1 then m != c.reg b else decide (c.reg b ≤ m)
      if met then .next s else .hold
    | .error f => memFault f) s

/-- The atomic read-modify-write of a signal: the address needs both permissions (R329, R363). -/
def State.cmdRmw (s : State) (t : TenantId) (va : W64) (f : W64 → W64) : Except (Nat × Nat) State :=
  if va.toNat % 8 ≠ 0 then .error (cDataUnmapped, va.toNat)
  else match s.engSpan t none .rmw va.toNat 8 with
    | .error e => .error e
    | .ok _ => match s.devNat t va.toNat 8 with
      | .error e => .error e
      | .ok n => s.devWrite t va.toNat (toLe 8 (f (w64 n)).toNat)

/-- A signal. -/
def cmdSignal (a b : BitVec 4) (f : W64 → W64 → W64) : State → State :=
  cmdRun 4 [a, b] fun t c s => match s.cmdRmw t (c.reg a) (fun m => f m (c.reg b)) with
    | .ok s => .next s
    | .error e => memFault e

/-- R363: writes a word. -/
def execCsigSet (a b : BitVec 4) (s : State) : Out := act (cmdSignal a b fun _ v => v) s
/-- R363: adds to a word. -/
def execCsigAdd (a b : BitVec 4) (s : State) : Out := act (cmdSignal a b fun m v => m + v) s

/-! ## Resource space (R355, R356) -/

/-- How many resources a kind has; 0 for no kind. -/
def resCount (kind : Nat) : Nat := match kind with
  | 1 => 256 | 2 => 256 | 3 => 64 | 4 => 32 | 5 => 64 | 6 => 256 | 7 => 256 | _ => 0

/-- Kind, index and doubleword that an RSA names, or none where it breaks R355. -/
def rsaOf (a : W64) : Option (Nat × Nat × Nat) :=
  let kind := fieldNat a 20 4
  let idx := fieldNat a 8 8
  if fieldNat a 24 40 ≠ 0 ∨ fieldNat a 16 4 ≠ 0 ∨ resCount kind ≤ idx ∨ fieldNat a 0 3 ≠ 0 then none
  else some (kind, idx, fieldNat a 3 5)

/-- The tenant that Hazel gave a resource to. -/
def State.resOwner (s : State) (kind idx : Nat) : Option (BitVec 4) :=
  let n : BitVec 8 := BitVec.ofNat 8 idx
  match kind with
  | 1 => (s.hq n).owner
  | 2 => (s.dev.dns.get n.toFin).owner
  | 3 => (s.hb (n.setWidth 6)).owner
  | 4 => (s.sg (n.setWidth 5)).owner
  | 5 => (s.zone (n.setWidth 6)).owner
  | 6 => (s.fring n).owner
  | _ => (s.strm n).owner

/-- Doubleword `dw` of a record (R356); COUNT of a hardware queue is its tokens held. -/
def State.resRead (s : State) (kind idx dw : Nat) : W64 :=
  let n : BitVec 8 := BitVec.ofNat 8 idx
  match kind, dw with
  | 1, 0 => (s.hq n).dw0
  | 1, 1 => (s.hq n).dw1
  | 1, 2 => w64 (s.hq n).toks.length
  | 2, 0 => (s.dev.dns.get n.toFin).dw0
  | 2, 1 => (s.dev.dns.get n.toFin).dw1
  | 3, 0 => boolWord (s.hb (n.setWidth 6)).en
  | 4, 0 => boolWord (s.sg (n.setWidth 5)).en
  | 5, 0 => (s.zone (n.setWidth 6)).dw0
  | 5, 1 => (s.zone (n.setWidth 6)).dw1
  | 5, 2 => (s.zone (n.setWidth 6)).dw2
  | 6, i => if h : i < 8 then (s.fring n).dw.get ⟨i, h⟩ else 0
  | 7, i => (s.strm n).word i
  | _, _ => 0

/-- The bits of a doubleword that a field names; writes to the others are ignored (R6, R356, R400, log 23). -/
def resMask (kind dw : Nat) : W64 := match kind, dw with
  | 1, 0 => 0x7F01
  | 1, 1 => 0x1F1F
  | 2, 0 => 0x1F0001
  | 2, 1 => 0xFFFFFFFFFFFC0
  | 3, 0 => 1
  | 4, 0 => 1
  | 5, 0 => 0x1F07
  | 5, 1 => 0xFFFFFFFFFF000
  | 5, 2 => 0x7FF000
  | 6, 0 => 0x731F01
  | 6, 1 => 0xFFFFFFFFFF000
  | 6, 2 => 0xFFFF
  | 6, 3 => 0xFFFFFFFF
  | 6, 4 => 0x7FFFFFFFFFFFFFF
  | 6, 5 => 0xFFFFFFFFFFFFFFFF
  | 6, 6 => 0xFFFFFFFFFFFFF
  | 6, 7 => 0xFFFFFFFF
  | _, _ => 0

/-- WIDTH and HEIGHT in range (R400). -/
def sizesOk (v : W64) : Bool :=
  let w := fieldNat v 0 16
  let h := fieldNat v 16 16
  w % 16 == 0 && h % 16 == 0 && decide (64 ≤ w) && decide (w ≤ 3840) && decide (64 ≤ h) && decide (h ≤ 2160)

/-- Are the fields of a doubleword in range (R356, R400)? -/
def resRange (kind dw : Nat) (v : W64) : Bool := match kind, dw with
  | 1, 0 => decide (4 ≤ fieldNat v 8 7) && decide (fieldNat v 8 7 ≤ 64)
  | 2, 0 => decide (3 ≤ fieldNat v 16 5) && decide (fieldNat v 16 5 ≤ 16)
  | 6, 0 => decide (2 ≤ fieldNat v 8 5) && decide (fieldNat v 8 5 ≤ 16)
  | 6, 2 => fieldNat v 0 16 != 0
  | 6, 4 => sizesOk v && fieldNat v 41 2 != 3
  | 6, 7 => decide (fieldNat v 8 8 < 64)
  | _, _ => true

/-- Writes a doubleword of a record of kinds 1 to 6. -/
def State.resPut (s : State) (kind idx dw : Nat) (v : W64) : State :=
  let n : BitVec 8 := BitVec.ofNat 8 idx
  match kind, dw with
  | 1, 0 => s.modHq n fun r => { r with dw0 := v }
  | 1, 1 => s.modHq n fun r => { r with dw1 := v }
  | 2, 0 => s.modDn n fun r => { r with dw0 := v }
  | 2, 1 => s.modDn n fun r => { r with dw1 := v }
  | 3, 0 => s.modHb (n.setWidth 6) fun r => { r with en := bitAt v 0 }
  | 4, 0 => s.modSg (n.setWidth 5) fun r => { r with en := bitAt v 0 }
  | 5, 0 => s.modPz (n.setWidth 6) fun r => { r with dw0 := v }
  | 5, 1 => s.modPz (n.setWidth 6) fun r => { r with dw1 := v }
  | 5, 2 => s.modPz (n.setWidth 6) fun r => { r with dw2 := v }
  | 6, i => s.modFring n fun r => if h : i < 8 then { r with dw := r.dw.set i v h } else r
  | _, _ => s

/-! ## Enabling and disabling (R357, R358) -/

/-- The bytes of a done ring (R221): where they begin and how many. -/
def DoneRing.span (r : DoneRing) : Nat × Nat := (r.base, 64 + 64 * 2 ^ fieldNat r.dw0 16 5)

/-- First byte of slot 0 of a frame ring. -/
def FrameRing.slot0 (f : FrameRing) : Nat := fieldNat (f.dw.get 1) 12 40 * 4096
/-- Bytes from one slot to the next. -/
def FrameRing.stride (f : FrameRing) : Nat := fieldNat (f.dw.get 2) 0 16 * 4096
/-- Owning stream of a frame ring. -/
def FrameRing.stream (f : FrameRing) : BitVec 8 := bits (f.dw.get 3) 24 8
/-- WIDTH. -/
def FrameRing.width (f : FrameRing) : Nat := fieldNat (f.dw.get 4) 0 16
/-- HEIGHT. -/
def FrameRing.height (f : FrameRing) : Nat := fieldNat (f.dw.get 4) 16 16
/-- The pixel-shuffle factor r. -/
def FrameRing.shuf (f : FrameRing) : Nat := 2 ^ fieldNat (f.dw.get 4) 33 2
/-- Latent channels. -/
def FrameRing.chans (f : FrameRing) : Nat := fieldNat (f.dw.get 4) 35 6 + 1
/-- The row stride S of the pixel area (R401). -/
def FrameRing.rowStride (f : FrameRing) : Nat := ((f.width + 2) / 3 * 4 + 63) / 64 * 64
/-- Bytes of the latent area, up to the next 4 KiB (R401). -/
def FrameRing.latentBytes (f : FrameRing) : Nat :=
  (f.width / f.shuf * (f.height / f.shuf) * f.chans * 2 + 4095) / 4096 * 4096
/-- The slot size (R401). -/
def FrameRing.slotSize (f : FrameRing) : Nat := f.latentBytes + (f.height + f.height / 2) * f.rowStride

/-- Does a zone's window or shadow touch the records of an enabled done ring or the slots of an enabled frame ring (R357)? -/
def State.ringsTouch (s : State) (z : Zone) : Bool :=
  let hit (a n : Nat) : Bool := decide (a < z.base + 2 * z.size) && decide (z.base < a + n)
  s.dev.dns.toList.any (fun r => bitAt r.dw0 0 && hit r.span.1 r.span.2) ||
    s.dev.frings.toList.any fun f => f.en && hit f.slot0 (f.nslot * f.stride)

/-- Does a zone's window meet R67, in vaults of the tenant? -/
def State.windowOk (s : State) (t : TenantId) (z : Zone) : Bool :=
  let last := z.base + 2 * z.size - 1
  decide (4096 ≤ z.size) && decide (z.size ≤ 2 ^ 22) && rowSpan z.base (2 * z.size) == .vault &&
    vaultOf z.base / 8 == vaultOf last / 8 && s.ownsVault t (vaultOf z.base) && (s.zonesAt z.base (2 * z.size)).isEmpty

/-- Enables a done ring: PCNT 0 is written at BASE (R357). -/
def State.enableDn (s : State) (t : TenantId) (n : BitVec 8) (dw0 : W64) : Except (Nat × Nat) State :=
  let r := { s.dev.dns.get n.toFin with dw0 := dw0, seq := 0, pcnt := 0 }
  match s.devWrite t r.base (zeros 8) with
  | .error f => .error f
  | .ok s' => if (s.zoneAt r.span.1 r.span.2).isSome then .error (cPerm, r.base) else .ok (s'.modDn n fun _ => r)

/-- Enables a planar zone over the bytes that stand there; its next plane is empty (R357). A step group that is not the tenant's is
refused (R384). -/
def State.enablePz (s : State) (t : TenantId) (n : BitVec 6) (dw0 : W64) : Except (Nat × Nat) State :=
  let z := { s.zone n with dw0 := dw0, plane := [] }
  let g := s.sg z.group
  if !s.windowOk t z || g.owner != some (BitVec.ofNat 4 t.val) || !g.members.isEmpty || s.ringsTouch z then .error (cPerm, z.base)
  else .ok (s.modPz n fun _ => z)

/-- A free frame token (R282). -/
def freeToken (ring : BitVec 8) (slot : Nat) : W64 := w64 (slot * 2 ^ 32 + ring.toNat * 2 ^ 36 + 2 ^ 56)

/-- Is a queue the tenant's, enabled, empty, and of no other enabled frame ring (R358)? -/
def State.ringQueueOk (s : State) (t : TenantId) (q : BitVec 8) : Bool :=
  let h := s.hq q
  h.owner == some (BitVec.ofNat 4 t.val) && h.en && h.toks.isEmpty && h.resv == 0 && (s.roleOf q).isNone

/-- Does a slot lie in the tenant's vaults and touch no zone (R358)? -/
def State.slotOk (s : State) (t : TenantId) (a n : Nat) : Bool :=
  rowSpan a n == .vault &&
    (List.range (vaultOf (a + n - 1) + 1 - vaultOf a)).all (fun i => s.ownsVault t (vaultOf a + i)) && (s.zonesAt a n).isEmpty

/-- The conditions of R358. -/
def State.fringOk (s : State) (t : TenantId) (f : FrameRing) : Bool :=
  let q := (List.range 3).map f.queue
  let bsq : BitVec 8 := bits (f.dw.get 7) 0 8
  let mine := some (BitVec.ofNat 4 t.val)
  q.all (s.ringQueueOk t) && decide q.Nodup && decide (f.nslot ≤ (s.hq (f.queue 0)).depth) && sizesOk (f.dw.get 4) &&
    decide (f.slotSize ≤ f.stride) && (List.range f.nslot).all (fun k => s.slotOk t (f.slot0 + k * f.stride) f.stride) &&
    (s.strm f.stream).owner == mine && fieldNat (f.dw.get 6) 0 52 != 0 &&
    (s.hq bsq).owner == mine && (s.hq bsq).en && (s.hq bsq).mayPut 2

/-- Enables a frame ring: every slot is EMPTY, and FREEQ holds their tokens (R282, R358). -/
def State.enableFring (s : State) (t : TenantId) (n : BitVec 8) (dw0 : W64) : Except (Nat × Nat) State :=
  let f := { s.fring n with dw := (s.fring n).dw.set 0 dw0 (by decide), slots := List.replicate (fieldNat dw0 8 5) .empty, refs := [] }
  if !s.fringOk t f then .error (cPerm, 0)
  else
    let s := s.modFring n fun _ => f
    .ok (s.modHq (f.queue 0) fun h => { h with toks := (List.range f.nslot).map (freeToken n) })

/-- A hardware queue is disabled: its tokens are discarded, those on their way too (R357, log 24). -/
def State.disableHq (s : State) (n : BitVec 8) (dw0 : W64) : State :=
  let keep (k : Core) : Core := { k with defer := k.defer.filter fun d => match d.2 with
    | .put q _ => q != n
    | _ => true }
  let s := s.modHq n fun h => { h with dw0 := dw0, toks := [], resv := 0 }
  s.upd fun d => { d with cores := d.cores.map keep }

/-- Has a barrier waiters (R357)? -/
def State.hbWaits (s : State) (n : BitVec 6) : Bool :=
  let b := s.hb n
  (b.waits.any fun w => (b.outcome w.1 == some none) && (s.taskById w.1).any (·.alive)) || (List.finRange 128).any fun c => (s.core c).bun.hold == some (.barrier n)

/-- A write of DW0 that sets EN (R357). -/
def State.resEnable (s : State) (t : TenantId) (kind idx : Nat) (v : W64) : Except (Nat × Nat) State :=
  let n : BitVec 8 := BitVec.ofNat 8 idx
  match kind with
  | 2 => s.enableDn t n v
  | 3 => .ok (s.modHb (n.setWidth 6) fun b => { Reset.barrier with
      owner := b.owner, en := true, phase := b.phase + 1, bad := b.bad, waits := b.waits })
  | 4 => .ok (s.modSg (n.setWidth 5) fun g => { Reset.group with owner := g.owner, en := true })
  | 5 => s.enablePz t (n.setWidth 6) v
  | 6 => s.enableFring t n v
  | _ => .ok (s.resPut kind idx 0 v)

/-- A write of DW0 that clears EN (R357). -/
def State.resDisable (s : State) (kind idx : Nat) (v : W64) : Except (Nat × Nat) State :=
  let n : BitVec 8 := BitVec.ofNat 8 idx
  match kind with
  | 1 => .ok (s.disableHq n v)
  | 3 => if s.hbWaits (n.setWidth 6) then .error (cPerm, 0) else .ok (s.resPut 3 idx 0 v)
  | 4 => if !(s.sg (n.setWidth 5)).members.isEmpty then .error (cPerm, 0) else .ok (s.resPut 4 idx 0 v)
  | 5 => if !(s.sg (s.zone (n.setWidth 6)).group).members.isEmpty then .error (cPerm, 0) else .ok (s.resPut 5 idx 0 v)
  | 6 => if (s.fring n).slots.all (· == .empty) then .ok (s.resPut 6 idx 0 v) else .error (cPerm, 0)
  | _ => .ok (s.resPut kind idx 0 v)

/-! ## Stream records (R372, R373) -/

/-- The RW bits of doublewords 1 to 31 of a stream record. -/
def streamMask (dw : Nat) : W64 :=
  if dw = 1 ∨ dw = 2 then 0xFFFFFFFFFFFFFFFF
  else if 8 ≤ dw ∧ dw < 24 then (if dw % 2 = 0 then 0xFFFFFFFFFFFC0 else 0xFFFFFFFF)
  else 0

/-- Replaces the bits of a mask. -/
def mergeMask (m old new : W64) : W64 := (old &&& ~~~m) ||| (new &&& m)

/-- A stream is enabled (R373). -/
def StreamRec.enable (r : StreamRec) (v : W64) : StreamRec :=
  let r := { r with dw := r.dw.set 0 (mergeMask 0xFF (r.word 0) v) (by decide) }
  let r := (((r.put 0 8 3 (fieldNat v 5 3)).put 0 14 1 0).put 0 15 1 0).put 0 16 5 0
  { r with dw := ((r.dw.set 3 0 (by decide)).set 4 0 (by decide)).set 5 0 (by decide) }

/-- May a stream not be disabled: a launch of it has tasks that have not ended, or an enabled frame ring names it (R373)? -/
def State.streamBusy (s : State) (n : BitVec 8) : Bool :=
  s.dev.launches.any (fun l => l.sv && l.stream == n && s.launchAlive l.id) || s.dev.frings.toList.any fun f => f.en && f.stream == n

/-- A write of a stream record (R357, R372, R373). -/
def State.streamWrite (s : State) (n : BitVec 8) (dw : Nat) (v : W64) : Except (Nat × Nat) State :=
  let r := s.strm n
  let en := bitAt (r.word 0) 0
  if dw ≠ 0 then
    if en then .error (cPerm, 0)
    else if dw = 1 ∧ fieldNat v 0 32 < 1000 then .error (cIllegalOpcode, 0)
    else .ok (s.modStream n fun r =>
      { r with dw := r.dw.set (dw % 32) (mergeMask (streamMask dw) (r.word dw) v) (Nat.mod_lt _ (by decide)) })
  else if !en && bitAt v 0 then
    if fieldNat v 2 3 < fieldNat v 5 3 ∨ r.get 1 0 32 < 1000 then .error (cIllegalOpcode, 0)
    else .ok (s.modStream n fun r => r.enable v)
  else if en && bitAt v 0 then .ok (s.modStream n fun r => r.put 0 1 1 (fieldNat v 1 1))
  else if en && s.streamBusy n then .error (cPerm, 0)
  else .ok (s.modStream n fun r => { r with dw := r.dw.set 0 (mergeMask 0xFF (r.word 0) v) (by decide) })

/-! ## `cld.r` and `cst.r` -/

/-- A write of a resource record by tenant t (R357). With EN = 1 and staying so, DW0 keeps its fields (log 25). -/
def State.resWrite (s : State) (t : TenantId) (kind idx dw : Nat) (val : W64) : Except (Nat × Nat) State :=
  if kind = 7 then s.streamWrite (BitVec.ofNat 8 idx) dw val
  else
    let en := bitAt (s.resRead kind idx 0) 0
    let v := val &&& resMask kind dw
    if dw ≠ 0 && en then .error (cPerm, 0)
    else if !resRange kind dw v then .error (cIllegalOpcode, 0)
    else if dw ≠ 0 || (!en && !bitAt v 0) then .ok (s.resPut kind idx dw v)
    else if !en then s.resEnable t kind idx v
    else if bitAt v 0 then .ok s
    else s.resDisable kind idx v

/-- Does a write that enables a zone or a frame ring name a resource or a vault that is not the tenant's (R384, R387)? -/
def State.namesForeign (s : State) (t : TenantId) (kind idx dw : Nat) (v : W64) : Bool :=
  let mine := some (BitVec.ofNat 4 t.val)
  let vaults (a n : Nat) : Bool := rowSpan a n == .vault && (List.range (vaultOf (a + n - 1) + 1 - vaultOf a)).any fun i =>
    !s.ownsVault t (vaultOf a + i)
  dw == 0 && bitAt v 0 && match kind with
    | 5 =>
      let z := { s.zone (BitVec.ofNat 6 idx) with dw0 := v }
      (s.sg z.group).owner != mine || vaults z.base (2 * z.size)
    | 6 =>
      let f := { s.fring (BitVec.ofNat 8 idx) with dw := (s.fring (BitVec.ofNat 8 idx)).dw.set 0 v (by decide) }
      ((List.range 3).any fun i => (s.hq (f.queue i)).owner != mine) || (s.strm f.stream).owner != mine ||
        (s.hq (bits (f.dw.get 7) 0 8)).owner != mine || (List.range f.nslot).any fun i => vaults (f.slot0 + i * f.stride) f.stride
    | _ => false

/-- The record that an RSA names, for the tenant; or the fault (R355). -/
def State.rsaFind (s : State) (t : TenantId) (a : W64) : Except CmdRes (Nat × Nat × Nat) := match rsaOf a with
  | none => .error (.fault cIllegalOpcode a.toNat false)
  | some r => if s.resOwner r.1 r.2.1 = some (BitVec.ofNat 4 t.val) then .ok r else .error (.fault cPerm a.toNat true)

/-- R355, R356: reads a doubleword of a resource record. -/
def execCldR (d a : BitVec 4) (off : BitVec 13) (s : State) : Out :=
  act (cmdRun 4 [a] fun t c s => match s.rsaFind t (c.addr a off) with
    | .error e => e
    | .ok r => .next (s.setC d (s.resRead r.1 r.2.1 r.2.2))) s

/-- R357: writes a doubleword of a resource record. -/
def execCstR (d a : BitVec 4) (off : BitVec 13) (s : State) : Out :=
  act (cmdRun 4 [a, d] fun t c s => match s.rsaFind t (c.addr a off) with
    | .error e => e
    | .ok r => match s.resWrite t r.1 r.2.1 r.2.2 (c.reg d) with
      | .ok s => .next s
      | .error f =>
        .fault f.1 (if f.2 = 0 then (c.addr a off).toNat else f.2)
          (f.1 == cMemwin || (f.1 == cPerm && s.namesForeign t r.1 r.2.1 r.2.2 (c.reg d)))) s

/-! ## Launches, images and copies (R359 to R362) -/

/-- R359: hands a start vector to the dispatchers; cD is 0, or why it was rejected. -/
def execClaunch (d a b : BitVec 4) (s : State) : Out :=
  act (cmdRun 4 [a, b] fun t c s =>
    if s.launchListFull t then .hold
    else match s.readLaunch t s.dev.cur.q (c.reg a).toNat (c.reg b) with
      | none =>
        let s := match s.devRead t (c.reg a).toNat 1088 with
          | .error f => if f.1 = cMemwin then s.logRefused t f.1 clsWorker 0x7F f.2 (s.logPa t f.2) else s
          | .ok _ => s
        .next (s.setC d 13)
      | some l =>
        let code := s.rejection l
        .next ((if code = 0 then s.acceptLaunch l else s).setC d (w64 code))) s

/-- An entry of a segment table, or none where it is out of range (R360). -/
def segEntry (bs : List Byte) (i : Nat) : Option (Nat × Nat) :=
  let a := leNat ((bs.drop (16 * i)).take 8)
  let n := leNat ((bs.drop (16 * i + 8)).take 8)
  if a % 2 ^ 16 ≠ 0 ∨ Config.vaultBase ≤ a ∨ n < 4 ∨ 131072 < n ∨ n % 4 ≠ 0 then none else some (a, n)

/-- A new table or none for an image: no core keeps a segment or the routines of the old one. -/
def State.setImage (s : State) (t : TenantId) (id : BitVec 32) (i : List Image) : State :=
  let s := s.modTenant t fun x => { x with images := x.images.filter (fun y => y.id != id) ++ i }
  let drop (h : Option Half) : Option Half := match h with
    | some x => if x.image = id then none else some x
    | none => none
  let clean (c : CoreId) : Core :=
    let k : Core := s.core c
    if s.owner (clusterOf c) == some t then
      { k with microImg := if k.microImg = some (BitVec.ofNat 4 t.val, id) then none else k.microImg,
               imem := { k.imem with halves := k.imem.halves.map drop } }
    else k
  s.upd fun d => { d with cores := Vector.ofFn clean }

/-- The installation of `cseg` from its table (R205, R360). -/
def cmdInstall (t : TenantId) (va : Nat) (h0 : Nat) (micro : Nat) (s : State) : CmdRes :=
  let id := BitVec.ofNat 32 h0
  let n := h0 / 2 ^ 32
  let installed := (s.tenant t).images.any fun i => i.id == id
  if 256 < n then .fault cIllegalOpcode va false
  else if n = 0 then (if installed then .next (s.setImage t id []) else .fault cIllegalOpcode va false)
  else match s.devRead t (va + 16) (16 * n) with
    | .error f => memFault f
    | .ok bs =>
      let segs := (List.range n).filterMap (segEntry bs)
      if segs.length ≠ n then .fault cIllegalOpcode va false
      else if !installed && decide (8 ≤ (s.tenant t).images.length) then .fault cPerm va false
      else
        let done : CmdRes := .next (s.setImage t id [{ id := id, segs := segs, micro := w64 micro }])
        if micro = 0 then done
        else match s.devRead t micro 8704 with
          | .error f => memFault f
          | .ok bs => if sectionOk bs then done else .fault cIllegalOpcode va false

/-- R360: installs, replaces or uninstalls an image's segment table. -/
def execCseg (a : BitVec 4) (s : State) : Out :=
  act (cmdRun 4 [a] fun t c s =>
    let va := (c.reg a).toNat
    if va % 64 ≠ 0 then .fault cDataUnmapped va false
    else match s.devNat t va 8, s.devNat t (va + 8) 8 with
      | .error f, _ => memFault f
      | _, .error f => memFault f
      | .ok h0, .ok micro =>
        let id := BitVec.ofNat 32 h0
        if (s.tenant t).images.any (fun i => i.id == id) &&
            s.dev.launches.any (fun l => l.tenant == t && l.image == id && s.launchAlive l.id) then .hold
        else cmdInstall t va h0 micro s) s

/-- The copies of a queue in flight. -/
def State.queueCopies (s : State) (t : TenantId) (q : QueueId) : List EngOp := s.dev.eng.filter fun o => o.owner == .queue t q

/-- Starts a copy (R361). -/
def cmdCopy (rec_ : Bool) (d a : BitVec 4) : State → State :=
  cmdRun 4 [a] fun t c s =>
    let va := (c.reg a).toNat
    let q := s.dev.cur.q
    if 64 ≤ (s.queueCopies t q).length then .hold
    else if va % 64 ≠ 0 then .fault cDataUnmapped va false
    else match s.devNat t va 128 with
      | .error f => memFault f
      | .ok n =>
        let desc : BitVec 1024 := BitVec.ofNat 1024 n
        match s.descFault rec_ t desc with
        | some code => .fault code 0 (code == cPerm)
        | none =>
          let (id, s) := s.fresh
          let o : EngOp :=
            { id := id, slot := 0, kind := if rec_ then .ccopyC else .ccopy, owner := .queue t q, tenant := BitVec.ofNat 4 t.val,
              seq := 0, a := w64 va, b := 0, desc := desc, reqs := [], kvslot := 0, ord := false, acq := false, rel := true,
              scope := 4, stage := 0, pos := 0, count := 0, token := none, faddr := 0, crc := 0, list := [], grains := [], fail := none, ents := [] }
          let s := s.upd fun dv => { dv with eng := dv.eng ++ [o] }
          .next (s.modMyCq fun c => { c with awaits := (d, id) :: c.awaits.filter fun x => x.1 != d })

/-- R361: starts a copy. -/
def execCcopy (d a : BitVec 4) (s : State) : Out := act (cmdCopy false d a) s
/-- R361: starts a copy with a completion record. -/
def execCcopyC (d a : BitVec 4) (s : State) : Out := act (cmdCopy true d a) s

/-- A fence of commands (R362). -/
def cmdFence (copies launches : Bool) : State → State :=
  cmdRun 4 [] fun t _ s =>
    let q := s.dev.cur.q
    if (copies && !(s.queueCopies t q).isEmpty) || (launches && !(s.queueLaunches t q).all fun l => s.launchGone l.id) then .hold
    else .next s

/-- R362: waits for the queue's copies. -/
def execCfenceCopy (s : State) : Out := act (cmdFence true false) s
/-- R362: waits for the queue's launches. -/
def execCfenceLaunch (s : State) : Out := act (cmdFence false true) s
/-- R362: waits for both. -/
def execCfenceAll (s : State) : Out := act (cmdFence true true) s

/-! ## The rest (R364, R376) -/

/-- R364: reads DTIME. -/
def execCtime (d : BitVec 4) (s : State) : Out :=
  act (cmdRun 4 [] fun _ _ s => .next (s.setC d (w64 s.dev.board.dtime))) s

/-- The stream that a register names, if it is the tenant's. -/
def State.myStream (s : State) (t : TenantId) (w : W64) : Option (BitVec 8) :=
  let n : BitVec 8 := bits w 0 8
  if (s.strm n).owner = some (BitVec.ofNat 4 t.val) then some n else none

/-- R364: reads a stream's rung. -/
def execCrungRd (d a : BitVec 4) (s : State) : Out :=
  act (cmdRun 4 [a] fun t c s => match s.myStream t (c.reg a) with
    | none => .fault cPerm 0 true
    | some n => .next (s.setC d (w64 ((s.strm n).get 0 8 3)))) s

/-- R364, R376: requests a rung from the next frame boundary. -/
def execCrungSet (a b : BitVec 4) (s : State) : Out :=
  act (cmdRun 4 [a, b] fun t c s =>
    let g := fieldNat (c.reg b) 0 3
    match s.myStream t (c.reg a) with
    | none => .fault cPerm 0 true
    | some n =>
      if (s.strm n).get 0 2 3 < g then .fault cIllegalOpcode 0 false
      else .next (s.modStream n fun r => (((r.put 0 11 3 g).put 0 14 1 1).put 0 15 1 1).put 0 16 5 0)) s

/-- R364: raises an MSI-X vector; vector 31 is reserved. -/
def execCint (n : BitVec 5) (s : State) : Out :=
  act (cmdRun 4 [] fun t _ s => if n = 31 then .fault cIllegalOpcode 0 false else .next (s.msix t n.toNat)) s

/-! ## How far bring-up came (R406, R407) -/

/-- BOOTSTAT.STAGE. -/
def Board.stage (b : Board) : Nat := fieldNat b.bootstat 0 3
/-- BOOTSTAT.READY. -/
def Board.ready (b : Board) : Bool := bitAt b.bootstat 3
/-- Does Hazel run: its firmware has passed VERIFY? -/
def Board.hazelUp (b : Board) : Bool := b.ready || b.stage == 3 || b.stage == 4
/-- Are the virtual functions enabled: the LINKS stage has run? -/
def Board.vfUp (b : Board) : Bool := b.ready || b.stage == 4

/-- The tenant that a function serves: function n + 1 tenant n (R383). -/
def fnTenant (fn : BitVec 5) : Option TenantId := if h : 1 ≤ fn.toNat ∧ fn.toNat ≤ 16 then some ⟨fn.toNat - 1, by omega⟩ else none

/-- Does the function of a tenant reach its partition: the virtual functions are enabled, and the partition exists (R383, R384)? -/
def State.fnUp (s : State) (t : TenantId) : Bool := s.dev.board.vfUp && bitAt (s.part.get t) 16

/-! ## Submissions (R345 to R348) -/

/-- R347: the worker takes the next submission of an idle queue; an entry that cannot be read faults the queue (log 26). -/
def execSubmissionTake (s : State) : Out :=
  act (fun s =>
    let t := s.dev.cur.t
    let q := s.dev.cur.q
    let c := s.cq t q
    if !c.en || c.state != 0 || c.wp == c.rp || s.dev.board.recovery then s
    else match s.devRead t (c.base.toNat + 16 * (c.rp.toNat % 2 ^ c.log2n)) 16 with
      | .error f => s.cmdFault f.1 f.2 (f.1 == cMemwin)
      | .ok bs =>
        s.modCq t q fun c => { c.setReg 0 (w64 (leNat (bs.drop 8))) with cpc := w64 (leNat (bs.take 8)), stack := [], state := 1 }) s

/-- CQCMD.RESUME: a queue that is HALTED or FAULTED runs again, from the command at CPC (R346). -/
def CmdQueue.resume (c : CmdQueue) : CmdQueue := if 2 ≤ c.state.toNat then { c with state := 1, code := 0 } else c

/-- CQCMD.ABANDON: the submission of a queue that is HALTED or FAULTED ends (R346). -/
def CmdQueue.abandon (c : CmdQueue) : CmdQueue :=
  if 2 ≤ c.state.toNat then { c with state := 0, code := 0, rp := c.rp + 1, stack := [] } else c

/-- R346: the host writes CQCMD.RESUME. -/
def execResume (s : State) : Out := act (fun s => if s.fnUp s.dev.cur.t then s.modMyCq CmdQueue.resume else s) s

/-- R346: the host writes CQCMD.ABANDON. -/
def execAbandon (s : State) : Out := act (fun s => if s.fnUp s.dev.cur.t then s.modMyCq CmdQueue.abandon else s) s

/-- R345, R395: a lock-step mismatch: recovery begins, and the device log has it. -/
def execHazelMismatch (s : State) : Out :=
  act (fun s => if !s.dev.board.hazelUp then s else (s.modBoard fun b => { b with recovery := true }).emit (.deviceLog (BitVec.ofNat 8 cHazelMismatch) 0)) s

/-- R345: recovery ends. -/
def execHazelRecoveryEnd (s : State) : Out := act (fun s => s.modBoard fun b => { b with recovery := false }) s

/-! ## Fetching a command (R349) -/

/-- The command at CPC, or its fault: code and address. -/
def State.cmdFetch (s : State) (t : TenantId) (q : QueueId) : Except (Nat × Nat) Instr :=
  let pc := (s.cq t q).cpc.toNat
  if pc % 4 ≠ 0 then .error (cInstrAlign, pc)
  else match s.devNat t pc 4 with
    | .error f => .error f
    | .ok w => match decodeCommand w with
      | .error _ => .error (cIllegalOpcode, 0)
      | .ok i =>
        if commandBytes w = 4 then .ok i
        else match s.devNat t pc 12 with
          | .error f => .error f
          | .ok n => match decodeCommand n with
            | .error _ => .error (cIllegalOpcode, 0)
            | .ok i => .ok i

/-- The acting queue's fetch has failed (R351). -/
def State.fetchFault (f : Nat × Nat) (s : State) : Out :=
  act (fun s => if s.cmdReady [] then s.cmdFault f.1 f.2 (f.1 == cMemwin) else s) s

end Sys2Proof.Machine
end

