-- ==== Sys2Proof/Machine/HostEvents.lean ====
section
/-! DEFINITION. What the host, Hazel and the package do (R6, R294, R346 to R348, R383 to R399, R403, R406 to R412): register writes,
partitions, bring-up and resets, checkpoints, BAR2, links, islands and slots. -/

namespace Sys2Proof.Machine

/-! ## Memory in bulk -/

/-- Zeroes the bytes whose place `p` accepts, those written in this step among them: a data unit of a tier is then as if never written
(log 3). -/
def State.wipe (s : State) (p : Nat → Bool) : State :=
  let s := (s.mem.cells ++ s.dev.wbuf).foldl (fun s c => if p c.1 then s.setCell c.1 0 else s) s
  s.upd fun d => { d with tags := d.tags.filter fun x => !p (x.1 * 64) }

/-- Every data unit of the tiers stands as its ciphertext (R391): what any key shows of it stays. -/
def State.seal (s : State) : State :=
  let raw (x : Nat × UnitTag) : Nat × UnitTag := (x.1, .raw)
  (s.dev.tags.foldl (fun u x => u.setCells (64 * x.1) (s.rawUnit (64 * x.1))) s).upd fun d => { d with tags := d.tags.map raw }

/-- Which data units of a tier hold ciphertext after a restore: those that something had written, and those with a nonzero byte
(log 33). -/
def State.restoreTags (s : State) : State :=
  let tier (a : Nat) : Bool := decide (a < Config.vaultAt)
  (s.mem.writes s.dev.wbuf).cells.foldl (fun s c =>
    if tier c.1 then s.upd fun d => { d with tags := setTag (c.1 / 64) .raw d.tags } else s) s

/-- Copies the bytes of `n` places from `src` on to `dst` on; the ranges lie apart. -/
def State.moveBytes (s : State) (src dst n : Nat) : State :=
  let m := s.mem.writes s.dev.wbuf
  let s := m.cells.foldl (fun s c => if dst ≤ c.1 ∧ c.1 < dst + n then s.setCell c.1 0 else s) s
  m.cells.foldl (fun s c => if src ≤ c.1 ∧ c.1 < src + n then s.setCell (dst + (c.1 - src)) c.2 else s) s

/-- Is a place in an SRAM of the device: a vault, a local store, a tile file, an instruction memory or a microprogram store? -/
def isSram (a : Nat) : Bool := decide (Config.vaultAt ≤ a) && decide (a < Config.recoveryAt)

/-- Is a place in an SRAM of cluster cl that Hazel zeroes when its owner changes (R385)? -/
def inCluster (cl a : Nat) : Bool :=
  let in_ (at_ n : Nat) : Bool := decide (at_ + cl * n ≤ a) && decide (a < at_ + (cl + 1) * n)
  in_ Config.vaultAt (2 ^ 26) || in_ Config.lsAt (2 ^ 23) || in_ Config.tileAt (2 ^ 24) || in_ Config.microAt (2 ^ 17)

/-! ## Command-queue registers (R346 to R348) -/

/-- R347: the host's doorbell. -/
def execCqwpDoorbell (t : TenantId) (q : QueueId) (wp : BitVec 32) (s : State) : Out :=
  act (fun s => if s.fnUp t then s.modCq t q fun c => { c with wp := wp } else s) s

/-- A queue is disabled: its submission ends, and RP stays (R348). Its launches go on, and so does the watchdog over them (R365). -/
def CmdQueue.disable (c : CmdQueue) : CmdQueue := { c with en := false, state := 0, code := 0, stack := [] }

/-- A write of CQCTL (R346, R348); a queue that it enables is given to a worker (R343). -/
def CmdQueue.writeCtl (c : CmdQueue) (val : W64) (worker : Fin 6) : CmdQueue :=
  let n := fieldNat val 8 4
  if c.en then (if bitAt val 0 then c else c.disable)
  else if n < 4 then c
  else { c with log2n := n, en := bitAt val 0, worker := if bitAt val 0 then worker else c.worker }

/-- R346, R348: enables or disables a queue. LOG2N of four bits is at most 15, though R346 allows 16 (log 27). The worker is Hazel's
choice, so free (R343). -/
def execCqctlWrite (t : TenantId) (q : QueueId) (val : BitVec 64) (s : State) : Out :=
  act (fun s =>
    if !s.fnUp t then s
    else
      let (n, s) := s.drawNat
      s.modCq t q fun c => c.writeCtl val ⟨n % 6, Nat.mod_lt _ (by decide)⟩) s

/-! ## SVCB (R294) -/

/-- Is the supervisor control block in range: ENTRY, CTXBASE, NCTX, and zero elsewhere? -/
def svcbOk (bs : List Byte) : Bool :=
  let w (i : Nat) : W64 := w64 (leNat ((bs.drop (8 * i)).take 8))
  (w 0 &&& ~~~0xFFFFFFFFFFFFC#64) == 0 && (w 1 &&& ~~~0xFFFFFFFE00000#64) == 0 && decide (1 ≤ (w 2).toNat) &&
    decide ((w 2).toNat ≤ 4096) && (bs.drop 24).all (· == 0)

/-- R294: puts the supervisor control block in force, or clears EN; a failure is logged with its code (requester class: log 28). -/
def execSvcbWrite (t : TenantId) (val : BitVec 64) (s : State) : Out :=
  act (fun s =>
    if !s.fnUp t || s.tenantBusy t then s
    else
      let base := val &&& 0xFFFFFFFFFF000
      let off (s : State) : State := s.modTenant t fun x => { x with svcb := base }
      if !bitAt val 0 then off s
      else match s.devRead t base.toNat 64 with
        | .error f => (off s).logFault t f.1 clsWorker 0x7F f.2
        | .ok bs =>
          if !svcbOk bs then (off s).logRefused t cIllegalOpcode clsWorker 0x7F base.toNat 0
          else s.modTenant t fun x => { x with
            svcb := base ||| 1, svEntry := w64 (leNat (bs.take 8)), svBase := w64 (leNat ((bs.drop 8).take 8)),
            svNctx := leNat ((bs.drop 16).take 8) }) s

/-! ## Partitions (R383 to R386) -/

/-- The clusters that a TPART value gives. -/
def partClusters (w : W64) : BitVec 16 := if bitAt w 16 then bits w 0 16 else 0

/-- Is a write of TPART accepted (R383, R406)? A tenant with resident or ready tasks keeps its clusters. -/
def State.partOk (s : State) (t : TenantId) (val : W64) : Bool :=
  let old := s.part.get t
  (!bitAt val 16 || (s.dev.board.ready && bits val 0 16 != 0 &&
    (List.finRange 16).all fun u => u == t || (partClusters (s.part.get u) &&& bits val 0 16) == 0)) &&
    (!s.tenantBusy t || bits val 0 16 == bits old 0 16)

/-- The partition registers after a write of TPART. -/
def State.newPart (s : State) (t : TenantId) (val : W64) : Vector W64 16 :=
  if s.dev.board.hazelUp && s.partOk t val then s.part.set t.val (val &&& 0x3FFFF) t.isLt else s.part

/-- A core of a cluster that changes its owner (R385, R309): what its memories and its tile file held is gone. -/
def Core.vacate (k : Core) : Core :=
  Core.emptyTiles { k with
    sv := { k.sv with town := setBit k.sv.town 32 false }, microImg := none, imem := { k.imem with halves := .replicate 2 none } }

/-- Is a place in one of the clusters, where Hazel zeroes it when they change owner? -/
def inClusters (cl : BitVec 16) (a : Nat) : Bool := (List.range 16).any fun c => bitAt cl c && inCluster c a

/-- Hazel prepares the clusters whose owner changes (R385). -/
def State.vacate (s : State) (cl : BitVec 16) : State :=
  let s := s.wipe (inClusters cl)
  let out (c : CoreId) : Core :=
    let k : Core := s.core c
    if bitAt cl (clusterOf c) then k.vacate else k
  s.upd fun d => { d with cores := Vector.ofFn out }

/-- The owner that a resource has after a grant: one that has an owner keeps it. -/
def granted (t : TenantId) (mask : Nat) (i : Nat) (old : Option (BitVec 4)) : Option (BitVec 4) :=
  if old.isNone && mask / 2 ^ i % 2 == 1 then some (BitVec.ofNat 4 t.val) else old

/-- Does Hazel accept a window: one in a tier lies within the tier's capacity (R328)? -/
def windowFits (w : W64 × W64) : Bool :=
  let limit := fieldNat w.2 16 40 * 2 ^ 16
  match fieldNat w.1 0 2 with
  | 0 => decide (limit ≤ Config.nearBytes)
  | 1 => decide (limit ≤ Config.farBytes)
  | _ => true

/-- The window registers of a new partition: a window that Hazel does not accept stays 0 (R322, R328; log 44). -/
def grantWin (g : Grant) (i : Nat) : W64 × W64 :=
  let w := g.wins.getD i (0, 0)
  if windowFits w then (w.1 &&& 0xFFFFFFFFFFFF0007, w.2 &&& 0xFFFFFFFFFF0000) else (0, 0)

/-- Hazel gives a new partition its resources (R355), translation registers and windows (R322) and DSCTL (R369). -/
def State.grant (s : State) (t : TenantId) (g : Grant) : State :=
  let s := s.modTenant t fun x => { x with
    troot := g.troot &&& 0xFFFFFFFFFFF001, kvdt := g.kvdt &&& 0xFFFFFFFFFF800, dsctl := g.dsctl &&& 0x1FFFFFF,
    winLo := Vector.ofFn fun i => (grantWin g i.val).1, winHi := Vector.ofFn fun i => (grantWin g i.val).2 }
  s.upd fun d => { d with
    hqs := Vector.ofFn fun i => let r := d.hqs.get i; { r with owner := granted t g.hq.toNat i.val r.owner }
    dns := Vector.ofFn fun i => let r := d.dns.get i; { r with owner := granted t g.dn.toNat i.val r.owner }
    hbs := Vector.ofFn fun i => let r := d.hbs.get i; { r with owner := granted t g.hb.toNat i.val r.owner }
    sgs := Vector.ofFn fun i => let r := d.sgs.get i; { r with owner := granted t g.sg.toNat i.val r.owner }
    pzs := Vector.ofFn fun i => let r := d.pzs.get i; { r with owner := granted t g.pz.toNat i.val r.owner }
    frings := Vector.ofFn fun i => let r := d.frings.get i; { r with owner := granted t g.fring.toNat i.val r.owner }
    streams := Vector.ofFn fun i => let r := d.streams.get i; { r with owner := granted t g.streams.toNat i.val r.owner } }

/-- Must an engine operation end: its tenant's partition is disabled, its core's cluster changes owner, or it has granules in one that
does (R385, R387)? -/
def EngOp.severed (o : EngOp) (t : Option TenantId) (cl : BitVec 16) : Bool :=
  t == some (tid o.tenant) || (match o.owner with | .task _ c => bitAt cl (clusterOf c) | .queue .. => false) ||
    o.grains.any fun g => inClusters cl g.place || g.src.any fun p => p.pa.any (inClusters cl)

/-- An operation ends with PERM: what it would go on to reach is its tenant's no more (R387; log 43). -/
def EngOp.sever (o : EngOp) : EngOp :=
  if o.token.isSome then { o with grains := [], list := [] } else { o.finish 2 cPerm o.pos with grains := [], list := [] }

/-- What is on its way for a partition that is disabled, or to clusters that change owner, goes no further: nothing of it lands after
they have been zeroed (R384, R385, R387; log 43). A disabled tenant's translations are gone from every TLB. -/
def State.sever (s : State) (t : Option TenantId) (cl : BitVec 16) : State :=
  let mine (n : BitVec 4) : Bool := t == some (tid n)
  let tlb (l : List TlbEntry) : List TlbEntry := l.filter fun e => !mine e.tenant
  let core (c : CoreId) : Core :=
    let k := s.core c
    let k := { k with utlb := tlb k.utlb }
    if bitAt cl (clusterOf c) then { k with ops := [], wents := [], utlb := [] } else k
  s.upd fun d => { d with
    cores := Vector.ofFn core
    eng := d.eng.map fun o => if o.severed t cl then o.sever else o
    writes := d.writes.filter fun w => !(mine w.tenant || w.pa.any (inClusters cl))
    walks := d.walks.filter fun w => !(mine w.tenant && w.turn.isNone)
    lltlb := tlb d.lltlb
    ctlb := Vector.ofFn fun i => if bitAt cl i.val then [] else tlb (d.ctlb.get i)
    samplers := d.samplers.map fun x =>
      { x with rounds := x.rounds.filter fun r => !mine r.key.tenant, trees := x.trees.filter fun r => !mine r.key.tenant,
               job := if x.job.any fun j => mine j.key.tenant then none else x.job } }

/-- A disabled partition (R385): keys, translation registers and resources are gone, and its queues are disabled. -/
def State.ungrant (s : State) (t : TenantId) : State :=
  let me (o : Option (BitVec 4)) : Bool := o == some (BitVec.ofNat 4 t.val)
  let s := s.modTenant t fun x => { x with
    troot := 0, kvdt := 0, winLo := .replicate 8 0, winHi := .replicate 8 0, kvalid := 0, mkeys := .replicate 16 0, gkey := none,
    gkeyReg := 0 }
  let s := forUpto 16 (fun i s => s.modCq t ⟨i % 16, Nat.mod_lt _ (by decide)⟩ CmdQueue.disable) s
  s.upd fun d => { d with
    hqs := d.hqs.map fun r => if me r.owner then Reset.dev.hqs.get 0 else r
    dns := d.dns.map fun r => if me r.owner then Reset.dev.dns.get 0 else r
    hbs := d.hbs.map fun r => if me r.owner then Reset.barrier else r
    sgs := d.sgs.map fun r => if me r.owner then Reset.group else r
    pzs := d.pzs.map fun r => if me r.owner then Reset.dev.pzs.get 0 else r
    frings := d.frings.map fun r => if me r.owner then Reset.dev.frings.get 0 else r
    streams := d.streams.map fun r => if me r.owner then Reset.dev.streams.get 0 else r }

/-- The slot maps that Hazel sets with a partition (R386, log 29). -/
def State.setMaps (s : State) (l : List (W64 × BitVec 16)) : State :=
  s.modBoard fun b => { b with
    slotmap := Vector.ofFn fun i => match l[i.val]? with | some x => x.1 | none => b.slotmap.get i
    used := Vector.ofFn fun i => match l[i.val]? with | some x => x.2 | none => b.used.get i }

/-- A tenant's tasks are killed (R312). -/
def State.killTenant (s : State) (t : TenantId) : State :=
  (((s.dev.launches.filter fun l => l.tenant == t).flatMap fun l => s.launchTasks l.id).map (·.id)).foldl (fun s id => s.killTask id) s

/-- What a write of TPART does beside the register. The tasks of a partition that is disabled are killed (DESIGN CHOICE, log 43). -/
def State.partWrite (s : State) (t : TenantId) (val : W64) (g : Grant) : State :=
  if !(s.dev.board.hazelUp && s.partOk t val) then s
  else
    let old := s.part.get t
    let gone := bitAt old 16 && !bitAt val 16
    let s := if gone then s.killTenant t else s
    let s := (s.sever (if gone then some t else none) (partClusters old ^^^ partClusters val)).vacate (partClusters old ^^^ partClusters val)
    let s := if gone then s.ungrant t else s
    let s := if !bitAt old 16 && bitAt val 16 then s.grant t g else s
    s.setMaps g.maps

/-- R383: the physical function writes TPART through Hazel: it creates, changes or disables a partition, or is refused. -/
def execTpartWrite (t : TenantId) (val : BitVec 64) (grant : Grant) (s : State) : Out :=
  actPart (fun s => s.newPart t val) (fun s => s.partWrite t val grant) s

/-- R390: sets or clears the valid bits of the memory keys; bit 16 is that of the generator key (log 30). -/
def execKvalidWrite (t : TenantId) (val : BitVec 64) (s : State) : Out :=
  act (fun s => if !s.fnUp t then s else s.modTenant t fun x =>
    { x with kvalid := bits val 0 16, gkey := if bitAt val 16 then some x.gkeyReg else none }) s

/-! ## Resets (R406 to R408) -/

/-- A Hazel firmware image and its signature: the last 96 bytes are r, then s (log 112). -/
def State.imageAt (s : State) (a : Nat) : List Byte × (Nat × Nat) :=
  let n := Config.imageBytes - 96
  (s.peeks a n, s.peekNat (a + n) 48, s.peekNat (a + n + 48) 48)

/-- Does an image pass VERIFY: the ROM's key is the one whose SHA-384 is fused, and it verifies the signature over the image (R392,
R406)? -/
def State.imageOk (s : State) (a : Nat) : Bool :=
  let i := s.imageAt a
  sha384 (toLe 48 Config.romKey.1 ++ toLe 48 Config.romKey.2) == Config.romFuse && ecdsaVerify Config.romKey i.1 i.2.1 i.2.2

/-- The image that the host wrote to the recovery window takes the place of one in flash that does not verify, if it verifies itself
(R407; log 112). -/
def State.recoverImage (s : State) : State :=
  if !s.imageOk Config.flashAt && s.imageOk Config.recoveryAt then
    s.pokes Config.flashAt (s.peeks Config.recoveryAt Config.imageBytes)
  else s

/-- How the stages end: VERIFY as the image has it, the others as training has it. -/
def bootVerified (b : Boot) (ok : Bool) : Boot :=
  if !ok then { b with fail := 2 } else if b.fail = 3 ∨ b.fail = 4 then b else { b with fail := 0 }

/-- BOOTSTAT as the stages leave it (R406). -/
def bootStat (b : Boot) : W64 :=
  let f := b.fail.toNat
  if f = 2 then 2 else if f = 3 then w64 (3 + b.memfail.toNat * 256) else if f = 4 then 4 else 8

/-- The ports that are bifurcated (R396): none before the LINKS stage (R406). -/
def bootSplit (b : Boot) : BitVec 4 := if b.fail = 2 ∨ b.fail = 3 then 0 else b.split

/-- The links that train: that of port 0 alone before the LINKS stage (R406); then both of a port that is bifurcated (R396). -/
def bootLinks (b : Boot) : Vector Bool 8 :=
  let f := b.fail.toNat
  Vector.ofFn fun i =>
    if f = 2 ∨ f = 3 then i.val == 0
    else (f != 4 || bitAt b.ports (i.val / 2)) && (i.val % 2 == 0 || bitAt b.split (i.val / 2))

/-- The device runs its bring-up stages: every register is at its reset value, DTIME starts at 0, and, once VERIFY has passed, every SRAM is
zero (R406). The environment's tape and what the host has been given stay (log 1). -/
def State.bringUp (s : State) (b : Boot) : State :=
  let s := s.recoverImage
  let ok := s.imageOk Config.flashAt
  let b := bootVerified b ok
  let s := if ok then s.wipe isSram else s
  s.upd fun d => { Reset.dev with
    board := { Reset.board with bootstat := bootStat b, split := bootSplit b, links := bootLinks b, out := d.board.out }
    wbuf := d.wbuf, tags := d.tags, turns := d.turns, rr := d.rr, cur := d.cur, free := d.free, nextId := d.nextId }

/-- R406: power-on reset. The memories hold what the model's memory holds after power-on (log 3); the flash keeps its image. -/
def execPowerOnReset (boot : Boot) (s : State) : Out :=
  actPart (fun _ => .replicate 16 0) (fun s => (s.wipe fun a => decide (a < Config.flashAt)).bringUp boot) s

/-- R406: a write of 1 to DEVCTL.RESET; what the tiers hold after it is not stated: it stays (log 31). -/
def execDeviceReset (boot : Boot) (s : State) : Out :=
  actPart (fun s => if s.dev.board.off then s.part else .replicate 16 0) (fun s => if s.dev.board.off then s else s.bringUp boot) s

/-- The outcome of the training of a reset that names none is free (log 8). -/
def State.freeBoot (s : State) : Boot × State :=
  let (w, s) := s.drawWord
  let (x, s) := s.drawWord
  ({ fail := bits w 0 3, memfail := bits w 8 56, ports := bits w 3 4, split := bits x 0 4 }, s)

/-- A reset of virtual function n + 1 (R408): tasks are killed, queues and egress channels disabled. -/
def State.resetTenant (s : State) (t : TenantId) : State :=
  let s := s.killTenant t
  let s := forUpto 16 (fun i s => s.modCq t ⟨i % 16, Nat.mod_lt _ (by decide)⟩ CmdQueue.disable) s
  s.modTenant t fun x => { x with egress := x.egress.map fun e => { e with ctl := setBit e.ctl 0 false } }

/-- R408: a function-level reset; that of function 0 acts as DEVCTL.RESET. -/
def execFunctionLevelReset (fn : BitVec 5) (s : State) : Out :=
  if fn = 0 then
    actPart (fun s => if s.dev.board.off then s.part else .replicate 16 0) (fun s =>
      if s.dev.board.off then s
      else
        let (b, s) := s.freeBoot
        s.bringUp b) s
  else act (fun s => match fnTenant fn with
    | some t => if s.dev.board.vfUp then s.resetTenant t else s
    | none => s) s

/-! ## Heat (R411) -/

/-- The trip, by TEMP and TRIP: at TRIP it is entered, which TRIPPED counts, and every island goes to its lowest operating point; at 5 °C
below it is left. -/
def Board.judge (b : Board) : Board :=
  let temp := fieldNat b.thermstat 0 8
  let trip := fieldNat b.thermctl 0 8
  if trip ≤ temp ∧ b.tripped = false then
    { b with tripped := true, thermstat := setField b.thermstat 8 32 (min (fieldNat b.thermstat 8 32 + 1) 0xFFFFFFFF)
             island := Vector.ofFn fun i => Config.lowestPoint i.val }
  else if temp + 5 ≤ trip then { b with tripped := false }
  else b

/-- A new temperature, which THERMSTAT shows. -/
def Board.heat (b : Board) (temp : BitVec 8) : Board := ({ b with thermstat := setField b.thermstat 0 8 temp.toNat } : Board).judge

/-! ## Registers without a row of their own (R6, R346, R369, R389, R390, R397, R399, R403, R407, R412) -/

/-- A write of a command-queue register at its offset. If a write of CQCMD has both bits, ABANDON acts. -/
def CmdQueue.writeReg (c : CmdQueue) (off : Nat) (val : W64) : CmdQueue := match off with
  | 0x00 => if c.en then c else { c with base := val &&& 0xFFFFFFFFFF000 }
  | 0x30 => if bitAt val 1 then c.abandon else if bitAt val 0 then c.resume else c
  | 0x38 => { c with wd1 := bits val 0 32, wd2 := bits val 32 32 }
  | _ => c

/-- A write of an egress register at its offset (R403; offsets: log 32). -/
def Egress.writeReg (e : Egress) (off : Nat) (val : W64) : Egress := match off with
  | 0x00 => { e with base := val &&& 0xFFFFFFFFFFFFFFC0 }
  | 0x08 =>
    let n := fieldNat val 3 5
    let m := fieldNat val 8 14
    if n < 12 ∨ 30 < n ∨ m < 576 ∨ 9000 < m ∨ fieldNat val 1 2 = 3 then e else { e with ctl := val &&& 0x1FFFFFFF }
  | 0x10 => { e with ssrc := val &&& 0xFFFFFFFF }
  | 0x20 => { e with rp := bits val 0 32 }
  | _ => e

/-- A write of one of a tenant's own registers at BAR0 0x1000 on. -/
def Tenant.writeReg (x : Tenant) (off : Nat) (val : W64) : Tenant := match off with
  | 0x1000 => { x with dsctl := val &&& 0x1FFFFFF }
  | 0x1010 => { x with flbase := val &&& 0xFFFFFFFFFF000 }
  | 0x1018 => if fieldNat val 0 5 < 6 ∨ 16 < fieldNat val 0 5 then x else { x with flctl := val &&& 0x3F }
  | 0x1028 => { x with flrp := bits val 0 32 }
  | 0x1030 => { x with fldrop := x.fldrop &&& ~~~(bits val 0 32) }
  | _ => x

/-- Replaces doubleword j of a key. -/
def setDword {n : Nat} (w : BitVec n) (j : Nat) (val : W64) : BitVec n :=
  BitVec.ofNat n (w.toNat - w.toNat / 2 ^ (64 * j) % 2 ^ 64 * 2 ^ (64 * j) + val.toNat * 2 ^ (64 * j))

/-- A write of key doublewords: MKEYk, then GKEY (R390, R416). -/
def Tenant.writeKey (x : Tenant) (off : Nat) (val : W64) : Tenant :=
  if off < 0x2400 then
    let k : Fin 16 := ⟨(off - 0x2000) / 0x40 % 16, Nat.mod_lt _ (by decide)⟩
    { x with mkeys := x.mkeys.set k.val (setDword (x.mkeys.get k) (off % 0x40 / 8) val) k.isLt }
  else if off < 0x2420 then
    let g := setDword x.gkeyReg ((off - 0x2400) / 8) val
    { x with gkeyReg := g, gkey := x.gkey.map fun _ => g }
  else x

/-- A write through a tenant's function. -/
def State.tenantReg (s : State) (t : TenantId) (off : Nat) (val : W64) : State :=
  if off < 0x800 then s.modCq t ⟨off / 0x80 % 16, Nat.mod_lt _ (by decide)⟩ fun c => c.writeReg (off % 0x80) val
  else if 0x1000 ≤ off ∧ off < 0x2000 then s.modTenant t fun x => x.writeReg off val
  else if 0x2000 ≤ off ∧ off < 0x3000 then s.modTenant t fun x => x.writeKey off val
  else if 0x3000 ≤ off ∧ off < 0x4000 then
    let e : Fin 64 := ⟨(off - 0x3000) / 0x40 % 64, Nat.mod_lt _ (by decide)⟩
    s.modTenant t fun x => { x with egress := x.egress.set e.val ((x.egress.get e).writeReg (off % 0x40) val) e.isLt }
  else s

/-- A W1C counter of a core (R379, R412). -/
def IMem.clear (m : IMem) (off : Nat) (val : W64) : IMem := match off with
  | 0 => { m with miss := m.miss &&& ~~~val }
  | 8 => { m with missClk := m.missClk &&& ~~~val }
  | 16 => { m with nop := m.nop &&& ~~~val }
  | _ => m

/-- A write through function 0 (R397, R399, R407, R412). -/
def State.deviceReg (s : State) (off : Nat) (val : W64) : State :=
  if s.dev.board.stage = 2 then
    if 0x18000 ≤ off ∧ off < 0x28000 then s.pokes (Config.recoveryAt + (off - 0x18000)) (toLe 8 val.toNat) else s
  else if off = 0x10010 then
    if fieldNat val 0 8 < 85 ∨ 115 < fieldNat val 0 8 then s else s.modBoard fun b => ({ b with thermctl := val &&& 0xFF } : Board).judge
  else if off = 0x10018 then s.modBoard fun b => { b with thermstat := b.thermstat &&& ~~~(val &&& 0xFFFFFFFF00) }
  else if 0x11000 ≤ off ∧ off < 0x12000 then
    s.modCore ⟨(off - 0x11000) / 32 % 128, Nat.mod_lt _ (by decide)⟩ fun k => { k with imem := k.imem.clear (off % 32) val }
  else if 0x12000 ≤ off ∧ off < 0x12800 then
    let n : Fin 256 := ⟨(off - 0x12000) / 8 % 256, Nat.mod_lt _ (by decide)⟩
    s.modBoard fun b => { b with peers := b.peers.set n.val (val &&& 0x80FFFFFFFFFF0000) n.isLt }
  else if off = 0x13000 ∧ !bitAt val 62 ∧ s.dev.board.ckptJob.isNone then
    s.modBoard fun b => { b with ckpt := (b.ckpt &&& 0x8000000000000000) ||| (val &&& 0x200FFFFFFFFFF000) }
  else s

/-! ### What a read returns (R6) -/

/-- A command-queue register (R346); none at an offset without one. -/
def CmdQueue.readReg (c : CmdQueue) (off : Nat) : Option W64 := match off with
  | 0x00 => some c.base
  | 0x08 => some ((if c.en then 1 else 0) + w64 (c.log2n % 16 * 2 ^ 8))
  | 0x10 => some (c.rp.setWidth 64)
  | 0x18 => some (c.wp.setWidth 64)
  | 0x20 => some (w64 (c.state.toNat + c.code.toNat * 2 ^ 8))
  | 0x28 => some (c.cpc &&& 0xFFFFFFFFFFFFC)
  | 0x30 => some 0
  | 0x38 => some (w64 (c.wd1.toNat + c.wd2.toNat * 2 ^ 32))
  | 0x40 => some (c.prog.setWidth 64)
  | _ => none

/-- An egress register (R403; offsets: log 32). -/
def Egress.readReg (e : Egress) (off : Nat) : Option W64 := match off with
  | 0x00 => some e.base
  | 0x08 => some e.ctl
  | 0x10 => some e.ssrc
  | 0x18 => some (e.wp.setWidth 64)
  | 0x20 => some (e.rp.setWidth 64)
  | _ => none

/-- One of a tenant's own registers at BAR0 0x1000 on (R369, R389, R294), and its key registers, which read 0 (R390). -/
def Tenant.readReg (x : Tenant) (off : Nat) : Option W64 := match off with
  | 0x1000 => some x.dsctl
  | 0x1010 => some x.flbase
  | 0x1018 => some x.flctl
  | 0x1020 => some (x.flwp.setWidth 64)
  | 0x1028 => some (x.flrp.setWidth 64)
  | 0x1030 => some (x.fldrop.setWidth 64)
  | 0x1040 => some x.svcb
  | 0x2440 => some (x.kvalid.setWidth 64 + if x.gkey.isSome then 0x10000 else 0)
  | _ => if 0x2000 ≤ off ∧ off < 0x2420 then some 0 else none

/-- A read through a tenant's function; one whose partition does not exist has its TPART alone (R383, R384). -/
def State.tenantRead (s : State) (t : TenantId) (off : Nat) : Option W64 :=
  if off = 0x1008 then some (s.part.get t)
  else if !s.fnUp t then none
  else if off < 0x800 then (s.cq t ⟨off / 0x80 % 16, Nat.mod_lt _ (by decide)⟩).readReg (off % 0x80)
  else if 0x3000 ≤ off ∧ off < 0x4000 then ((s.tenant t).egress.get ⟨(off - 0x3000) / 0x40 % 64, Nat.mod_lt _ (by decide)⟩).readReg (off % 0x40)
  else (s.tenant t).readReg off

/-- A counter of a core (R412). -/
def IMem.counter (m : IMem) (off : Nat) : Option W64 := match off with
  | 0 => some m.miss
  | 8 => some m.missClk
  | 16 => some m.nop
  | _ => none

/-- A read through function 0 (R397, R399, R407, R412); before VERIFY has passed only BOOTSTAT and the recovery window are there. -/
def State.deviceRead (s : State) (off : Nat) : Option W64 :=
  let b := s.dev.board
  if off = 0x10000 then some b.bootstat
  else if b.stage = 2 then
    if 0x18000 ≤ off ∧ off < 0x28000 then some (w64 (s.peekNat (Config.recoveryAt + (off - 0x18000)) 8)) else none
  else if off = 0x10008 then some 0
  else if off = 0x10010 then some b.thermctl
  else if off = 0x10018 then some b.thermstat
  else if h : 0x10100 ≤ off ∧ off < 0x101C0 then some (b.island.get ⟨(off - 0x10100) / 8, by omega⟩)
  else if 0x11000 ≤ off ∧ off < 0x12000 then
    (s.core ⟨(off - 0x11000) / 32 % 128, Nat.mod_lt _ (by decide)⟩).imem.counter (off % 32)
  else if 0x12000 ≤ off ∧ off < 0x12800 then some (b.peers.get ⟨(off - 0x12000) / 8 % 256, Nat.mod_lt _ (by decide)⟩)
  else if off = 0x13000 then some b.ckpt
  else none

/-- What a function's BAR0 shows at an offset; none where no register is (R396). -/
def State.hostRead (s : State) (fn : BitVec 5) (off : Nat) : Option W64 :=
  if fn = 0 then s.deviceRead off else if s.dev.board.vfUp then (fnTenant fn).bind fun t => s.tenantRead t off else none

/-- The host reads 8 bytes of a function's BAR0; an offset without a register is Unsupported Request (R6, R396). -/
def State.regRead (s : State) (fn : BitVec 5) (off : BitVec 20) : State :=
  if s.dev.board.bootstat = 0 ∨ off.toNat % 8 ≠ 0 then s else s.emit (.readData (s.hostRead fn off.toNat))

/-- Unsupported Request; a refused access of a tenant's function is logged, its requester class free (R387, log 34). -/
def State.unsupported (s : State) (t : Option TenantId) (code va : Nat) : State :=
  let s := match t with
    | some t =>
      if s.engineLogs code va then
        let (n, s) := s.drawNat
        s.logFault t code (n % 8) 0x7F va
      else s
    | none => s
  s.emit (.readData none)

/-- R6, R396: a write of 8 bytes to a register that has no row of its own; to an offset without a register: Unsupported Request. -/
def execRegisterWrite (fn : BitVec 5) (off : BitVec 20) (val : BitVec 64) (s : State) : Out :=
  act (fun s =>
    if s.dev.board.bootstat = 0 ∨ off.toNat % 8 ≠ 0 then s
    else if (s.hostRead fn off.toNat).isNone then s.unsupported none 0 0
    else if fn = 0 then s.deviceReg off.toNat val
    else match fnTenant fn with
      | some t => if s.fnUp t then s.tenantReg t off.toNat val else s
      | none => s) s

/-! ## Checkpoint (R399) -/

/-- A write of CKPT with GO: admission stops and every resident cohort is pre-empted (R378, R399). -/
def State.startCkpt (s : State) (val : W64) (restore : Bool) : State :=
  if !s.dev.board.hazelUp || s.dev.board.ckptJob.isSome || !bitAt val 62 || bitAt val 61 != restore then s
  else
    let s := s.modBoard fun b => { b with
      ckpt := val &&& 0x600FFFFFFFFFF000, ckptJob := some { target := fieldNat val 12 40 * 4096, restore := restore } }
    (s.dev.cohorts.filter fun c => c.state == .resident).foldl (fun s c => s.preemptCohort c.id) s

/-- R399: starts a checkpoint. -/
def execCheckpoint (val : BitVec 64) (s : State) : Out := act (fun s => s.startCkpt val false) s

/-- R399: starts a restore. -/
def execRestore (val : BitVec 64) (s : State) : Out := act (fun s => s.startCkpt val true) s

/-- Where the memories stand in the safe tier, in the order of step 4 (layout: log 33): place, offset, bytes. -/
def safeParts : List (Nat × Nat × Nat) :=
  (List.range 128).map (fun n => (vaultAddr n 0, n * Config.vaultBytes, Config.vaultBytes)) ++
    [(Config.nearAt, 128 * Config.vaultBytes, Config.nearBytes),
     (Config.farAt, 128 * Config.vaultBytes + Config.nearBytes, Config.farBytes)]

/-- R399: every pre-emption has completed, every engine operation has written its token, and a link is up: memory has been written to
the safe tier, or read back from it, the tiers as ciphertext (R391), DONE is set, and admission resumes. -/
def execCheckpointDone (s : State) : Out :=
  act (fun s => match s.dev.board.ckptJob with
    | none => s
    | some j =>
      if s.dev.cohorts.any (fun c => c.state == .resident || c.state == .preempting) || !s.dev.eng.isEmpty ||
          !s.dev.board.links.toList.any (fun up => up) then s
      else
        let s := safeParts.foldl (fun s p =>
          let at_ := Config.hostAt + j.target + p.2.1
          if j.restore then s.moveBytes at_ p.1 p.2.2 else s.moveBytes p.1 at_ p.2.2) s.seal
        let s := if j.restore then s.restoreTags else s
        s.modBoard fun b => { b with ckptJob := none, ckpt := setBit b.ckpt 63 true }) s

/-! ## Attestation (R393) -/

/-- The slots of a class that are a tenant's: bit j for slot j (R386). -/
def State.slotsOf (s : State) (k : Fin 7) (t : TenantId) : Nat :=
  let b := s.dev.board
  (List.range 16).foldl (fun n j => if bitAt (b.used.get k) j && fieldNat (b.slotmap.get k) (4 * j) 4 == t.val then n + 2 ^ j else n) 0

/-- What a report says of a tenant's partition, in doublewords: TPART, its slots in each class, its windows and RELAX (R393; layout:
log 113). -/
def State.partBytes (s : State) (t : TenantId) : List Byte :=
  let x := s.tenant t
  ([(s.part.get t).toNat] ++ (List.finRange 7).map (fun k => s.slotsOf k t) ++ ((x.winLo.toList ++ x.winHi.toList).map fun w : W64 => w.toNat) ++
    [if s.relaxed t then 1 else 0]).flatMap (toLe 8)

/-- A signature over a message: r, then s, 48 bytes each (R392, R393). -/
def signatureBytes (key : Nat) (m : List Byte) : List Byte :=
  let p := ecdsaSign key (Config.signNonce m) m
  toLe 48 p.1 ++ toLe 48 p.2

/-- The device identity certificate: the public identity key and the issuer's signature over it (R392; layout: log 112). -/
def identityCert : List Byte :=
  let key : List Byte := match ecMul 384 Config.identityKey ecG with
    | some q => toLe 48 q.1 ++ toLe 48 q.2
    | none => zeros 96
  key ++ signatureBytes Config.issuerKey key

/-- The first 160 bytes of a report (R393). -/
def State.reportBody (s : State) (fn : BitVec 5) (nonce : BitVec 256) : List Byte :=
  let part : List Byte := match fnTenant fn with
    | some t => sha384 (s.partBytes t)
    | none => zeros 48
  sha384 (s.imageAt Config.flashAt).1 ++ part ++ toLe 32 nonce.toNat ++ toLe 8 s.dev.board.dtime ++ toLe 24 Config.serial.toNat

/-- The 256 bytes of a report: its signature, by the device identity key, last (R392, R393). -/
def State.reportBytes (s : State) (fn : BitVec 5) (nonce : BitVec 256) : List Byte :=
  s.reportBody fn nonce ++ signatureBytes Config.identityKey (s.reportBody fn nonce)

/-- R393: Hazel returns a signed report. -/
def execAttestationReport (fn : BitVec 5) (nonce : BitVec 256) (s : State) : Out :=
  act (fun s =>
    if !s.dev.board.hazelUp || (fn ≠ 0 && (fnTenant fn).isNone) || (fn ≠ 0 && !s.dev.board.vfUp) then s
    else s.emit (.report (s.reportBytes fn nonce))) s

/-! ## BAR2 (R396) -/

/-- The places of an access through function 0. -/
def pfPlace (off : Nat) : Option Nat :=
  if off < Config.nearBytes then some (Config.nearAt + off)
  else if off < Config.nearBytes + Config.farBytes then some (Config.farAt + (off - Config.nearBytes))
  else none

/-- The bytes of an access through function 0, all populated. -/
def pfSpan (off n : Nat) : Option Nat := match pfPlace off, pfPlace (off + n - 1) with
  | some p, some q => if q = p + n - 1 then some p else none
  | _, _ => none

/-- Bytes of a tier as they lie there (R391). -/
def State.peekRaws (s : State) (p n : Nat) : List Byte := (addrs p n).map s.peekRaw

/-- Writes bytes of a tier as they lie there. -/
def State.pokeRaws : State → Nat → List Byte → State
  | s, _, [] => s
  | s, p, b :: bs => State.pokeRaws (s.pokeRaw p b) (p + 1) bs

/-- R396: a host or peer access of `len` bytes through BAR2, through a tenant's function while its partition exists (R384); function 0 sees
the tiers' ciphertext (R391). -/
def execHostBar2Access (fn : BitVec 5) (off : BitVec 41) (len : BitVec 4) (write : Option (BitVec 64)) (s : State) : Out :=
  act (fun s =>
    let n := len.toNat
    let at_ := off.toNat
    if n = 0 ∨ 8 < n ∨ s.dev.board.bootstat = 0 then s
    else if !s.dev.board.vfUp then s.unsupported none 0 0
    else if fn = 0 then match pfSpan at_ n, write with
      | none, _ => s.unsupported none 0 0
      | some p, none => s.emit (.readData (some (w64 (leNat (s.peekRaws p n)))))
      | some p, some w => s.pokeRaws p (toLe n w.toNat)
    else match fnTenant fn with
      | none => s.unsupported none 0 0
      | some t => if !s.fnUp t then s.unsupported none 0 0 else match write with
        | none => match s.devNat t at_ n with
          | .ok v => s.emit (.readData (some (w64 v)))
          | .error f => s.unsupported (some t) f.1 f.2
        | some w => match s.devWrite t at_ (toLe n w.toNat) with
          | .ok s => s
          | .error f => s.unsupported (some t) f.1 f.2) s

/-! ## Links, islands and heat (R397, R409, R411) -/

/-- The link that an event names is the cursor's number: link 2p, or 2p + 1, of port p. -/
def State.setLink (s : State) (up : Bool) : State :=
  s.modBoard fun b => { b with links := b.links.set (s.dev.cur.n % 8) up (Nat.mod_lt _ (by decide)) }

/-- May a link come up: before the LINKS stage that of port 0 alone, the second of a port only where the port is bifurcated (R396,
R406)? -/
def Board.trains (b : Board) (n : Nat) : Bool :=
  if b.vfUp then n % 2 == 0 || bitAt b.split (n / 2) else b.bootstat != 0 && n == 0

/-- R397: a link of a port goes down. -/
def execLinkDrops (s : State) : Out := act (fun s => s.setLink false) s

/-- R397: a link of a port comes up. -/
def execLinkUp (s : State) : Out := act (fun s => if s.dev.board.trains (s.dev.cur.n % 8) then s.setLink true else s) s

/-- A junction temperature acts (R411): at 125 °C every island but always-on is powered off: the links drop, every context is gone, and
nothing is preserved but the flash; below, the trip is entered or left. -/
def State.heated (s : State) (temp : BitVec 8) : State :=
  if temp.toNat < 125 then s.modBoard fun b => b.heat temp
  else
    let s := s.wipe fun a => decide (a < Config.flashAt) || (decide (Config.vlatAt ≤ a) && decide (a < Config.hostAt))
    s.upd fun d => { Reset.dev with
      board := { Reset.board with dtime := d.board.dtime, off := true, out := d.board.out }
      wbuf := d.wbuf, turns := d.turns, rr := d.rr, cur := d.cur, free := d.free, nextId := d.nextId }

/-- The partition registers when a junction temperature acts. -/
def State.heatedPart (s : State) (temp : BitVec 8) : Vector W64 16 := if temp.toNat < 125 then s.part else .replicate 16 0

/-- R411: the temperature reaches TRIP. -/
def execThermalTrip (temp : BitVec 8) (s : State) : Out := actPart (fun s => s.heatedPart temp) (fun s => s.heated temp) s

/-- R411: the temperature falls 5 °C below TRIP. -/
def execThermalTripExit (temp : BitVec 8) (s : State) : Out := actPart (fun s => s.heatedPart temp) (fun s => s.heated temp) s

/-- R411: the temperature reaches 125 °C. -/
def execThermalShutdown (temp : BitVec 8) (s : State) : Out := actPart (fun s => s.heatedPart temp) (fun s => s.heated temp) s

/-- R409: an island changes its operating point, unless a trip limits it (R411) or nothing of the device runs (R407); ISLSTAT shows it
(R412). -/
def execOperatingPointChange (island : BitVec 5) (mhz mv : BitVec 16) (watt : BitVec 32) (s : State) : Out :=
  act (fun s => s.modBoard fun b =>
    if h : island.toNat < 24 ∧ b.tripped = false ∧ b.hazelUp = true then
      { b with island := b.island.set island.toNat (w64 (mhz.toNat + mv.toNat * 2 ^ 16 + watt.toNat * 2 ^ 32)) h.1 }
    else b) s

/-! ## Slots (R386 to R388) -/

/-- R386: the slot of the current microsecond begins. -/
def execSlotBoundary (s : State) : Out := act (fun s => s.modBoard fun b => { b with slot := slotAt b.dtime }) s

end Sys2Proof.Machine
end

