-- ==== Sys2Proof/Machine/Container.lean ====
section
/-! DEFINITION. The forms in which Sesame delivers coded video (R405): the boxes of a CMAF track (ISO/IEC 23000-19, 14496-12 and 14496-15,
and the AV1 binding), and RTP packets (RFC 3550) with the AOM AV1 and the RFC 7798 payload formats. The coded bytes themselves come from
the encoder (log 37). -/

namespace Sys2Proof.Machine

/-! ## Boxes -/

/-- The bytes of a text. -/
def ascii (t : String) : List Byte := t.toList.map fun c => BitVec.ofNat 8 c.toNat

/-- `n` bytes of zeros. -/
def nul (n : Nat) : List Byte := List.replicate n 0

/-- A box: its length, its type, its bytes. -/
def box (t : String) (p : List Byte) : List Byte := toBe 4 (8 + p.length) ++ ascii t ++ p

/-- A box with a version and flags. -/
def fullBox (t : String) (ver flags : Nat) (p : List Byte) : List Byte := box t (toBe 1 ver ++ toBe 3 flags ++ p)

/-- The unity matrix of a header box. -/
def unityMatrix : List Byte := toBe 4 0x10000 ++ nul 12 ++ toBe 4 0x10000 ++ nul 12 ++ toBe 4 0x40000000

/-- A visual sample entry: AV1's, or HEVC's; `config`: the bytes of its configuration box. -/
def sampleEntry (hevc : Bool) (width height : Nat) (config : List Byte) : List Byte :=
  box (if hevc then "hvc1" else "av01")
    (nul 6 ++ toBe 2 1 ++ nul 16 ++ toBe 2 width ++ toBe 2 height ++ toBe 4 0x480000 ++ toBe 4 0x480000 ++ nul 4 ++ toBe 2 1 ++ nul 32 ++
      toBe 2 24 ++ toBe 2 0xFFFF ++ box (if hevc then "hvcC" else "av1C") config)

/-- The tables of a track without samples of its own. -/
def sampleTables (entry : List Byte) : List Byte :=
  box "stbl" (fullBox "stsd" 0 0 (toBe 4 1 ++ entry) ++ fullBox "stts" 0 0 (nul 4) ++ fullBox "stsc" 0 0 (nul 4) ++
    fullBox "stsz" 0 0 (nul 8) ++ fullBox "stco" 0 0 (nul 4))

/-- The one track of an init segment. -/
def trackBox (width height timescale : Nat) (entry : List Byte) : List Byte :=
  box "trak"
    (fullBox "tkhd" 0 7 (nul 8 ++ toBe 4 1 ++ nul 4 ++ toBe 4 0 ++ nul 16 ++ unityMatrix ++ toBe 4 (width * 2 ^ 16) ++ toBe 4 (height * 2 ^ 16)) ++
      box "mdia"
        (fullBox "mdhd" 0 0 (nul 8 ++ toBe 4 timescale ++ toBe 4 0 ++ toBe 2 0x55C4 ++ nul 2) ++
          fullBox "hdlr" 0 0 (nul 4 ++ ascii "vide" ++ nul 13) ++
          box "minf" (fullBox "vmhd" 0 1 (nul 8) ++ box "dinf" (fullBox "dref" 0 0 (toBe 4 1 ++ fullBox "url " 0 1 [])) ++
            sampleTables entry)))

/-- The init segment of a CMAF track: `ftyp`, then `moov`, with a timescale of 10^9 (R405). -/
def initSegment (hevc : Bool) (width height : Nat) (config : List Byte) : List Byte :=
  box "ftyp" (ascii "cmfc" ++ toBe 4 0 ++ ascii "iso6" ++ ascii "cmfc") ++
    box "moov"
      (fullBox "mvhd" 0 0 (nul 8 ++ toBe 4 1000000000 ++ toBe 4 0 ++ toBe 4 0x10000 ++ toBe 2 0x100 ++ nul 10 ++ unityMatrix ++ nul 24 ++
          toBe 4 2) ++
        trackBox width height 1000000000 (sampleEntry hevc width height config) ++
        box "mvex" (fullBox "trex" 0 0 (toBe 4 1 ++ toBe 4 1 ++ nul 12)))

/-- `moof` of a chunk with one sample of `size` bytes: its number among the track's chunks, its decode time, its duration, and whether it
begins a fragment, with a sync sample (R405). `at_`: where the sample's bytes begin, from the box's first byte. -/
def moofBox (seq time duration size at_ : Nat) (key : Bool) : List Byte :=
  box "moof"
    (fullBox "mfhd" 0 0 (toBe 4 seq) ++
      box "traf"
        (fullBox "tfhd" 0 0x20000 (toBe 4 1) ++ fullBox "tfdt" 1 0 (toBe 8 time) ++
          fullBox "trun" 0 0x701
            (toBe 4 1 ++ toBe 4 at_ ++ toBe 4 duration ++ toBe 4 size ++ toBe 4 (if key then 0x2000000 else 0x1010000))))

/-- One chunk of a CMAF track: `moof`, then `mdat` with a frame's bytes (R405). -/
def cmafChunk (seq frame period : Nat) (key : Bool) (bs : List Byte) : List Byte :=
  let head (at_ : Nat) : List Byte := moofBox seq (frame * period) period bs.length at_ key
  head ((head 0).length + 8) ++ box "mdat" bs

/-! ## RTP payloads -/

/-- A payload of at most `n` bytes: its bytes, and how many of the source it takes. `hevc`: RFC 7798, for one NAL unit, else the AOM AV1
format, for one OBU; `sent`: how many source bytes have gone; `first`: the packet is the first of a coded video sequence. -/
def rtpPayload (hevc first : Bool) (n sent : Nat) (src : List Byte) : List Byte × Nat :=
  if hevc then
    if sent = 0 ∧ src.length ≤ n then (src, src.length)
    else
      let from_ := max sent 2
      let part := (src.drop from_).take (n - 3)
      let h0 := nth src 0 0
      let last := decide (src.length ≤ from_ + part.length)
      let fu : Nat := (if sent = 0 then 128 else 0) + (if last then 64 else 0) + h0.toNat / 2 % 64
      ([BitVec.ofNat 8 (h0.toNat / 128 * 128 + 98 + h0.toNat % 2), nth src 1 0, BitVec.ofNat 8 fu] ++ part, from_ + part.length - sent)
  else
    let part := (src.drop sent).take (n - 1)
    let last := decide (src.length ≤ sent + part.length)
    let agg : Nat := (if sent = 0 then 0 else 128) + (if last then 0 else 64) + 16 + (if first && sent == 0 then 8 else 0)
    (BitVec.ofNat 8 agg :: part, part.length)

end Sys2Proof.Machine
end

