-- ==== Sys2Proof/Machine/Media.lean ====
section
/-! DEFINITION. Frames after the cores: the latent decoders (R239, R401), the encoders (R402, R403) and Sesame (R403 to R405). The
cursor's number names the frame ring whose token is taken, or the decoder or encoder that finishes. -/

namespace Sys2Proof.Machine

/-! ## Frame rings -/

/-- The frame ring that a take names: the cursor's number. -/
def State.curRing (s : State) : BitVec 8 := BitVec.ofNat 8 s.dev.cur.n

/-- The tenant that owns a frame ring. -/
def FrameRing.tenant (f : FrameRing) : TenantId := tid (f.owner.getD 0)

/-- The decoder of a frame ring. -/
def FrameRing.dec (f : FrameRing) : Fin 4 := ⟨fieldNat (f.dw.get 0) 16 2 % 4, Nat.mod_lt _ (by decide)⟩

/-- The encoder of a frame ring. -/
def FrameRing.enc (f : FrameRing) : Fin 8 := ⟨fieldNat (f.dw.get 0) 20 3 % 8, Nat.mod_lt _ (by decide)⟩

/-- Queue of bitstream chunks. -/
def FrameRing.bsq (f : FrameRing) : BitVec 8 := bits (f.dw.get 7) 0 8

/-- First byte of the slot that a token names (R356). -/
def FrameRing.slotAddr (f : FrameRing) (w : W64) : Nat := f.slot0 + tokSlot w * f.stride

/-- A refused access of a decoder or an encoder enters the fault log (R414). -/
def State.mediaFault (s : State) (f : FrameRing) (cls : Nat) (e : Nat × Nat) : State := s.logFault f.tenant e.1 cls 0x7F e.2

/-- The party's error report of a queue that it may not use (R356): an entry of the fault log. -/
def State.partyRefused (s : State) (f : FrameRing) (cls : Nat) : State := s.logRefused f.tenant cPerm cls 0x7F 0 0

/-- A party takes the oldest token of a queue, if there is one. -/
def State.partyTake (s : State) (q : BitVec 8) : Option (W64 × State) := match (s.hq q).toks with
  | w :: rest => some (w, s.modHq q fun h => { h with toks := rest })
  | [] => none

/-! ## Latent decoders (R401) -/

/-- R239: the decoder of the ring that the cursor names takes a token from DECQ. -/
def execDecoderTake (s : State) : Out :=
  act (fun s =>
    let n := s.curRing
    let f := s.fring n
    let q := f.queue 1
    if !f.en || !(s.hq q).en || (s.hq q).toks.isEmpty || !(s.hq q).getters.isEmpty || (s.dev.decs.get f.dec).isSome then s
    else if !(s.hq q).mayGet 1 then s.partyRefused f clsDecoder
    else match s.partyTake q with
      | none => s
      | some (w, s) =>
        s.upd fun d => { d with decs := d.decs.set f.dec.val (some { ring := n, tok := w, last := false, coded := 0 }) f.dec.isLt }) s

/-- What a decoder reads for a frame: the ring, the frame's latent size, the latent bytes, and the weights. -/
structure DecodeIn where
  ring : FrameRing
  half : Bool
  lw : Nat
  lat : Array Byte
  proj : Array Byte
deriving DecidableEq, Repr

/-- The rational value of a finite number. -/
def FVal.rat : FVal → Option ℚ
  | .fin neg m e => some ((if neg then -(m : ℚ) else m) * (2 : ℚ) ^ e)
  | _ => none

/-- BF16 element i of bytes. -/
def bf16At (b : Array Byte) (i : Nat) : FVal := bf16.decode (pick b (2 * i) 2)

/-- out[j] of a latent cell (R401), exact and rounded once to FP32 (log 36). -/
def DecodeIn.out (x : DecodeIn) (cell j : Nat) : FVal :=
  let k := 3 * x.ring.shuf ^ 2
  let c := x.ring.chans
  let terms := (List.range c).map fun ch => (bf16At x.proj (ch * k + j)).mul (bf16At x.lat (cell * c + ch))
  f32 (toF32 (terms.foldl (fun a b => FVal.add 0 a b) (bf16At x.proj (c * k + j))))

/-- The colour `col` (0 R, 1 G, 2 B) of a pixel (R401). -/
def DecodeIn.rgb (x : DecodeIn) (py px col : Nat) : Option ℚ :=
  let r := x.ring.shuf
  let py := if x.half then py / 2 else py
  let px := if x.half then px / 2 else px
  (x.out (py / r * x.lw + px / r) (3 * (r * (py % r) + px % r) + col)).rat

/-- RoundNearestEven of a rational. -/
def rneRat (q : ℚ) : Int :=
  let f := ⌊q⌋
  let d := q - f
  if d < 1 / 2 then f else if 1 / 2 < d then f + 1 else if f % 2 = 0 then f else f + 1

/-- A sample, rounded and clamped; a value with a colour that is no number is free (log 36). -/
def sample (lo hi : Int) (free : Nat) : Option ℚ → Nat
  | some q => (max lo (min hi (rneRat q))).toNat
  | none => Config.freeNat free % 1024

/-- Y′ of BT.709 (log 36). -/
def lumaOf (r g b : ℚ) : ℚ := (2126 * r + 7152 * g + 722 * b) / 10000

/-- A pixel's Y′ (k = 0), Cb (k = 1) or Cr (k = 2) before scaling. -/
def DecodeIn.ycc (x : DecodeIn) (k py px : Nat) : Option ℚ := do
  let r ← x.rgb py px 0
  let g ← x.rgb py px 1
  let b ← x.rgb py px 2
  let y := lumaOf r g b
  return if k = 0 then y else if k = 1 then (b - y) * 10000 / 18556 else (r - y) * 10000 / 15748

/-- The luma sample of a pixel. -/
def DecodeIn.luma (x : DecodeIn) (free py px : Nat) : Nat :=
  sample 64 940 (free + py * x.ring.width + px) ((x.ycc 0 py px).map fun y => 64 + 438 * (y + 1))

/-- The chroma sample of a 2 × 2 block: Cb (k = 1) or Cr (k = 2). -/
def DecodeIn.chroma (x : DecodeIn) (free k by_ bx : Nat) : Nat :=
  let q : Option ℚ := do
    let a ← x.ycc k (2 * by_) (2 * bx)
    let b ← x.ycc k (2 * by_) (2 * bx + 1)
    let c ← x.ycc k (2 * by_ + 1) (2 * bx)
    let d ← x.ycc k (2 * by_ + 1) (2 * bx + 1)
    return 512 + 448 * ((a + b + c + d) / 4)
  sample 64 960 (free + x.ring.width * x.ring.height + (by_ * x.ring.width + 2 * bx + (k - 1))) q

/-- Packs 10-bit samples, three to a word of 32 bits (R401). -/
def pack10 : Nat → List Nat → List Byte
  | 0, _ => []
  | _, [] => []
  | n + 1, l => toLe 4 (nth l 0 0 + nth l 1 0 * 2 ^ 10 + nth l 2 0 * 2 ^ 20) ++ pack10 n (l.drop 3)

/-- The rows of the pixel area, luma then chroma (R401). -/
def DecodeIn.rows (x : DecodeIn) (free : Nat) : List (List Byte) :=
  let w := x.ring.width
  let h := x.ring.height
  (List.range h).map (fun y => pack10 w ((List.range w).map fun p => x.luma free y p)) ++
    (List.range (h / 2)).map fun y => pack10 w ((List.range (w / 2)).flatMap fun p => [x.chroma free 1 y p, x.chroma free 2 y p])

/-- Writes the rows of a pixel area at the stride; a refused write is logged (R414). -/
def State.putRows (f : FrameRing) : List (List Byte) → Nat → State → State
  | [], _, s => s
  | r :: rs, va, s =>
    let s := match s.devWrite f.tenant va r with
      | .ok s => s
      | .error e => s.mediaFault f clsDecoder e
    State.putRows f rs (va + f.rowStride) s

/-- Does the token's rung render a half-size latent (R400)? -/
def FrameRing.half (f : FrameRing) (w : W64) : Bool := bitAt (f.dw.get 4) (51 + fieldNat w 44 4) && decide (fieldNat w 44 4 < 8)

/-- What a decoder reads, or the fault. -/
def State.decodeIn (s : State) (f : FrameRing) (w : W64) : Except (Nat × Nat) DecodeIn :=
  let half := f.half w
  let d := if half then 2 else 1
  let lw := f.width / f.shuf / d
  match s.devRead f.tenant (f.slotAddr w) (2 * lw * (f.height / f.shuf / d) * f.chans) with
  | .error e => .error e
  | .ok lat => match s.devRead f.tenant (fieldNat (f.dw.get 6) 0 52) (2 * (f.chans + 1) * (3 * f.shuf ^ 2)) with
    | .error e => .error e
    | .ok proj => .ok { ring := f, half := half, lw := lw, lat := lat.toArray, proj := proj.toArray }

/-- The pixels of a frame are written. A read that faults is logged, and the pixels are free (log 36). -/
def State.decodeFrame (s : State) (f : FrameRing) (w : W64) : State :=
  let at_ := f.slotAddr w + f.latentBytes
  let free := s.dev.free
  let s := s.upd fun d => { d with free := d.free + 2 * f.width * f.height }
  match s.decodeIn f w with
  | .ok x => State.putRows f (x.rows free) at_ s
  | .error e =>
    let rows := (List.range (f.height + f.height / 2)).map fun y =>
      pack10 f.width ((List.range f.width).map fun p => Config.freeNat (free + y * f.width + p) % 1024)
    State.putRows f rows at_ (s.mediaFault f clsDecoder e)

/-- R401: the decoder that the cursor names has written the pixels and puts the token on ENCQ. -/
def execDecodeComplete (s : State) : Out :=
  act (fun s =>
    let i : Fin 4 := ⟨s.dev.cur.n % 4, Nat.mod_lt _ (by decide)⟩
    match s.dev.decs.get i with
    | none => s
    | some j =>
      let f := s.fring j.ring
      let q := f.queue 2
      if !(s.hq q).en then s
      else if !(s.hq q).mayPut 1 then s.partyRefused f clsDecoder
      else if !(s.hq q).room || !firstIn (.dec i) (s.hq q).putters then s.partyWaits q (.dec i)
      else
        let s := s.decodeFrame f j.tok
        let s := (s.partyPut q (.dec i) j.tok).setSlot j.ring (tokSlot j.tok) .encode
        s.upd fun d => { d with decs := d.decs.set i.val none i.isLt }) s

/-! ## Encoders (R402, R403) -/

/-- R402: the encoder of the ring that the cursor names takes a token from ENCQ. -/
def execEncoderTake (s : State) : Out :=
  act (fun s =>
    let n := s.curRing
    let f := s.fring n
    let q := f.queue 2
    if !f.en || !(s.hq q).en || (s.hq q).toks.isEmpty || !(s.hq q).getters.isEmpty || (s.dev.encs.get f.enc).isSome then s
    else if !(s.hq q).mayGet 2 then s.partyRefused f clsEncoder
    else match s.partyTake q with
      | none => s
      | some (w, s) =>
        s.upd fun d => { d with encs := d.encs.set f.enc.val (some { ring := n, tok := w, last := false, coded := 0 }) f.enc.isLt }) s

/-- Frames between key frames; 0 takes 60 (R400). -/
def FrameRing.keyInt (f : FrameRing) : Nat := if fieldNat (f.dw.get 7) 16 16 = 0 then 60 else fieldNat (f.dw.get 7) 16 16

/-- Does the ring's encoder code HEVC (R400)? -/
def FrameRing.hevc (f : FrameRing) : Bool := bitAt (f.dw.get 4) 32
/-- QP; 0 takes 32 (R400). -/
def FrameRing.qp (f : FrameRing) : Nat := if fieldNat (f.dw.get 4) 43 8 = 0 then 32 else fieldNat (f.dw.get 4) 43 8
/-- TARGET in kbit/s; 0 takes 8,000 (R400). -/
def FrameRing.target (f : FrameRing) : Nat := if fieldNat (f.dw.get 5) 0 32 = 0 then 8000 else fieldNat (f.dw.get 5) 0 32
/-- MAXRATE in kbit/s; 0 takes 2 × TARGET (R400). -/
def FrameRing.maxrate (f : FrameRing) : Nat := if fieldNat (f.dw.get 5) 32 32 = 0 then 2 * f.target else fieldNat (f.dw.get 5) 32 32

/-- Is a frame a key frame (R402)? -/
def FrameRing.isKey (f : FrameRing) (frame : Nat) : Bool := frame % f.keyInt == 0

/-- What a frame is coded by (R400, R402). A normal frame's budget is TARGET over PERIOD, and an interpolated frame's a quarter of it, of which
the spec says no more (log 37); an interpolated frame is no reference. -/
def FrameRing.coding (f : FrameRing) (period : Nat) (w : W64) : Config.Coding :=
  let frame := fieldNat w 0 32
  let interp := bitAt w 48
  let normal := f.target * period / 1000000
  { hevc := f.hevc, level := 51, frame := frame, key := f.isKey frame, reference := !interp,
    refs := if f.isKey frame then [] else f.refs, width := f.width, height := f.height, tileCols := (f.width + 1023) / 1024,
    rc := fieldNat (f.dw.get 4) 41 2, qp := f.qp, target := f.target, maxrate := f.maxrate, budget := if interp then normal / 4 else normal }

/-- The frames that the next one may refer to: AV1 has one reference and an alternate reference, HEVC one; an interpolated frame is none
(R402). -/
def FrameRing.refsAfter (f : FrameRing) (w : W64) : List Nat :=
  if bitAt w 48 then f.refs
  else (fieldNat w 0 32 :: if f.isKey (fieldNat w 0 32) then [] else f.refs).take (if f.hevc then 1 else 2)

/-- PERIOD of the stream of a frame ring, in nanoseconds. -/
def State.periodOf (s : State) (f : FrameRing) : Nat := (s.strm f.stream).get 1 0 32

/-- The pixel area of a frame, as its encoder reads it (R401); none if the read is refused. -/
def State.pixels (s : State) (f : FrameRing) (w : W64) : Except (Nat × Nat) (List Byte) :=
  s.devRead f.tenant (f.slotAddr w + f.latentBytes) ((f.height + f.height / 2) * f.rowStride)

/-- A chunk token (R403): frame 0 and every multiple of KEYINT is a key frame (R402). -/
def chunkWord (f : FrameRing) (w : W64) (len : Nat) (last : Bool) : W64 :=
  let frame := fieldNat w 0 32
  w64 (frame + len * 2 ^ 32 + (if f.isKey frame then 2 ^ 52 else 0) + (if last then 2 ^ 53 else 0) +
    fieldNat w 48 1 * 2 ^ 54 + 2 * 2 ^ 56)

/-- The next `len` coded bytes of the frame that an encoder holds (R402; log 37). A read that is refused is logged, and the bytes are free all
the same. -/
def State.codeChunk (s : State) (j : FrameJob) (len : Nat) : List Byte × State :=
  let f := s.fring j.ring
  let (px, s) := match s.pixels f j.tok with
    | .ok px => (px, s)
    | .error e => ([], s.mediaFault f clsEncoder e)
  ((List.range len).map fun i => Config.codedByte (f.coding (s.periodOf f) j.tok) px (j.coded + i), s)

/-- R402, R403: encoder n codes on, and puts a chunk token on BSQ; the chunk's bytes stand in Sesame's staging buffer. -/
def execChunkToken (n : BitVec 3) (len : BitVec 20) (last : Bool) (s : State) : Out :=
  act (fun s => match s.dev.encs.get n.toFin with
    | none => s
    | some j =>
      let f := s.fring j.ring
      let q := f.bsq
      if j.last || !(s.hq q).en then s
      else if !(s.hq q).mayPut 2 then s.partyRefused f clsEncoder
      else if !(s.hq q).room || !firstIn (.enc n.toFin) (s.hq q).putters then s.partyWaits q (.enc n.toFin)
      else
        let w := chunkWord f j.tok len.toNat last
        let (bs, s) := s.codeChunk j len.toNat
        let s := s.partyPut q (.enc n.toFin) w
        s.upd fun d => { d with
          encs := d.encs.set n.toNat (some { j with last := last, coded := j.coded + len.toNat }) n.isLt
          staged := d.staged ++ [{ q := q, tok := w, bytes := bs, first := j.coded == 0, taken := false, sent := 0 }] }) s

/-- R402, R403: after LAST, the encoder that the cursor names returns the token to FREEQ, unchanged; a frame that is a reference is now one
of those that the next may refer to. -/
def execEncodeComplete (s : State) : Out :=
  act (fun s =>
    let i : Fin 8 := ⟨s.dev.cur.n % 8, Nat.mod_lt _ (by decide)⟩
    match s.dev.encs.get i with
    | none => s
    | some j =>
      let f := s.fring j.ring
      let q := f.queue 0
      if !j.last || !(s.hq q).en then s
      else if !(s.hq q).mayPut 2 then s.partyRefused f clsEncoder
      else if !(s.hq q).room || !firstIn (.enc i) (s.hq q).putters then s.partyWaits q (.enc i)
      else
        let s := (s.partyPut q (.enc i) j.tok).setSlot j.ring (tokSlot j.tok) .empty
        let s := s.modFring j.ring fun r => { r with refs := f.refsAfter j.tok }
        s.upd fun d => { d with encs := d.encs.set i.val none i.isLt }) s

/-! ## Sesame (R403 to R405) -/

/-- Is an egress channel enabled? -/
def Egress.en (e : Egress) : Bool := bitAt e.ctl 0
/-- FMT of a channel. -/
def Egress.fmt (e : Egress) : Nat := fieldNat e.ctl 1 2
/-- Bytes of a channel's ring. -/
def Egress.size (e : Egress) : Nat := 2 ^ fieldNat e.ctl 3 5

/-- A record: its length, its bytes, and zeros up to a multiple of 8 (R405). -/
def egressRecord (l : List Byte) : List Byte := toLe 4 l.length ++ l ++ zeros ((8 - (4 + l.length) % 8) % 8)

/-- Has the ring room for a record of `n` bytes? -/
def Egress.roomFor (e : Egress) (n : Nat) : Bool := decide ((e.wp - e.rp).toNat + n ≤ e.size)

/-- Changes an egress channel. -/
def State.modEgress (s : State) (t : TenantId) (ch : BitVec 6) (f : Egress → Egress) : State :=
  s.modTenant t fun x => { x with egress := x.egress.set ch.toNat (f (x.egress.get ch.toFin)) ch.isLt }

/-- Writes the bytes of a record into the ring, then advances WP (R404). -/
def State.putRecord (s : State) (t : TenantId) (ch : BitVec 6) (bs : List Byte) : State :=
  let e := (s.tenant t).egress.get ch.toFin
  let s := bs.zipIdx.foldl (fun s b => s.poke (Config.hostAt + (e.base.toNat + (e.wp.toNat + b.2) % e.size) % 2 ^ 64) b.1) s
  s.modEgress t ch fun e => { e with wp := e.wp + BitVec.ofNat 32 bs.length }

/-- The oldest post of a mailbox goes out as a token frame (R405). -/
def State.egressPost (s : State) (t : TenantId) (ch : BitVec 6) (m : BitVec 12) : State :=
  let e := (s.tenant t).egress.get ch.toFin
  match (s.tenant t).mail.zipIdx.find? fun p => p.1.mbox == m with
  | none => s
  | some (p, i) =>
    if m.toNat % 64 ≠ ch.toNat ∨ e.fmt ≠ 0 ∨ !e.roomFor 24 then s
    else
      let body := toLe 2 m.toNat ++ [p.kind, 0] ++ toLe 8 p.val.toNat ++ toLe 8 s.dev.board.dtime
      (s.modTenant t fun x => { x with mail := x.mail.eraseIdx i }).putRecord t ch (egressRecord body)

/-- The lowest frame ring of a tenant that sends to a channel and has a chunk in its queue, with the oldest chunk. -/
def State.egressChunk (s : State) (t : TenantId) (ch : BitVec 6) : Option (FrameRing × W64) :=
  s.dev.frings.toList.findSome? fun f =>
    if f.en && (s.hq f.bsq).getters.isEmpty && f.owner == some (BitVec.ofNat 4 t.val) && fieldNat (f.dw.get 7) 8 8 == ch.toNat && (s.hq f.bsq).en then
      (s.hq f.bsq).toks.head?.map fun w => (f, w)
    else none

/-- Sesame takes the oldest chunk of a queue from it. -/
def State.popChunk (s : State) (q : BitVec 8) : State :=
  let s := s.modHq q fun h => { h with toks := h.toks.drop 1 }
  match s.dev.staged.zipIdx.find? fun x => x.1.q == q && !x.1.taken with
  | some (x, i) => s.upd fun d => { d with staged := d.staged.set i { x with taken := true } }
  | none => s

/-- The chunks of a queue that Sesame has taken, oldest first. -/
def State.taken (s : State) (q : BitVec 8) : List Staged := s.dev.staged.filter fun x => x.q == q && x.taken

/-- The oldest chunk of a queue that Sesame has not taken. -/
def State.untaken (s : State) (q : BitVec 8) : Option Staged := s.dev.staged.find? fun x => x.q == q && !x.taken

/-- Forgets the chunks of a queue that Sesame has taken. -/
def State.dropTaken (s : State) (q : BitVec 8) : State :=
  s.upd fun d => { d with staged := d.staged.filter fun x => !(x.q == q && x.taken) }

/-- The record of a ring's init segment (R405). -/
def State.initRecord (s : State) (f : FrameRing) (w : W64) : List Byte :=
  egressRecord (initSegment f.hevc f.width f.height (Config.codecConfig (f.coding (s.periodOf f) w)))

/-- The record of a frame: the chunks of it that have been taken, and the oldest that has not (R405). -/
def State.frameRecord (s : State) (e : Egress) (f : FrameRing) (w : W64) : List Byte :=
  let bs := (s.taken f.bsq).flatMap (·.bytes) ++ ((s.untaken f.bsq).map (·.bytes)).getD []
  egressRecord (cmafChunk (e.moofs + 1) (fieldNat w 0 32) (s.periodOf f) (bitAt w 52) bs)

/-- CMAF (R405): the init segment first, then one record for each frame. A chunk is taken only while the ring has room for its frame so far
(R404). -/
def State.egressCmaf (s : State) (t : TenantId) (ch : BitVec 6) (f : FrameRing) (w : W64) : State :=
  let e := (s.tenant t).egress.get ch.toFin
  let init := s.initRecord f w
  let r := s.frameRecord e f w
  if !e.init then
    if e.roomFor init.length then (s.modEgress t ch fun e => { e with init := true }).putRecord t ch init else s
  else if !e.roomFor r.length then s
  else if !bitAt w 53 then s.popChunk f.bsq
  else (((s.popChunk f.bsq).dropTaken f.bsq).modEgress t ch fun e => { e with moofs := e.moofs + 1 }).putRecord t ch r

/-- An RTP header (RFC 3550), in network order: version 2, marker, payload type, sequence number, timestamp, SSRC (R405). -/
def rtpHeader (e : Egress) (marker : Bool) (stamp : Nat) : List Byte :=
  [0x80, BitVec.ofNat 8 ((if marker then 128 else 0) + fieldNat e.ctl 22 7)] ++ (toLe 2 e.rtpSeq.toNat).reverse ++
    (toLe 4 stamp).reverse ++ (toLe 4 e.ssrc.toNat).reverse

/-- The RTP timestamp of a frame (R405). -/
def rtpStamp (frame period : Nat) : Nat := frame * period * 9 / 100000 % 2 ^ 32

/-- RTP (R405): the next packet of the oldest chunk, as many of its bytes as MTU lets through (log 37); the last packet of a chunk takes it
from its queue. -/
def State.egressRtp (s : State) (t : TenantId) (ch : BitVec 6) (f : FrameRing) (w : W64) : State :=
  let e := (s.tenant t).egress.get ch.toFin
  match s.untaken f.bsq with
  | none => s
  | some x =>
    let (body, n) := rtpPayload f.hevc (x.first && bitAt w 52) (fieldNat e.ctl 8 14 - 12) x.sent x.bytes
    let done := decide (x.bytes.length ≤ x.sent + n)
    let r := egressRecord (rtpHeader e (done && bitAt w 53) (rtpStamp (fieldNat w 0 32) (s.periodOf f)) ++ body)
    if !e.roomFor r.length then s
    else
      let s := if done then (s.popChunk f.bsq).dropTaken f.bsq
        else s.upd fun d => { d with staged := d.staged.map fun y => if y = x then { y with sent := y.sent + n } else y }
      (s.modEgress t ch fun e => { e with rtpSeq := e.rtpSeq + 1 }).putRecord t ch r

/-- R404: Sesame writes a record to an egress ring that has room: a mailbox's oldest post, or what the channel's video has next. -/
def execSesameEgressRecord (t : TenantId) (ch : BitVec 6) (mbox : Option (BitVec 12)) (s : State) : Out :=
  act (fun s =>
    let e := (s.tenant t).egress.get ch.toFin
    if !e.en || !s.dev.board.links.toList.any (fun up => up) then s
    else match mbox with
      | some m => s.egressPost t ch m
      | none => match s.egressChunk t ch with
        | none => s
        | some (f, w) =>
          if !(s.hq f.bsq).mayGet 4 then s.logRefused t cPerm clsSesame 0x7F 0 0
          else if e.fmt = 1 then s.egressCmaf t ch f w
          else if e.fmt = 2 then s.egressRtp t ch f w
          else s) s

end Sys2Proof.Machine
end

