-- ==== Sys2Proof/Machine/Scalar.lean ====
section
/-! DEFINITION. The scalar instructions of majors 0000 to 0011 (R127 to R139): integer and bit-field arithmetic, constants,
predicates and address generators. -/

namespace Sys2Proof.Machine

/-- A binary operation on 64-bit values: D and the latch at issue + `lat` (R127). -/
def aluBin (lat : Nat) (f : W64 → W64 → W64) (x : Lent) (d : SDst) (a b : SSrc) : State → State :=
  syl x ((Uses.none.s a).s b) fun s => s.resS lat d (f (s.src a) (s.src b))

/-- A unary operation at issue + 1. -/
def aluUn (f : W64 → W64) (x : Lent) (d : SDst) (a : SSrc) : State → State :=
  syl x (Uses.none.s a) fun s => s.resS 1 d (f (s.src a))

/-- Leading zeros of a 64-bit value (R129). -/
def clz64 (a : W64) : W64 := if a = 0 then 64 else w64 (63 - a.toNat.log2)

/-- One bits of a 64-bit value (R129). -/
def popc64 (a : W64) : W64 := w64 ((List.range 64).filter fun i => bitAt a i).length

/-- Quotient and remainder of R131. -/
def divRem (isS : Bool) (a b : W64) : W64 × W64 :=
  if b = 0 then (0xFFFFFFFFFFFFFFFF, a)
  else if isS then
    (ofI (Int.tdiv a.toInt b.toInt), ofI (Int.tmod a.toInt b.toInt))
  else (w64 (a.toNat / b.toNat), w64 (a.toNat % b.toNat))

/-- A division: the core's one divider drops the operation it holds and takes this one (R131, R132). -/
def divOp (isS rem : Bool) (x : Lent) (d : SDst) (a b : SSrc) : State → State :=
  syl x ((Uses.none.s a).s b) fun s =>
    let r := divRem isS (s.src a) (s.src b)
    let s := s.modMe fun k => { k with flights := k.flights.filter fun f => !f.div }
    let k := s.me
    let v := if rem then r.2 else r.1
    s.result { k.newFlight 20 (if d.n then .none else .s d.r k.priv) true (v.setWidth 1024) with div := true }

/-- Source bits of `sext` and `zext`: 8, 16 or 32 (R129). -/
def extWidth (w : BitVec 2) : Nat := 8 * 2 ^ w.toNat

/-- The field at `pos` of `len` bits (R133). -/
def bfxW (a : W64) (pos len : Nat) : W64 := w64 (fieldNat a pos len)

/-- `d` with the field replaced by the low bits of `a` (R133). -/
def bfiW (d a : W64) (pos len : Nat) : W64 := setField d pos len a.toNat

/-- `pop`: the operation on two predicates (R136). -/
def popOp (op : BitVec 3) (p q : Bool) : Bool := match op.toNat with
  | 0 => p && q
  | 1 => p || q
  | 2 => p != q
  | _ => p

/-- The predicate file as `pmov` reads it (R137). -/
def Core.predWord (k : Core) : W64 :=
  w64 ((List.range 15).foldl (fun n i => n + (if k.pred (BitVec.ofNat 4 (i + 1)) then 2 ^ (i + 1) else 0)) 1)

/-- The generator that `agset` writes: reserved bits 0, V cleared when the stride exceeds 2^26 (R72, R138). -/
def agWord (a b : W64) : BitVec 128 :=
  let lo := a &&& 0x07FFFFFF0001FFFF
  let lo := if 2 ^ 26 < fieldNat a 32 27 then setField lo 16 1 0 else lo
  BitVec.ofNat 128 (lo.toNat + (b.toNat % 2 ^ 48) * 2 ^ 64)

/-- The KVA of position `p` (R72). -/
def kvaOf (g : BitVec 128) (p : Nat) : W64 :=
  if !bitAt g 16 then 0xFFFFFFFFFFFFFFFF
  else
    let o := p * fieldNat g 32 27 + fieldNat g 64 48
    let o := if 2 ^ 48 ≤ o then 2 ^ 48 - 1 else o
    w64 (fieldNat g 12 4 * 2 ^ 60 + fieldNat g 0 12 * 2 ^ 48 + o)

/-- R129: D ← A + B. -/
def execAdd (x : Lent) (d : SDst) (a b : SSrc) (s : State) : Out := act (aluBin 1 (· + ·) x d a b) s

/-- R129: D ← A − B. -/
def execSub (x : Lent) (d : SDst) (a b : SSrc) (s : State) : Out := act (aluBin 1 (· - ·) x d a b) s

/-- R130: the low 64 bits of the product. -/
def execMul (x : Lent) (d : SDst) (a b : SSrc) (s : State) : Out := act (aluBin 3 (· * ·) x d a b) s

/-- R130: bits [127:64] of the signed product. -/
def execMulh (x : Lent) (d : SDst) (a b : SSrc) (s : State) : Out := act (aluBin 3 (fun a b => ofI (a.toInt * b.toInt / 2 ^ 64)) x d a b) s

/-- R130: bits [127:64] of the unsigned product. -/
def execMulhn (x : Lent) (d : SDst) (a b : SSrc) (s : State) : Out := act (aluBin 3 (fun a b => w64 (a.toNat * b.toNat / 2 ^ 64)) x d a b) s

/-- R129. -/
def execAnd (x : Lent) (d : SDst) (a b : SSrc) (s : State) : Out := act (aluBin 1 (· &&& ·) x d a b) s

/-- R129. -/
def execOr (x : Lent) (d : SDst) (a b : SSrc) (s : State) : Out := act (aluBin 1 (· ||| ·) x d a b) s

/-- R129. -/
def execXor (x : Lent) (d : SDst) (a b : SSrc) (s : State) : Out := act (aluBin 1 (· ^^^ ·) x d a b) s

/-- R129: A & ~B. -/
def execAndn (x : Lent) (d : SDst) (a b : SSrc) (s : State) : Out := act (aluBin 1 (fun a b => a &&& ~~~b) x d a b) s

/-- R129, R53. -/
def execShl (x : Lent) (d : SDst) (a b : SSrc) (s : State) : Out := act (aluBin 1 (fun a b => w64 (shlW 64 a.toNat (b.toNat % 256))) x d a b) s

/-- R129, R53. -/
def execShr (x : Lent) (d : SDst) (a b : SSrc) (s : State) : Out := act (aluBin 1 (fun a b => w64 (shrW 64 a.toNat (b.toNat % 256))) x d a b) s

/-- R129, R53. -/
def execSra (x : Lent) (d : SDst) (a b : SSrc) (s : State) : Out := act (aluBin 1 (fun a b => w64 (sraW 64 a.toNat (b.toNat % 256))) x d a b) s

/-- R129: left by B[7:0] mod 64. -/
def execRot (x : Lent) (d : SDst) (a b : SSrc) (s : State) : Out := act (aluBin 1 (fun a b => w64 (rotW 64 a.toNat (b.toNat % 256))) x d a b) s

/-- R129: signed minimum. -/
def execMin (x : Lent) (d : SDst) (a b : SSrc) (s : State) : Out := act (aluBin 1 (fun a b => if sgn64 a < sgn64 b then a else b) x d a b) s

/-- R129: signed maximum. -/
def execMax (x : Lent) (d : SDst) (a b : SSrc) (s : State) : Out := act (aluBin 1 (fun a b => if sgn64 a < sgn64 b then b else a) x d a b) s

/-- R129: unsigned minimum. -/
def execMinn (x : Lent) (d : SDst) (a b : SSrc) (s : State) : Out := act (aluBin 1 (fun a b => if a.toNat < b.toNat then a else b) x d a b) s

/-- R129: unsigned maximum. -/
def execMaxn (x : Lent) (d : SDst) (a b : SSrc) (s : State) : Out := act (aluBin 1 (fun a b => if a.toNat < b.toNat then b else a) x d a b) s

/-- R131: signed quotient at issue + 20. -/
def execDiv (x : Lent) (d : SDst) (a b : SSrc) (s : State) : Out := act (divOp true false x d a b) s

/-- R131: unsigned quotient. -/
def execDivn (x : Lent) (d : SDst) (a b : SSrc) (s : State) : Out := act (divOp false false x d a b) s

/-- R131: signed remainder. -/
def execRem (x : Lent) (d : SDst) (a b : SSrc) (s : State) : Out := act (divOp true true x d a b) s

/-- R131: unsigned remainder. -/
def execRemn (x : Lent) (d : SDst) (a b : SSrc) (s : State) : Out := act (divOp false true x d a b) s

/-- R129: leading zero bits. -/
def execClz (x : Lent) (d : SDst) (a : SSrc) (s : State) : Out := act (aluUn clz64 x d a) s

/-- R129: one bits. -/
def execPopc (x : Lent) (d : SDst) (a : SSrc) (s : State) : Out := act (aluUn popc64 x d a) s

/-- R129: sign-extends the low 8, 16 or 32 bits. -/
def execSext (x : Lent) (d : SDst) (a : SSrc) (w : BitVec 2) (s : State) : Out :=
  act (aluUn (fun v => ofI (sgn (extWidth w) v.toNat)) x d a) s

/-- R129: zero-extends the low 8, 16 or 32 bits. -/
def execZext (x : Lent) (d : SDst) (a : SSrc) (w : BitVec 2) (s : State) : Out :=
  act (aluUn (fun v => w64 (v.toNat % 2 ^ extWidth w)) x d a) s

/-- R135: a compare of two registers, into a predicate at issue + 1. -/
def execCmp (x : Lent) (cond : BitVec 3) (pd : BitVec 4) (a b : SSrc) (s : State) : Out :=
  act (syl x ((Uses.none.s a).s b) fun s => s.resP pd (condS cond (s.src a) (s.src b))) s

/-- R135: a compare with an extended immediate. -/
def execCmpi (x : Lent) (cond : BitVec 3) (pd : BitVec 4) (a : SSrc) (imm : BitVec 10) (s : State) : Out :=
  act (syl x (Uses.none.s a) fun s => s.resP pd (condS cond (s.src a) (ofI (immS x imm)))) s

/-- R136: combines two predicates. No latch takes the result (log 116). -/
def execPop (x : Lent) (op : BitVec 3) (pd : BitVec 4) (na : Bool) (pa : BitVec 4) (nb : Bool) (pb : BitVec 4) (s : State) : Out :=
  act (syl x Uses.none fun s => s.resP pd (popOp op (s.me.pred pa != na) (s.me.pred pb != nb))) s

/-- R137: the predicate file into a scalar register. -/
def execPmovFrom (x : Lent) (d : SDst) (s : State) : Out := act (syl x Uses.none fun s => s.resS 1 d s.me.predWord) s

/-- R137: p1 to p15 from a scalar, each as its own result; no latch takes one (log 116). -/
def execPmovTo (x : Lent) (a : SSrc) (s : State) : Out :=
  act (syl x (Uses.none.s a) fun s =>
    let v := s.src a
    forUpto 15 (fun i s => if s.me.run = .running then s.resP (BitVec.ofNat 4 (i + 1)) (bitAt v (i + 1)) else s) s) s

/-- R139: the KVA of a position, at issue + 3. -/
def execAgen (x : Lent) (d : SDst) (n : BitVec 2) (a : SSrc) (s : State) : Out :=
  act (syl x (Uses.none.s a) fun s => s.resS 3 d (kvaOf (s.me.ctx.ag.get n.toFin) ((s.src a).toNat % 2 ^ 32))) s

/-- R138: writes a generator at issue + 1. -/
def execAgset (x : Lent) (n : BitVec 2) (a b : SSrc) (s : State) : Out :=
  act (syl x ((Uses.none.s a).s b) fun s => s.resX (.ag n) ((agWord (s.src a) (s.src b)).setWidth 1024)) s

/-- R129: A + (B << k). -/
def execLea (x : Lent) (k : BitVec 2) (d : SDst) (a b : SSrc) (s : State) : Out :=
  act (aluBin 1 (fun a b => a + b * w64 (2 ^ k.toNat)) x d a b) s

/-- R129: A or B, by a predicate read at issue. -/
def execSel (x : Lent) (p : BitVec 4) (d : SDst) (a b : SSrc) (s : State) : Out :=
  act (syl x ((Uses.none.s a).s b) fun s => s.resS 1 d (if s.me.pred p then s.src a else s.src b)) s

/-- R129: adds an extended signed immediate. -/
def execAddi (x : Lent) (d : SDst) (a : SSrc) (imm : BitVec 10) (s : State) : Out :=
  act (aluUn (fun v => v + ofI (immS x imm)) x d a) s

/-- R133: extracts a bit field. -/
def execBfx (x : Lent) (d : SDst) (a : SSrc) (pos len1 : BitVec 6) (s : State) : Out :=
  act (aluUn (fun v => bfxW v pos.toNat (len1.toNat + 1)) x d a) s

/-- R133: inserts a bit field into D, which is also a source. -/
def execBfi (x : Lent) (d : SDst) (a : SSrc) (pos len1 : BitVec 6) (s : State) : Out :=
  act (syl x ((Uses.none.s a).r d.r) fun s => s.resS 1 d (bfiW (s.sreg d.r) (s.src a) pos.toNat (len1.toNat + 1))) s

/-- R134: a sign-extended constant. -/
def execMovi (x : Lent) (d : SDst) (imm : BitVec 19) (s : State) : Out :=
  act (syl x Uses.none fun s => s.resS 1 d (ofI (immS x imm))) s

/-- R134: (D << 26) | imm, with D read at issue. -/
def execMovhi (x : Lent) (d : SDst) (imm : BitVec 19) (s : State) : Out :=
  act (syl x (Uses.none.r d.r) fun s => s.resS 1 d ((s.sreg d.r <<< 26) ||| w64 (immU x imm))) s

end Sys2Proof.Machine
end

