-- ==== Sys2Proof/Machine/ScalarMem.lean ====
section
/-! DEFINITION. The scalar memory instructions of major 0100 (R140 to R146) and the fences of R81 and R82. -/

namespace Sys2Proof.Machine

/-- The assumed latency of a load class (R63). -/
def classLat (lc : BitVec 2) : Nat := match lc.toNat with
  | 0 => 4 | 1 => 24 | 2 => 64 | _ => 640

/-- A base register plus a scaled offset, modulo 2^64 (R140). -/
def State.ea (s : State) (a : BitVec 6) (off : Int) (size : Nat) : Nat := (s.sreg a + ofI (off * size)).toNat

/-- The address with its low log2(size) bits cleared (R140). -/
def alignDown (a size : Nat) : Nat := a - a % size

/-- A landing that waits for an operation and writes nothing: a fence, a drain, a release store (R81). -/
def State.landing (s : State) (lat id : Nat) : State :=
  s.modMe fun k => k.addFlight { k.newFlight lat .none false 0 with counts := false, wait := some id }

/-- Issues a load of elements `els` (R142, R179, R180): the result lands at issue + `lat` or when its data arrives. Stream entries that
precede it drain first (R90). -/
def State.issueLoad (s : State) (kind : MemKind) (els : List (Nat × Nat)) (lat : Nat) (dest : FDest) (dreg : Option (BitVec 6)) :
    State :=
  let (id, s) := s.fresh
  let k := s.me
  (s.result { k.newFlight lat dest true 0 with wait := some id }).andThen fun s =>
    let c := s.dev.cur.core
    let (ps, s) := (s.drainAhead c (k.seq 0) els).mkParts c .read true els
    s.issueOp { id := id, seq := k.seq 0, since := s.dev.board.dtime, kind := kind, parts := ps, scope := 0, rel := false,
                dreg := dreg, own := k.owner }

/-- A scalar load at an address (R142). -/
def State.scalarLoad (s : State) (size : Nat) (sx : Bool) (lc : BitVec 2) (d : BitVec 6) (ea : Nat) : State :=
  match s.dataFault .read true ea size with
  | some f => s.trapData f
  | none => s.issueLoad (.load size sx) [(ea, size)] (classLat lc) (.s d s.me.priv) (some d)

/-- A fence of the acting core: it lands at issue + `lat` when its condition holds, else when it comes to hold (R81). -/
def State.issueFence (s : State) (lat : Nat) (loads all remote : Bool) (scope : BitVec 3) (cls : Nat) : Nat × State :=
  let (id, s) := s.fresh
  let o : MemOp := { id := id, seq := s.me.seq cls, since := s.dev.board.dtime, kind := .fence loads all remote, parts := [],
                     scope := scope, rel := false, dreg := none, own := s.me.owner }
  (id, (s.landing lat id).modMe fun k => { k with ops := k.ops ++ [o] })

/-- R142: loads 1 to 8 bytes. -/
def execLd (x : Lent) (sz lc : BitVec 2) (sx : Bool) (d a : BitVec 6) (off : BitVec 7) (s : State) : Out :=
  act (syl x (Uses.none.r a) fun s =>
    let size := 2 ^ sz.toNat
    s.scalarLoad size sx lc d (s.ea a (immS x off) size)) s

/-- R142: stores the low bytes of a register. -/
def execSt (x : Lent) (sz : BitVec 2) (d a : BitVec 6) (off : BitVec 7) (s : State) : Out :=
  act (syl x ((Uses.none.r d).r a) fun s =>
    let size := 2 ^ sz.toNat
    let ea := s.ea a (immS x off) size
    match s.storeFault ea size with
    | some f => s.trapData f
    | none => s.store none ea (toLe size (s.sreg d).toNat)) s

/-- R143: an acquire load at the aligned address. Later accesses issue at or after its landing, when its value has arrived
(R81, R82). -/
def execLdacq (x : Lent) (sz lc : BitVec 2) (sx : Bool) (_scope : BitVec 3) (d a : BitVec 6) (off : BitVec 4) (s : State) : Out :=
  act (syl x (Uses.none.r a) fun s =>
    let size := 2 ^ sz.toNat
    s.scalarLoad size sx lc d (alignDown (s.ea a (immS x off) size) size)) s

/-- R143: a release store at the aligned address: it leaves the core, and lands, when every access of earlier bundles and every
load of its own has performed at the scope (R81). -/
def execStrel (x : Lent) (sz lc : BitVec 2) (scope : BitVec 3) (d a : BitVec 6) (off : BitVec 4) (s : State) : Out :=
  act (syl x ((Uses.none.r d).r a) fun s =>
    let size := 2 ^ sz.toNat
    let ea := alignDown (s.ea a (immS x off) size) size
    match s.storeFault ea size with
    | some f => s.trapData f
    | none =>
      let c := s.dev.cur.core
      let ready := s.releaseReady c (s.me.seq 1) scope
      let (_, s) := s.issueFence (classLat lc) true true false scope 1
      (s.store (if ready then none else some scope) ea (toLe size (s.sreg d).toNat)).settle c) s

/-- Issues an atomic with its results in D, and D + 1 when `pair` (R84, R144). The latch value of a 16-byte form is not stated:
it is a free value (log 13). -/
def State.issueAtomic (s : State) (kind : MemKind) (size : Nat) (lc ord : BitVec 2) (scope : BitVec 3) (d : BitVec 6) (ea : Nat)
    (hostOk : Bool) : State :=
  match s.dataFault .rmw hostOk ea size with
  | some f => s.trapData f
  | none =>
    let (id, s) := s.fresh
    let lat := classLat lc
    let pair := size == 16
    let flight (k : Core) (dest : FDest) (latch : Bool) (v : V1024) : Flight :=
      { k.newFlight lat dest latch v with wait := some id }
    let s := s.result (flight s.me (.s d s.me.priv) (!pair) 0)
    let s := if pair then
        let s := s.andThen fun s => s.result (flight s.me (.s (d + 1) s.me.priv) false 0)
        let (w, s) := s.drawWord
        s.andThen fun s => s.result { flight s.me .none true (w.setWidth 1024) with counts := false }
      else s
    s.andThen fun s =>
      let c := s.dev.cur.core
      let seq := s.me.seq 1
      let (ps, s) := (s.drainAhead c seq [(ea, size)]).mkParts c .rmw hostOk [(ea, size)]
      s.issueOp { id := id, seq := seq, since := s.dev.board.dtime, kind := kind, parts := ps, scope := scope,
                  rel := bitAt ord 1 && !s.releaseReady c seq scope, dreg := some d, own := s.me.owner }

/-- Two registers as a 128-bit value, the first low. -/
def State.sreg2 (s : State) (d : BitVec 6) : BitVec 128 := s.sreg (d + 1) ++ s.sreg d

/-- R144: an indivisible read-modify-write that returns the old value. -/
def execAmo (x : Lent) (asz lc ord : BitVec 2) (scope op : BitVec 3) (d a : BitVec 6) (s : State) : Out :=
  let size := 4 * 2 ^ asz.toNat
  act (syl x (if size = 16 then ((Uses.none.r d).r (d + 1)).r a else (Uses.none.r d).r a) fun s =>
    s.issueAtomic (.amo op size (if size = 16 then s.sreg2 d else (s.sreg d).setWidth 128)) size lc ord scope d
      (alignDown (s.sreg a).toNat size) (op.toNat < 2 && size < 16)) s

/-- R144: compares D and writes D + 1, at 4 or 8 bytes. -/
def execCas (x : Lent) (asz lc ord : BitVec 2) (scope : BitVec 3) (d a : BitVec 6) (s : State) : Out :=
  let size := 4 * 2 ^ asz.toNat
  act (syl x (((Uses.none.r d).r (d + 1)).r a) fun s =>
    s.issueAtomic (.cas size ((s.sreg d).setWidth 128) ((s.sreg (d + 1)).setWidth 128)) size lc ord scope d
      (alignDown (s.sreg a).toNat size) true) s

/-- R144: compares 16 bytes with D, D + 1 and writes D + 2, D + 3. -/
def execCas16 (x : Lent) (lc ord : BitVec 2) (scope : BitVec 3) (d a : BitVec 6) (s : State) : Out :=
  act (syl x (((((Uses.none.r d).r (d + 1)).r (d + 2)).r (d + 3)).r a) fun s =>
    s.issueAtomic (.cas 16 (s.sreg2 d) (s.sreg2 (d + 2))) 16 lc ord scope d (alignDown (s.sreg a).toNat 16) true) s

/-- R146: starts the translation of an address. -/
def execPref (x : Lent) (a : BitVec 6) (off : BitVec 7) (s : State) : Out :=
  act (syl x (Uses.none.r a) fun s =>
    let ea := s.ea a (immS x off) 64
    match rowOf ea with
    | .paged => (s.mkPart s.dev.cur.core .walk true ea 1).2
    | _ => s) s

/-- The fences and `drain` of the transfer slot (R240). -/
def fenceOp (x : Lent) (lc : BitVec 2) (loads all remote : Bool) (scope : BitVec 3) : State → State :=
  syl x Uses.none fun s => (s.issueFence (classLat lc) loads all remote scope 0).2.settle s.dev.cur.core

/-- R82: later accesses after every earlier load. -/
def execFenceAcq (x : Lent) (scope : BitVec 3) (lc : BitVec 2) (s : State) : Out := act (fenceOp x lc true false false scope) s
/-- R82: later stores after every earlier access at the scope. -/
def execFenceRel (x : Lent) (scope : BitVec 3) (lc : BitVec 2) (s : State) : Out := act (fenceOp x lc false true false scope) s
/-- R82: both. -/
def execFenceAr (x : Lent) (scope : BitVec 3) (lc : BitVec 2) (s : State) : Out := act (fenceOp x lc true true false scope) s
/-- R82: later accesses after every earlier remote access at the scope. -/
def execDrain (x : Lent) (scope : BitVec 3) (lc : BitVec 2) (s : State) : Out := act (fenceOp x lc false true true scope) s

end Sys2Proof.Machine
end

