-- ==== Sys2Proof/Machine/Vector.lean ====
section
/-! DEFINITION. The vector instructions of majors 0110 and 0111 and `vmsk` (R158 to R178): elements, lanes, reductions,
conversions, quantisation, special functions and relative position bias. -/

namespace Sys2Proof.Machine

/-! ## Elements (R158) -/

/-- The `n` elements of `w` bits from the bottom of a register. -/
def elems (w n : Nat) (v : V1024) : List Nat := (List.range n).map fun i => v.toNat / 2 ^ (w * i) % 2 ^ w

/-- Elements of `w` bits as a number, the first lowest. -/
def joinEls (w : Nat) : List Nat → Nat
  | [] => 0
  | e :: es => e % 2 ^ w + 2 ^ w * joinEls w es

/-- Elements of `w` bits as a register. -/
def packEls (w : Nat) (l : List Nat) : V1024 := BitVec.ofNat 1024 (joinEls w l)

/-- Elements of a width. -/
def lanesOf (wd : Width) (w : Nat) : Nat := wd.bits / w

/-- The value of an integer element: signed or unsigned by its type (R39). -/
def intVal (ty : BitVec 4) (n : Nat) : Int := if isSigned ty then sgn (tyBits ty) n else (n : Int)

/-- An integer result of the type: modulo its width, or saturated (R39). -/
def intRes (ty : BitVec 4) (sat : Bool) (n : Int) : Nat :=
  if sat then saturate (isSigned ty) (tyBits ty) n else wrapI (tyBits ty) n

/-! ## Arithmetic of one element: mode, saturation and FZ of the syllable (R44 to R46, R162) -/

/-- What a syllable's arithmetic depends on beside its elements. -/
structure Arith where
  ty : BitVec 4
  rnd : Nat
  sat : Bool
  fz : Bool
deriving DecidableEq, Repr

/-- A floating-point element as an operand (R46). -/
def Arith.dec (q : Arith) (n : Nat) : FVal := (fmtOf q.ty).decodeFz q.fz n

/-- A floating-point result, rounded once (R44, R46). -/
def Arith.rounded (q : Arith) (v : FVal) : Nat := (fmtOf q.ty).flush q.fz ((fmtOf q.ty).round q.rnd q.sat false v)

/-- A two-operand operation: exact on values, then rounded; or exact on integers, then wrapped or saturated. -/
def Arith.bin (q : Arith) (f : FVal → FVal → FVal) (g : Int → Int → Int) (a b : Nat) : Nat :=
  if isF q.ty then q.rounded (f (q.dec a) (q.dec b)) else intRes q.ty q.sat (g (intVal q.ty a) (intVal q.ty b))

/-- Addition. -/
def Arith.add (q : Arith) : Nat → Nat → Nat := q.bin (FVal.add q.rnd) (· + ·)
/-- Subtraction. -/
def Arith.sub (q : Arith) : Nat → Nat → Nat := q.bin (fun a b => FVal.add q.rnd a b.neg) (· - ·)
/-- Multiplication. -/
def Arith.mul (q : Arith) : Nat → Nat → Nat := q.bin FVal.mul (· * ·)
/-- The lesser. -/
def Arith.min (q : Arith) : Nat → Nat → Nat := q.bin (FVal.minmax false) (fun a b => if a < b then a else b)
/-- The greater. -/
def Arith.max (q : Arith) : Nat → Nat → Nat := q.bin (FVal.minmax true) (fun a b => if a < b then b else a)
/-- The fused D ± A × B (R163). -/
def Arith.fma (q : Arith) (neg : Bool) (d a b : Nat) : Nat :=
  let p := (q.dec a).mul (q.dec b)
  q.rounded ((q.dec d).add q.rnd (if neg then p.neg else p))

/-- A value with its sign cleared. -/
def FVal.abs : FVal → FVal
  | .nan => .nan
  | .inf _ => .inf false
  | .fin _ m e => .fin false m e

/-- |A| (R162). -/
def Arith.abs (q : Arith) (a : Nat) : Nat :=
  if isF q.ty then q.rounded (q.dec a).abs else intRes q.ty q.sat ((intVal q.ty a).natAbs : Int)

/-- A with its sign inverted, or 0 − A (R162). -/
def Arith.negate (q : Arith) (a : Nat) : Nat :=
  if isF q.ty then q.rounded (q.dec a).neg else intRes q.ty q.sat (-(intVal q.ty a))

/-- The condition of `vcmp` on one element (R165). -/
def Arith.cond (q : Arith) (c : BitVec 3) (a b : Nat) : Bool :=
  if isF q.ty then condF c (q.dec a) (q.dec b) else condI c (intVal q.ty a) (intVal q.ty b)

/-! ## Forms of vector syllables -/

/-- The arithmetic of a major 0110 syllable. -/
def State.arith (s : State) (x : Lent) (et : BitVec 1) : Arith :=
  { ty := x.ty et, rnd := x.rnd.toNat, sat := x.sat, fz := s.me.ctx.fz }

/-- The lanes of two sources through an element-wise operation. -/
def zipLanes (w n : Nat) (f : Nat → Nat → Nat) (a b : V1024) : V1024 :=
  packEls w (List.zipWith f (elems w n a) (elems w n b))

/-- A two-source element-wise instruction (R162). -/
def lanes2 (lat : Nat) (f : Arith → Nat → Nat → Nat) (x : Lent) (wd : Width) (et : BitVec 1) (d : VDst) (a b : VSrc) :
    State → State :=
  syl x (((Uses.none.v a).v b).d d) fun s =>
    let k := s.me
    let w := tyBits (x.ty et)
    s.resV lat wd d (zipLanes w (lanesOf wd w) (f (s.arith x et)) (k.vsrc a) (k.vsrc b))

/-- A one-source element-wise instruction (R162). -/
def lanes1 (f : Arith → Nat → Nat) (x : Lent) (wd : Width) (et : BitVec 1) (d : VDst) (a : VSrc) : State → State :=
  syl x ((Uses.none.v a).d d) fun s =>
    let w := tyBits (x.ty et)
    s.resV 2 wd d (packEls w ((elems w (lanesOf wd w) (s.me.vsrc a)).map (f (s.arith x et))))

/-- An instruction that also reads its destination (R163, R164). -/
def lanes3 (f : Arith → V1024 → V1024 → V1024 → V1024) (x : Lent) (wd : Width) (et : BitVec 1) (d : VDst) (a b : VSrc) :
    State → State :=
  syl x (((Uses.none.v a).v b).dv d) fun s =>
    let k := s.me
    s.resV 4 wd d (f (s.arith x et) (k.vreg d.r) (k.vsrc a) (k.vsrc b))

/-- Fused lanes. -/
def fmaLanes (wd : Width) (neg : Bool) (q : Arith) (d a b : V1024) : V1024 :=
  let w := tyBits q.ty
  let n := lanesOf wd w
  packEls w (List.zipWith (fun d ab => q.fma neg d ab.1 ab.2) (elems w n d) (List.zip (elems w n a) (elems w n b)))

/-- Sums of `g` neighbours of a list, `n` of them. -/
def groupSums (g : Nat) : Nat → List Int → List Int
  | 0, _ => []
  | n + 1, l => (l.take g).sum :: groupSums g n (l.drop g)

/-- The packed dot product into 32-bit lanes (R164): `g` products a lane. -/
def dotLanes (wd : Width) (g : Nat) (q : Arith) (d a b : V1024) : V1024 :=
  let w := tyBits q.ty
  let n := lanesOf wd w
  let m := lanesOf wd 32
  let ty32 : BitVec 4 := if isSigned q.ty then 8 else 12
  let prods := List.zipWith (fun a b => intVal q.ty a * intVal q.ty b) (elems w n a) (elems w n b)
  packEls 32 (List.zipWith (fun d p => intRes ty32 q.sat (intVal ty32 d + p)) (elems 32 m d) (groupSums g m prods))

/-- The lane masks of a list of truth values: `k` bits each (R165). -/
def maskOf (k : Nat) (l : List Bool) : BitVec 128 :=
  BitVec.ofNat 128 (joinEls k (l.map fun b => if b then 2 ^ k - 1 else 0))

/-- Selects bytes by a mask (R166). -/
def selBytes (wd : Width) (m : BitVec 128) (a b : V1024) : V1024 :=
  let n := wd.bits / 8
  packEls 8 ((List.range n).map fun j => (if bitAt m j then a.toNat else b.toNat) / 2 ^ (8 * j) % 256)

/-- One level of the reduction tree (R52). -/
def pairUp (f : Nat → Nat → Nat) : List Nat → List Nat
  | a :: b :: l => f a b :: pairUp f l
  | l => l

/-- The reduction tree, at most `n` levels (R52). -/
def treeUp (f : Nat → Nat → Nat) : Nat → List Nat → List Nat
  | 0, l => l
  | n + 1, l => treeUp f n (pairUp f l)

/-- The element a `vred` leaves (R170). -/
def reduce (op : BitVec 3) (q : Arith) (l : List Nat) : Nat :=
  let f := match op.toNat with | 0 => q.add | 1 => q.min | _ => q.max
  (treeUp f 7 l).headD 0

/-- Lanes permuted by indexes (R168). -/
def permLanes (w n : Nat) (a b : V1024) : V1024 :=
  let l := elems w n a
  packEls w ((elems w n b).map fun k => if k < n then nth l k 0 else 0)

/-- One element replaced (R169). -/
def insLane (w n : Nat) (d : V1024) (i v : Nat) : V1024 := packEls w ((elems w n d).set i v)

/-! ## Conversions (R47, R171) -/

/-- Converts one element. Between integer types of one size, for which R47 has no row, a value out of range keeps its bits unless SAT is 1
(DEDUCED from the rows that narrow, log 42). -/
def convert (rnd : Nat) (sat fz : Bool) (tgt src : BitVec 4) (n : Nat) : Nat :=
  if isFloat src then
    let v := (fmtOf src).decodeFz fz n
    if isFloat tgt then (fmtOf tgt).flush fz ((fmtOf tgt).round rnd sat sat v)
    else v.toInt rnd (isSigned tgt) (tyBits tgt)
  else if isFloat tgt then (fmtOf tgt).round rnd false false (.ofInt (intVal src n) 0 false)
  else intRes tgt sat (intVal src n)

/-- A conversion of the elements that fit the wider of two sizes. -/
def convLanes (wd : Width) (f : Nat → Nat) (tgt src : BitVec 4) (a : V1024) : V1024 :=
  let n := lanesOf wd (max (tyBits src) (tyBits tgt))
  packEls (tyBits tgt) ((elems (tyBits src) n a).map f)

/-- A one-source instruction of major 0111. -/
def lanesS (lat : Nat) (f : Core → V1024 → V1024) (x : Lent) (wd : Width) (d : VDst) (a : VSrc) : State → State :=
  syl x ((Uses.none.v a).d d) fun s => s.resV lat wd d (f s.me (s.me.vsrc a))

/-- Element types of a `vpack` form: source and target (R172). -/
def packTypes (form : BitVec 2) : BitVec 4 × BitVec 4 := match form.toNat with
  | 0 => (8, 9) | 1 => (9, 10) | 2 => (12, 13) | _ => (13, 14)

/-- Two sources narrowed into one (R172). -/
def packLanes (wd : Width) (form : BitVec 2) (sat : Bool) (a b : V1024) : V1024 :=
  let (src, tgt) := packTypes form
  let n := lanesOf wd (tyBits src)
  let f := fun e => intRes tgt sat (intVal src e)
  packEls (tyBits tgt) ((elems (tyBits src) n a).map f ++ (elems (tyBits src) n b).map f)

/-- Half of a source widened (R173). -/
def unpackLanes (wd : Width) (form : BitVec 2) (hi : Bool) (a : V1024) : V1024 :=
  let (tgt, src) := packTypes form
  let n := lanesOf wd (tyBits tgt)
  let l := elems (tyBits src) (2 * n) a
  packEls (tyBits tgt) ((if hi then l.drop n else l.take n).map fun e => intRes tgt false (intVal src e))

/-! ## Quantisation (R174 to R176) -/

/-- The exponent of a target's largest finite magnitude (R175). -/
def emax (tgt : BitVec 4) : Int := match tgt.toNat with
  | 3 => 8 | 4 => 15 | 5 => 2 | _ => 6

/-- ⌊log2 |v|⌋ of the largest magnitude of a list: none when one is NaN or infinite, some none when all are 0. -/
def maxExp : List FVal → Option (Option Int)
  | [] => some none
  | .fin _ m e :: l => match maxExp l with
    | none => none
    | some r => if m = 0 then some r else
      let k := floorLog2 m e
      some (some (match r with | none => k | some j => if j < k then k else j))
  | _ :: _ => none

/-- The scale that `vmaxe` measures (R175). -/
def blockScale (tgt : BitVec 4) (l : List FVal) : Nat := match maxExp l with
  | none => 0xFF
  | some none => 0x7F
  | some (some k) => (max 0 (min (k - emax tgt + 127) 254)).toNat

/-- One element divided by the scale and converted (R176). -/
def quantize (rnd : Nat) (scale : Nat) (tgt : BitVec 4) (v : FVal) : Nat :=
  if scale = 0xFF ∨ v.isNan then (if tgt = 3 then 0x7F else if tgt = 4 then 0x7E else 0)
  else
    let x := match v with
      | .fin n m e => FVal.fin n m (e + 127 - scale)
      | v => v
    if tgt = 10 then
      let r := x.toInt rnd true 8
      if r = 0x80 then 0x81 else r
    else (fmtOf tgt).round rnd true true x

/-! ## Relative position bias (R54, R178) -/

/-- The bucket of a distance. -/
def bucketPos (base lim : Nat) (d : Nat) : Nat :=
  if d < base then d else
    let l := d.log2
    Nat.min lim (base + 4 * (l - base.log2) + d / 2 ^ (l - 2) % 4)

/-- The bucket of d (R54): causal, or bidirectional. -/
def rpBucket (bidir : Bool) (d : Int) : Nat :=
  if bidir then (if d < 0 then 16 + bucketPos 8 15 d.natAbs else bucketPos 8 15 d.toNat)
  else if d < 0 then 0 else bucketPos 16 31 d.toNat

/-- Scores with their biases added. -/
def biasLanes (wd : Width) (bidir : Bool) (q : Arith) (qpos kbase : Int) (table : List Nat) (a : V1024) : V1024 :=
  packEls 32 ((elems 32 (lanesOf wd 32) a).zipIdx.map fun e => q.add e.1 (nth table (rpBucket bidir (qpos - (kbase + e.2))) 0))

/-! ## The instructions -/

/-- R162: A + B in each lane. -/
def execVadd (x : Lent) (wd : Width) (_h : Bool) (et : BitVec 1) (d : VDst) (a b : VSrc) (s : State) : Out :=
  act (lanes2 2 Arith.add x wd et d a b) s

/-- R162: A − B in each lane. -/
def execVsub (x : Lent) (wd : Width) (_h : Bool) (et : BitVec 1) (d : VDst) (a b : VSrc) (s : State) : Out :=
  act (lanes2 2 Arith.sub x wd et d a b) s

/-- R162: A × B in each lane, at issue + 4. -/
def execVmul (x : Lent) (wd : Width) (_h : Bool) (et : BitVec 1) (d : VDst) (a b : VSrc) (s : State) : Out :=
  act (lanes2 4 Arith.mul x wd et d a b) s

/-- R162, R45: the lesser in each lane. -/
def execVmin (x : Lent) (wd : Width) (_h : Bool) (et : BitVec 1) (d : VDst) (a b : VSrc) (s : State) : Out :=
  act (lanes2 2 Arith.min x wd et d a b) s

/-- R162, R45: the greater in each lane. -/
def execVmax (x : Lent) (wd : Width) (_h : Bool) (et : BitVec 1) (d : VDst) (a b : VSrc) (s : State) : Out :=
  act (lanes2 2 Arith.max x wd et d a b) s

/-- R163: D + A × B with one rounding. -/
def execVfma (x : Lent) (wd : Width) (_h : Bool) (et : BitVec 1) (d : VDst) (a b : VSrc) (s : State) : Out :=
  act (lanes3 (fmaLanes wd false) x wd et d a b) s

/-- R163: D − A × B with one rounding. -/
def execVfms (x : Lent) (wd : Width) (_h : Bool) (et : BitVec 1) (d : VDst) (a b : VSrc) (s : State) : Out :=
  act (lanes3 (fmaLanes wd true) x wd et d a b) s

/-- R162: |A| in each lane. -/
def execVabs (x : Lent) (wd : Width) (_h : Bool) (et : BitVec 1) (d : VDst) (a : VSrc) (s : State) : Out :=
  act (lanes1 Arith.abs x wd et d a) s

/-- R162: −A in each lane. -/
def execVneg (x : Lent) (wd : Width) (_h : Bool) (et : BitVec 1) (d : VDst) (a : VSrc) (s : State) : Out :=
  act (lanes1 Arith.negate x wd et d a) s

/-- R162: bitwise, in each lane. -/
def execVand (x : Lent) (wd : Width) (_h : Bool) (et : BitVec 1) (d : VDst) (a b : VSrc) (s : State) : Out :=
  act (lanes2 2 (fun _ a b => Nat.land a b) x wd et d a b) s

/-- R162: bitwise, in each lane. -/
def execVor (x : Lent) (wd : Width) (_h : Bool) (et : BitVec 1) (d : VDst) (a b : VSrc) (s : State) : Out :=
  act (lanes2 2 (fun _ a b => Nat.lor a b) x wd et d a b) s

/-- R162: bitwise, in each lane. -/
def execVxor (x : Lent) (wd : Width) (_h : Bool) (et : BitVec 1) (d : VDst) (a b : VSrc) (s : State) : Out :=
  act (lanes2 2 (fun _ a b => Nat.xor a b) x wd et d a b) s

/-- R162, R53: by B[i][7:0] in each lane. -/
def execVshl (x : Lent) (wd : Width) (_h : Bool) (et : BitVec 1) (d : VDst) (a b : VSrc) (s : State) : Out :=
  act (lanes2 2 (fun q a b => shlW (tyBits q.ty) a (b % 256)) x wd et d a b) s

/-- R162, R53: by B[i][7:0] in each lane. -/
def execVshr (x : Lent) (wd : Width) (_h : Bool) (et : BitVec 1) (d : VDst) (a b : VSrc) (s : State) : Out :=
  act (lanes2 2 (fun q a b => shrW (tyBits q.ty) a (b % 256)) x wd et d a b) s

/-- R162, R53: by B[i][7:0] in each lane. -/
def execVsra (x : Lent) (wd : Width) (_h : Bool) (et : BitVec 1) (d : VDst) (a b : VSrc) (s : State) : Out :=
  act (lanes2 2 (fun q a b => sraW (tyBits q.ty) a (b % 256)) x wd et d a b) s

/-- R162, R53: by B[i][7:0] in each lane. -/
def execVrot (x : Lent) (wd : Width) (_h : Bool) (et : BitVec 1) (d : VDst) (a b : VSrc) (s : State) : Out :=
  act (lanes2 2 (fun q a b => rotW (tyBits q.ty) a (b % 256)) x wd et d a b) s

/-- R165: compares lanes into a mask at issue + 2. -/
def execVcmp (x : Lent) (wd : Width) (_h : Bool) (et : BitVec 1) (cond md : BitVec 3) (a b : VSrc) (s : State) : Out :=
  act (syl x ((Uses.none.v a).v b) fun s =>
    let k := s.me
    let w := tyBits (x.ty et)
    let n := lanesOf wd w
    let l := List.zipWith ((s.arith x et).cond cond) (elems w n (k.vsrc a)) (elems w n (k.vsrc b))
    s.resM 2 wd md (maskOf (w / 8) l)) s

/-- R166: bytes of A or B by the mask that ETX names. -/
def execVsel (x : Lent) (wd : Width) (_h : Bool) (d : VDst) (a b : VSrc) (s : State) : Out :=
  act (syl x (((Uses.none.v a).v b).d d) fun s =>
    let k := s.me
    s.resV 2 wd d (selBytes wd (k.ctx.m.get x.etx.toFin) (k.vsrc a) (k.vsrc b))) s

/-- R164: two 16-bit products into each 32-bit lane. -/
def execVmac16 (x : Lent) (wd : Width) (_h : Bool) (et : BitVec 1) (d : VDst) (a b : VSrc) (s : State) : Out :=
  act (lanes3 (dotLanes wd 2) x wd et d a b) s

/-- R164: four 8-bit products into each 32-bit lane. -/
def execVdot4 (x : Lent) (wd : Width) (_h : Bool) (et : BitVec 1) (d : VDst) (a b : VSrc) (s : State) : Out :=
  act (lanes3 (dotLanes wd 4) x wd et d a b) s

/-- R162: saturating addition. -/
def execVsadd (x : Lent) (wd : Width) (_h : Bool) (et : BitVec 1) (d : VDst) (a b : VSrc) (s : State) : Out :=
  act (lanes2 2 (fun q => Arith.add { q with sat := true }) x wd et d a b) s

/-- R162: saturating subtraction. -/
def execVssub (x : Lent) (wd : Width) (_h : Bool) (et : BitVec 1) (d : VDst) (a b : VSrc) (s : State) : Out :=
  act (lanes2 2 (fun q => Arith.sub { q with sat := true }) x wd et d a b) s

/-- R170, R52: reduces A by the fixed tree to element 0. -/
def execVred (x : Lent) (wd : Width) (_h : Bool) (et : BitVec 1) (op : BitVec 3) (d : VDst) (a : VSrc) (s : State) : Out :=
  act (syl x ((Uses.none.v a).d d) fun s =>
    let w := tyBits (x.ty et)
    s.resV 6 wd d (packEls w [reduce op (s.arith x et) (elems w (lanesOf wd w) (s.me.vsrc a))])) s

/-- R168: elements of A by the indexes of B. -/
def execVperm (x : Lent) (wd : Width) (_h : Bool) (et : BitVec 1) (d : VDst) (a b : VSrc) (s : State) : Out :=
  act (syl x (((Uses.none.v a).v b).d d) fun s =>
    let w := tyBits (x.ty et)
    s.resV 2 wd d (permLanes w (lanesOf wd w) (s.me.vsrc a) (s.me.vsrc b))) s

/-- R169: a scalar in every element. -/
def execVbcst (x : Lent) (wd : Width) (_h : Bool) (et : BitVec 1) (d : VDst) (a : BitVec 6) (s : State) : Out :=
  act (syl x ((Uses.none.r a).d d) fun s =>
    let w := tyBits (x.ty et)
    s.resV 2 wd d (packEls w (List.replicate (lanesOf wd w) (s.sreg a).toNat))) s

/-- R169: a scalar in one element. -/
def execVins (x : Lent) (wd : Width) (_h : Bool) (et : BitVec 1) (d : VDst) (a idx : BitVec 6) (s : State) : Out :=
  act (syl x ((Uses.none.r a).dv d) fun s =>
    let w := tyBits (x.ty et)
    s.resV 2 wd d (insLane w (lanesOf wd w) (s.me.vreg d.r) idx.toNat (s.sreg a).toNat)) s

/-- R169: one element into a scalar register, at issue + 2 and in no latch. -/
def execVext (x : Lent) (wd : Width) (_h : Bool) (et : BitVec 1) (d : BitVec 6) (a : VSrc) (idx : BitVec 6) (s : State) : Out :=
  act (syl x (Uses.none.v a) fun s =>
    let ty := x.ty et
    let w := tyBits ty
    s.resR 2 d (ofI (intVal ty (nth (elems w (lanesOf wd w) (s.me.vsrc a)) idx.toNat 0)))) s

/-- R169: D ← A. -/
def execVmov (x : Lent) (wd : Width) (_h : Bool) (d : VDst) (a : VSrc) (s : State) : Out :=
  act (lanesS 2 (fun _ v => v) x wd d a) s

/-- R171, R47: converts each element. -/
def execVcvt (x : Lent) (wd : Width) (_h : Bool) (d : VDst) (a : VSrc) (tgt src : BitVec 4) (s : State) : Out :=
  act (lanesS 3 (fun k v => convLanes wd (convert x.rnd.toNat x.sat k.ctx.fz tgt src) tgt src v) x wd d a) s

/-- R172: narrows two sources into one. -/
def execVpack (x : Lent) (wd : Width) (_h : Bool) (form : BitVec 2) (d : VDst) (a b : VSrc) (s : State) : Out :=
  act (syl x (((Uses.none.v a).v b).d d) fun s =>
    s.resV 3 wd d (packLanes wd form x.sat (s.me.vsrc a) (s.me.vsrc b))) s

/-- R173: widens one half of a source. -/
def execVunpk (x : Lent) (wd : Width) (_h : Bool) (form : BitVec 2) (hi : Bool) (d : VDst) (a : VSrc) (s : State) : Out :=
  act (lanesS 3 (fun _ v => unpackLanes wd form hi v) x wd d a) s

/-- R175: measures a block: its scale into D and QS at issue + 3. -/
def execVmaxe (x : Lent) (wd : Width) (_h : Bool) (d : VDst) (a : VSrc) (tgt src : BitVec 4) (s : State) : Out :=
  act (syl x ((Uses.none.v a).d d) fun s =>
    let k := s.me
    let w := tyBits src
    let e := blockScale tgt ((elems w (lanesOf wd w) (k.vsrc a)).map ((fmtOf src).decodeFz k.ctx.fz))
    (s.result (s.me.newFlight 3 .qs false (BitVec.ofNat 1024 (e + tgt.toNat * 256)))).andThen fun s =>
      s.resV 3 wd d (BitVec.ofNat 1024 e)) s

/-- R176: divides by the scale of QS and converts. -/
def execVcvtq (x : Lent) (wd : Width) (_h : Bool) (d : VDst) (a : VSrc) (tgt src : BitVec 4) (s : State) : Out :=
  act (lanesS 3 (fun k v =>
    let w := tyBits src
    packEls (tyBits tgt) ((elems w (lanesOf wd w) v).map fun e =>
      quantize x.rnd.toNat (fieldNat k.ctx.qs 0 8) tgt ((fmtOf src).decodeFz k.ctx.fz e))) x wd d a) s

/-- A special function of each element (R177). -/
def specialLanes (f : FVal → FVal) (x : Lent) (wd : Width) (d : VDst) (a : VSrc) (ty : BitVec 4) : State → State :=
  lanesS 8 (fun k v =>
    let q : Arith := { ty := ty, rnd := x.rnd.toNat, sat := false, fz := k.ctx.fz }
    let w := tyBits ty
    packEls w ((elems w (lanesOf wd w) v).map fun e => q.rounded (f (q.dec e)))) x wd d a

/-- R177: 2^x of each element, rounded once, at issue + 8. -/
def execVexp2 (x : Lent) (wd : Width) (_h : Bool) (d : VDst) (a : VSrc) (ty : BitVec 4) (s : State) : Out :=
  act (specialLanes FVal.exp2 x wd d a ty) s

/-- R177: log2 x of each element, rounded once, at issue + 8. -/
def execVlog2 (x : Lent) (wd : Width) (_h : Bool) (d : VDst) (a : VSrc) (ty : BitVec 4) (s : State) : Out :=
  act (specialLanes FVal.log2 x wd d a ty) s

/-- R177: 1/x of each element, rounded once, at issue + 8. -/
def execVrcp (x : Lent) (wd : Width) (_h : Bool) (d : VDst) (a : VSrc) (ty : BitVec 4) (s : State) : Out :=
  act (specialLanes FVal.rcp x wd d a ty) s

/-- R177: 1/√x of each element, rounded once, at issue + 8. -/
def execVrsq (x : Lent) (wd : Width) (_h : Bool) (d : VDst) (a : VSrc) (ty : BitVec 4) (s : State) : Out :=
  act (specialLanes FVal.rsqrt x wd d a ty) s

/-- R177: tanh x of each element, rounded once, at issue + 8. -/
def execVtanh (x : Lent) (wd : Width) (_h : Bool) (d : VDst) (a : VSrc) (ty : BitVec 4) (s : State) : Out :=
  act (specialLanes FVal.tanh x wd d a ty) s

/-- R178: adds the bucketed bias to each score. -/
def execVrpb (x : Lent) (wd : Width) (_h : Bool) (bidir : Bool) (d : VDst) (a p : VSrc) (s : State) : Out :=
  act (syl x (((Uses.none.v a).v p).d d) fun s =>
    let k := s.me
    let par := elems 32 3 (k.vsrc p)
    let off := nth par 2 0 / 128 * 128
    if 2 ^ 20 ≤ nth par 2 0 then s.trap 7 cDataUnmapped (w64 (Config.lsBase + off))
    else
      let c := s.dev.cur.core
      let tab := s.readPart c (k.seq 0) { va := Config.lsBase + off, len := 128, pa := some (lsAddr c off), sc := false }
      let q : Arith := { ty := 0, rnd := x.rnd.toNat, sat := false, fz := k.ctx.fz }
      s.resV 8 wd d (biasLanes wd bidir q (sgn 32 (nth par 0 0)) (sgn 32 (nth par 1 0))
        (elems 32 32 (BitVec.ofNat 1024 (leNat tab))) (k.vsrc a))) s

/-- The operation of `vmsk` (R167). -/
def maskOp (op : BitVec 3) (a b : BitVec 128) : BitVec 128 := match op.toNat with
  | 0 => a &&& b
  | 1 => a ||| b
  | 2 => a ^^^ b
  | 3 => a &&& ~~~b
  | 4 => ~~~a
  | 5 => BitVec.ofNat 128 (2 ^ 128 - 1)
  | _ => 0

/-- R167: an operation on masks, at issue + 1. -/
def execVmsk (x : Lent) (wd : Width) (op md ma mb : BitVec 3) (s : State) : Out :=
  act (syl x Uses.none fun s =>
    let k := s.me
    s.resM 1 wd md (maskOp op (k.ctx.m.get ma.toFin) (k.ctx.m.get mb.toFin))) s

end Sys2Proof.Machine
end

