-- ==== Sys2Proof/Machine/VectorMem.lean ====
section
/-! DEFINITION. The vector loads and stores of major 1000 (R179 to R182, R184). -/

namespace Sys2Proof.Machine

/-- Where a vector load of `wd` bits writes: a vector register, or the entry it reserves in a write stream (R184). -/
def State.vloadDest (s : State) (wd : Width) (d : BitVec 5) : FDest × State :=
  let k := s.me
  match k.boundSlot d with
  | some (slot, st) =>
    let (id, s) := s.fresh
    let e : WEnt := { slot := slot, place := id, seq := k.seq 3, va := st.entryVa st.next, len := st.entryBytes, val := none, own := k.owner }
    (.wr slot id, s.modMe fun k =>
      { (k.modStream slot fun st => { st with next := st.next + 1 }) with wents := k.wents ++ [e] })
  | none => (.v d wd, s)

/-- The runs of set bits among the first `n` of a mask, as starts and lengths; `open_` is the start of a run in progress. -/
def maskRuns (m : BitVec 128) : Nat → Nat → Option Nat → List (Nat × Nat)
  | 0, i, some a => [(a, i - a)]
  | 0, _, none => []
  | n + 1, i, some a => if bitAt m i then maskRuns m n (i + 1) (some a) else (a, i - a) :: maskRuns m n (i + 1) none
  | n + 1, i, none => if bitAt m i then maskRuns m n (i + 1) (some i) else maskRuns m n (i + 1) none

/-- The runs of bytes that a `vst` writes: all, or those of the mask. -/
def storeRuns (wd : Width) (me : Bool) (m : BitVec 128) : List (Nat × Nat) :=
  if me then maskRuns m (wd.bits / 8) 0 none else [(0, wd.bits / 8)]

/-- The addresses of a strided access (R180). -/
def strided (base stride : W64) (n : Nat) : List Nat := (List.range n).map fun i => (base + w64 i * stride).toNat

/-- The first fault of R181 for stores at `els`, each with its first byte and length. -/
def State.storesFault (s : State) (els : List (Nat × Nat)) : Option (Nat × Nat) := els.findSome? fun e => s.storeFault e.1 e.2

/-- The bytes of a store, none where a mask leaves one as it is (R179). -/
def maskedBytes (me : Bool) (m : BitVec 128) (bs : List Byte) : List (Option Byte) :=
  if me then bs.zipIdx.map fun b => if bitAt m b.2 then some b.1 else none else bs.map some

/-- R179: loads W/8 contiguous bytes. -/
def execVld (x : Lent) (wd : Width) (lc : BitVec 2) (d : BitVec 5) (a : BitVec 6) (off : BitVec 9) (s : State) : Out :=
  act (syl x ((Uses.none.r a).d { n := false, r := d }) fun s =>
    let ea := s.ea a off.toInt 32
    let len := wd.bits / 8
    match s.dataFault .read true ea len with
    | some f => s.trapData f
    | none =>
      let (dest, s) := s.vloadDest wd d
      s.issueLoad .vload (spanPieces ea len) (classLat lc) dest (some (d.setWidth 6))) s

/-- R179: stores W/8 contiguous bytes, or those that the mask selects; the whole span is checked (R181). -/
def execVst (x : Lent) (wd : Width) (vs : VSrc) (a : BitVec 6) (me : Bool) (m : BitVec 3) (off : BitVec 6) (s : State) : Out :=
  act (syl x ((Uses.none.r a).v vs) fun s =>
    let ea := s.ea a off.toInt 32
    let len := wd.bits / 8
    let runs := storeRuns wd me (s.me.ctx.m.get m.toFin)
    let narrow := if rowOf ea = .vault then runs.findSome? fun r => s.granuleFault (ea + r.1) r.2 else none
    match (s.dataFault .write true ea len).or narrow with
    | some f => s.trapData f
    | none =>
      s.storeMany none false [(ea, maskedBytes me (s.me.ctx.m.get m.toFin) (toLe len (s.me.vsrc vs).toNat))]) s

/-- R180: loads strided elements; all land together. -/
def execVlds (x : Lent) (wd : Width) (lc : BitVec 2) (d : BitVec 5) (a b : BitVec 6) (es : BitVec 2) (s : State) : Out :=
  act (syl x (((Uses.none.r a).r b).d { n := false, r := d }) fun s =>
    let size := 2 ^ es.toNat
    let els := (strided (s.sreg a) (s.sreg b) (lanesOf wd (8 * size))).map fun e => (e, size)
    match els.findSome? fun e => s.dataFault .read true e.1 e.2 with
    | some f => s.trapData f
    | none =>
      let (dest, s) := s.vloadDest wd d
      s.issueLoad .vload els (classLat lc) dest (some (d.setWidth 6))) s

/-- R180: stores strided elements in ascending order. -/
def execVsts (x : Lent) (wd : Width) (vs : VSrc) (a b : BitVec 6) (es : BitVec 2) (s : State) : Out :=
  act (syl x (((Uses.none.r a).r b).v vs) fun s =>
    let size := 2 ^ es.toNat
    let els := (strided (s.sreg a) (s.sreg b) (lanesOf wd (8 * size))).map fun e => (e, size)
    match s.storesFault els with
    | some f => s.trapData f
    | none =>
      let vals := elems (8 * size) els.length (s.me.vsrc vs)
      s.storeMany none true ((List.zip els vals).map fun e => (e.1.1, (toLe size e.2).map some))) s

end Sys2Proof.Machine
end

