-- ==== Sys2Proof/Machine/Dispatch.lean ====
section
/-! DEFINITION. One arm for each instruction, command, Pip instruction and event: its meaning. -/

namespace Sys2Proof.Machine

/-- What an instruction does. -/
def exec (i : Instr) (s : State) : Host.Outcome State Fault Refusal :=
  match i with
  | .add x d a b => Sys2Proof.Machine.execAdd x d a b s
  | .sub x d a b => Sys2Proof.Machine.execSub x d a b s
  | .mul x d a b => Sys2Proof.Machine.execMul x d a b s
  | .mulh x d a b => Sys2Proof.Machine.execMulh x d a b s
  | .mulhn x d a b => Sys2Proof.Machine.execMulhn x d a b s
  | .div x d a b => Sys2Proof.Machine.execDiv x d a b s
  | .divn x d a b => Sys2Proof.Machine.execDivn x d a b s
  | .rem x d a b => Sys2Proof.Machine.execRem x d a b s
  | .remn x d a b => Sys2Proof.Machine.execRemn x d a b s
  | .and x d a b => Sys2Proof.Machine.execAnd x d a b s
  | .or x d a b => Sys2Proof.Machine.execOr x d a b s
  | .xor x d a b => Sys2Proof.Machine.execXor x d a b s
  | .andn x d a b => Sys2Proof.Machine.execAndn x d a b s
  | .shl x d a b => Sys2Proof.Machine.execShl x d a b s
  | .shr x d a b => Sys2Proof.Machine.execShr x d a b s
  | .sra x d a b => Sys2Proof.Machine.execSra x d a b s
  | .rot x d a b => Sys2Proof.Machine.execRot x d a b s
  | .clz x d a => Sys2Proof.Machine.execClz x d a s
  | .popc x d a => Sys2Proof.Machine.execPopc x d a s
  | .min x d a b => Sys2Proof.Machine.execMin x d a b s
  | .max x d a b => Sys2Proof.Machine.execMax x d a b s
  | .minn x d a b => Sys2Proof.Machine.execMinn x d a b s
  | .maxn x d a b => Sys2Proof.Machine.execMaxn x d a b s
  | .sext x d a w => Sys2Proof.Machine.execSext x d a w s
  | .zext x d a w => Sys2Proof.Machine.execZext x d a w s
  | .cmp x cond pd a b => Sys2Proof.Machine.execCmp x cond pd a b s
  | .pop x op pd na pa nb pb => Sys2Proof.Machine.execPop x op pd na pa nb pb s
  | .pmovFrom x d => Sys2Proof.Machine.execPmovFrom x d s
  | .pmovTo x a => Sys2Proof.Machine.execPmovTo x a s
  | .agen x d n a => Sys2Proof.Machine.execAgen x d n a s
  | .agset x n a b => Sys2Proof.Machine.execAgset x n a b s
  | .lea x k d a b => Sys2Proof.Machine.execLea x k d a b s
  | .sel x p d a b => Sys2Proof.Machine.execSel x p d a b s
  | .addi x d a imm => Sys2Proof.Machine.execAddi x d a imm s
  | .cmpi x cond pd a imm => Sys2Proof.Machine.execCmpi x cond pd a imm s
  | .bfx x d a pos len1 => Sys2Proof.Machine.execBfx x d a pos len1 s
  | .bfi x d a pos len1 => Sys2Proof.Machine.execBfi x d a pos len1 s
  | .movi x d imm => Sys2Proof.Machine.execMovi x d imm s
  | .movhi x d imm => Sys2Proof.Machine.execMovhi x d imm s
  | .ld x sz lc sx d a off => Sys2Proof.Machine.execLd x sz lc sx d a off s
  | .st x sz d a off => Sys2Proof.Machine.execSt x sz d a off s
  | .ldacq x sz lc sx scope d a off => Sys2Proof.Machine.execLdacq x sz lc sx scope d a off s
  | .strel x sz lc scope d a off => Sys2Proof.Machine.execStrel x sz lc scope d a off s
  | .amo x asz lc ord scope op d a => Sys2Proof.Machine.execAmo x asz lc ord scope op d a s
  | .cas x asz lc ord scope d a => Sys2Proof.Machine.execCas x asz lc ord scope d a s
  | .cas16 x lc ord scope d a => Sys2Proof.Machine.execCas16 x lc ord scope d a s
  | .pref x a off => Sys2Proof.Machine.execPref x a off s
  | .br x disp => Sys2Proof.Machine.execBr x disp s
  | .brc x neg p disp => Sys2Proof.Machine.execBrc x neg p disp s
  | .bri x a => Sys2Proof.Machine.execBri x a s
  | .call x disp => Sys2Proof.Machine.execCall x disp s
  | .calli x a => Sys2Proof.Machine.execCalli x a s
  | .ret x a => Sys2Proof.Machine.execRet x a s
  | .loop x cnt off => Sys2Proof.Machine.execLoop x cnt off s
  | .loopx x sr off => Sys2Proof.Machine.execLoopx x sr off s
  | .brk x => Sys2Proof.Machine.execBrk x s
  | .bsel x a => Sys2Proof.Machine.execBsel x a s
  | .pause x cnt => Sys2Proof.Machine.execPause x cnt s
  | .exit x => Sys2Proof.Machine.execExit x s
  | .nop ovl e0 e1 e2 => Sys2Proof.Machine.execNop ovl e0 e1 e2 s
  | .vadd x wd h et d a b => Sys2Proof.Machine.execVadd x wd h et d a b s
  | .vsub x wd h et d a b => Sys2Proof.Machine.execVsub x wd h et d a b s
  | .vmul x wd h et d a b => Sys2Proof.Machine.execVmul x wd h et d a b s
  | .vfma x wd h et d a b => Sys2Proof.Machine.execVfma x wd h et d a b s
  | .vfms x wd h et d a b => Sys2Proof.Machine.execVfms x wd h et d a b s
  | .vmin x wd h et d a b => Sys2Proof.Machine.execVmin x wd h et d a b s
  | .vmax x wd h et d a b => Sys2Proof.Machine.execVmax x wd h et d a b s
  | .vabs x wd h et d a => Sys2Proof.Machine.execVabs x wd h et d a s
  | .vneg x wd h et d a => Sys2Proof.Machine.execVneg x wd h et d a s
  | .vand x wd h et d a b => Sys2Proof.Machine.execVand x wd h et d a b s
  | .vor x wd h et d a b => Sys2Proof.Machine.execVor x wd h et d a b s
  | .vxor x wd h et d a b => Sys2Proof.Machine.execVxor x wd h et d a b s
  | .vshl x wd h et d a b => Sys2Proof.Machine.execVshl x wd h et d a b s
  | .vshr x wd h et d a b => Sys2Proof.Machine.execVshr x wd h et d a b s
  | .vsra x wd h et d a b => Sys2Proof.Machine.execVsra x wd h et d a b s
  | .vrot x wd h et d a b => Sys2Proof.Machine.execVrot x wd h et d a b s
  | .vcmp x wd h et cond md a b => Sys2Proof.Machine.execVcmp x wd h et cond md a b s
  | .vsel x wd h d a b => Sys2Proof.Machine.execVsel x wd h d a b s
  | .vmac16 x wd h et d a b => Sys2Proof.Machine.execVmac16 x wd h et d a b s
  | .vdot4 x wd h et d a b => Sys2Proof.Machine.execVdot4 x wd h et d a b s
  | .vsadd x wd h et d a b => Sys2Proof.Machine.execVsadd x wd h et d a b s
  | .vssub x wd h et d a b => Sys2Proof.Machine.execVssub x wd h et d a b s
  | .vred x wd h et op d a => Sys2Proof.Machine.execVred x wd h et op d a s
  | .vperm x wd h et d a b => Sys2Proof.Machine.execVperm x wd h et d a b s
  | .vbcst x wd h et d a => Sys2Proof.Machine.execVbcst x wd h et d a s
  | .vins x wd h et d a idx => Sys2Proof.Machine.execVins x wd h et d a idx s
  | .vext x wd h et d a idx => Sys2Proof.Machine.execVext x wd h et d a idx s
  | .vmov x wd h d a => Sys2Proof.Machine.execVmov x wd h d a s
  | .vcvt x wd h d a tgt src => Sys2Proof.Machine.execVcvt x wd h d a tgt src s
  | .vpack x wd h form d a b => Sys2Proof.Machine.execVpack x wd h form d a b s
  | .vunpk x wd h form hi d a => Sys2Proof.Machine.execVunpk x wd h form hi d a s
  | .vmaxe x wd h d a tgt src => Sys2Proof.Machine.execVmaxe x wd h d a tgt src s
  | .vcvtq x wd h d a tgt src => Sys2Proof.Machine.execVcvtq x wd h d a tgt src s
  | .vexp2 x wd h d a ty => Sys2Proof.Machine.execVexp2 x wd h d a ty s
  | .vlog2 x wd h d a ty => Sys2Proof.Machine.execVlog2 x wd h d a ty s
  | .vrcp x wd h d a ty => Sys2Proof.Machine.execVrcp x wd h d a ty s
  | .vrsq x wd h d a ty => Sys2Proof.Machine.execVrsq x wd h d a ty s
  | .vtanh x wd h d a ty => Sys2Proof.Machine.execVtanh x wd h d a ty s
  | .vrpb x wd h bidir d a p => Sys2Proof.Machine.execVrpb x wd h bidir d a p s
  | .vld x wd lc d a off => Sys2Proof.Machine.execVld x wd lc d a off s
  | .vst x wd vs a me m off => Sys2Proof.Machine.execVst x wd vs a me m off s
  | .vlds x wd lc d a b es => Sys2Proof.Machine.execVlds x wd lc d a b es s
  | .vsts x wd vs a b es => Sys2Proof.Machine.execVsts x wd vs a b es s
  | .vmsk x wd op md ma mb => Sys2Proof.Machine.execVmsk x wd op md ma mb s
  | .tcfg x t rowsm1 colsm1 int => Sys2Proof.Machine.execTcfg x t rowsm1 colsm1 int s
  | .tcfgOff x t => Sys2Proof.Machine.execTcfgOff x t s
  | .tzero x t row0 nm1 => Sys2Proof.Machine.execTzero x t row0 nm1 s
  | .trowmv x t row cb va => Sys2Proof.Machine.execTrowmv x t row cb va s
  | .trowrd x t row cb vd => Sys2Proof.Machine.execTrowrd x t row cb vd s
  | .tcolrd x t row cb vd => Sys2Proof.Machine.execTcolrd x t row cb vd s
  | .mma x t k ring fa fb a sat => Sys2Proof.Machine.execMma x t k ring fa fb a sat s
  | .mmap x t k ring fa fb a sat => Sys2Proof.Machine.execMmap x t k ring fa fb a sat s
  | .mlatch x k fmt a => Sys2Proof.Machine.execMlatch x k fmt a s
  | .mscl x k a => Sys2Proof.Machine.execMscl x k a s
  | .mdrain x t fmt z a => Sys2Proof.Machine.execMdrain x t fmt z a s
  | .mcall x idx => Sys2Proof.Machine.execMcall x idx s
  | .mpset x n a => Sys2Proof.Machine.execMpset x n a s
  | .ringcfg x ring a b => Sys2Proof.Machine.execRingcfg x ring a b s
  | .ringpop x ring d n => Sys2Proof.Machine.execRingpop x ring d n s
  | .ringpush x ring d n => Sys2Proof.Machine.execRingpush x ring d n s
  | .mpload x n cm1 a => Sys2Proof.Machine.execMpload x n cm1 a s
  | .copy x d a ord acq rel scope => Sys2Proof.Machine.execCopy x d a ord acq rel scope s
  | .copyc x d a ord acq rel scope => Sys2Proof.Machine.execCopyc x d a ord acq rel scope s
  | .kld x d a b acq rel scope => Sys2Proof.Machine.execKld x d a b acq rel scope s
  | .kst x d a b acq rel scope => Sys2Proof.Machine.execKst x d a b acq rel scope s
  | .kapp x d a b acq rel scope => Sys2Proof.Machine.execKapp x d a b acq rel scope s
  | .kalloc x d a b acq rel scope => Sys2Proof.Machine.execKalloc x d a b acq rel scope s
  | .kfree x d a b acq rel scope => Sys2Proof.Machine.execKfree x d a b acq rel scope s
  | .kcommit x d a b acq rel scope => Sys2Proof.Machine.execKcommit x d a b acq rel scope s
  | .kdedup x d a b acq rel scope => Sys2Proof.Machine.execKdedup x d a b acq rel scope s
  | .kfork x d a b acq rel scope => Sys2Proof.Machine.execKfork x d a b acq rel scope s
  | .kwin x d a b acq rel scope => Sys2Proof.Machine.execKwin x d a b acq rel scope s
  | .kpin x d a b acq rel scope => Sys2Proof.Machine.execKpin x d a b acq rel scope s
  | .sbind x slot vr dir a => Sys2Proof.Machine.execSbind x slot vr dir a s
  | .sfree x slot => Sys2Proof.Machine.execSfree x slot s
  | .ixq x slot a => Sys2Proof.Machine.execIxq x slot a s
  | .qput x q a => Sys2Proof.Machine.execQput x q a s
  | .qget x q d => Sys2Proof.Machine.execQget x q d s
  | .crwait x dn a d => Sys2Proof.Machine.execCrwait x dn a d s
  | .fenceAcq x scope lc => Sys2Proof.Machine.execFenceAcq x scope lc s
  | .fenceRel x scope lc => Sys2Proof.Machine.execFenceRel x scope lc s
  | .fenceAr x scope lc => Sys2Proof.Machine.execFenceAr x scope lc s
  | .drain x scope lc => Sys2Proof.Machine.execDrain x scope lc s
  | .bara x hb => Sys2Proof.Machine.execBara x hb s
  | .barw x hb => Sys2Proof.Machine.execBarw x hb s
  | .barwA x hb => Sys2Proof.Machine.execBarwA x hb s
  | .barset x hb a b => Sys2Proof.Machine.execBarset x hb a b s
  | .stepjoin x sg => Sys2Proof.Machine.execStepjoin x sg s
  | .step x sg => Sys2Proof.Machine.execStep x sg s
  | .stepleave x sg => Sys2Proof.Machine.execStepleave x sg s
  | .logit x d a b => Sys2Proof.Machine.execLogit x d a b s
  | .seqbind x a => Sys2Proof.Machine.execSeqbind x a s
  | .verify x d a b => Sys2Proof.Machine.execVerify x d a b s
  | .tmove x d a b => Sys2Proof.Machine.execTmove x d a b s
  | .mbox x d a b => Sys2Proof.Machine.execMbox x d a b s
  | .syscall x n => Sys2Proof.Machine.execSyscall x n s
  | .eret x => Sys2Proof.Machine.execEret x s
  | .mfsr x d srn => Sys2Proof.Machine.execMfsr x d srn s
  | .mtsr x a srn => Sys2Proof.Machine.execMtsr x a srn s
  | .csave x d => Sys2Proof.Machine.execCsave x d s
  | .crest x d => Sys2Proof.Machine.execCrest x d s
  | .tsave x d => Sys2Proof.Machine.execTsave x d s
  | .tsaveOut x d => Sys2Proof.Machine.execTsaveOut x d s
  | .tlbinvPage x d a => Sys2Proof.Machine.execTlbinvPage x d a s
  | .tlbinvTen x d a => Sys2Proof.Machine.execTlbinvTen x d a s
  | .tlbinvAll x d => Sys2Proof.Machine.execTlbinvAll x d s
  | .wfi x => Sys2Proof.Machine.execWfi x s
  | .halt x => Sys2Proof.Machine.execHalt x s
  | .chunkToken n len last => Sys2Proof.Machine.execChunkToken n len last s
  | .sesameEgressRecord t ch mbox => Sys2Proof.Machine.execSesameEgressRecord t ch mbox s
  | .cmov d a => Sys2Proof.Machine.execCmov d a s
  | .cmovi d imm => Sys2Proof.Machine.execCmovi d imm s
  | .cmoviExt d ext => Sys2Proof.Machine.execCmoviExt d ext s
  | .cadd d a b => Sys2Proof.Machine.execCadd d a b s
  | .caddImm d a ext => Sys2Proof.Machine.execCaddImm d a ext s
  | .csub d a b => Sys2Proof.Machine.execCsub d a b s
  | .csubImm d a ext => Sys2Proof.Machine.execCsubImm d a ext s
  | .cand d a b => Sys2Proof.Machine.execCand d a b s
  | .candImm d a ext => Sys2Proof.Machine.execCandImm d a ext s
  | .cor d a b => Sys2Proof.Machine.execCor d a b s
  | .corImm d a ext => Sys2Proof.Machine.execCorImm d a ext s
  | .ccmp d a b cond => Sys2Proof.Machine.execCcmp d a b cond s
  | .ccmpImm d a ext cond => Sys2Proof.Machine.execCcmpImm d a ext cond s
  | .cbr mode d disp => Sys2Proof.Machine.execCbr mode d disp s
  | .cloop d disp => Sys2Proof.Machine.execCloop d disp s
  | .ccall disp => Sys2Proof.Machine.execCcall disp s
  | .ccallIndirect a => Sys2Proof.Machine.execCcallIndirect a s
  | .cld d a off => Sys2Proof.Machine.execCld d a off s
  | .cldR d a off => Sys2Proof.Machine.execCldR d a off s
  | .cst d a off => Sys2Proof.Machine.execCst d a off s
  | .cstR d a off => Sys2Proof.Machine.execCstR d a off s
  | .cwait a b cond => Sys2Proof.Machine.execCwait a b cond s
  | .csigSet a b => Sys2Proof.Machine.execCsigSet a b s
  | .csigAdd a b => Sys2Proof.Machine.execCsigAdd a b s
  | .claunch d a b => Sys2Proof.Machine.execClaunch d a b s
  | .cseg a => Sys2Proof.Machine.execCseg a s
  | .ccopy d a => Sys2Proof.Machine.execCcopy d a s
  | .ccopyC d a => Sys2Proof.Machine.execCcopyC d a s
  | .ctime d => Sys2Proof.Machine.execCtime d s
  | .crungRd d a => Sys2Proof.Machine.execCrungRd d a s
  | .crungSet a b => Sys2Proof.Machine.execCrungSet a b s
  | .cint n => Sys2Proof.Machine.execCint n s
  | .cqwpDoorbell t q wp => Sys2Proof.Machine.execCqwpDoorbell t q wp s
  | .cqctlWrite t q val => Sys2Proof.Machine.execCqctlWrite t q val s
  | .svcbWrite t val => Sys2Proof.Machine.execSvcbWrite t val s
  | .tpartWrite t val grant => Sys2Proof.Machine.execTpartWrite t val grant s
  | .kvalidWrite t val => Sys2Proof.Machine.execKvalidWrite t val s
  | .deviceReset boot => Sys2Proof.Machine.execDeviceReset boot s
  | .checkpoint val => Sys2Proof.Machine.execCheckpoint val s
  | .restore val => Sys2Proof.Machine.execRestore val s
  | .attestationReport fn nonce => Sys2Proof.Machine.execAttestationReport fn nonce s
  | .registerWrite fn off val => Sys2Proof.Machine.execRegisterWrite fn off val s
  | .powerOnReset boot => Sys2Proof.Machine.execPowerOnReset boot s
  | .functionLevelReset fn => Sys2Proof.Machine.execFunctionLevelReset fn s
  | .thermalTrip temp => Sys2Proof.Machine.execThermalTrip temp s
  | .thermalTripExit temp => Sys2Proof.Machine.execThermalTripExit temp s
  | .thermalShutdown temp => Sys2Proof.Machine.execThermalShutdown temp s
  | .operatingPointChange island mhz mv watt => Sys2Proof.Machine.execOperatingPointChange island mhz mv watt s
  | .hostBar2Access fn off len write => Sys2Proof.Machine.execHostBar2Access fn off len write s
  | .pld d => Sys2Proof.Machine.execPld d s
  | .pldIdx d => Sys2Proof.Machine.execPldIdx d s
  | .pcnt d => Sys2Proof.Machine.execPcnt d s
  | .pbias d => Sys2Proof.Machine.execPbias d s
  | .padd d a b s0 => Sys2Proof.Machine.execPadd d a b s0 s
  | .psub d a b s0 => Sys2Proof.Machine.execPsub d a b s0 s
  | .pmul d a b s0 => Sys2Proof.Machine.execPmul d a b s0 s
  | .pmax d a b s0 => Sys2Proof.Machine.execPmax d a b s0 s
  | .pmin d a b s0 => Sys2Proof.Machine.execPmin d a b s0 s
  | .pexp d a => Sys2Proof.Machine.execPexp d a s
  | .plog d a => Sys2Proof.Machine.execPlog d a s
  | .ppen d a b c => Sys2Proof.Machine.execPpen d a b c s
  | .pfreq d a b c e => Sys2Proof.Machine.execPfreq d a b c e s
  | .pmask d a => Sys2Proof.Machine.execPmask d a s
  | .pclamp d a b c => Sys2Proof.Machine.execPclamp d a b c s
  | .psel d c a b => Sys2Proof.Machine.execPsel d c a b s
  | .pimm d imm => Sys2Proof.Machine.execPimm d imm s
  | .pcmp d a b s0 cond => Sys2Proof.Machine.execPcmp d a b s0 cond s
  | .pskip n => Sys2Proof.Machine.execPskip n s
  | .pskipNz a n => Sys2Proof.Machine.execPskipNz a n s
  | .pskipZ a n => Sys2Proof.Machine.execPskipZ a n s
  | .pskipNone a n => Sys2Proof.Machine.execPskipNone a n s
  | .pend d => Sys2Proof.Machine.execPend d s
  | .pauseHoldEnds => Sys2Proof.Machine.execPauseHoldEnds s
  | .pairIssue => Sys2Proof.Machine.execPairIssue s
  | .pairAbort => Sys2Proof.Machine.execPairAbort s
  | .microStepFeed => Sys2Proof.Machine.execMicroStepFeed s
  | .matrixCommandStart => Sys2Proof.Machine.execMatrixCommandStart s
  | .copyCompletion => Sys2Proof.Machine.execCopyCompletion s
  | .kldRow => Sys2Proof.Machine.execKldRow s
  | .streamEntryFetch => Sys2Proof.Machine.execStreamEntryFetch s
  | .streamEntryDrain => Sys2Proof.Machine.execStreamEntryDrain s
  | .tokenLands => Sys2Proof.Machine.execTokenLands s
  | .resultLands => Sys2Proof.Machine.execResultLands s
  | .loadDataArrives => Sys2Proof.Machine.execLoadDataArrives s
  | .responseTimeout => Sys2Proof.Machine.execResponseTimeout s
  | .lateErrorResponse => Sys2Proof.Machine.execLateErrorResponse s
  | .preemptionRequest => Sys2Proof.Machine.execPreemptionRequest s
  | .supervisorEntry => Sys2Proof.Machine.execSupervisorEntry s
  | .resumeRequest => Sys2Proof.Machine.execResumeRequest s
  | .overlayMiss => Sys2Proof.Machine.execOverlayMiss s
  | .overlayLineLands => Sys2Proof.Machine.execOverlayLineLands s
  | .pageWalk => Sys2Proof.Machine.execPageWalk s
  | .taskStart => Sys2Proof.Machine.execTaskStart s
  | .dispatchDecision => Sys2Proof.Machine.execDispatchDecision s
  | .preemptionCompletes => Sys2Proof.Machine.execPreemptionCompletes s
  | .watchdogWd1 => Sys2Proof.Machine.execWatchdogWd1 s
  | .watchdogWd2 => Sys2Proof.Machine.execWatchdogWd2 s
  | .logitChunkTaken => Sys2Proof.Machine.execLogitChunkTaken s
  | .draftTreeTaken => Sys2Proof.Machine.execDraftTreeTaken s
  | .mailboxPost => Sys2Proof.Machine.execMailboxPost s
  | .decoderTake => Sys2Proof.Machine.execDecoderTake s
  | .decodeComplete => Sys2Proof.Machine.execDecodeComplete s
  | .encoderTake => Sys2Proof.Machine.execEncoderTake s
  | .encodeComplete => Sys2Proof.Machine.execEncodeComplete s
  | .submissionTake => Sys2Proof.Machine.execSubmissionTake s
  | .cret => Sys2Proof.Machine.execCret s
  | .cfenceCopy => Sys2Proof.Machine.execCfenceCopy s
  | .cfenceLaunch => Sys2Proof.Machine.execCfenceLaunch s
  | .cfenceAll => Sys2Proof.Machine.execCfenceAll s
  | .chalt => Sys2Proof.Machine.execChalt s
  | .resume => Sys2Proof.Machine.execResume s
  | .abandon => Sys2Proof.Machine.execAbandon s
  | .hazelMismatch => Sys2Proof.Machine.execHazelMismatch s
  | .hazelRecoveryEnd => Sys2Proof.Machine.execHazelRecoveryEnd s
  | .slotBoundary => Sys2Proof.Machine.execSlotBoundary s
  | .pnop => Sys2Proof.Machine.execPnop s
  | .writePerforms => Sys2Proof.Machine.execWritePerforms s
  | .checkpointDone => Sys2Proof.Machine.execCheckpointDone s
  | .linkDrops => Sys2Proof.Machine.execLinkDrops s
  | .linkUp => Sys2Proof.Machine.execLinkUp s

end Sys2Proof.Machine
end

