-- ==== Sys2Proof/Machine/Issue.lean ====
section
/-! DEFINITION. A core's clock (R17 to R21, R31, R101 to R108, R114, R298): its boundary, what lands, the fetch, the checks of the
bundle, its issue or its hold, and what a bundle leaves when it has issued. -/

namespace Sys2Proof.Machine

/-! ## A bundle's syllables (R99 to R107, R114) -/

/-- A syllable of a bundle as it issues: its address (the bundle's for a repeat of a held syllable), its word and lent byte, what it
decodes to, its place in issue order (R102), its latch and vector slot, and whether it is a repeat. -/
structure Syl where
  addr : W64
  word : BitVec 32
  ext : Byte
  instr : Option Instr
  place : Nat
  lat : Option (Fin 4)
  vslot : Option (Fin 2)
  rep : Bool
deriving DecidableEq, Repr

/-- The major opcode of a word (R99). -/
def majorOf (w : BitVec 32) : Nat := fieldNat w 27 4

/-- The engine of a major: 0 scalar, 1 control and system, 2 vector, 3 matrix, 4 transfer, 5 none (R100). -/
def engineOf (m : Nat) : Nat :=
  if m ≤ 4 then 0 else if m = 5 ∨ m = 12 then 1 else if m ≤ 8 then 2 else if m = 9 then 3 else if m ≤ 11 then 4 else 5

/-- How many syllables of an engine a bundle may hold (R100, R103). -/
def engineLimit (e : Nat) : Nat := if e = 0 ∨ e = 2 then 2 else if e = 5 then 4 else 1

/-- The header of a bundle (R106). -/
def headerOf : List (BitVec 32) → Option (BitVec 32)
  | w :: _ => if majorOf w = 15 then some w else none
  | [] => none

/-- The words of a bundle with their addresses. -/
def wordsAt : W64 → List (BitVec 32) → List (W64 × BitVec 32)
  | _, [] => []
  | a, w :: ws => (a, w) :: wordsAt (a + 4) ws

/-- The syllables after the header, with their addresses. -/
def bodyOf (base : W64) (ws : List (BitVec 32)) : List (W64 × BitVec 32) :=
  if (headerOf ws).isSome then (wordsAt base ws).drop 1 else wordsAt base ws

/-- The lent bytes of the syllables after the header (R106). -/
def lentBytes : Option (BitVec 32) → List Byte
  | none => [0, 0, 0, 0]
  | some h => [bits h 16 8, bits h 8 8, if bitAt h 26 then 0 else bits h 0 8]

/-- The bundle's own syllables in address order, with `n` places, `x` scalar and `v` vector slots taken (R101). -/
def ownSyls : List ((W64 × BitVec 32) × Byte) → Nat → Nat → Nat → List Syl
  | [], _, _, _ => []
  | ((a, w), e) :: r, n, x, v =>
    let eng := engineOf (majorOf w)
    { addr := a, word := w, ext := e, instr := (decodeSyllable w e).toOption, place := 3 + n,
      lat := if eng = 0 then [0, 1][x]? else if eng = 2 then [2, 3][v]? else none,
      vslot := if eng = 2 then [0, 1][v]? else none, rep := false } ::
      ownSyls r (n + 1) (if eng = 0 then x + 1 else x) (if eng = 2 then v + 1 else v)

/-- The own syllables of a bundle. A lent byte of the header for which there is no syllable is ignored (DESIGN CHOICE, log 71). -/
def bundleSyls (base : W64) (ws : List (BitVec 32)) : List Syl :=
  ownSyls ((bodyOf base ws).zip (lentBytes (headerOf ws))) 0 0 0

/-- The held syllables of the vector slots that a bundle leaves empty (R114), in order: where two of them land in one register in the same
clock, slot V1's stands (DESIGN CHOICE, log 117). -/
def Core.repeats (k : Core) (base : W64) (own : List Syl) : List Syl :=
  (List.finRange 2).filterMap fun j =>
    if own.any (fun y => y.vslot == some j) then none
    else (k.held.get j).map fun h =>
      { addr := base, word := h.word, ext := h.ext, instr := (decodeSyllable h.word h.ext).toOption, place := 1 + j.val,
        lat := some ⟨2 + j.val, by omega⟩, vslot := some j, rep := true }

/-- The width that a vector syllable names, in bits (R110, R123). -/
def sylWidth (w : BitVec 32) : Nat := match majorOf w with
  | 6 => 256 * 2 ^ fieldNat w 20 2
  | 7 => 256 * 2 ^ fieldNat w 21 2
  | _ => 256 * 2 ^ fieldNat w 22 2

/-- The hold bit of a vector syllable (R114). -/
def holdBit (w : BitVec 32) : Bool := match majorOf w with
  | 6 => bitAt w 19
  | 7 => bitAt w 20
  | _ => false

/-- The fields of a vector syllable that are vector sources (R110, R123). -/
def vsrcFields (w : BitVec 32) : List Nat := match majorOf w with
  | 6 =>
    let op := fieldNat w 22 5
    (if op = 24 ∨ op = 25 then [] else [fieldNat w 6 6]) ++
      (if [7, 8, 22, 24, 25, 26, 27].contains op then [] else [fieldNat w 0 6])
  | 7 =>
    let op := fieldNat w 23 4
    fieldNat w 8 6 :: if op = 1 ∨ op = 10 then [fieldNat w 0 6] else []
  | _ => []

/-! ## Checks 2 to 4 (R103 to R105, R114) -/

/-- Check 2: where the bundle is no bundle. Its address is that of the first header that is not first, or of the first syllable of an engine
that has too many; without a stop bit, the bundle's (DESIGN CHOICE, log 69). -/
def shapeFault (base : W64) (ws : List (BitVec 32)) : Option W64 :=
  if !stopped ws then some base
  else
    let body := bodyOf base ws
    let count (e : Nat) : Nat := (body.filter fun x => engineOf (majorOf x.2) == e).length
    (body.find? fun x => majorOf x.2 == 15 ||
      decide (engineLimit (engineOf (majorOf x.2)) < count (engineOf (majorOf x.2)))).map (·.1)

/-- Check 3: the lowest syllable that is no instruction. A held syllable may not name y2 or y3. -/
def codeFault (base : W64) (ws : List (BitVec 32)) (own : List Syl) : Option W64 :=
  if (headerOf ws).any fun h => fieldNat h 24 2 != 0 then some base
  else (own.find? fun y => y.instr.isNone ||
    (holdBit y.word && (vsrcFields y.word).any fun f => f == 32 || f == 33)).map (·.addr)

/-- Check 4: the widths of the bundle's vector syllables and of the repeats exceed 1024 bits. Its address is that of the bundle's first
vector syllable, or else the bundle's (DESIGN CHOICE, log 69). -/
def widthFault (base : W64) (own reps : List Syl) : Option W64 :=
  let vs := own.filter fun y => y.vslot.isSome
  if 1024 < ((vs ++ reps).map fun y => sylWidth y.word).sum then some ((vs.head?.map (·.addr)).getD base) else none

/-- Checks 2 to 4: the check that fails first, its code and address. -/
def bundleFault (base : W64) (ws : List (BitVec 32)) (own reps : List Syl) : Option (Nat × Nat × W64) :=
  match shapeFault base ws with
  | some a => some (2, cIllegalBundle, a)
  | none => match codeFault base ws own with
    | some a => some (3, cIllegalOpcode, a)
    | none => (widthFault base own reps).map fun a => (4, cIllegalBundle, a)

/-! ## Executing the syllables (R76, R102, R104) -/

/-- The order in which syllables take effect (R76): what reads memory and the vector syllables that do not store, V0 before V1 (R184);
atomics; the others; and the control slot. -/
def Syl.rank (y : Syl) : Nat := match y.instr with
  | some (.ld ..) | some (.ldacq ..) => 0
  | some (.amo ..) | some (.cas ..) | some (.cas16 ..) => 1
  | some (.vst ..) | some (.vsts ..) => 2
  | _ => if engineOf (majorOf y.word) = 2 then 0 else if engineOf (majorOf y.word) = 1 then 3 else 2

/-- The syllables by rank, and by address within one. -/
def sylOrder (l : List Syl) : List Syl := (List.range 4).flatMap fun r => l.filter fun y => y.rank == r

/-- A syllable becomes the one that executes. -/
def State.enter (s : State) (y : Syl) : State := s.modBun fun b =>
  { b with addr := y.addr, word := y.word, ext := y.ext, ord := s.me.clk.count * 8 + y.place, lat := y.lat, rep := y.rep,
           hold := none }

/-- Executes a syllable of the core that acts. -/
def State.runSyl (s : State) (y : Syl) : State := match y.instr with
  | none => s
  | some i => match exec i (s.enter y) with
    | .next t => t
    | .fault _ => s
    | .refused _ => s

/-- A trap of a bundle: whether a repeat raised it, its syllable's address, its record, and a refused access. -/
structure TrapRec where
  rep : Bool
  addr : W64
  why : StopRec
  refused : Option (Nat × Nat)
deriving DecidableEq, Repr

/-- What the syllables of a bundle have come to so far: the state with the effects of those that issue, the traps, the holds, and
whether a late error has halted the core (R291). -/
structure Tally where
  st : State
  traps : List TrapRec
  holds : List (Syl × Hold)
  late : Bool
deriving DecidableEq, Repr

/-- Is the freeze line asserted for a hold (R18, R156; log 65)? -/
def Hold.freezes : Hold → Bool
  | .pause => false
  | .queueEmpties => false
  | _ => true

/-- The address of the end bundle that a hold waits for (R151). -/
def Hold.miss : Hold → Option Nat
  | .overlay va => some va
  | _ => none

/-- The check that a hold belongs to (R104). -/
def Hold.chk : Hold → Nat
  | .token _ => 6
  | .emptyStream _ => 6
  | .fullStream _ => 6
  | _ => 8

/-- The record of a trap at supervisor level, which is not taken (R291), found at a check. -/
def haltRec (chk : Nat) : StopRec := { chk := chk, epc := 0, scause := 0, sfaddr := 0, sfinfo := 0 }

/-- Executes one more syllable. -/
def Tally.add (t : Tally) (y : Syl) : Tally :=
  let r := t.st.runSyl y
  let k := r.me
  let trap (why : StopRec) : Tally := { t with traps := t.traps ++ [{ rep := y.rep, addr := y.addr, why := why, refused := k.bun.refused }] }
  match k.run with
  | .stopping why => trap why
  | .halted =>
    if y.instr matches some (.halt _) then { t with st := r }
    else if t.st.me.ctx.lates.length < k.ctx.lates.length then
      { t with st := r.modMe fun k => { k with run := .running }, late := true }
    else trap (haltRec k.bun.failed)
  | _ => match k.bun.hold with
    | some h => { t with holds := t.holds ++ [(y, h)] }
    | none => { t with st := r }

/-- What becomes of a bundle: it stops the core; it is held, and what its syllables do while they wait is done; or it issues. -/
inductive Verdict where
  | stop (t : TrapRec)
  | hold (ys : List Syl) (h : Hold) (miss : Option Nat)
  | go (s : State)
deriving DecidableEq, Repr

/-- The order of traps of one check: own syllables before repeats, then by address; a repeat has no address in the bundle, and its trap
has the bundle's (R104; DESIGN CHOICE, log 70). -/
def TrapRec.key (t : TrapRec) : Nat := (if t.rep then 2 ^ 64 else 0) + t.addr.toNat

/-- The first trap of a list. -/
def firstTrap : List TrapRec → Option TrapRec
  | [] => none
  | t :: ts => match firstTrap ts with
    | some u => if u.key < t.key then some u else some t
    | none => some t

/-- The holds of check 8 that act in this clock: a half of a pair is not posted while a pause of its bundle runs (R156, R202). -/
def actingHolds (l : List (Syl × Hold)) : List (Syl × Hold) :=
  if l.any fun h => h.2 == .pause then l.filter fun h => h.2 != .partner else l

/-- R104, checks 5 to 8: a stale latch traps; else a condition of check 6 holds the bundle; else a trap of check 7 stops it; else a
condition of check 8 holds it; else it issues. -/
def Tally.verdict (t : Tally) : Verdict :=
  match firstTrap (t.traps.filter fun x => x.why.chk == 5) with
  | some x => .stop x
  | none => match t.holds.find? fun h => h.2.chk == 6 with
    | some h => .hold [] h.2 none
    | none => match firstTrap t.traps with
      | some x => .stop x
      | none =>
        let l := actingHolds t.holds
        match (l.find? fun h => h.2.freezes).or l.head? with
        | some h => .hold (l.map (·.1)) h.2 (l.findSome? fun h => h.2.miss)
        | none => .go (if t.late then t.st.modMe fun k => { k with run := .halted } else t.st)

/-- Does the bundle take a control transfer or end its task, so that no held syllable repeats in it (R114)? -/
def State.leaves (s : State) (own : List Syl) : Bool := match own.find? fun y => engineOf (majorOf y.word) == 1 with
  | some y =>
    let r := s.runSyl y
    (r.me.bun.taken || r.me.bun.exiting) && r.live
  | none => false

/-- The entry of the bundle's `bsel` is read before its stores, and after those of earlier bundles (R75, R76, R155). -/
def State.readTable (s : State) (own : List Syl) : State :=
  match own.findSome? fun y => match y.instr with | some (.bsel _ a) => some a | _ => none with
  | some a =>
    let s := s.modBun fun b => { b with ord := s.me.clk.count * 8 }
    s.modBun fun b => { b with entry := some (s.selEntry a) }
  | none => s

/-- Executes the syllables of a bundle. -/
def State.tryBundle (s : State) (own reps : List Syl) : Verdict :=
  let s := s.readTable own
  ((sylOrder (own ++ if s.leaves own then [] else reps)).foldl Tally.add { st := s, traps := [], holds := [], late := false }).verdict

/-- A bundle is held: what its syllables do while they wait is done (R156, R202, R238). -/
def State.holdBundle (s : State) (ys : List Syl) (h : Hold) : State := (ys.foldl State.runSyl s).holdOn h

/-! ## A bundle that has issued (R30, R31, R114, R119, R152) -/

/-- R31 on the levels from the innermost: what is left of them, and the loop-back target. -/
def evalLoops (base : W64) : List LoopLevel → List LoopLevel × Option W64
  | [] => ([], none)
  | l :: ls =>
    if l.stop ≠ base then (l :: ls, none)
    else if l.idx + 1 < l.trip then ({ l with idx := l.idx + 1 } :: ls, some l.start)
    else evalLoops base ls

/-- R31, R152: the next bundle when no transfer is taken; a level that the bundle pushed stands apart. -/
def Core.advance (k : Core) : Core :=
  let all := k.ctx.loops
  let new := if k.bun.pushed then all.drop (all.length - 1) else []
  let old := if k.bun.pushed then all.dropLast else all
  let r := evalLoops k.bun.base old.reverse
  match r.2 with
  | some a => k.modCtx fun x => { x with loops := r.1.reverse, pc := a }
  | none => k.modCtx fun x => { x with loops := r.1.reverse ++ new, pc := k.bun.next }

/-- The held syllables after a bundle whose guards were those of `pre` (R108, R114). In a bundle that takes a transfer no hold starts
(DESIGN CHOICE, log 72). -/
def Core.holdsAfter (k pre : Core) (own : List Syl) : Core :=
  own.foldl (fun k y => match y.vslot with
    | some j =>
      if pre.guard (lentOf y.ext) then
        { k with held := k.held.set j.val (if holdBit y.word then some { word := y.word, ext := y.ext } else none) j.isLt }
      else k
    | none => k) k

/-- What every bundle that issues leaves: its overlay mark, the half it came from, its holds, and the next bundle or the end of the
task. `pre` is the core before the bundle's effects. -/
def State.retire (s : State) (pre : Core) (ws : List (BitVec 32)) (own : List Syl) : State :=
  let c := s.dev.cur.core
  let s := match headerOf ws with
    | some h => match exec (.nop (bitAt h 26) (bits h 16 8) (bits h 8 8) (bits h 0 8)) s with
      | .next t => t
      | .fault _ => s
      | .refused _ => s
    | none => s
  let half := match s.execHalf c with
    | some (h, _) => some h
    | none => s.me.imem.lastHalf
  let s := s.modMe fun k =>
    { k with waiting := Reset.waiting, clk := { k.clk with count := k.clk.count + 1 },
             imem := if k.bun.taken && !k.priv && pre.priv then k.imem else { k.imem with lastHalf := half } }
  if s.me.bun.exiting then s.onDev fun s => s.exitTask c
  else if s.me.bun.taken then s
  else s.modMe fun k =>
    let k := k.holdsAfter pre own
    if pre.priv then k.modCtx fun x => { x with pc := k.bun.next } else k.advance

/-! ## Stops (R297, R298) -/

/-- The faulted entry that a stop for a stream's fetch discards: it is fetched again after the resume (R237). -/
def Core.dropFaulted (k : Core) (r : StopRec) : Core :=
  let hit (st : StreamSlot) : Bool := st.bound && !st.dir && match st.fifo with
    | e :: _ => e.fault == some (r.scause.setWidth 8, r.sfaddr)
    | [] => false
  let back (st : StreamSlot) : StreamSlot := match st.fifo with
    | e :: es => if hit st then
        { st with fifo := es, stopped := false, next := if st.gath then st.next else e.idx,
                  gq := if st.gath then BitVec.ofNat 32 e.idx :: st.gq else st.gq }
      else st
    | [] => st
  if r.chk = 7 then k.modCtx fun x => { x with streams := x.streams.map back } else k

/-- The core stops before the bundle in PC, or halts (R291, R298): what a held bundle had begun is given up, a fault costs a waiting partner its
pair (R203), and the tenant's fault log receives a refused access. -/
def State.stopAt (s : State) (c : CoreId) (r : StopRec) (refused : Option (Nat × Nat)) : State :=
  s.onDev fun s =>
    let s := match s.taskOf c with
      | some t => if faultStop r.scause then s.losePair c t.cohort else s
      | none => s
    let s := (s.unqueue c).modCore c fun k =>
      { (k.dropFaulted r).stop r with waiting := Reset.waiting, bun := Reset.bundle, clk := { k.clk with cycle := k.clk.cycle + 1 } }
    match refused with
    | some (code, a) =>
      let t := s.coreTenant c
      s.logRefused t code clsCore c.val a (if code = cMemwin then s.logPa t a else 0)
    | none => s

/-- What is taken at the boundary before the next bundle, in this order: the trap of a `syscall`, a STEP_COLLISION, a late error, a
pre-emption, unless it is deferred (R291, R298, R300, R301, R314). -/
def State.boundary (s : State) (c : CoreId) : Option (StopRec × State) :=
  let k := s.core c
  let why (scause sfaddr sfinfo : W64) : StopRec :=
    { chk := 0, epc := k.ctx.pc, scause := scause, sfaddr := sfaddr, sfinfo := sfinfo }
  match k.bun.syscall with
  | some n => some (why (w64 (cSyscall + 0x400)) 0 n, s)
  | none =>
    if k.priv || k.mat.posted.isSome then none
    else match (k.ctx.lates.find? fun e => fieldNat e.scause 8 2 == 0).or k.ctx.lates.head? with
      | some e => some (why e.scause e.sfaddr e.sfinfo, s.modCore c fun k => k.modCtx fun x => { x with lates := x.lates.erase e })
      | none =>
        if k.preempt then some (why 0x100 0 1, s.modCore c fun k => { k with preempt := false })
        else none

/-! ## One clock (R17, R18) -/

/-- A posted half has waited one more clock (R203). -/
def Matrix.wait (m : Matrix) : Matrix :=
  if m.pairEnd.isSome then m else { m with posted := m.posted.map fun p => { p with waited := p.waited + 1 } }

/-- The end of a clock in which the freeze line was asserted (R17). -/
def State.frozenTick (s : State) (c : CoreId) (miss : Bool) : State := s.modCore c fun k =>
  { k with clk := { k.clk with cycle := k.clk.cycle + 1 }, mat := k.mat.wait,
           imem := if miss then { k.imem with missClk := k.imem.missClk + 1 } else k.imem }

/-- The end of a clock in which it was not: results in flight, empty clocks, a pause and an active routine have counted it (R17, R150,
R156, R207). -/
def State.tick (s : State) (c : CoreId) (empty : Bool) : State := s.modCore c fun k =>
  { k with
    flights := k.flights.map fun f => { f with rem := f.rem - 1 }
    clk := { k.clk with cycle := k.clk.cycle + 1, unf := k.clk.unf + 1, gap := if empty then k.clk.gap - 1 else k.clk.gap }
    mat := { k.mat.wait with mfeed := if k.priv || k.run != .running then k.mat.mfeed else k.mat.mfeed - 1 }
    waiting := { k.waiting with pause := k.waiting.pause.map (· - 1) } }

/-- A held bundle's clock: `s` is the state without what the matrix unit did in it, which a frozen clock does not do (R17, R190), and `t`
the state with it. A bundle that waits for the end bundle of a loop, whatever else holds it, starts its copy (R151, R379). -/
def State.heldClock (s t : State) (c : CoreId) (ys : List Syl) (h : Hold) (miss : Option Nat) : State :=
  if h.freezes then match miss with
    | some va => ((s.holdBundle ys h).onDev fun s => s.missEffect c va).frozenTick c true
    | none => ((s.holdBundle ys h).modImem c fun m => { m with waiting := none }).frozenTick c false
  else ((t.holdBundle ys h).modImem c fun m => { m with waiting := none }).tick c false

/-- The bundle of words `ws` in the clock in which it may issue: `pre` is the state at the beginning of the clock, `u` the state after
what landed, and `s` after the matrix unit's clock too (R104). The stop of a core whose half of a pair is posted is deferred (R203). -/
def State.issueBundle (s u pre : State) (c : CoreId) (ws : List (BitVec 32)) : State :=
  let base := (s.core c).ctx.pc
  let own := bundleSyls base ws
  let reps := (s.core c).repeats base own
  match bundleFault base ws own reps with
  | some (chk, code, a) => pre.stopAt c { chk := chk, epc := base, scause := w64 code, sfaddr := a, sfinfo := 0 } none
  | none =>
    let begin_ (s : State) : State :=
      s.modBun fun _ => { Reset.bundle with base := base, next := base + w64 (4 * ws.length), single := ws.length == 1 }
    let s := begin_ s
    match s.tryBundle own reps with
    | .stop t => if (s.core c).waitingHalf.isSome then ((begin_ u).holdOn .partner).frozenTick c false else pre.stopAt c t.why t.refused
    | .hold ys h miss => (begin_ u).heldClock s c ys h miss
    | .go t => ((t.retire s.me ws own).modImem c fun m => { m with waiting := none }).tick c false

/-- A clock of a running core after its boundary: a late load freezes it; else what is due lands, the matrix unit makes its clock, and
the next bundle is fetched, unless the clock is empty (R17, R18, R115, R116, R150, R379). -/
def State.clockOn (s : State) (c : CoreId) : State :=
  let k := s.core c
  if k.lateLoad then s.frozenTick c false
  else
    let u := s.modCore c Core.landDue
    let t := u.onDev fun s => s.matTick c
    if k.clk.gap ≠ 0 then t.tick c true
    else match t.fetchBundle c k.ctx.pc.toNat with
      | .fault code va =>
        s.stopAt c { chk := 1, epc := k.ctx.pc, scause := w64 code, sfaddr := w64 va, sfinfo := 0 }
          (if code = cMemwin then some (code, va) else none)
      | .wait va =>
        ((u.onDev fun s => s.missEffect c va).modBun fun _ => { Reset.bundle with base := k.ctx.pc, hold := some (.overlay va) }).frozenTick c true
      | .words ws => t.issueBundle u s c ws

/-- A clock of a running core. -/
def State.clock (s : State) (c : CoreId) : State :=
  let s := s.onDev fun s => (s.unstick c).readDue c
  if (s.core c).clk.gap = 0 then match s.boundary c with
    | some (r, t) => t.stopAt c r none
    | none => s.clockOn c
  else s.clockOn c

/-- A core's turn: one clock. CYCLE counts in every state; a core whose task has ended is released when its stores have performed, and
one that has halted loses its context (R13, R27, R321). -/
def State.coreTurn (s : State) (c : CoreId) : State :=
  let s := if (s.core c).run = .running then (s.clock c).onDev fun s => s.pairUp c
    else (s.onDev fun s => s.unstick c).modCore c fun k => { k with clk := { k.clk with cycle := k.clk.cycle + 1 } }
  s.onDev fun s => (s.releaseCore c).reapHalted c

end Sys2Proof.Machine
end

