-- ==== Sys2Proof/Machine/Turn.lean ====
section
/-! DEFINITION. Whose turn it is (log 1), the time slots of shared engines (R386, R387), what each turn does, and the placing of one
instruction where the next step runs it. -/

namespace Sys2Proof.Machine

/-! ## Events -/

/-- The owner of a frame ring. -/
def State.ringTenant (s : State) (n : BitVec 8) : Option TenantId := (s.fring n).owner.map tid

/-- The owner of the frame ring of the frame that a decoder or encoder holds. -/
def State.jobTenant (s : State) (j : Option FrameJob) : Option TenantId := j.bind fun j => s.ringTenant j.ring

/-- The tenant of an engine operation. -/
def State.opTenant (s : State) (id : Nat) : Option TenantId := (s.engOp id).map fun o => tid o.tenant

/-- Does a chunk that a sampler takes whole, without a Pip program, close a round whose draw takes a random word (R258, R260, R270)? -/
def State.takeDraws (s : State) (k : SamplerId) (id : Nat) : Bool := match s.engOp id with
  | none => false
  | some o =>
    let q := seqKey o.tenant o.kvslot
    let draws (r : Round) : Bool := !r.pipon && r.mode != 0
    bitAt o.b 0 && match s.roundOf k q with
      | some r => draws r
      | none => match s.recordVa k q with
        | .error _ => false
        | .ok rec_ => match s.openRound k q rec_ with
          | .ok (r, bad, _) => !bad && draws r
          | .error _ => false

/-- The shared engines that an event is work of, and the tenant that it serves: none for other events (R386, R387). The paths of what an
engine reads and writes are asked for where the turn is taken (`gate`); a draw also takes a block of an AES core (R261; log 40), and a walk
reads its tables through one (log 108). -/
def State.eventSlots (s : State) (i : Instr) (w : Who) : List (Fin 7 × Option TenantId) := match i with
  | .submissionTake => [(5, some w.t)]
  | .decoderTake => [(3, s.ringTenant (BitVec.ofNat 8 w.n))]
  | .decodeComplete => [(3, s.jobTenant (s.dev.decs.get ⟨w.n % 4, Nat.mod_lt _ (by decide)⟩))]
  | .encoderTake => [(4, s.ringTenant (BitVec.ofNat 8 w.n))]
  | .chunkToken n _ _ => [(4, s.jobTenant (s.dev.encs.get n.toFin))]
  | .encodeComplete => [(4, s.jobTenant (s.dev.encs.get ⟨w.n % 8, Nat.mod_lt _ (by decide)⟩))]
  | .logitChunkTaken => (2, s.opTenant w.n) :: if s.takeDraws w.k w.n then [(1, s.opTenant w.n)] else []
  | .draftTreeTaken => [(2, s.opTenant w.n)]
  | .kldRow | .copyCompletion => [(0, s.opTenant w.n)]
  | .pageWalk => [(1, (s.dev.walks.find? fun x => x.id == w.n).map fun x => tid x.tenant)]
  | _ => []

/-- May an event happen in the current slot (R387)? -/
def State.slotAllows (s : State) (i : Instr) (w : Who) : Bool :=
  (s.eventSlots i w).all fun x => match x.2 with
    | none => true
    | some t => s.served x.1 t

/-! ## The next turn -/

/-- The state with a cursor. -/
def State.withCur (s : State) (w : Who) : State := s.upd fun d => { d with cur := w }

/-- A cursor that names a core and a number. -/
def Who.on (c : CoreId) (n : Nat) : Who := { core := c, t := 0, q := 0, k := 0, n := n }

/-- What a core lets happen: its clock while it works, and what its outstanding work waits for. -/
def State.coreAgents (s : State) (c : CoreId) : List Turn :=
  let k := s.core c
  if k.run = .free || k.run = .halted then []
  else
    [.core c] ++ k.ops.map (fun o => .event .loadDataArrives (.on c o.id)) ++
      (match k.run with | .stopping _ => [.event .supervisorEntry (.on c 0)] | _ => []) ++
      (if k.imem.copy.isSome || k.imem.refetch.isSome then [.event .overlayLineLands (.on c 0)] else []) ++
      ((List.range 8).filter fun n => (k.ctx.streams.toList.getD n Reset.stream).nextFetch.isSome).map
        (fun n => .event .streamEntryFetch (.on c n)) ++
      ((List.range 8).filter fun n => (k.toDrain (BitVec.ofNat 3 n)).isSome).map (fun n => .event .streamEntryDrain (.on c n)) ++
      (match k.sysop with | some o => [.event .tokenLands (.on c o.op)] | none => []) ++
      (if k.waitingHalf.isSome then [.event .pairIssue (.on c 0), .event .pairAbort (.on c 0)] else [])

/-- What an engine operation lets happen. -/
def EngOp.agents (o : EngOp) : List Turn :=
  let c : CoreId := match o.owner with | .task _ c => c | .queue .. => 0
  let w : Who := { core := c, t := tid o.tenant, q := 0, k := samplerOf c, n := o.id }
  [.engine o.id, .event .tokenLands w] ++ (match o.kind with
    | .logit => [.event .logitChunkTaken w]
    | .verify => [.event .draftTreeTaken w]
    | .kld => [.event .kldRow w]
    | .copy | .copyc | .ccopy | .ccopyC => [.event .copyCompletion w]
    | _ => [])

/-- What a command queue lets happen. -/
def State.queueAgents (s : State) (t : TenantId) (q : QueueId) : List Turn :=
  let c := s.cq t q
  let w : Who := { core := 0, t := t, q := q, k := 0, n := 0 }
  (if !c.en then [] else if c.state = 1 then [.queue t q] else if c.state = 0 ∧ c.wp ≠ c.rp then [.event .submissionTake w]
    else []) ++
    (if s.watched t q then [.event .watchdogWd1 w] else []) ++ (if c.preAt.isSome then [.event .watchdogWd2 w] else [])

/-- What the media units of a frame ring let happen: the length of a chunk is free, and whether it is the frame's last (log 37). -/
def State.mediaAgents (s : State) : List Turn :=
  ((List.range 256).filter fun n => (s.fring (BitVec.ofNat 8 n)).en).flatMap (fun n =>
      [.event .decoderTake (.on 0 n), .event .encoderTake (.on 0 n)]) ++
    ((List.finRange 4).filter fun n => (s.dev.decs.get n).isSome).map (fun n => .event .decodeComplete (.on 0 n.val)) ++
    ((List.finRange 8).filter fun n => (s.dev.encs.get n).isSome).flatMap (fun n =>
      let w := Config.freeWord s.dev.free
      [.event (.chunkToken (BitVec.ofNat 3 n.val) (bits w 0 20) (bitAt w 20)) (.on 0 n.val),
        .event .encodeComplete (.on 0 n.val)])

/-- What a tenant's egress channels and dispatchers let happen. -/
def State.tenantAgents (s : State) (t : TenantId) : List Turn :=
  let x := s.tenant t
  let w : Who := { core := 0, t := t, q := 0, k := 0, n := 0 }
  let on (ch : Fin 64) (m : Option (BitVec 12)) : Turn := .event (.sesameEgressRecord t (BitVec.ofNat 6 ch.val) m) w
  (if s.dev.launches.any (fun l => l.tenant == t) then [.event .dispatchDecision w] else []) ++
    ((List.finRange 64).filter fun ch => (x.egress.get ch).en).flatMap (fun ch =>
      on ch none :: ((x.mail.filter fun p => p.mbox.toNat % 64 == ch.val).take 1).map fun p => on ch (some p.mbox))

/-- Every agent that may act, wall time last. -/
def State.agents (s : State) : List Turn :=
  (List.finRange 128).flatMap s.coreAgents ++
    (List.finRange 16).flatMap (fun t => (List.finRange 16).flatMap fun q => s.queueAgents t q) ++
    s.dev.eng.flatMap EngOp.agents ++
    ((List.finRange 8).filter fun k => (s.dev.samplers.get k).job.isSome).map Turn.sampler ++
    s.dev.writes.map (fun w => .event .writePerforms (.on w.core w.id)) ++
    s.dev.walks.map (fun w => w.turn.getD (.event .pageWalk (.on 0 w.id))) ++
    (List.finRange 16).flatMap s.tenantAgents ++ s.mediaAgents ++
    (List.range s.dev.outbox.length).map (fun n => .event .mailboxPost (.on 0 n)) ++
    (s.dev.cohorts.filter fun c => c.state == .preempting).flatMap
      (fun c => [.event .preemptionRequest (.on 0 c.id), .event .preemptionCompletes (.on 0 c.id)]) ++
    (if s.dev.board.ckptJob.isSome then [.event .checkpointDone (.on 0 0)] else []) ++
    (if s.dev.board.recovery then [.event .hazelRecoveryEnd (.on 0 0)] else []) ++
    s.dev.tasks.flatMap (fun t => match t.where_ with
      | .fresh => [.event .taskStart (.on 0 t.id)]
      | .saved => [.event .resumeRequest (.on 0 t.id)]
      | _ => []) ++
    [.time 100]

/-- The turn that the device takes by itself, when the environment's tape is empty: power-on reset before bring-up has run; time while the
device is off; else the agents in turn (log 1). -/
def State.ownTurn (s : State) : Turn × State :=
  if s.dev.board.off then (.time 100, s)
  else if s.dev.board.bootstat = 0 then
    let (b, s) := s.freeBoot
    (.event (.powerOnReset b) s.dev.cur, s)
  else if s.dev.board.slot ≠ slotAt s.dev.board.dtime then (.event .slotBoundary s.dev.cur, s)
  else
    let l := s.agents
    (nth l (s.dev.rr % l.length) (.time 100), s.upd fun d => { d with rr := d.rr + 1, free := d.free + 1 })

/-- The next turn: the head of the tape, which it leaves, or the device's own. -/
def State.takeTurn (s : State) : Turn × State := match s.dev.turns with
  | t :: ts => (t, s.upd fun d => { d with turns := ts })
  | [] => s.ownTurn

/-! ## What a turn does -/

/-- A TLB entry is given up (R330). -/
def State.evict (s : State) (b : TlbName) (n : Nat) : State := match b with
  | .micro c => s.modCore c fun k => { k with utlb := k.utlb.eraseIdx n }
  | .cluster i => s.upd fun d => { d with ctlb := d.ctlb.set i.val ((d.ctlb.get i).eraseIdx n) i.isLt }
  | .last => s.upd fun d => { d with lltlb := d.lltlb.eraseIdx n }

/-- The last-level TLB takes the leaf that a walk finds, for a read or a write, as it does for an engine's translation (R330). -/
def State.fillLast (s : State) (t : TenantId) (write : Bool) (va : Nat) : State :=
  match rowOf va, s.walk t (if write then .write else .read) va, s.walksFull || s.heldPage t va || !s.served 1 t with
  | .paged, .ok e, false =>
    let (n, s) := s.drawNat
    s.upd fun d => { d with lltlb := tlbFill 32768 n e d.lltlb }
  | _, _, _ => s

/-- A parity error in a line of instruction memory: the line is not resident (R115, R394). -/
def State.parityError (s : State) (c : CoreId) (h : Fin 2) (line : Nat) : State := s.modImem c fun m =>
  { m with halves := m.halves.set h.val ((m.half h).map fun x => { x with have_ := setBit x.have_ line false }) h.isLt }

/-- The tenant of the chunk that a sampler works on. -/
def State.samplerTenant (s : State) (k : SamplerId) : Option TenantId := (s.dev.samplers.get k).job.map fun j => tid j.key.tenant

/-- Does a sampler's next instruction end the group that closes a round, with a draw that takes a random word (R258, R260)? -/
def State.pipDraws (s : State) (k : SamplerId) : Bool := match (s.dev.samplers.get k).job with
  | none => false
  | some j => match s.pipNext k, s.roundOf k j.key with
    | some (.pend _), some r => j.rest.isEmpty && j.last && r.mode != 0
    | _, _ => false

/-- Is a sampler within a group: one that it has begun, all but the draw (R387)? -/
def State.inGroup (s : State) (k : SamplerId) : Bool :=
  (match (s.dev.samplers.get k).job with | some j => j.pip != 0 | none => false) && !s.pipDraws k

/-- The engine class that a sampler's next instruction needs (R386): a group begins in a slot of class 2 and goes on without one; a draw
takes a block of an AES core. -/
def State.pipClass (s : State) (k : SamplerId) : Option (Fin 7) :=
  if s.pipDraws k then some 1 else if s.inGroup k then none else some 2

/-- Some time passes; during a recovery of Hazel the watchdogs' windows do not (R345, R365). Decisions that are due are
made first, and those of R366's interval at its end. -/
def State.passSome (s : State) (ns : Nat) : State :=
  let late (c : CmdQueue) : CmdQueue := { c with since := c.since + ns, preAt := c.preAt.map (· + ns) }
  let s := (s.onDev State.decisions).flush
  (((s.upd fun d => { d with
    board := { d.board with dtime := d.board.dtime + ns }
    cqs := if d.board.recovery then d.cqs.map late else d.cqs }).onDev State.expire).onDev State.decisions).flush

/-- Must an engine's or a sampler's reads wait for a write to an SC page (R85)? -/
def State.scHolds (s : State) (id : Nat) : Bool := match (s.engOp id).bind s.engCore with
  | some c => s.scPending c
  | none => false

/-- The engine class of an operation (R386). -/
def EngOp.cls (o : EngOp) : Fin 7 := if o.sampled then 2 else 0

/-- Does an operation go on in the current slot: in its engine's, and, for a `tmove`, in the AES cores' (R387)? A copy's unit that has begun
goes on, whatever SC writes arrive behind it. -/
def State.engServed (s : State) (o : EngOp) : Bool :=
  s.served o.cls (tid o.tenant) && (o.kind != .tmove || s.served 1 (tid o.tenant)) && (!o.grains.isEmpty || !s.scHolds o.id)

/-- Some time passes, cut at each decision that the interval of R366 asks for: at most 16 to each 2^20 ns. -/
def State.passOn : Nat → Nat → State → State
  | 0, ns, s => s.passSome ns
  | n + 1, ns, s =>
    let d := s.untilDecision
    if ns ≤ d then s.passSome ns else State.passOn n (ns - d) (s.passSome d)

/-- Is a unit of 4 KiB of a copy in hand, that can go on (R219, R387)? -/
def State.inUnit (s : State) : Bool := s.dev.eng.any fun o => o.token.isNone && !o.grains.isEmpty && s.engServed o

/-- Wall time passes. An engine starts a unit only if it completes before its slot ends: no boundary falls within a sampler's group, or a
copy's unit (R387; log 45). A device that is off keeps DTIME (R409, R411). -/
def State.pass (s : State) (ns : Nat) : State :=
  let now := s.dev.board.dtime
  if s.dev.board.off then s.modBoard fun b => { b with dtime := now + ns }
  else if now / 1000 ≠ (now + ns) / 1000 ∧ ((List.finRange 8).any s.inGroup || s.inUnit) then s
  else State.passOn (16 * (ns / 2 ^ 20) + 17) ns s

/-- Is it the turn of a queue at its worker: the queue is the next of the tenant's running queues there, round-robin (R343; log 41)? -/
def State.hasTurn (s : State) (t : TenantId) (q : QueueId) : Bool :=
  let w := (s.cq t q).worker
  let gap (x : QueueId) : Nat := (x.val + 15 - ((s.tenant t).last.get w).val) % 16
  (List.finRange 16).all fun x =>
    let c := s.cq t x
    !(c.en && c.state == 1 && c.worker == w) || decide (gap q ≤ gap x)

/-! ### Turns that must wait (R85, R331, R336, R387, R397; log 73)

A turn of an engine, a sampler, a worker, or an event, is taken only if every translation and path that it comes to is to be had now. The model
asks by running it with those that are not refused (`probe`): it waits where that makes a difference. One that waits while no walk slot is
free keeps its place among the walks; when it has a slot, it is taken. -/

/-- Does a turn hold one of the 64 walk slots? -/
def State.hasSlot (s : State) (t : Turn) : Bool := (s.dev.walks.take 64).any fun w => w.turn == some t

/-- A turn gives up its place among the walks. -/
def State.leaveWalks (s : State) (t : Turn) : State :=
  if s.dev.walks.any (fun w => w.turn == some t) then
    s.upd fun d => { d with walks := d.walks.filter fun w => w.turn != some t }
  else s

/-- A turn that waits for a walk slot takes its place among the walks, in arrival order (R331). -/
def State.joinWalks (s : State) (t : Turn) : State :=
  if !s.walksFull || s.dev.walks.any fun w => w.turn == some t then s
  else
    let (id, s) := s.fresh
    s.upd fun d => { d with walks := d.walks ++ [{ id := id, tenant := 0, page := 0, cores := [], turn := some t }] }

/-- Can some translation or path be one to wait for: a walk runs, a `tmove` holds a page, an enabled tenant is not served by the AES cores or
the mesh links, or a peer is enabled? -/
def State.contended (s : State) : Bool :=
  !s.dev.walks.isEmpty || (s.dev.eng.any fun o => o.holds.isSome) ||
    ((List.finRange 16).any fun t => bitAt (s.part.get t) 16 && !(s.served 1 t && s.served 6 t)) ||
    s.dev.board.peers.toList.any fun p => bitAt p 63

/-- Takes a turn, unless it must wait. -/
def State.gate (s : State) (t : Turn) (f : State → Out) : Out :=
  if !s.contended then f s
  else
    let u := s.leaveWalks t
    match f u, f (u.upd fun d => { d with probe := some (s.hasSlot t) }) with
    | .next a, .next b => if a = b.upd fun d => { d with probe := none } then .next a else .next (s.joinWalks t)
    | r, _ => r

/-- A turn of a command queue: its worker runs the command at CPC, or the command waits and the queue gives up its turn; in its tenant's
slots (R343, R349, R387). -/
def State.queueTurn (s : State) (t : TenantId) (q : QueueId) : Out :=
  let s := s.withCur { s.dev.cur with t := t, q := q }
  if !s.served 5 t || !s.hasTurn t q then .next s
  else
    let s := s.modTenant t fun x => { x with last := x.last.set (s.cq t q).worker.val q (s.cq t q).worker.isLt }
    s.gate (.queue t q) fun s => match s.cmdFetch t q with
      | .ok i => exec i s
      | .error f => s.fetchFault f

/-- A turn of a sampler: its next Pip instruction runs, in its tenant's slots, and not before an SC write that it must observe (R85, R269,
R387). -/
def State.samplerTurn (s : State) (k : SamplerId) : Out :=
  let s := s.withCur { s.dev.cur with k := k }
  if !(s.samplerTenant k).any (fun t => match s.pipClass k with | some c => s.served c t | none => true) ||
      (s.dev.samplers.get k).job.any (fun j => s.scHolds j.op) then .next s
  else match s.pipNext k with
    | some i => s.gate (.sampler k) (exec i)
    | none => .next s

/-- A turn of an engine operation, in its tenant's slots. -/
def State.engTurn (s : State) (id : Nat) : Out := match s.engOp id with
  | some o => if s.engServed o then s.gate (.engine id) (act fun s => s.engineTurn id) else .next s
  | none => .next s

/-- A turn of a core: one clock. -/
def State.clockTurn (s : State) (c : CoreId) : Out :=
  .next ((s.withCur { s.dev.cur with core := c }).coreTurn c).flush

/-- Does an event read for an operation that must wait for a write to an SC page (R85)? -/
def State.scEvent (s : State) (i : Instr) (w : Who) : Bool := match i with
  | .logitChunkTaken | .draftTreeTaken | .kldRow => s.scHolds w.n
  | _ => false

/-- An event of the tape. -/
def State.eventTurn (s : State) (i : Instr) (w : Who) : Out :=
  if !i.isEvent then .refused .notAnEvent
  else
    let s := s.withCur w
    if s.slotAllows i w && !s.scEvent i w then s.gate (.event i w) (exec i) else .next s

/-- What a turn does. -/
def State.turnOn (s : State) : Turn → Out
  | .core c => s.clockTurn c
  | .queue t q => s.queueTurn t q
  | .engine id => s.engTurn id
  | .sampler k => s.samplerTurn k
  | .event i w => s.eventTurn i w
  | .time ns => .next (s.pass ns)
  | .evict b n => .next (s.evict b n)
  | .fill t w va => .next (s.fillLast t w va)
  | .parity c h line => .next (s.parityError c h line)
  | .soft x => act (fun s => s.softError x) s
  | .regRead fn off => .next (s.regRead fn off)

/-- Does a turn do anything while the device is off: only DTIME goes on, until a power-on reset (R409, R411)? -/
def Turn.whileOff : Turn → Bool
  | .event (.powerOnReset _) _ => true
  | .time _ => true
  | _ => false

/-- What a turn does, if the device is on. -/
def State.runTurn (s : State) (t : Turn) : Out := if s.dev.board.off && !t.whileOff then .next s else s.turnOn t

/-! ## One instruction where the next step runs it (log 9) -/

/-- Bytes written into memory between steps. -/
def State.place (s : State) (a : Nat) (bs : List Byte) : State :=
  { s with mem := s.mem.writes ((s.pokes a bs).dev.wbuf), dev := { s.dev with wbuf := [] } }

/-- The next turn. -/
def State.withTurn (s : State) (t : Turn) : State := s.upd fun d => { d with turns := t :: d.turns }

/-- Time slot 0 of class k is tenant 0's, and it is the current one. -/
def State.withSlot (s : State) (k : Fin 7) : State := s.modBoard fun b =>
  { b with slot := 0, dtime := 0, slotmap := b.slotmap.set k.val 0 k.isLt, used := b.used.set k.val 1 k.isLt }

/-- A syllable as a whole bundle, at address 0 of the segment that core 0 has in instruction memory; the core issues next. -/
def State.placeSyl (s : State) (w : Nat) : State :=
  let word : BitVec 32 := BitVec.ofNat 32 w ||| 0x80000000
  let half : Half := { image := 0, seg := 0, addr := 0, len := 64, have_ := 1, bad := 0 }
  let s := s.place (imemAddr 0 0 0) (toLe 4 word.toNat)
  let s := s.modTenant (s.coreTenant 0) fun x => { x with images := [{ id := 0, segs := [(0, 64)], micro := 0 }] }
  (s.modCore 0 fun k => { k with
    run := .running, clk := { k.clk with gap := 0 }, ctx := { k.ctx with pc := 0 }
    imem := { k.imem with halves := k.imem.halves.set 0 (some half) } }).withTurn (.core 0)

/-- A command at the first address of vault 0, which tenant 0 owns; its queue 0 runs it next. -/
def State.placeCmd (s : State) (n : Nat) : State :=
  let s := { s with part := s.part.set 0 0x10001 }
  let s := s.modTenant 0 fun x => { x with last := .replicate 6 15 }
  let s := ((((s.place (vaultAddr 0 0) (toLe 12 n)).withSlot 1).withSlot 5).withSlot 6).modBoard fun b => { b with recovery := false }
  (s.modCq 0 0 fun c => { c with en := true, state := 1, cpc := w64 Config.vaultBase }).withTurn (.queue 0 0)

/-- A Pip word as the program of an open round at sampler 0, with one group in hand. -/
def State.placePip (s : State) (w : Nat) : State :=
  let key : SeqKey := { tenant := 0, arena := 0, slot := 0 }
  let r : Round :=
    { key := key, smp := 0, recBase := 0, hdr := [], param := [], prog := [BitVec.ofNat 32 w], mx := negInf, sum := 0, cands := [],
      tree := false, index := 0, snaps := [], auto := { state := 0, top := 0, depth := 0, dead := false } }
  let j : Job :=
    { op := 0, core := 0, key := key, last := false, rest := [], lanes := [(0, 0)], w := .replicate 8 [0],
      h := .replicate 8 0, pip := 0 }
  ((((s.withSlot 1).withSlot 2).withSlot 6).modSampler 0 fun x => { x with rounds := [r], job := some j }).withTurn (.sampler 0)

/-- The instruction that the host's number stands for, where the next step runs it: a command, a Pip word, an event, or a syllable. -/
def State.placeWord (s : State) (nbits w : Nat) : State :=
  let n := w % 2 ^ nbits
  match decodeTableWord nbits w with
  | some i =>
    if i.cmd.isSome then s.placeCmd n
    else if i.pip.isSome then s.placePip n
    else s.placeSyl n
  | none => s.placeSyl n

end Sys2Proof.Machine
end

