-- ==== Sys2Proof/Safety.lean ====
section
/-! DEFINITION. What counts as a safe run, and the terms in which claims speak of an instruction's conditions and effects. -/

namespace Sys2Proof.Machine

/-- TPART is as R383 has it: reserved bits read 0, an enabled partition has a cluster, and no two share one. -/
def State.PartitionsApart (s : State) : Prop := ∀ t : TenantId, s.part.get t &&& ~~~0x3FFFF#64 = 0 ∧
  (bitAt (s.part.get t) 16 = true → partClusters (s.part.get t) ≠ 0) ∧
  ∀ u : TenantId, t ≠ u → partClusters (s.part.get t) &&& partClusters (s.part.get u) = 0

/-- The invariant that every step keeps: memory is in its canonical form (log 2, log 3), no byte waits to be written between two
steps, and the partitions lie apart. -/
def State.Inv (s : State) : Prop := s.mem.wf = true ∧ s.dev.wbuf = [] ∧ s.PartitionsApart

/-- A safe run of `n` steps: no step stops with a fault or a refusal. -/
def State.Safe : Nat → State → Prop
  | 0, _ => True
  | n + 1, s => ∃ t, step s = .next t ∧ State.Safe n t

/-- Does a syllable of the core that acts, with lent byte `x` and operands `u`, execute without a trap of check 5 or of its bound
registers, without waiting under check 6, and with a true guard (R104, R108)? -/
abbrev State.Ready (s : State) (x : Lent) (u : Uses) : Prop :=
  s.me.stale u = false ∧ s.me.guard x = true ∧ s.me.waits u = none ∧ s.me.streamTrap u = none

/-- May the core that acts issue one more result (R302)? At supervisor level there is no limit. -/
abbrev State.Room (s : State) : Prop := s.me.priv = true ∨ s.me.inFlight < 64

/-- The instruction answers a next state that `p` describes. -/
def Gives (i : Instr) (s : State) (p : State → Prop) : Prop := ∃ t, exec i s = .next t ∧ p t

/-- The state with one more result in flight on the core that acts, in issue order (R102). -/
def State.issues (s : State) (f : Flight) : State := s.modMe fun k => { k with flights := insertFlight f k.flights }

/-- A result of the syllable being executed: due `lat` unfrozen clocks after issue, to `dest`, and with `latched` also to the
latch of the syllable's slot (R17, R111, R112). -/
def State.due (s : State) (lat : Nat) (dest : FDest) (latched : Bool) (val : V1024) : Flight :=
  { rem := lat, dest := dest, latch := if latched then s.me.bun.lat else none, epoch := s.me.clk.epoch, ord := s.me.bun.ord,
    val := val, wait := none, counts := true, div := false, valid := true, err := false, faddr := 0 }

/-- Where a scalar result goes: nowhere but its latch when N = 1 (R111), else to the register that the running level sees. -/
def State.toScalar (s : State) (d : SDst) : FDest := if d.n then .none else .s d.r s.me.priv

/-- Only the core that acts differs between two states. -/
abbrev OnlyMe (s t : State) : Prop :=
  t.mem = s.mem ∧ t.part = s.part ∧ (∀ c, c ≠ s.dev.cur.core → t.core c = s.core c) ∧
    { t.dev with cores := s.dev.cores } = s.dev

/-- Every byte of memory reads as before, but for those at the listed places. -/
def SameBytes (s t : State) (places : List Nat) : Prop := ∀ a, a ∉ places → t.mem.read a = s.mem.read a

end Sys2Proof.Machine
end

