-- ==== Sys2Proof/Certificates/Slice0/Obligations.lean ====
section
/-! DEFINITION. The statements for the provers, and the terms in which they are written: for each family of the opcode table what
its instructions do, what the shared operations do, and what every step keeps. -/

namespace Sys2Proof.Claims

open Sys2Proof.Machine

/-! ## Scalar instructions -/

/-- The state after the acting core's syllable has failed a check with a code, SFADDR `a` and SFINFO 0 (R291, R297, R298): at user level
the core stops before its bundle with that fault record, and CYCLE's copy is taken; at supervisor level it halts. -/
def trapped (s : State) (chk code : Nat) (a : W64) : State := s.modMe fun k =>
  let b := { k.bun with failed := chk }
  if k.priv then { k with run := .halted, bun := b } else
    { k with
      run := .stopping { chk := chk, epc := k.bun.base, scause := w64 code, sfaddr := a, sfinfo := 0 }
      sv := { k.sv with cycAt := k.clk.cycle }
      bun := b }

/-- A signed immediate extended by IX: seven bits of it without a guard, two with one (R107, R128). -/
def extS {w : Nat} (x : Lent) (imm : BitVec w) : W64 :=
  imm.signExtend 64 + ((if x.guard.isSome then (x.ix.setWidth 2).signExtend 64 else x.ix.signExtend 64) <<< w)

/-- An unsigned immediate extended by IX (R107, R128). -/
def extU {w : Nat} (x : Lent) (imm : BitVec w) : W64 :=
  imm.setWidth 64 + ((if x.guard.isSome then (x.ix.setWidth 2).setWidth 64 else x.ix.setWidth 64) <<< w)

/-- What a scalar instruction reads and writes: its lent byte, its operands, its destination, its latency, and its result. -/
structure AluOut where
  x : Lent
  u : Uses
  d : SDst
  lat : Nat
  val : W64
deriving DecidableEq, Repr

/-- A row with two sources. -/
def row2 (s : State) (x : Lent) (d : SDst) (a b : SSrc) (lat : Nat) (f : W64 → W64 → W64) : Option AluOut :=
  some { x := x, u := (Uses.none.s a).s b, d := d, lat := lat, val := f (s.src a) (s.src b) }

/-- A row with one source, at issue + 1. -/
def row1 (s : State) (x : Lent) (d : SDst) (a : SSrc) (f : W64 → W64) : Option AluOut :=
  some { x := x, u := Uses.none.s a, d := d, lat := 1, val := f (s.src a) }

/-- The amount of a shift (R53). -/
def amount (b : W64) : Nat := (b.setWidth 8).toNat

/-- R129, R130, R133, R134: the results of the scalar operations on 64-bit values. -/
def scalarRow (s : State) : Instr → Option AluOut
  | .add x d a b => row2 s x d a b 1 fun a b => a + b
  | .sub x d a b => row2 s x d a b 1 fun a b => a - b
  | .mul x d a b => row2 s x d a b 3 fun a b => a * b
  | .mulh x d a b => row2 s x d a b 3 fun a b => (a.signExtend 128 * b.signExtend 128).extractLsb' 64 64
  | .mulhn x d a b => row2 s x d a b 3 fun a b => (a.setWidth 128 * b.setWidth 128).extractLsb' 64 64
  | .and x d a b => row2 s x d a b 1 fun a b => a &&& b
  | .or x d a b => row2 s x d a b 1 fun a b => a ||| b
  | .xor x d a b => row2 s x d a b 1 fun a b => a ^^^ b
  | .andn x d a b => row2 s x d a b 1 fun a b => a &&& ~~~b
  | .shl x d a b => row2 s x d a b 1 fun a b => a <<< amount b
  | .shr x d a b => row2 s x d a b 1 fun a b => a >>> amount b
  | .sra x d a b => row2 s x d a b 1 fun a b => a.sshiftRight (amount b)
  | .rot x d a b => row2 s x d a b 1 fun a b => a.rotateLeft (amount b)
  | .min x d a b => row2 s x d a b 1 fun a b => if a.slt b then a else b
  | .max x d a b => row2 s x d a b 1 fun a b => if a.slt b then b else a
  | .minn x d a b => row2 s x d a b 1 fun a b => if a.ult b then a else b
  | .maxn x d a b => row2 s x d a b 1 fun a b => if a.ult b then b else a
  | .clz x d a => row1 s x d a fun a => a.clz
  | .popc x d a => row1 s x d a fun a => a.cpop
  | .sext x d a w => row1 s x d a fun a => (a.setWidth (8 * 2 ^ w.toNat)).signExtend 64
  | .zext x d a w => row1 s x d a fun a => (a.setWidth (8 * 2 ^ w.toNat)).setWidth 64
  | .lea x k d a b => row2 s x d a b 1 fun a b => a + b <<< k.toNat
  | .sel x p d a b => row2 s x d a b 1 fun a b => if s.me.pred p then a else b
  | .addi x d a imm => row1 s x d a fun a => a + extS x imm
  | .bfx x d a pos len1 => row1 s x d a fun a => (a.extractLsb' pos.toNat (len1.toNat + 1)).setWidth 64
  | .movi x d imm => some { x := x, u := Uses.none, d := d, lat := 1, val := extS x imm }
  | .movhi x d imm => some { x := x, u := Uses.none.r d.r, d := d, lat := 1, val := (s.sreg d.r <<< 26) ||| extU x imm }
  | _ => none

end Sys2Proof.Claims

open Sys2Proof Sys2Proof.Machine Sys2Proof.Claims

/-- R129, R130, R133, R134: each of these instructions issues one result, its value in D and in the latch of its slot at
issue + its latency, and changes nothing else. -/
def Sys2Proof.Claims.ScalarOperationResults : Prop :=
  ∀ (i : Instr) (s : State) (r : AluOut), i.wf = true → scalarRow s i = some r → s.dev.wbuf = [] → s.Ready r.x r.u → s.Room →
    exec i s = .next (s.issues (s.due r.lat (s.toScalar r.d) true (r.val.setWidth 1024)))

namespace Sys2Proof.Claims

/-- R131: quotient and remainder. -/
def quotRem (signed : Bool) (a b : W64) : W64 × W64 :=
  if b = 0 then (0xFFFFFFFFFFFFFFFF, a) else if signed then (a.sdiv b, a.srem b) else (a / b, a % b)

/-- The four divisions: lent byte, destination, sources, and result. -/
def divRow (s : State) : Instr → Option (Lent × SDst × SSrc × SSrc × W64)
  | .div x d a b => some (x, d, a, b, (quotRem true (s.src a) (s.src b)).1)
  | .rem x d a b => some (x, d, a, b, (quotRem true (s.src a) (s.src b)).2)
  | .divn x d a b => some (x, d, a, b, (quotRem false (s.src a) (s.src b)).1)
  | .remn x d a b => some (x, d, a, b, (quotRem false (s.src a) (s.src b)).2)
  | _ => none

/-- The acting core without the operation that its divider holds (R132). -/
def dividerFreed (s : State) : State := s.modMe fun k => { k with flights := k.flights.filter fun f => !f.div }

/-- A field of `len` ones at bit `pos`. -/
def fieldMask (pos len : Nat) : W64 := ((BitVec.allOnes len).setWidth 64) <<< pos

/-- R72: the generator that `agset` writes: reserved bits 0, V cleared when the stride exceeds 2^26. -/
def generatorOf (a b : W64) : BitVec 128 :=
  let stride : BitVec 27 := a.extractLsb' 32 27
  let v : BitVec 1 := if 2 ^ 26 < stride.toNat then 0 else a.extractLsb' 16 1
  (0#16 ++ b.extractLsb' 0 48) ++ (0#5 ++ stride ++ 0#15 ++ v ++ a.extractLsb' 0 16)

/-- R72: the KVA of a position. -/
def kvaAt (g : BitVec 128) (p : Nat) : W64 :=
  if g.getLsbD 16 then
    (g.extractLsb' 12 4).setWidth 64 <<< 60 ||| (g.extractLsb' 0 12).setWidth 64 <<< 48 |||
      BitVec.ofNat 64 (min (p * (g.extractLsb' 32 27).toNat + (g.extractLsb' 64 48).toNat) (2 ^ 48 - 1))
  else 0xFFFFFFFFFFFFFFFF

/-- R137: the predicate file as a word: p0 reads 1. -/
def predFile (s : State) : W64 :=
  (List.range 16).foldl (fun w i => w ||| if s.me.pred (BitVec.ofNat 4 i) then BitVec.ofNat 64 (2 ^ i) else 0) 0

/-- R133, R137, R139: the scalar results that read more than their source fields. -/
def scalarRow2 (s : State) : Instr → Option AluOut
  | .bfi x d a pos len1 =>
    let m := fieldMask pos.toNat (len1.toNat + 1)
    some { x := x, u := (Uses.none.s a).r d.r, d := d, lat := 1,
           val := (s.sreg d.r &&& ~~~m) ||| ((s.src a <<< pos.toNat) &&& m) }
  | .pmovFrom x d => some { x := x, u := Uses.none, d := d, lat := 1, val := predFile s }
  | .agen x d n a =>
    some { x := x, u := Uses.none.s a, d := d, lat := 3, val := kvaAt (s.me.ctx.ag.get n.toFin) ((s.src a).toNat % 2 ^ 32) }
  | _ => none

/-- R135: the conditions of a compare. -/
def condition (c : BitVec 3) (a b : W64) : Bool := match c.toNat with
  | 0 => a == b
  | 1 => a != b
  | 2 => a.slt b
  | 3 => !a.slt b
  | 4 => a.ult b
  | 5 => !a.ult b
  | 6 => (a &&& b) != 0
  | _ => (a &&& b) == 0

/-- R136: the operations on two predicates. -/
def predOp (op : BitVec 3) (p q : Bool) : Bool := match op.toNat with
  | 0 => p && q
  | 1 => p || q
  | 2 => Bool.xor p q
  | _ => p

/-- R135, R136: lent byte, operands, predicate and outcome of the instructions that write one predicate. -/
def predRow (s : State) : Instr → Option (Lent × Uses × BitVec 4 × Bool)
  | .cmp x c pd a b => some (x, (Uses.none.s a).s b, pd, condition c (s.src a) (s.src b))
  | .cmpi x c pd a imm => some (x, Uses.none.s a, pd, condition c (s.src a) (extS x imm))
  | .pop x op pd na pa nb pb => some (x, Uses.none, pd, predOp op (s.me.pred pa != na) (s.me.pred pb != nb))
  | _ => none

/-- A predicate result at issue + 1. -/
def predDue (s : State) (p : BitVec 4) (b : Bool) : Flight := s.due 1 (.p p s.me.priv) false (if b then 1 else 0)

/-- May the core that acts issue `n` more results (R302)? -/
abbrev RoomFor (s : State) (n : Nat) : Prop := s.me.priv = true ∨ s.me.inFlight + n ≤ 64

end Sys2Proof.Claims

/-- R131: each division drops what the divider holds, issues its result for issue + 20 to D and the latch, in the divider, and
changes nothing else. -/
def Obligations.DivisionResult : Prop :=
  ∀ (i : Instr) (s : State) (x : Lent) (d : SDst) (a b : SSrc) (v : W64), divRow s i = some (x, d, a, b, v) → s.dev.wbuf = [] →
    s.Ready x ((Uses.none.s a).s b) → (dividerFreed s).Room →
    exec i s = .next ((dividerFreed s).issues { s.due 20 (s.toScalar d) true (v.setWidth 1024) with div := true })

/-- R133, R137, R139: `bfi`, `pmov d, pr` and `agen` issue one result, its value in D and in the latch, and change nothing
else. -/
def Sys2Proof.Claims.FieldPredicateAndKvaResult : Prop :=
  ∀ (i : Instr) (s : State) (r : AluOut), i.wf = true → scalarRow2 s i = some r → s.dev.wbuf = [] → s.Ready r.x r.u → s.Room →
    exec i s = .next (s.issues (s.due r.lat (s.toScalar r.d) true (r.val.setWidth 1024)))

/-- R129, R130, R133, R134, R137, R139: each scalar instruction with a scalar result issues that one result for issue + its latency, to D
and to the latch, and changes nothing else. -/
def Obligations.ScalarResult : Prop :=
  Claims.ScalarOperationResults ∧ Claims.FieldPredicateAndKvaResult

/-- R135, R136: `cmp`, `cmpi` and `pop` issue one predicate for issue + 1, which reaches no latch, and change nothing else. -/
def Sys2Proof.Claims.PredicateResult : Prop :=
  ∀ (i : Instr) (s : State) (x : Lent) (u : Uses) (p : BitVec 4) (b : Bool), i.wf = true → predRow s i = some (x, u, p, b) →
    s.dev.wbuf = [] → s.Ready x u → s.Room → exec i s = .next (s.issues (predDue s p b))

/-- R137, R138: `pmov pr, a` issues p1 to p15 for issue + 1, each its own result; `agset` writes its generator at issue + 1. Neither
writes a latch or anything else. -/
def Sys2Proof.Claims.PredicateFileAndGeneratorWrites : Prop :=
  (∀ (s : State) (x : Lent) (a : SSrc), s.dev.wbuf = [] → s.me.run = .running → s.Ready x (Uses.none.s a) → RoomFor s 15 →
    exec (.pmovTo x a) s = .next ((List.range 15).foldl
      (fun t j => t.issues (predDue s (BitVec.ofNat 4 (j + 1)) ((s.src a).getLsbD (j + 1)))) s)) ∧
  (∀ (s : State) (x : Lent) (n : BitVec 2) (a b : SSrc), s.dev.wbuf = [] → s.Ready x ((Uses.none.s a).s b) →
    exec (.agset x n a b) s = .next (s.issues
      { s.due 1 (.ag n) false ((generatorOf (s.src a) (s.src b)).setWidth 1024) with counts := false }))

/-- R135 to R138: the instructions that write predicates and the generators, which reach no latch. -/
def Obligations.PredicateAndGeneratorWrites : Prop :=
  Claims.PredicateResult ∧ Claims.PredicateFileAndGeneratorWrites

namespace Sys2Proof.Claims

/-- The scalar register `r`, as the level `priv` names it, is the one that a result bound for `q` of bank `b` lands in (R290). -/
def sameScalar (priv : Bool) (r : BitVec 6) (b : Bool) (q : BitVec 6) : Bool := r == q && isBanked priv r == isBanked b q

/-- The results due in this clock that land in scalar register `r`, in issue order. -/
def dueFor (k : Core) (r : BitVec 6) : List Flight := k.flights.filter fun f => f.due && !f.err && match f.dest with
  | .s q b => sameScalar k.priv r b q
  | _ => false

/-- The latch that a scalar source names: y0 or y1 (R109). -/
def ofS : SSrc → List (Fin 4)
  | .s _ => []
  | .y n => [⟨n.toNat, by omega⟩]

/-- The latch that a vector source names: y2 or y3 (R110). -/
def ofV : VSrc → List (Fin 4)
  | .v _ => []
  | .y n => [⟨n.toNat + 2, by omega⟩]

/-- The latch that a trip count names. -/
def ofLoop : LoopCount → List (Fin 4)
  | .reg a => ofS a
  | .imm _ => []

/-- The latch that the count of a `pause` names. -/
def ofPause : PauseCount → List (Fin 4)
  | .reg a => ofS a
  | .imm _ => []

/-- The bypass latches that a syllable names as sources (R16, R109, R110). -/
def namedLatches : Instr → List (Fin 4)
  | .add _ _ a b | .sub _ _ a b | .mul _ _ a b | .mulh _ _ a b | .mulhn _ _ a b | .div _ _ a b | .divn _ _ a b | .rem _ _ a b
    | .remn _ _ a b | .and _ _ a b | .or _ _ a b | .xor _ _ a b | .andn _ _ a b | .shl _ _ a b | .shr _ _ a b | .sra _ _ a b
    | .rot _ _ a b | .min _ _ a b | .max _ _ a b | .minn _ _ a b | .maxn _ _ a b | .cmp _ _ _ a b | .agset _ _ a b | .lea _ _ _ a b
    | .sel _ _ _ a b => ofS a ++ ofS b
  | .clz _ _ a | .popc _ _ a | .sext _ _ a _ | .zext _ _ a _ | .pmovTo _ a | .agen _ _ _ a | .addi _ _ a _ | .cmpi _ _ _ a _
    | .bfx _ _ a _ _ | .bfi _ _ a _ _ | .bri _ a | .calli _ a | .ret _ a | .bsel _ a | .mtsr _ a _ => ofS a
  | .loop _ a _ => ofLoop a
  | .pause _ a => ofPause a
  | .vadd _ _ _ _ _ a b | .vsub _ _ _ _ _ a b | .vmul _ _ _ _ _ a b | .vfma _ _ _ _ _ a b | .vfms _ _ _ _ _ a b
    | .vmin _ _ _ _ _ a b | .vmax _ _ _ _ _ a b | .vand _ _ _ _ _ a b | .vor _ _ _ _ _ a b | .vxor _ _ _ _ _ a b
    | .vshl _ _ _ _ _ a b | .vshr _ _ _ _ _ a b | .vsra _ _ _ _ _ a b | .vrot _ _ _ _ _ a b | .vcmp _ _ _ _ _ _ a b
    | .vsel _ _ _ _ a b | .vmac16 _ _ _ _ _ a b | .vdot4 _ _ _ _ _ a b | .vsadd _ _ _ _ _ a b | .vssub _ _ _ _ _ a b
    | .vperm _ _ _ _ _ a b | .vpack _ _ _ _ _ a b | .vrpb _ _ _ _ _ a b => ofV a ++ ofV b
  | .vabs _ _ _ _ _ a | .vneg _ _ _ _ _ a | .vred _ _ _ _ _ _ a | .vext _ _ _ _ _ a _ | .vmov _ _ _ _ a | .vcvt _ _ _ _ a _ _
    | .vunpk _ _ _ _ _ _ a | .vmaxe _ _ _ _ a _ _ | .vcvtq _ _ _ _ a _ _ | .vexp2 _ _ _ _ a _ | .vlog2 _ _ _ _ a _
    | .vrcp _ _ _ _ a _ | .vrsq _ _ _ _ a _ | .vtanh _ _ _ _ a _ | .vst _ _ a _ _ _ _ | .vsts _ _ a _ _ _ | .trowmv _ _ _ _ a => ofV a
  | _ => []

/-- The operands of the scalar rows: lent byte and what is read. -/
def scalarUses (s : State) (i : Instr) : Option (Lent × Uses) :=
  match scalarRow s i, scalarRow2 s i, divRow s i, predRow s i with
  | some r, _, _, _ => some (r.x, r.u)
  | _, some r, _, _ => some (r.x, r.u)
  | _, _, some (x, _, a, b, _), _ => some (x, (Uses.none.s a).s b)
  | _, _, _, some (x, u, _, _) => some (x, u)
  | _, _, _, _ => none

end Sys2Proof.Claims

/-- R12, R111, R290: s0 and p0 read 0 and 1 and discard writes; a write to another scalar register or predicate of the running level
is what a read of it then gives, and every other one reads as before; memory-side state is untouched. -/
def Sys2Proof.Claims.RegisterReadAfterWrite : Prop :=
  (∀ (k : Core) (r q : BitVec 6) (w : W64),
    (k.setS r k.priv w).sreg q = if q = r ∧ r ≠ 0 then w else k.sreg q) ∧
  (∀ (k : Core) (r q : BitVec 4) (b : Bool),
    (k.setP r k.priv b).pred q = if q = r ∧ r ≠ 0 then b else k.pred q) ∧
  (∀ (k : Core), k.sreg 0 = 0 ∧ k.pred 0 = true) ∧
  (∀ (k : Core) (r : BitVec 6) (b : Bool) (w : W64), r = 0 → k.setS r b w = k) ∧
  (∀ (k : Core) (p : BitVec 4) (b v : Bool), p = 0 → k.setP p b v = k)

/-- R290: at supervisor level a write to s48 to s63 or p12 to p15 changes the supervisor's own copy and leaves the user context
as it is; a write to any other register changes the user context alone. -/
def Sys2Proof.Claims.SupervisorBank : Prop :=
  (∀ (k : Core) (r : BitVec 6) (w : W64), 48 ≤ r.toNat → (k.setS r true w).ctx = k.ctx) ∧
  (∀ (k : Core) (p : BitVec 4) (v : Bool), 12 ≤ p.toNat → (k.setP p true v).ctx = k.ctx) ∧
  (∀ (k : Core) (r : BitVec 6) (b : Bool) (w : W64), b = false ∨ r.toNat < 48 → (k.setS r b w).sv = k.sv) ∧
  (∀ (k : Core) (p : BitVec 4) (b v : Bool), b = false ∨ p.toNat < 12 → (k.setP p b v).sv = k.sv)

/-- R102, R111: after the results due in a clock have landed, a scalar register holds the value of the last of them in issue order
that was bound for it, and its old value when there was none; s0 keeps reading 0. -/
def Sys2Proof.Claims.LandingKeepsTheLatest : Prop :=
  ∀ (k : Core) (r : BitVec 6), r ≠ 0 →
    k.landDue.sreg r = match (dueFor k r).getLast? with
      | some f => f.val.setWidth 64
      | none => k.sreg r

/-- R104, R108: a syllable whose guard is false, and which names no stale latch, has no effect at all. -/
def Obligations.FalseGuardDoesNothing : Prop :=
  ∀ (i : Instr) (s : State), i.syl.isSome = true → s.dev.wbuf = [] →
    (∀ n ∈ namedLatches i, (s.me.latch.get n).stale = false) →
    s.me.guard i.lent = false → exec i s = .next s

/-- R16, R104, R297: a scalar instruction that names a stale latch traps with LATCH_STALE, whatever its guard: at user level the
core stops before its bundle with that fault record, at supervisor level it halts; nothing else changes but CYCLE's copy. -/
def Sys2Proof.Claims.StaleLatchTraps : Prop :=
  ∀ (i : Instr) (s : State) (x : Lent) (u : Uses), scalarUses s i = some (x, u) → s.dev.wbuf = [] → s.me.stale u = true →
    exec i s = .next (trapped s 5 0x04 s.me.bun.addr)

/-- R18, R104, R215: a scalar instruction that reads a register awaiting a token is held at issue, and has no other effect. -/
def Sys2Proof.Claims.PendingTokenHolds : Prop :=
  ∀ (i : Instr) (s : State) (x : Lent) (u : Uses) (op : Nat), scalarUses s i = some (x, u) → s.dev.wbuf = [] →
    s.me.stale u = false → s.me.guard x = true → u.regs.findSome? s.me.pendingOn = some op →
    exec i s = .next (s.modBun fun b => { b with hold := some (.token op) })

/-- R302: at user level, with 64 results in flight, an instruction that would issue one more traps with ILLEGAL_OPCODE and issues
nothing. -/
def Sys2Proof.Claims.SixtyFifthResultTraps : Prop :=
  ∀ (i : Instr) (s : State) (r : AluOut), i.wf = true → (scalarRow s i = some r ∨ scalarRow2 s i = some r) → s.dev.wbuf = [] →
    s.Ready r.x r.u → s.me.priv = false → 64 ≤ s.me.inFlight →
    exec i s = .next (trapped s 7 0x02 s.me.bun.addr)

namespace Sys2Proof.Claims

/-- The address of a load or store, computed modulo 2^64 from a base and a scaled offset (R140). -/
def eaOf {w : Nat} (s : State) (x : Lent) (a : BitVec 6) (off : BitVec w) (size : Nat) : Nat :=
  (s.sreg a + extS x off * BitVec.ofNat 64 size).toNat

/-- The address with its low log2(size) bits cleared (R140). -/
def aligned (a size : Nat) : Nat := a / size * size

/-- R140, R142, R143: what a scalar load reads: lent byte, base register, size, sign extension, class, destination, address. -/
def loadRow (s : State) : Instr → Option (Lent × BitVec 6 × Nat × Bool × BitVec 2 × BitVec 6 × Nat)
  | .ld x sz lc sx d a off => some (x, a, 2 ^ sz.toNat, sx, lc, d, eaOf s x a off (2 ^ sz.toNat))
  | .ldacq x sz lc sx _ d a off =>
    some (x, a, 2 ^ sz.toNat, sx, lc, d, aligned (eaOf s x a off (2 ^ sz.toNat)) (2 ^ sz.toNat))
  | _ => none

/-- R140, R142, R143: what a scalar store writes: lent byte, operands, address and bytes. -/
def storeRow (s : State) : Instr → Option (Lent × Uses × Nat × List Byte)
  | .st x sz d a off => some (x, (Uses.none.r d).r a, eaOf s x a off (2 ^ sz.toNat), toLe (2 ^ sz.toNat) (s.sreg d).toNat)
  | .strel x sz _ _ d a off =>
    some (x, (Uses.none.r d).r a, aligned (eaOf s x a off (2 ^ sz.toNat)) (2 ^ sz.toNat), toLe (2 ^ sz.toNat) (s.sreg d).toNat)
  | _ => none

/-- The assumed latency of a load class (R63). -/
def classClocks (lc : BitVec 2) : Nat := match lc.toNat with
  | 0 => 4
  | 1 => 24
  | 2 => 64
  | _ => 640

/-- The acting core has no access outstanding, and no write of any core is on its way. -/
abbrev Quiet (s : State) : Prop := s.me.ops = [] ∧ s.me.wents = [] ∧ s.dev.writes = []

/-- No access that the device still lists has a number of those to come. -/
abbrev NewNumbers (s : State) : Prop := (∀ o ∈ s.me.ops, o.id < s.dev.nextId) ∧ ∀ w ∈ s.dev.writes, w.acc < s.dev.nextId

/-- The context of the acting core can take a late error, the core's task, if it has one, is loaded there, and the numbers of accesses to
come are new (R300). -/
abbrev LateRoom (s : State) : Prop :=
  s.me.ctx.lates.length < 32 ∧ (s.me.task.bind s.taskById).all (fun t => t.where_ == .on s.dev.cur.core) = true ∧ NewNumbers s

/-- No entry of a write stream that the acting core pushed in an earlier bundle is to drain before an access of the bundle to
[va, va + len) (R75, R77, R90). -/
abbrev NoEntryAhead (s : State) (cls va len : Nat) : Prop :=
  ∀ e ∈ s.me.wents, e.ahead s.dev.cur.core (s.me.seq cls) va len = false

/-- No entry of a write stream that the acting core pushed before an access of the bundle covers a byte of [va, va + len). -/
abbrev NoEntryOver (s : State) (cls va len : Nat) : Prop := ∀ e ∈ s.me.wents, s.me.seq cls ≤ e.seq ∨ e.overlaps va len = false

/-- The place of local-store address `a` of the acting core. -/
def lsPlace (s : State) (a : Nat) : Nat := lsAddr s.dev.cur.core (a - Config.lsBase)

/-- The number that `n` bytes of memory from `a` on spell, least significant first (R5). -/
def memNat (s : State) (a n : Nat) : Nat := leNat ((addrs a n).map s.mem.read)

/-- The number that `n` bytes spell as they show at a place, in an encrypted tier under the key of the keyed place (R391). -/
def shownNat (s : State) (a n : Nat) : Nat := leNat ((addrs a n).map s.peek)

/-- The places of memory that a write of `n` bytes at a place may change: its bytes; in an encrypted tier all of their data units
(R391). -/
def touched (p n : Nat) : List Nat :=
  if p < 2 ^ 70 then addrs p n else (addrs p n).flatMap fun a => addrs (physOf a / 64 * 64) 64

/-- A write of `n` bytes at a place has changed no other byte of memory, nor what any other byte shows under the same key (R391). -/
def SameBeside (s t : State) (p n : Nat) : Prop :=
  SameBytes s t (touched p n) ∧ ∀ a, a / 2 ^ 70 = p / 2 ^ 70 → a ∉ addrs p n → t.peek a = s.peek a

/-- A loaded number, sign- or zero-extended to 64 bits (R142). -/
def extended (size : Nat) (sx : Bool) (n : Nat) : W64 :=
  if sx then (BitVec.ofNat (8 * size) n).signExtend 64 else BitVec.ofNat 64 n

/-- Is the byte at an address of the acting core in its local memory: its local store or a vault of its cluster (R77)? -/
def isLocalByte (s : State) (a : Nat) : Bool :=
  rowOf a == .ls || (rowOf a == .vault && vaultOf a / 8 == clusterOf s.dev.cur.core)

/-- The place of a byte of local memory. -/
def localPlace (s : State) (a : Nat) : Nat := if rowOf a = .ls then lsPlace s a else vaultPlace a

/-- The places of the local bytes among those of a list of address runs. -/
def localPlaces (s : State) (runs : List (Nat × Nat)) : List Nat :=
  ((runs.flatMap fun r => addrs r.1 r.2).filter (isLocalByte s)).map (localPlace s)

/-- A result of the executing syllable that lands in a scalar register: in it when its data is there. -/
abbrev HasResult (t s : State) (lat : Nat) (dest : FDest) (latched : Bool) : Prop :=
  ∃ f ∈ t.me.flights, f.rem = lat ∧ f.dest = dest ∧ f.ord = s.me.bun.ord ∧ f.latch = (s.due lat dest latched 0).latch

/-- The architectural registers of the acting core, its level and what it does, are as before. -/
abbrev SameRegisters (s t : State) : Prop :=
  t.me.ctx.s = s.me.ctx.s ∧ t.me.ctx.p = s.me.ctx.p ∧ t.me.ctx.v = s.me.ctx.v ∧ t.me.ctx.m = s.me.ctx.m ∧ t.me.ctx.qs = s.me.ctx.qs ∧
    t.me.ctx.ag = s.me.ctx.ag ∧ t.me.ctx.mp = s.me.ctx.mp ∧ t.me.ctx.rings = s.me.ctx.rings ∧ t.me.ctx.pc = s.me.ctx.pc ∧
    t.me.ctx.loops = s.me.ctx.loops ∧ t.me.ctx.tokstat = s.me.ctx.tokstat ∧ t.me.sv = s.me.sv ∧ t.part = s.part

/-- R144: the new value of an `amo` on values of `w` bits. -/
def amoValue (op : BitVec 3) (w : Nat) (old b : BitVec w) : BitVec w := match op.toNat with
  | 0 => b
  | 1 => old + b
  | 2 => old &&& b
  | 3 => old ||| b
  | 4 => old ^^^ b
  | 5 => if old.slt b then b else old
  | 6 => if b.slt old then b else old
  | _ => if old.ult b then b else old

/-- R144: an atomic: lent byte, operands, class, data register, size, aligned address, and what it does to the old value. -/
structure AtomicRow where
  x : Lent
  u : Uses
  lc : BitVec 2
  d : BitVec 6
  size : Nat
  ea : Nat
  new : Nat → Nat

/-- A register pair as one number, the first register low (R144). -/
def pairNat (s : State) (d : BitVec 6) : Nat := (s.sreg d).toNat + (s.sreg (d + 1)).toNat * 2 ^ 64

/-- The executing syllable traps at check 7 with a code at an address, and has no effect beside what its bundle's stop takes back
(R104): no register, access, write or byte of memory changes. -/
def Traps (i : Instr) (s : State) (code : Nat) (a : W64) : Prop := Gives i s fun t =>
  t.me.run = (trapped s 7 code a).me.run ∧ SameRegisters (trapped s 7 code a) t ∧ t.me.ops = s.me.ops ∧ t.dev.writes = s.dev.writes ∧
    t.mem = s.mem

/-- R144: the three atomics. -/
def atomicRow (s : State) : Instr → Option AtomicRow
  | .amo x asz lc _ _ op d a =>
    let size := 4 * 2 ^ asz.toNat
    some { x := x, u := if asz = 2 then ((Uses.none.r d).r (d + 1)).r a else (Uses.none.r d).r a, lc := lc, d := d, size := size,
           ea := aligned (s.sreg a).toNat size,
           new := fun old => (amoValue op (8 * size) (BitVec.ofNat _ old)
             (BitVec.ofNat _ (if asz = 2 then pairNat s d else (s.sreg d).toNat))).toNat }
  | .cas x asz lc _ _ d a =>
    let size := 4 * 2 ^ asz.toNat
    some { x := x, u := ((Uses.none.r d).r (d + 1)).r a, lc := lc, d := d, size := size, ea := aligned (s.sreg a).toNat size,
           new := fun old => if old = (s.sreg d).toNat % 2 ^ (8 * size) then (s.sreg (d + 1)).toNat % 2 ^ (8 * size) else old }
  | .cas16 x lc _ _ d a =>
    some { x := x, u := ((((Uses.none.r d).r (d + 1)).r (d + 2)).r (d + 3)).r a, lc := lc, d := d, size := 16,
           ea := aligned (s.sreg a).toNat 16, new := fun old => if old = pairNat s d then pairNat s (d + 2) else old }
  | _ => none

/-- The fences: lent byte and class. -/
def fenceRow : Instr → Option (Lent × BitVec 2)
  | .fenceAcq x _ lc | .fenceRel x _ lc | .fenceAr x _ lc | .drain x _ lc => some (x, lc)
  | _ => none

end Sys2Proof.Claims

/-- R142, R143: a load of local-store bytes, with no other access outstanding and no memory error to come (R394), issues one result for
issue + its class latency, to D and the latch: the bytes of memory, extended. No register and no byte of memory changes. -/
def Sys2Proof.Claims.LocalScalarLoad : Prop :=
  ∀ (i : Instr) (s : State) (x : Lent) (a : BitVec 6) (size : Nat) (sx : Bool) (lc : BitVec 2) (d : BitVec 6) (ea : Nat),
    loadRow s i = some (x, a, size, sx, lc, d, ea) → i.wf = true → s.dev.wbuf = [] → s.Ready x (Uses.none.r a) → s.Room → Quiet s →
    s.me.ecc = false → s.live = true → rowSpan ea size = .ls →
    Gives i s fun t =>
      s.due (classClocks lc) (.s d s.me.priv) true ((extended size sx (memNat s (lsPlace s ea) size)).setWidth 1024) ∈ t.me.flights ∧
      SameRegisters s t ∧ t.mem = s.mem

/-- R63, R140 to R143: a load from any row that passes the checks of issue, and meets no memory error (R394), makes its access: its
result is in flight for issue + its class latency, and no register and no byte of memory changes. -/
def Sys2Proof.Claims.LoadIssues : Prop :=
  ∀ (i : Instr) (s : State) (x : Lent) (a : BitVec 6) (size : Nat) (sx : Bool) (lc : BitVec 2) (d : BitVec 6) (ea : Nat),
    loadRow s i = some (x, a, size, sx, lc, d, ea) → i.wf = true → s.dev.wbuf = [] → s.Ready x (Uses.none.r a) → s.Room →
    s.me.ecc = false → s.live = true → LateRoom s → NoEntryAhead s 0 ea size → s.dataFault .read true ea size = none →
    Gives i s fun t => HasResult t s (classClocks lc) (.s d s.me.priv) true ∧ SameRegisters s t ∧ t.mem = s.mem

/-- R142, R143: a store to the local store, with no other access outstanding, puts the low bytes of D there, and changes no other
byte and no register. -/
def Sys2Proof.Claims.LocalScalarStore : Prop :=
  ∀ (i : Instr) (s : State) (x : Lent) (u : Uses) (ea : Nat) (bs : List Byte),
    storeRow s i = some (x, u, ea, bs) → i.wf = true → s.dev.wbuf = [] → s.mem.wf = true → s.Ready x u → Quiet s →
    s.zoneAt ea bs.length = none → rowSpan ea bs.length = .ls →
    Gives i s fun t =>
      (∀ n, n < bs.length → t.mem.read (lsPlace s ea + n) = bs.getD n 0) ∧ SameBytes s t (addrs (lsPlace s ea) bs.length) ∧
      SameRegisters s t

/-- R142, R143: a store to any row that passes the checks of issue: memory changes, if at all, only at the local bytes that the
instruction stores to, and no register changes. -/
def Sys2Proof.Claims.ScalarStoreFrame : Prop :=
  ∀ (i : Instr) (s : State) (x : Lent) (u : Uses) (ea : Nat) (bs : List Byte),
    storeRow s i = some (x, u, ea, bs) → i.wf = true → s.dev.wbuf = [] → s.mem.wf = true → s.Ready x u →
    LateRoom s → NoEntryAhead s 3 ea bs.length → s.storeFault ea bs.length = none →
    Gives i s fun t => SameBytes s t (localPlaces s [(ea, bs.length)]) ∧ SameRegisters s t

/-- R141, R297: a load or a store with a byte outside the implemented rows, or in two rows, traps with DATA_UNMAPPED at the first such
byte, and has no other effect. -/
def Sys2Proof.Claims.UnmappedAccessTraps : Prop :=
  ∀ (i : Instr) (s : State) (x : Lent) (u : Uses) (ea size : Nat),
    ((∃ a sx lc d, loadRow s i = some (x, a, size, sx, lc, d, ea) ∧ u = Uses.none.r a) ∨
      (∃ bs, storeRow s i = some (x, u, ea, bs) ∧ bs.length = size)) →
    i.wf = true → s.dev.wbuf = [] → s.Ready x u → rowSpan ea size = .hole →
    exec i s = .next (trapped s 7 0x06 (BitVec.ofNat 64 (holeAt ea size)))

/-- R84, R144: an atomic on the local store, with no other access outstanding and no memory error to come, returns the old value at
issue + its class latency and leaves the new one, in one step; no other byte and no register changes. -/
def Obligations.LocalAtomicEffect : Prop :=
  ∀ (i : Instr) (s : State) (r : AtomicRow), atomicRow s i = some r → i.wf = true → s.dev.wbuf = [] → s.mem.wf = true →
    s.Ready r.x r.u → RoomFor s 2 → Quiet s → s.me.ecc = false → s.live = true → rowSpan r.ea r.size = .ls →
    Gives i s fun t =>
      memNat t (lsPlace s r.ea) r.size = r.new (memNat s (lsPlace s r.ea) r.size) ∧
      SameBytes s t (addrs (lsPlace s r.ea) r.size) ∧ SameRegisters s t ∧
      s.due (classClocks r.lc) (.s r.d s.me.priv) (r.size != 16)
        (BitVec.ofNat 1024 (memNat s (lsPlace s r.ea) r.size % 2 ^ 64)) ∈ t.me.flights ∧
      (r.size = 16 → s.due (classClocks r.lc) (.s (r.d + 1) s.me.priv) false
        (BitVec.ofNat 1024 (memNat s (lsPlace s r.ea) 16 / 2 ^ 64)) ∈ t.me.flights)

/-- R146: `pref` outside paged space has no effect; in paged space it starts a translation at most: it makes no access, issues no
result, never traps and never holds its bundle. -/
def Sys2Proof.Claims.PrefetchTranslatesOnly : Prop :=
  ∀ (s : State) (x : Lent) (a : BitVec 6) (off : BitVec 7), x.ok = true → s.dev.wbuf = [] → s.Ready x (Uses.none.r a) →
    (rowOf (eaOf s x a off 64) ≠ .paged → exec (.pref x a off) s = .next s) ∧
    (rowOf (eaOf s x a off 64) = .paged → Gives (.pref x a off) s fun t =>
      t.mem = s.mem ∧ SameRegisters s t ∧ t.me.flights = s.me.flights ∧ t.me.ops = s.me.ops ∧ t.dev.writes = s.dev.writes ∧
        t.me.run = s.me.run ∧ t.me.bun = s.me.bun)

/-- R81, R240: a fence or a drain issues a landing for issue + its class latency that writes no register; memory and the registers
stay as they are, and no bundle is held. -/
def Sys2Proof.Claims.FenceIssuesLanding : Prop :=
  ∀ (i : Instr) (s : State) (x : Lent) (lc : BitVec 2), fenceRow i = some (x, lc) → s.dev.wbuf = [] → s.Ready x Uses.none →
    Gives i s fun t => HasResult t s (classClocks lc) .none false ∧ SameRegisters s t ∧ t.mem = s.mem ∧ t.me.bun = s.me.bun

namespace Sys2Proof.Claims

/-- R16, R114, R147, R150: the state after a taken control transfer: the bundle at `target` issues `clocks` clocks later, every latch
is stale, and no held syllable is left. -/
def transferred (s : State) (target : W64) (clocks : Nat) : State := s.modMe fun k =>
  { k with
    ctx := { k.ctx with pc := target }
    clk := { k.clk with gap := clocks - 1, epoch := k.clk.epoch + 1 }
    latch := .replicate 4 { val := 0, stale := true }
    held := .replicate 2 none
    bun := { k.bun with taken := true } }

/-- The link of a call: the next bundle's address, for s63 at issue + 1, and for no latch (R149). -/
def linkDue (s : State) : Flight := s.due 1 (.s 63 s.me.priv) false (s.me.bun.next.setWidth 1024)

/-- The address `disp` syllables from the bundle's first (R147). -/
def relative (s : State) {w : Nat} (x : Lent) (disp : BitVec w) : W64 := s.me.bun.base + extS x disp <<< 2

/-- R147 to R150: the branches, calls and returns that are taken whenever they execute: lent byte, operands, target, clocks to the
target's issue, and whether a link is written. -/
def jumpRow (s : State) : Instr → Option (Lent × Uses × W64 × Nat × Bool)
  | .br x disp => some (x, Uses.none, relative s x disp, 2, false)
  | .call x disp => some (x, Uses.none, relative s x disp, 2, true)
  | .bri x a | .ret x a => some (x, Uses.none.s a, s.src a, 3, false)
  | .calli x a => some (x, Uses.none.s a, s.src a, 3, true)
  | _ => none

/-- R30, R151: a loop instruction: lent byte, operands, trip count and the address of its end bundle. -/
def loopRow (s : State) : Instr → Option (Lent × Uses × Nat × W64)
  | .loop x (.reg a) off => some (x, Uses.none.s a, min (s.src a).toNat (2 ^ 32 - 1), s.me.bun.base + extU x off <<< 2)
  | .loop x (.imm n) off => some (x, Uses.none, n.toNat, s.me.bun.base + extU x off <<< 2)
  | .loopx x sr off =>
    let v := match sr.toNat with
      | 0 => s.seqlen s.dev.cur.core
      | 1 => s.me.ctx.occ
      | _ => s.me.ctx.draft
    some (x, Uses.none, v.toNat, s.me.bun.base + extU x off <<< 2)
  | _ => none

/-- The state after ILLEGAL_OPCODE at check 7, at the syllable's address (R297, R291). -/
def illegal (s : State) : State := trapped s 7 0x02 s.me.bun.addr

/-- The state with one overlay mark more counted as having had no effect (R119, R412). -/
def markCounted (s : State) : State := s.modMe fun k => { k with imem := { k.imem with nop := k.imem.nop + 1 } }

/-- R32: the number of bits of a number. -/
def bitCount (n : Nat) : Nat := if n = 0 then 0 else n.log2 + 1

/-- R32: the bucket of `bsel`. -/
def bucket (occ draft : Nat) : Nat := (if occ = 0 then 0 else min 7 (bitCount (occ - 1))) * 8 + min 7 (bitCount draft)

/-- The clocks that a `pause` names (R156). -/
def pauseCount (s : State) (x : Lent) : PauseCount → Nat
  | .reg a => min (s.src a).toNat (2 ^ 24 - 1)
  | .imm n => (extU x n).toNat

/-- The operands of a `pause`. -/
def pauseUses : PauseCount → Uses
  | .reg a => Uses.none.s a
  | .imm _ => Uses.none

/-- R31: what the loop levels, innermost first, become at the bundle at `base`, and the loop-back target if there is one. -/
inductive LoopEval (base : W64) : List LoopLevel → List LoopLevel → Option W64 → Prop
  | done : LoopEval base [] [] none
  | other (l : LoopLevel) (ls : List LoopLevel) : l.stop ≠ base → LoopEval base (l :: ls) (l :: ls) none
  | back (l : LoopLevel) (ls : List LoopLevel) : l.stop = base → l.idx + 1 < l.trip →
      LoopEval base (l :: ls) ({ l with idx := l.idx + 1 } :: ls) (some l.start)
  | pop (l : LoopLevel) (ls ls' : List LoopLevel) (t : Option W64) : l.stop = base → l.trip ≤ l.idx + 1 → LoopEval base ls ls' t →
      LoopEval base (l :: ls) ls' t

end Sys2Proof.Claims

/-- R147, R149, R150: `br`, `bri`, `call`, `calli` and `ret` to an aligned target: the next bundle is the one there, 2 or 3 clocks
after issue, and a call also sends the next bundle's address to s63 at issue + 1. Nothing else changes. -/
def Sys2Proof.Claims.JumpsToAlignedTargets : Prop :=
  ∀ (i : Instr) (s : State) (x : Lent) (u : Uses) (t : W64) (n : Nat) (link : Bool), jumpRow s i = some (x, u, t, n, link) →
    i.wf = true → s.dev.wbuf = [] → s.Ready x u → s.live = true → (link = true → s.Room) → t.toNat % 4 = 0 →
    exec i s = .next (transferred (if link then s.issues (linkDue s) else s) t n)

/-- R117: a branch, call or return to a target that is not a multiple of 4, and a `bsel` whose entry is not one, trap with INSTR_ALIGN at
the target; the core stays before its bundle, and a link is not written. -/
def Sys2Proof.Claims.MisalignedTargetTraps : Prop :=
  (∀ (i : Instr) (s : State) (x : Lent) (u : Uses) (t : W64) (n : Nat), jumpRow s i = some (x, u, t, n, false) → i.wf = true →
    s.dev.wbuf = [] → s.Ready x u → t.toNat % 4 ≠ 0 → exec i s = .next (trapped s 7 0x01 t)) ∧
  (∀ (i : Instr) (s : State) (x : Lent) (u : Uses) (t : W64) (n : Nat), jumpRow s i = some (x, u, t, n, true) → i.wf = true →
    s.dev.wbuf = [] → s.Ready x u → s.live = true → s.Room → t.toNat % 4 ≠ 0 → Traps i s 0x01 t) ∧
  (∀ (s : State) (x : Lent) (a : SSrc) (base at_ : Nat) (t : W64), s.dev.wbuf = [] → s.Ready x (Uses.none.s a) →
    base = (s.src a).toNat / 8 * 8 → at_ = base + 8 * bucket s.me.ctx.occ.toNat s.me.ctx.draft.toNat → rowSpan base 512 = .ls →
    (s.me.bun.entry = some t ∨ (s.me.bun.entry = none ∧ Quiet s ∧ t = w64 (memNat s (lsPlace s at_) 8))) → t.toNat % 4 ≠ 0 →
    exec (.bsel x a) s = .next (trapped s 7 0x01 t))

/-- R148: `brc` is taken when p(P) ^ NEG = 1, with the predicate read at issue; otherwise it does nothing. `brc !p0` is never taken,
and neither is a `brc` whose guard is false. -/
def Obligations.ConditionalBranch : Prop :=
  ∀ (s : State) (x : Lent) (neg : Bool) (p : BitVec 4) (disp : BitVec 18), x.ok = true → s.dev.wbuf = [] →
    (s.Ready x Uses.none → Bool.xor (s.me.pred p) neg = true → (relative s x disp).toNat % 4 = 0 →
      exec (.brc x neg p disp) s = .next (transferred s (relative s x disp) 2)) ∧
    (s.Ready x Uses.none → Bool.xor (s.me.pred p) neg = false → exec (.brc x neg p disp) s = .next s) ∧
    (exec (.brc x true 0 disp) s = .next s) ∧
    (s.me.guard x = false → exec (.brc x neg p disp) s = .next s)

/-- R30, R151: with fewer than six levels active, `loop` and `loopx` with a trip count above 0 push a level of index 0 whose start is
the next bundle. Nothing else changes. -/
def Sys2Proof.Claims.LoopPushed : Prop :=
  ∀ (i : Instr) (s : State) (x : Lent) (u : Uses) (trip : Nat) (stop : W64), loopRow s i = some (x, u, trip, stop) → i.wf = true →
    s.dev.wbuf = [] → s.Ready x u → s.me.priv = false → s.me.ctx.loops.length < 6 → trip ≠ 0 →
    exec i s = .next (s.modMe fun k =>
      { k with
        ctx := { k.ctx with loops := k.ctx.loops ++ [{ start := k.bun.next, stop := stop, trip := trip, idx := 0 }] }
        bun := { k.bun with pushed := true } })

/-- R150, R151, R153: `loop` and `loopx` with a trip count of 0, and `brk`, continue after the end bundle, whose words they fetch; a
`brk` also pops the innermost level. The next bundle issues 2 or 3 clocks later. -/
def Sys2Proof.Claims.LoopSkippedOrBroken : Prop :=
  (∀ (i : Instr) (s : State) (x : Lent) (u : Uses) (stop : W64) (ws : List (BitVec 32)), loopRow s i = some (x, u, 0, stop) →
    i.wf = true → s.dev.wbuf = [] → s.Ready x u → s.me.priv = false → s.me.ctx.loops.length < 6 →
    s.fetchBundle s.dev.cur.core stop.toNat = .words ws → stopped ws = true → stop.toNat % 4 = 0 →
    exec i s = .next (transferred s (stop + w64 (4 * ws.length)) 2)) ∧
  (∀ (s : State) (x : Lent) (l : LoopLevel) (ls : List LoopLevel) (ws : List (BitVec 32)), s.dev.wbuf = [] → s.Ready x Uses.none →
    s.me.priv = false → s.me.ctx.loops = ls ++ [l] → s.fetchBundle s.dev.cur.core l.stop.toNat = .words ws → stopped ws = true →
    l.stop.toNat % 4 = 0 →
    exec (.brk x) s = .next (transferred (s.modMe fun k => k.modCtx fun c => { c with loops := ls })
      (l.stop + w64 (4 * ws.length)) 3))

/-- R30, R153, R290: a seventh loop level, a `brk` with no level active, and `loop`, `loopx`, `brk` and `exit` at supervisor level raise
ILLEGAL_OPCODE; nothing is pushed or popped. -/
def Sys2Proof.Claims.IllegalLoopUse : Prop :=
  (∀ (i : Instr) (s : State) (x : Lent) (u : Uses) (trip : Nat) (stop : W64), loopRow s i = some (x, u, trip, stop) → i.wf = true →
    s.dev.wbuf = [] → s.Ready x u → (s.me.priv = true ∨ 6 ≤ s.me.ctx.loops.length) → exec i s = .next (illegal s)) ∧
  (∀ (s : State) (x : Lent), s.dev.wbuf = [] → s.Ready x Uses.none → (s.me.priv = true ∨ s.me.ctx.loops = []) →
    exec (.brk x) s = .next (illegal s)) ∧
  (∀ (s : State) (x : Lent), s.dev.wbuf = [] → s.Ready x Uses.none → s.me.priv = true → exec (.exit x) s = .next (illegal s))

/-- R30, R150, R151, R153: what `loop`, `loopx` and `brk` do, and when they raise ILLEGAL_OPCODE. -/
def Obligations.LoopInstructions : Prop :=
  Claims.LoopPushed ∧ Claims.LoopSkippedOrBroken ∧ Claims.IllegalLoopUse

/-- R31: at a bundle that pushes no level and takes no transfer, the loop stack is evaluated from its innermost level: the levels left
and the next bundle are those of the rule. -/
def Obligations.LoopBackEvaluation : Prop :=
  ∀ (k : Core) (ls : List LoopLevel) (t : Option W64), k.bun.pushed = false → LoopEval k.bun.base k.ctx.loops.reverse ls t →
    k.advance = k.modCtx fun c => { c with loops := ls.reverse, pc := t.getD k.bun.next }

/-- R32, R76, R155: `bsel` transfers to its entry of the table in the local store, 6 clocks after issue: the entry as the bundle found
it, which the core keeps where the bundle has stores, else as memory has it. A table that is not all in the local store traps with
DATA_UNMAPPED at its first byte outside. -/
def Sys2Proof.Claims.ScheduleSelected : Prop :=
  ∀ (s : State) (x : Lent) (a : SSrc) (base at_ : Nat) (t : W64), s.dev.wbuf = [] → s.Ready x (Uses.none.s a) →
    base = (s.src a).toNat / 8 * 8 → at_ = base + 8 * bucket s.me.ctx.occ.toNat s.me.ctx.draft.toNat →
    (rowSpan base 512 = .ls → (s.me.bun.entry = some t ∨
        (s.me.bun.entry = none ∧ Quiet s ∧ t = w64 (memNat s (lsPlace s at_) 8))) → t.toNat % 4 = 0 →
      exec (.bsel x a) s = .next (transferred s t 6)) ∧
    (rowSpan base 512 ≠ .ls → exec (.bsel x a) s =
      .next (trapped s 7 0x06 (BitVec.ofNat 64 (if rowOf base = .ls then 2 ^ 52 else base))))

/-- R32, R117, R147, R149, R150, R155: where jumps, calls, returns and `bsel` go, and when a jump traps. -/
def Obligations.JumpTaken : Prop :=
  Claims.JumpsToAlignedTargets ∧ Claims.MisalignedTargetTraps ∧ Claims.ScheduleSelected

/-- R27, R106, R119, R156, R157: `pause`, `exit` and the bundle header.
`pause`: with no clocks left of its hold (a count of 0, or one that has run down) it completes, with no effect; with clocks left its
bundle is held, without the freeze line. Each unfrozen clock takes one clock from what is left, a frozen one none. PAUSE_HOLD_ENDS:
when none are left, the bundle is held no more; otherwise nothing happens.
`exit` marks its bundle as the task's last.
A header without an overlay mark has no effect. One with a mark starts a copy, from its first line, of the segment that it names of the
executing image into the half that the bundle is not in; where a half has that segment, a copy is under way, or there is no such segment
or image, the mark is counted as having no effect. -/
def Obligations.PauseExitAndHeader : Prop :=
  (∀ (s : State) (x : Lent) (cnt : PauseCount), (Instr.pause x cnt).wf = true → s.dev.wbuf = [] → s.Ready x (pauseUses cnt) →
    s.me.waiting.pause.getD (pauseCount s x cnt) = 0 → exec (.pause x cnt) s = .next s) ∧
  (∀ (s : State) (x : Lent) (cnt : PauseCount) (n : Nat), (Instr.pause x cnt).wf = true → s.dev.wbuf = [] → s.Ready x (pauseUses cnt) →
    s.me.waiting.pause.getD (pauseCount s x cnt) = n + 1 →
    exec (.pause x cnt) s = .next (s.modMe fun k =>
      { k with waiting := { k.waiting with pause := some (n + 1) }, bun := { k.bun with hold := some .pause } })) ∧
  (∀ (s : State) (c : CoreId) (b : Bool),
    ((s.tick c b).core c).waiting.pause = (s.core c).waiting.pause.map (· - 1) ∧
    ((s.frozenTick c b).core c).waiting.pause = (s.core c).waiting.pause) ∧
  (∀ s : State, s.dev.wbuf = [] → s.me.waiting.pause = some 0 → s.me.bun.hold = some .pause →
    exec .pauseHoldEnds s = .next (s.modMe fun k => { k with bun := { k.bun with hold := none } })) ∧
  (∀ s : State, s.dev.wbuf = [] → (s.me.waiting.pause ≠ some 0 ∨ s.me.bun.hold ≠ some .pause) → exec .pauseHoldEnds s = .next s) ∧
  (∀ (s : State) (x : Lent), s.dev.wbuf = [] → s.Ready x Uses.none → s.me.priv = false →
    exec (.exit x) s = .next (s.modMe fun k => { k with bun := { k.bun with exiting := true } })) ∧
  (∀ (s : State) (e0 e1 e2 : BitVec 8), s.dev.wbuf = [] → exec (.nop false e0 e1 e2) s = .next s) ∧
  (∀ (s : State) (e0 e1 e2 : BitVec 8), s.dev.wbuf = [] →
    s.me.imem.find (s.coreImages s.dev.cur.core) s.me.bun.base.toNat = none → exec (.nop true e0 e1 e2) s = .next (markCounted s)) ∧
  (∀ (s : State) (e0 e1 e2 : BitVec 8) (h : Fin 2) (x : Half) (seg : Option (Nat × Nat)), s.dev.wbuf = [] →
    s.me.imem.find (s.coreImages s.dev.cur.core) s.me.bun.base.toNat = some (h, x) →
    seg = (((s.coreImages s.dev.cur.core).find? fun i => i.id == x.image).bind fun i => i.segs[e2.toNat]?) →
    (seg = none → exec (.nop true e0 e1 e2) s = .next (markCounted s)) ∧
    (∀ addr len, seg = some (addr, len) →
      (s.me.imem.copy.isSome = true ∨ (∃ g y, s.me.imem.halves.get g = some y ∧ y.image = x.image ∧ y.seg = e2.toNat) →
        exec (.nop true e0 e1 e2) s = .next (markCounted s)) ∧
      (s.me.imem.copy = none → (∀ g y, s.me.imem.halves.get g = some y → y.image = x.image → y.seg ≠ e2.toNat) →
        exec (.nop true e0 e1 e2) s = .next (s.modMe fun k => { k with imem := { k.imem with
          halves := k.imem.halves.set (1 - h).val
            (some { image := x.image, seg := e2.toNat, addr := addr, len := len, have_ := 0, bad := 0 }) (1 - h).isLt
          copy := some { half := 1 - h, line := 0, left := (len + 63) / 64 } } }))))

namespace Sys2Proof.Claims

/-- The state in which a vector instruction computes: every read stream that its sources name has given up one entry (R183). -/
def popped (s : State) (u : Uses) : State := if u.vs.isEmpty then s else s.modMe fun k => k.popStreams u

/-- What a vector instruction reads and writes: lent byte, operands, width, destination, latency, and its result from the state in
which it computes. -/
structure VecOut where
  x : Lent
  u : Uses
  wd : Width
  d : VDst
  lat : Nat
  val : State → V1024

/-- Elements per register of a width (R158). -/
def lanes (wd : Width) (w : Nat) : Nat := wd.bits / w

/-- Two sources, lane by lane (R162). -/
def vec2 (x : Lent) (wd : Width) (et : BitVec 1) (d : VDst) (a b : VSrc) (lat : Nat) (f : Arith → Nat → Nat → Nat) : Option VecOut :=
  some { x := x, u := ((Uses.none.v a).v b).d d, wd := wd, d := d, lat := lat, val := fun s =>
    let w := tyBits (x.ty et)
    packEls w (List.zipWith (f (s.arith x et)) (elems w (lanes wd w) (s.me.vsrc a)) (elems w (lanes wd w) (s.me.vsrc b))) }

/-- Two sources and the destination (R163, R164). -/
def vec3 (x : Lent) (wd : Width) (et : BitVec 1) (d : VDst) (a b : VSrc) (f : Arith → V1024 → V1024 → V1024 → V1024) :
    Option VecOut :=
  some { x := x, u := ((Uses.none.v a).v b).dv d, wd := wd, d := d, lat := 4,
         val := fun s => f (s.arith x et) (s.me.vreg d.r) (s.me.vsrc a) (s.me.vsrc b) }

/-- One source (R162, R171, R177). -/
def vec1 (x : Lent) (wd : Width) (d : VDst) (a : VSrc) (lat : Nat) (f : State → V1024 → V1024) : Option VecOut :=
  some { x := x, u := (Uses.none.v a).d d, wd := wd, d := d, lat := lat, val := fun s => f s (s.me.vsrc a) }

/-- A function on each element of a type. -/
def eachEl (w w' : Nat) (wd : Width) (f : Nat → Nat) (v : V1024) : V1024 := packEls w' ((elems w (lanes wd w) v).map f)

/-- The special functions: one value in, one rounding (R177). -/
def special (x : Lent) (wd : Width) (d : VDst) (a : VSrc) (ty : BitVec 4) (f : FVal → FVal) : Option VecOut :=
  vec1 x wd d a 8 fun s v =>
    let q : Arith := { ty := ty, rnd := x.rnd.toNat, sat := false, fz := s.me.ctx.fz }
    eachEl (tyBits ty) (tyBits ty) wd (fun e => q.rounded (f (q.dec e))) v

/-- R162 to R177: the vector instructions whose one result is a vector. -/
def vecRow : Instr → Option VecOut
  | .vadd x wd _ et d a b => vec2 x wd et d a b 2 fun q => q.add
  | .vsub x wd _ et d a b => vec2 x wd et d a b 2 fun q => q.sub
  | .vmul x wd _ et d a b => vec2 x wd et d a b 4 fun q => q.mul
  | .vfma x wd _ et d a b => vec3 x wd et d a b (fmaLanes wd false)
  | .vfms x wd _ et d a b => vec3 x wd et d a b (fmaLanes wd true)
  | .vmin x wd _ et d a b => vec2 x wd et d a b 2 fun q => q.min
  | .vmax x wd _ et d a b => vec2 x wd et d a b 2 fun q => q.max
  | .vabs x wd _ et d a => vec1 x wd d a 2 fun s => eachEl (tyBits (x.ty et)) (tyBits (x.ty et)) wd (s.arith x et).abs
  | .vneg x wd _ et d a => vec1 x wd d a 2 fun s => eachEl (tyBits (x.ty et)) (tyBits (x.ty et)) wd (s.arith x et).negate
  | .vand x wd _ et d a b => vec2 x wd et d a b 2 fun _ a b => a &&& b
  | .vor x wd _ et d a b => vec2 x wd et d a b 2 fun _ a b => a ||| b
  | .vxor x wd _ et d a b => vec2 x wd et d a b 2 fun _ a b => a ^^^ b
  | .vshl x wd _ et d a b => vec2 x wd et d a b 2 fun q a b => shlW (tyBits q.ty) a (b % 256)
  | .vshr x wd _ et d a b => vec2 x wd et d a b 2 fun q a b => shrW (tyBits q.ty) a (b % 256)
  | .vsra x wd _ et d a b => vec2 x wd et d a b 2 fun q a b => sraW (tyBits q.ty) a (b % 256)
  | .vrot x wd _ et d a b => vec2 x wd et d a b 2 fun q a b => rotW (tyBits q.ty) a (b % 256)
  | .vsel x wd _ d a b =>
    some { x := x, u := ((Uses.none.v a).v b).d d, wd := wd, d := d, lat := 2,
           val := fun s => selBytes wd (s.me.ctx.m.get x.etx.toFin) (s.me.vsrc a) (s.me.vsrc b) }
  | .vmac16 x wd _ et d a b => vec3 x wd et d a b (dotLanes wd 2)
  | .vdot4 x wd _ et d a b => vec3 x wd et d a b (dotLanes wd 4)
  | .vsadd x wd _ et d a b => vec2 x wd et d a b 2 fun q => Arith.add { q with sat := true }
  | .vssub x wd _ et d a b => vec2 x wd et d a b 2 fun q => Arith.sub { q with sat := true }
  | .vred x wd _ et op d a => vec1 x wd d a 6 fun s v =>
    let w := tyBits (x.ty et)
    packEls w [reduce op (s.arith x et) (elems w (lanes wd w) v)]
  | .vperm x wd _ et d a b =>
    some { x := x, u := ((Uses.none.v a).v b).d d, wd := wd, d := d, lat := 2,
           val := fun s => permLanes (tyBits (x.ty et)) (lanes wd (tyBits (x.ty et))) (s.me.vsrc a) (s.me.vsrc b) }
  | .vbcst x wd _ et d a =>
    some { x := x, u := (Uses.none.r a).d d, wd := wd, d := d, lat := 2,
           val := fun s => packEls (tyBits (x.ty et)) (List.replicate (lanes wd (tyBits (x.ty et))) (s.sreg a).toNat) }
  | .vins x wd _ et d a idx =>
    some { x := x, u := (Uses.none.r a).dv d, wd := wd, d := d, lat := 2,
           val := fun s => packEls (tyBits (x.ty et))
             ((elems (tyBits (x.ty et)) (lanes wd (tyBits (x.ty et))) (s.me.vreg d.r)).set idx.toNat (s.sreg a).toNat) }
  | .vmov x wd _ d a => vec1 x wd d a 2 fun _ v => v
  | .vcvt x wd _ d a tgt src => vec1 x wd d a 3 fun s v =>
    packEls (tyBits tgt) ((elems (tyBits src) (lanes wd (max (tyBits src) (tyBits tgt))) v).map
      (convert x.rnd.toNat x.sat s.me.ctx.fz tgt src))
  | .vpack x wd _ form d a b =>
    some { x := x, u := ((Uses.none.v a).v b).d d, wd := wd, d := d, lat := 3,
           val := fun s => packLanes wd form x.sat (s.me.vsrc a) (s.me.vsrc b) }
  | .vunpk x wd _ form hi d a => vec1 x wd d a 3 fun _ v => unpackLanes wd form hi v
  | .vcvtq x wd _ d a tgt src => vec1 x wd d a 3 fun s => eachEl (tyBits src) (tyBits tgt) wd fun e =>
    quantize x.rnd.toNat (fieldNat s.me.ctx.qs 0 8) tgt ((fmtOf src).decodeFz s.me.ctx.fz e)
  | .vexp2 x wd _ d a ty => special x wd d a ty FVal.exp2
  | .vlog2 x wd _ d a ty => special x wd d a ty FVal.log2
  | .vrcp x wd _ d a ty => special x wd d a ty FVal.rcp
  | .vrsq x wd _ d a ty => special x wd d a ty FVal.rsqrt
  | .vtanh x wd _ d a ty => special x wd d a ty FVal.tanh
  | _ => none

/-- The vector result of a row: to its register's low bits unless N = 1, and to the latch of its slot (R111, R112, R158). -/
def vecDue (s : State) (lat : Nat) (wd : Width) (d : VDst) (v : V1024) : Flight :=
  s.due lat (if d.n then .none else .v d.r wd) true (lowBits wd.bits v)

/-- Lane `i` of `w` bits of a register. -/
def lane (w i : Nat) (v : V1024) : BitVec w := v.extractLsb' (w * i) w

/-- R129's operations on lanes of `w` bits, for the integer instructions that wrap (R162, R53, R39). -/
def laneOp (signed : Bool) (w : Nat) (a b : BitVec w) : Instr → Option (BitVec w)
  | .vadd .. => some (a + b)
  | .vsub .. => some (a - b)
  | .vmul .. => some (a * b)
  | .vand .. => some (a &&& b)
  | .vor .. => some (a ||| b)
  | .vxor .. => some (a ^^^ b)
  | .vshl .. => some (a <<< (b.toNat % 256))
  | .vshr .. => some (a >>> (b.toNat % 256))
  | .vsra .. => some (a.sshiftRight (b.toNat % 256))
  | .vrot .. => some (a.rotateLeft (b.toNat % 256))
  | .vmin .. => some (if (if signed then a.slt b else a.ult b) then a else b)
  | .vmax .. => some (if (if signed then a.slt b else a.ult b) then b else a)
  | _ => none

/-- The integer type, the saturation bit and the sources of a two-source integer instruction of one type. -/
def laneArgs : Instr → Option (Lent × Width × BitVec 1 × VSrc × VSrc)
  | .vadd x wd _ et _ a b | .vsub x wd _ et _ a b | .vmul x wd _ et _ a b | .vand x wd _ et _ a b | .vor x wd _ et _ a b
  | .vxor x wd _ et _ a b | .vshl x wd _ et _ a b | .vshr x wd _ et _ a b | .vsra x wd _ et _ a b | .vrot x wd _ et _ a b
  | .vmin x wd _ et _ a b | .vmax x wd _ et _ a b => some (x, wd, et, a, b)
  | _ => none

/-- R184: of a state `t` after an instruction executed in `s`: the result reserves the next entry of a write stream's slot, with the
address that the pattern gives, and is in flight to it for `lat` clocks; no vector register and no byte of memory changes. -/
def Reserves (s t : State) (slot : BitVec 3) (st : StreamSlot) (lat : Nat) (val : V1024) : Prop :=
  (∃ e f, t.me.wents = s.me.wents ++ [e] ∧ e.slot = slot ∧ e.va = st.entryVa st.next ∧ e.len = st.entryBytes ∧ e.val = none ∧
    f ∈ t.me.flights ∧ f.dest = .wr slot e.place ∧ f.rem = lat ∧ f.val = val) ∧
  (t.me.ctx.streams.get slot.toFin).next = st.next + 1 ∧ t.me.ctx.v = s.me.ctx.v ∧ t.mem = s.mem

/-- R178: the sum of `vrpb`: each score of A plus the entry of the table that its distance names. -/
def biasSum (s t : State) (x : Lent) (wd : Width) (bidir : Bool) (a p : VSrc) : V1024 :=
  let par := elems 32 3 (t.me.vsrc p)
  let tab := (List.range 32).map fun i => memNat s (lsPlace s (Config.lsBase + nth par 2 0 / 128 * 128 + 4 * i)) 4
  packEls 32 ((elems 32 (lanes wd 32) (t.me.vsrc a)).zipIdx.map fun e =>
    ({ ty := 0, rnd := x.rnd.toNat, sat := false, fz := s.me.ctx.fz } : Arith).add e.1
      (nth tab (rpBucket bidir (sgn 32 (nth par 0 0) - (sgn 32 (nth par 1 0) + e.2))) 0))

/-- R175: the scale that `vmaxe` computes. -/
def scaleOf (t : State) (wd : Width) (a : VSrc) (tgt src : BitVec 4) : Nat :=
  blockScale tgt ((elems (tyBits src) (lanes wd (tyBits src)) (t.me.vsrc a)).map ((fmtOf src).decodeFz t.me.ctx.fz))

/-- R167: the operations of `vmsk`. -/
def maskResult (op : BitVec 3) (a b : BitVec 128) : BitVec 128 := match op.toNat with
  | 0 => a &&& b
  | 1 => a ||| b
  | 2 => a ^^^ b
  | 3 => a &&& ~~~b
  | 4 => ~~~a
  | 5 => BitVec.allOnes 128
  | _ => 0

end Sys2Proof.Claims

/-- R111, R158, R162 to R177: each of these vector instructions, into a register that is bound to no stream, pops the read streams it
names and issues one result of W bits for issue + its latency, to D unless N = 1, and to the latch. Nothing else changes. -/
def Obligations.VectorResult : Prop :=
  ∀ (i : Instr) (s : State) (r : VecOut), vecRow i = some r → i.wf = true → s.dev.wbuf = [] → s.Ready r.x r.u → s.Room →
    (r.d.n = true ∨ s.me.boundSlot r.d.r = none) →
    exec i s = .next ((popped s r.u).issues (vecDue (popped s r.u) r.lat r.wd r.d (r.val (popped s r.u))))

/-- R39, R53, R162: on an integer type without saturation, every lane of the result of these instructions is the operation on that
lane of A and B alone, modulo 2^w. -/
def Sys2Proof.Claims.IntegerLanes : Prop :=
  ∀ (i : Instr) (s : State) (r : VecOut) (x : Lent) (wd : Width) (et : BitVec 1) (a b : VSrc) (n : Nat), vecRow i = some r →
    laneArgs i = some (x, wd, et, a, b) → isI (x.ty et) = true → x.sat = false → n < lanes wd (tyBits (x.ty et)) →
    some (lane (tyBits (x.ty et)) n (r.val s)) =
      laneOp (isSigned (x.ty et)) _ (lane _ n (s.me.vsrc a)) (lane _ n (s.me.vsrc b)) i

/-- R166, R168: every byte of `vsel` is A's where the mask bit is set and B's where not; every element of `vperm` is the element of A
that B's element names, and 0 when it names none. -/
def Sys2Proof.Claims.SelectAndPermuteLanes : Prop :=
  (∀ (wd : Width) (m : BitVec 128) (a b : V1024) (j : Nat), j < wd.bits / 8 →
    lane 8 j (selBytes wd m a b) = if m.getLsbD j then lane 8 j a else lane 8 j b) ∧
  (∀ (w n : Nat) (a b : V1024) (j : Nat), 0 < w → w * n ≤ 1024 → j < n →
    lane w j (permLanes w n a b) = if (lane w j b).toNat < n then lane w (lane w j b).toNat a else 0)

/-- R39, R53, R162, R166, R168: what single lanes of integer operations, of `vsel` and of `vperm` hold. -/
def Obligations.LaneResults : Prop :=
  Claims.IntegerLanes ∧ Claims.SelectAndPermuteLanes

/-- R165, R167, R169, R175: the vector instructions with another destination: `vcmp` and `vmsk` issue a mask, `vext` one element into a
scalar register, `vmaxe` the scale of its block into D and into QS. Each has only these results and pops its streams. -/
def Sys2Proof.Claims.MaskScalarAndScaleResults : Prop :=
  (∀ (s t : State) (x : Lent) (wd : Width) (h : Bool) (et : BitVec 1) (c md : BitVec 3) (a b : VSrc) (w : Nat), s.dev.wbuf = [] →
    s.Ready x ((Uses.none.v a).v b) → s.Room → t = popped s ((Uses.none.v a).v b) → w = tyBits (x.ty et) →
    exec (.vcmp x wd h et c md a b) s = .next (t.issues (t.due 2 (.m md wd) false
      (BitVec.setWidth 1024 (maskOf (w / 8) (List.zipWith ((t.arith x et).cond c) (elems w (lanes wd w) (t.me.vsrc a))
        (elems w (lanes wd w) (t.me.vsrc b)))))))) ∧
  (∀ (s : State) (x : Lent) (wd : Width) (op md ma mb : BitVec 3), s.dev.wbuf = [] → s.Ready x Uses.none → s.Room →
    exec (.vmsk x wd op md ma mb) s = .next (s.issues (s.due 1 (.m md wd) false
      (BitVec.setWidth 1024 (maskResult op (s.me.ctx.m.get ma.toFin) (s.me.ctx.m.get mb.toFin)))))) ∧
  (∀ (s t : State) (x : Lent) (wd : Width) (h : Bool) (et : BitVec 1) (d : BitVec 6) (a : VSrc) (idx : BitVec 6) (w : Nat),
    s.dev.wbuf = [] → s.Ready x (Uses.none.v a) → s.Room → (Instr.vext x wd h et d a idx).wf = true → t = popped s (Uses.none.v a) →
    w = tyBits (x.ty et) →
    exec (.vext x wd h et d a idx) s = .next (t.issues (t.due 2 (.s d s.me.priv) false
      (BitVec.setWidth 1024 (if isSigned (x.ty et) then (lane w idx.toNat (t.me.vsrc a)).signExtend 64
        else (lane w idx.toNat (t.me.vsrc a)).setWidth 64))))) ∧
  (∀ (s t : State) (x : Lent) (wd : Width) (h : Bool) (d : VDst) (a : VSrc) (tgt src : BitVec 4) (e : Nat), s.dev.wbuf = [] →
    s.Ready x ((Uses.none.v a).d d) → RoomFor s 2 → s.live = true → (d.n = true ∨ s.me.boundSlot d.r = none) →
    t = popped s ((Uses.none.v a).d d) → e = scaleOf t wd a tgt src →
    exec (.vmaxe x wd h d a tgt src) s = .next ((t.issues (t.due 3 .qs false (BitVec.ofNat 1024 (e + tgt.toNat * 256)))).issues
      (vecDue t 3 wd d (BitVec.ofNat 1024 e))))

/-- R54, R178: `vrpb` adds to each score the entry of the table in the local store that its distance names; a table past the local
store raises DATA_UNMAPPED at its first byte. -/
def Sys2Proof.Claims.RelativePositionBias : Prop :=
  ∀ (s t : State) (x : Lent) (wd : Width) (h bidir : Bool) (d : VDst) (a p : VSrc) (off : Nat), s.dev.wbuf = [] →
    s.Ready x (((Uses.none.v a).v p).d d) → t = popped s (((Uses.none.v a).v p).d d) → off = nth (elems 32 3 (t.me.vsrc p)) 2 0 →
    (s.Room → Quiet s → (d.n = true ∨ s.me.boundSlot d.r = none) → off < 2 ^ 20 →
      exec (.vrpb x wd h bidir d a p) s = .next (t.issues (vecDue t 8 wd d (biasSum s t x wd bidir a p)))) ∧
    (2 ^ 20 ≤ off → exec (.vrpb x wd h bidir d a p) s = .next (trapped t 7 0x06 (w64 (Config.lsBase + off / 128 * 128))))

/-- R54, R165, R167, R169, R175, R178: the vector instructions whose result is not only a vector of their sources. -/
def Obligations.OtherVectorResults : Prop :=
  Claims.MaskScalarAndScaleResults ∧ Claims.RelativePositionBias

/-- R158: a result of W bits that lands in a vector or mask register replaces the bits of its width and keeps those above. -/
def Sys2Proof.Claims.PartialWidthLanding : Prop :=
  (∀ (k : Core) (r : BitVec 5) (wd : Width) (v : V1024) (n : Nat), n < 1024 →
    ((k.setV r wd v).ctx.v.get r.toFin).getLsbD n = if n < wd.bits then v.getLsbD n else (k.ctx.v.get r.toFin).getLsbD n) ∧
  (∀ (k : Core) (r q : BitVec 5) (wd : Width) (v : V1024), q ≠ r → (k.setV r wd v).ctx.v.get q.toFin = k.ctx.v.get q.toFin) ∧
  (∀ (k : Core) (r : BitVec 3) (wd : Width) (v : BitVec 128) (n : Nat), n < 128 →
    ((k.setM r wd v).ctx.m.get r.toFin).getLsbD n = if n < wd.bits / 8 then v.getLsbD n else (k.ctx.m.get r.toFin).getLsbD n)

/-- R12, R111, R158, R290: what a write of a register leaves in every register: scalar, predicate, vector and mask, at both levels. -/
def Obligations.RegisterFiles : Prop :=
  Claims.RegisterReadAfterWrite ∧ Claims.SupervisorBank ∧ Claims.PartialWidthLanding

/-- R183: a bundle's first syllable that names a read-bound register takes the oldest entry of its FIFO, once however often it names
it, and reads that entry. -/
def Sys2Proof.Claims.ReadStreamPops : Prop :=
  ∀ (k : Core) (u : Uses) (r : BitVec 5) (slot : BitVec 3) (st : StreamSlot) (e : FifoEnt) (es : List FifoEnt),
    k.boundSlot r = some (slot, st) → st.dir = false → st.fifo = e :: es → r ∈ u.vs → k.bun.pops = [] →
    ((k.popStreams u).ctx.streams.get slot.toFin).fifo = es ∧ (k.popStreams u).vreg r = e.val

/-- R184: a result bound for a write stream reserves the next entry of the stream when its instruction issues, with the address that
the pattern gives: of the instructions of one vector result, of `vmaxe`, and of `vrpb`. -/
def Sys2Proof.Claims.WriteStreamReserves : Prop :=
  (∀ (i : Instr) (s : State) (r : VecOut) (slot : BitVec 3) (st : StreamSlot), vecRow i = some r → i.wf = true → s.dev.wbuf = [] →
    s.Ready r.x r.u → s.Room → r.d.n = false → s.me.boundSlot r.d.r = some (slot, st) → st.dir = true →
    Gives i s fun t => Reserves s t slot st r.lat (lowBits r.wd.bits (r.val (popped s r.u)))) ∧
  (∀ (s t0 : State) (x : Lent) (wd : Width) (h : Bool) (d : VDst) (a : VSrc) (tgt src : BitVec 4) (slot : BitVec 3) (st : StreamSlot),
    s.dev.wbuf = [] → s.Ready x ((Uses.none.v a).d d) → RoomFor s 2 → s.live = true → d.n = false →
    s.me.boundSlot d.r = some (slot, st) → st.dir = true → t0 = popped s ((Uses.none.v a).d d) →
    Gives (.vmaxe x wd h d a tgt src) s fun t =>
      Reserves s t slot st 3 (lowBits wd.bits (BitVec.ofNat 1024 (scaleOf t0 wd a tgt src))) ∧
      t0.due 3 .qs false (BitVec.ofNat 1024 (scaleOf t0 wd a tgt src + tgt.toNat * 256)) ∈ t.me.flights) ∧
  (∀ (s t0 : State) (x : Lent) (wd : Width) (h bidir : Bool) (d : VDst) (a p : VSrc) (slot : BitVec 3) (st : StreamSlot),
    s.dev.wbuf = [] → s.Ready x (((Uses.none.v a).v p).d d) → s.Room → Quiet s → d.n = false →
    s.me.boundSlot d.r = some (slot, st) → st.dir = true → t0 = popped s (((Uses.none.v a).v p).d d) →
    nth (elems 32 3 (t0.me.vsrc p)) 2 0 < 2 ^ 20 →
    Gives (.vrpb x wd h bidir d a p) s fun t => Reserves s t slot st 8 (lowBits wd.bits (biasSum s t0 x wd bidir a p)))

/-- R182, R184: when its result lands, the reserved entry holds it. -/
def Sys2Proof.Claims.WriteStreamFills : Prop :=
  ∀ (k : Core) (f : Flight) (slot : BitVec 3) (place : Nat), f.dest = .wr slot place →
    (k.landDest f).wents = k.wents.map fun e => if e.slot = slot ∧ e.place = place then { e with val := some f.val } else e

/-- R182 to R184: registers bound to streams: a read pops, a write reserves an entry and fills it when it lands. -/
def Obligations.StreamRegisters : Prop :=
  Claims.ReadStreamPops ∧ Claims.WriteStreamReserves ∧ Claims.WriteStreamFills

namespace Sys2Proof.Claims

/-- The addresses of a strided access (R180). -/
def strideAddrs (base stride : W64) (n : Nat) : List Nat := (List.range n).map fun i => (base + BitVec.ofNat 64 i * stride).toNat

/-- A vector address: base plus 32 times a signed offset, which IX does not extend (R179). -/
def vecEa {w : Nat} (s : State) (a : BitVec 6) (off : BitVec w) : Nat := (s.sreg a + off.signExtend 64 * 32).toNat

/-- R179, R180: what a vector load reads: lent byte, operands, width, class, destination, and its runs of bytes in order. -/
def vloadRow (s : State) : Instr → Option (Lent × Uses × Width × BitVec 2 × BitVec 5 × List (Nat × Nat))
  | .vld x wd lc d a off =>
    some (x, (Uses.none.r a).d { n := false, r := d }, wd, lc, d, [(vecEa s a off, wd.bits / 8)])
  | .vlds x wd lc d a b es =>
    some (x, ((Uses.none.r a).r b).d { n := false, r := d }, wd, lc, d,
      (strideAddrs (s.sreg a) (s.sreg b) (lanes wd (8 * 2 ^ es.toNat))).map fun e => (e, 2 ^ es.toNat))
  | _ => none

/-- Byte `j` of a register. -/
def byteOf (v : V1024) (j : Nat) : Byte := v.extractLsb' (8 * j) 8

/-- R179, R180: what a vector store writes: lent byte, operands, the span that is checked, and the bytes with their addresses in the
order in which they are stored, from the state in which it executes. -/
def vstoreRow (s : State) : Instr → Option (Lent × Uses × List (Nat × Nat) × (State → List (Nat × Byte)))
  | .vst x wd vs a me m off =>
    some (x, (Uses.none.r a).v vs, [(vecEa s a off, wd.bits / 8)], fun t =>
      ((List.range (wd.bits / 8)).filter fun j => !me || (s.me.ctx.m.get m.toFin).getLsbD j).map fun j =>
        (vecEa s a off + j, byteOf (t.me.vsrc vs) j))
  | .vsts x wd vs a b es =>
    let els := (strideAddrs (s.sreg a) (s.sreg b) (lanes wd (8 * 2 ^ es.toNat)))
    some (x, ((Uses.none.r a).r b).v vs, els.map fun e => (e, 2 ^ es.toNat), fun t =>
      els.zipIdx.flatMap fun e => (List.range (2 ^ es.toNat)).map fun j =>
        (e.1 + j, byteOf (t.me.vsrc vs) (e.2 * 2 ^ es.toNat + j)))
  | _ => none

/-- What the TLBs of the acting core hold of the paged bytes of some runs permits the access (R329, R332). -/
abbrev TlbsServe (s : State) (acc : Acc) (els : List (Nat × Nat)) : Prop :=
  ∀ e ∈ s.me.utlb ++ s.dev.ctlb.toList.getD (clusterOf s.dev.cur.core) [] ++ s.dev.lltlb, ∀ x ∈ els, ∀ j ∈ List.range x.2,
    e.maps (s.coreTenant s.dev.cur.core) (x.1 + j) = true → s.leafServes (s.coreTenant s.dev.cur.core) e acc true = true

/-- The byte that a list of stores leaves at an address: that of the last one there, else the old one. -/
def lastByte (l : List (Nat × Byte)) (a : Nat) (old : Byte) : Byte := match (l.filter fun p => p.1 == a).getLast? with
  | some p => p.2
  | none => old

end Sys2Proof.Claims

/-- R179, R180: a vector load whose bytes all lie in the local store, with no other access outstanding and no memory error to come,
issues one result for issue + its class latency, to the register's low W bits and the latch: the bytes of memory in order. Nothing else
changes. -/
def Sys2Proof.Claims.LocalVectorLoad : Prop :=
  ∀ (i : Instr) (s : State) (x : Lent) (u : Uses) (wd : Width) (lc : BitVec 2) (d : BitVec 5) (els : List (Nat × Nat)),
    vloadRow s i = some (x, u, wd, lc, d, els) → i.wf = true → s.dev.wbuf = [] → s.Ready x u → s.Room → Quiet s →
    s.me.ecc = false → s.live = true → s.me.boundSlot d = none → (∀ e ∈ els, rowSpan e.1 e.2 = .ls) →
    Gives i s fun t =>
      s.due (classClocks lc) (.v d wd) true
        (BitVec.ofNat 1024 (leNat (els.flatMap fun e => (addrs (lsPlace s e.1) e.2).map s.mem.read))) ∈ t.me.flights ∧
      SameRegisters s t ∧ t.mem = s.mem

/-- R142, R143, R179, R180: loads from the local store give the bytes of memory. -/
def Obligations.LocalLoadResult : Prop :=
  Claims.LocalScalarLoad ∧ Claims.LocalVectorLoad

/-- R63, R179 to R181: a vector load from any row that passes the checks of issue, and meets no memory error, makes its access: its
result, or the entry that it reserves in a write stream, is in flight for issue + its class latency. No register and no byte of memory
changes. -/
def Sys2Proof.Claims.VectorLoadIssues : Prop :=
  ∀ (i : Instr) (s : State) (x : Lent) (u : Uses) (wd : Width) (lc : BitVec 2) (d : BitVec 5) (els : List (Nat × Nat)),
    vloadRow s i = some (x, u, wd, lc, d, els) → i.wf = true → s.dev.wbuf = [] → s.Ready x u → s.Room → s.live = true →
    s.me.ecc = false → NewNumbers s → (∀ e ∈ els, s.dataFault .read true e.1 e.2 = none ∧ NoEntryAhead s 0 e.1 e.2) →
      TlbsServe s .read els →
    Gives i s fun t =>
      (∃ f ∈ t.me.flights, f.rem = classClocks lc ∧ f.ord = s.me.bun.ord ∧ f.latch = s.me.bun.lat ∧
        match s.me.boundSlot d with
        | none => f.dest = .v d wd
        | some (slot, _) => ∃ e ∈ t.me.wents, e.slot = slot ∧ f.dest = .wr slot e.place) ∧
      SameRegisters s t ∧ t.mem = s.mem

/-- R63, R81, R140 to R146, R179 to R181, R240: loads from any row, prefetches and fences issue, and change no register and no byte of
memory. -/
def Obligations.AccessesIssue : Prop :=
  Claims.LoadIssues ∧ Claims.VectorLoadIssues ∧ Claims.PrefetchTranslatesOnly ∧ Claims.FenceIssuesLanding

/-- R179, R180: a vector store whose bytes all lie in the local store, with no other access outstanding, leaves at each address the
last of the bytes that it stores there, and every other byte and every register as it was. -/
def Sys2Proof.Claims.LocalVectorStore : Prop :=
  ∀ (i : Instr) (s t0 : State) (x : Lent) (u : Uses) (span : List (Nat × Nat)) (bs : State → List (Nat × Byte)),
    vstoreRow s i = some (x, u, span, bs) → i.wf = true → s.dev.wbuf = [] → s.mem.wf = true → s.Ready x u → Quiet s →
    t0 = popped s u → (∀ e ∈ span, rowSpan e.1 e.2 = .ls ∧ s.zoneAt e.1 e.2 = none) →
    Gives i s fun t =>
      (∀ a, rowOf a = .ls → t.mem.read (lsPlace s a) = lastByte (bs t0) a (s.mem.read (lsPlace s a))) ∧
      SameBytes s t ((bs t0).map fun p => lsPlace s p.1) ∧ SameRegisters s t

/-- R142, R143, R179, R180: stores to the local store put their bytes there and change nothing else. -/
def Obligations.LocalStoreEffect : Prop :=
  Claims.LocalScalarStore ∧ Claims.LocalVectorStore

/-- R179 to R181: a vector store to any row that passes the checks of issue: memory changes, if at all, only at the local bytes among
those that the instruction stores to, and no register changes. -/
def Sys2Proof.Claims.VectorStoreFrame : Prop :=
  ∀ (i : Instr) (s t0 : State) (x : Lent) (u : Uses) (span : List (Nat × Nat)) (bs : State → List (Nat × Byte)),
    vstoreRow s i = some (x, u, span, bs) → i.wf = true → s.dev.wbuf = [] → s.mem.wf = true → s.Ready x u → t0 = popped s u →
    NewNumbers s → (∀ e ∈ span, s.storeFault e.1 e.2 = none ∧ NoEntryAhead s 3 e.1 e.2) → TlbsServe s .write span →
    Gives i s fun t => SameBytes s t (localPlaces s ((bs t0).map fun p => (p.1, 1))) ∧ SameRegisters s t

/-- R142, R143, R179 to R181: a store to any row changes no byte of memory but those that it stores to, and no register. -/
def Obligations.StoreFrame : Prop :=
  Claims.ScalarStoreFrame ∧ Claims.VectorStoreFrame

/-- R302: at user level, with 64 results in flight, an instruction that would issue one more traps with ILLEGAL_OPCODE and issues
nothing: a predicate, the predicate file, a division beside what it drops (R132), a load or an atomic that no other check refuses, a
vector of whatever destination, a mask, an element, and a scale. -/
def Sys2Proof.Claims.OtherResultsTrap : Prop :=
  ∀ (i : Instr) (s : State) (n : Nat), i.wf = true → s.dev.wbuf = [] → s.me.priv = false → n = s.me.inFlight →
    ((∃ x u p b, predRow s i = some (x, u, p, b) ∧ s.Ready x u ∧ 64 ≤ n) ∨
      (∃ x a, i = .pmovTo x a ∧ s.me.run = .running ∧ s.Ready x (Uses.none.s a) ∧ 64 < n + 15) ∨
      (∃ x d a b v, divRow s i = some (x, d, a, b, v) ∧ s.Ready x ((Uses.none.s a).s b) ∧ 64 ≤ (dividerFreed s).me.inFlight) ∨
      (∃ x a size sx lc d ea, loadRow s i = some (x, a, size, sx, lc, d, ea) ∧ s.Ready x (Uses.none.r a) ∧
        s.dataFault .read true ea size = none ∧ 64 ≤ n) ∨
      (∃ r, atomicRow s i = some r ∧ s.Ready r.x r.u ∧ rowSpan r.ea r.size = .ls ∧ s.live = true ∧
        64 < n + (if r.size = 16 then 2 else 1)) ∨
      (∃ x u wd lc d els, vloadRow s i = some (x, u, wd, lc, d, els) ∧ s.Ready x u ∧
        (∀ e ∈ els, s.dataFault .read true e.1 e.2 = none) ∧ 64 ≤ n) ∨
      (∃ r, vecRow i = some r ∧ s.Ready r.x r.u ∧ 64 ≤ n) ∨
      (∃ x wd h et c md a b, i = .vcmp x wd h et c md a b ∧ s.Ready x ((Uses.none.v a).v b) ∧ 64 ≤ n) ∨
      (∃ x wd op md ma mb, i = .vmsk x wd op md ma mb ∧ s.Ready x Uses.none ∧ 64 ≤ n) ∨
      (∃ x wd h et d a idx, i = .vext x wd h et d a idx ∧ s.Ready x (Uses.none.v a) ∧ 64 ≤ n) ∨
      (∃ x wd h d a tgt src, i = .vmaxe x wd h d a tgt src ∧ s.Ready x ((Uses.none.v a).d d) ∧ s.live = true ∧ 64 < n + 2) ∨
      (∃ x wd h bidir d a p, i = .vrpb x wd h bidir d a p ∧ s.Ready x (((Uses.none.v a).v p).d d) ∧
        nth (elems 32 3 ((popped s (((Uses.none.v a).v p).d d)).me.vsrc p)) 2 0 < 2 ^ 20 ∧ 64 ≤ n)) →
    Traps i s 0x02 s.me.bun.addr

/-- R16, R18, R104, R141, R302: the traps and the hold of issue: a stale latch, a pending token, a 65th result, an unmapped access. -/
def Obligations.IssueTraps : Prop :=
  Claims.StaleLatchTraps ∧ Claims.PendingTokenHolds ∧ Claims.SixtyFifthResultTraps ∧ Claims.UnmappedAccessTraps ∧ Claims.OtherResultsTrap

namespace Sys2Proof.Claims

/-- The state with the issue-side copies of the matrix unit brought up to date (R191). -/
def synced (s : State) : State := s.modMe Core.syncSh

/-- A matrix syllable beside `mmap`: lent byte, operands, whether it names a tile, latch or routine, and the values of its scalar
and vector operands. -/
structure MatOut where
  x : Lent
  u : Uses
  owned : Bool
  a : W64
  b : W64
  v : V1024
deriving DecidableEq, Repr

/-- A matrix syllable with at most one scalar operand. -/
def mat1 (s : State) (x : Lent) (owned : Bool) (a : Option (BitVec 6)) : Option MatOut := match a with
  | some r => some { x := x, u := Uses.none.r r, owned := owned, a := s.sreg r, b := 0, v := 0 }
  | none => some { x := x, u := Uses.none, owned := owned, a := 0, b := 0, v := 0 }

/-- R193: what each matrix syllable reads at issue. -/
def matRow (s : State) : Instr → Option MatOut
  | .tcfg x _ _ _ _ | .tcfgOff x _ | .tzero x _ _ _ | .trowrd x _ _ _ _ | .tcolrd x _ _ _ _ | .mcall x _ => mat1 s x true none
  | .ringpop x _ _ _ | .ringpush x _ _ _ => mat1 s x false none
  | .mma x _ _ _ _ _ a _ | .mlatch x _ _ a | .mscl x _ a | .mdrain x _ _ _ a => mat1 s x true (some a)
  | .mpset x _ a | .mpload x _ _ a => mat1 s x false (some a)
  | .ringcfg x _ a b => some { x := x, u := (Uses.none.r a).r b, owned := false, a := s.sreg a, b := s.sreg b, v := 0 }
  | .trowmv x _ _ _ va =>
    some { x := x, u := match va with | .v _ => Uses.none | .y n => Uses.none.v (.y n), owned := true, a := 0, b := 0,
           v := s.me.vsrc va }
  | _ => none

/-- Does an `mcall` name a routine that the store holds (R205, R207)? True of every other syllable. -/
def routineThere (s : State) : Instr → Prop
  | .mcall _ idx => (s.routine s.dev.cur.core idx.toNat).isSome = true
  | _ => True

/-- The register in which a matrix syllable's result lands. -/
def matResult (s : State) : Instr → Option FDest
  | .trowrd _ _ _ _ vd | .tcolrd _ _ _ _ vd => some (.v vd .w1024)
  | .ringpop _ _ d _ | .ringpush _ _ d _ => some (.s d s.me.priv)
  | _ => none

/-- The state after a trap of check 7 with a code, at the syllable's address. -/
def trappedHere (s : State) (code : Nat) : State := trapped s 7 code s.me.bun.addr

/-- An effect that lands at issue + 1 and is no result (R13, R235). -/
def effectDue (s : State) (dest : FDest) (v : V1024) : Flight := { s.due 1 dest false v with counts := false }

/-- TOKSTAT once an outcome has landed in it: bit 0 (BROKEN) or bit 1 (PABORT) is the outcome, and a bad one writes RES [13:8] and
RKIND [14] (R14). -/
def outcomeWord (w : W64) (pabort bad : Bool) (res : BitVec 6) (kind : Bool) : W64 :=
  let bit : W64 := if pabort then 2 else 1
  if bad then (w &&& ~~~(0x7F00#64 ||| bit)) ||| bit ||| res.setWidth 64 <<< 8 ||| (if kind then 0x4000 else 0) else w &&& ~~~bit

/-- R14: the outcome of a `barw`, `step` or `mmap` is due at issue + 1 in p15 and in its own fields of TOKSTAT. -/
def OutcomeDue (s t : State) (pabort bad : Bool) (res : BitVec 6) (kind : Bool) : Prop :=
  s.due 1 (.p 15 s.me.priv) false (if bad then 1 else 0) ∈ t.me.flights ∧
  effectDue s (.outcome pabort bad res kind) 0 ∈ t.me.flights ∧
  ∀ k : Core, (k.landDest (effectDue s (.outcome pabort bad res kind) 0)).ctx.tokstat = outcomeWord k.ctx.tokstat pabort bad res kind

/-- The queued command of a syllable. -/
def cmdOf (s : State) (i : Instr) (a b : W64) (v : V1024) (peer : Option Peer) : MCmd :=
  { instr := i, a := a, b := b, v := v, issue := s.me.clk.unf, micro := false, peer := peer }

/-- The tile that a syllable needs configured (R191, row 3). -/
def namedTile : Instr → Option (BitVec 3)
  | .tzero _ t _ _ | .mma _ t _ _ _ _ _ _ | .mmap _ t _ _ _ _ _ _ | .mdrain _ t _ _ _ => some t
  | _ => none

/-- Bytes of tile row `row` of the acting core. -/
def rowPlaces (s : State) (t : BitVec 3) (row n : Nat) : List Nat := addrs (tileAddr s.dev.cur.core t.toNat (512 * row)) (512 * n)

/-- TCFG as `tcfg` leaves it (R189, R194). -/
def tileShape (rowsm1 colsm1 : BitVec 7) (int : Bool) : BitVec 32 :=
  0#12 ++ 3#2 ++ (if int then 1#2 else 0#2) ++ 0#1 ++ colsm1 ++ 0#1 ++ rowsm1

/-- A finite value as a rational number. -/
def valueOf : FVal → ℚ
  | .fin n m e => (if n then -1 else 1) * (m : ℚ) * (2 : ℚ) ^ e
  | _ => 0

/-- Is the value finite? -/
def isFinite : FVal → Prop
  | .fin .. => True
  | _ => False

/-- The task of the acting core has completed one more `mmap` (R202). -/
abbrev PairCounted (s t : State) : Prop :=
  ∀ k ∈ s.dev.tasks, (if s.me.task = some k.id then { k with pairs := k.pairs + 1 } else k) ∈ t.dev.tasks

/-- Does a micro-step have a result in a vector register (R195)? -/
def stepResult : Instr → Bool
  | .trowrd .. | .tcolrd .. => true
  | _ => false

/-- A routine has ended at a failing step, which is pending as a late error; its SCAUSE is the code with IMPRECISE (bit 9) set (R207,
R297). -/
abbrev RoutineFailed (s t : State) (code : Nat) : Prop :=
  t.me.mpRun = false ∧ t.me.mat.queue = s.me.mat.queue ∧
    (∃ e, t.me.ctx.lates = s.me.ctx.lates ++ [e] ∧ e.scause = w64 (code + 0x200)) ∧ t.mem = s.mem

end Sys2Proof.Claims

/-- R190, R191: a matrix syllable that passes the checks becomes the last command of the queue, with the operand values of its issue
clock; one with a result has it in flight from now on. No register, no byte of memory and no started command changes. -/
def Sys2Proof.Claims.MatrixCommandQueued : Prop :=
  ∀ (i : Instr) (s : State) (r : MatOut), matRow s i = some r → i.wf = true → s.dev.wbuf = [] → s.Ready r.x r.u → s.Room →
    s.live = true → (r.owned = true → s.me.ownsTiles = true) → s.me.matPending < 8 → s.me.routineActive = false →
    (synced s).me.matFault i r.a r.b = none → routineThere s i →
    Gives i s fun t =>
      t.me.mat.queue = s.me.mat.queue ++ [cmdOf s i r.a r.b r.v none] ∧ t.me.mat.running = s.me.mat.running ∧
        t.me.mat.tcfg = s.me.mat.tcfg ∧ t.me.mat.tag = s.me.mat.tag ∧ t.me.mat.scale = s.me.mat.scale ∧
        (∀ d, matResult s i = some d → ∃ f ∈ t.me.flights, f.dest = d ∧ f.ord = s.me.bun.ord ∧ f.latch = none) ∧
        (matResult s i = none → t.me.flights = s.me.flights) ∧ SameRegisters s t ∧ t.mem = s.mem

/-- R191: the first failing row traps, and no command is made: TILE_OWNER before a full queue or an active routine (ILLEGAL_OPCODE),
those before TILE_UNCONFIG, and all before the syllable's other faults. -/
def Sys2Proof.Claims.MatrixChecksInOrder : Prop :=
  ∀ (i : Instr) (s : State) (r : MatOut), matRow s i = some r → i.wf = true → s.dev.wbuf = [] → s.Ready r.x r.u →
    (r.owned = true → s.me.ownsTiles = false → exec i s = .next (trappedHere (synced s) 0x0B)) ∧
    ((r.owned = true → s.me.ownsTiles = true) → (8 ≤ s.me.matPending ∨ s.me.routineActive = true) →
      exec i s = .next (trappedHere (synced s) 0x02)) ∧
    ((r.owned = true → s.me.ownsTiles = true) → s.me.matPending < 8 → s.me.routineActive = false →
      (∀ t, namedTile i = some t → tcOn ((synced s).me.shTile t) = false → exec i s = .next (trappedHere (synced s) 0x0A)) ∧
      (∀ code, (∀ x n, i ≠ .mcall x n) → (synced s).me.matFault i r.a r.b = some code →
        exec i s = .next (trappedHere (synced s) code)))

/-- R190, R191: a matrix syllable makes its command, or the first check that fails traps. -/
def Obligations.MatrixSyllables : Prop :=
  Claims.MatrixCommandQueued ∧ Claims.MatrixChecksInOrder

/-- R202, R203: an `mmap` posts its half once every command before it has completed, and is held under the freeze line; until then its
bundle waits with the queue going on (the model's reading, log 65). Once its pair has issued, it makes its command with the partner's
half, and TOKSTAT.PABORT and p15 become 0; once it has aborted, it makes none, and TOKSTAT names the tile with PABORT and p15 1. -/
def Sys2Proof.Claims.PairedPass : Prop :=
  ∀ (s : State) (x : Lent) (t : BitVec 3) (k ring : BitVec 2) (fa fb : BitVec 3) (a : BitVec 6) (sat : Bool),
    (Instr.mmap x t k ring fa fb a sat).wf = true → s.dev.wbuf = [] → s.Ready x (Uses.none.r a) → s.Room → s.live = true →
    s.me.ownsTiles = true → s.me.matPending < 8 → s.me.routineActive = false →
    (synced s).me.matFault (.mmap x t k ring fa fb a sat) (s.sreg a) 0 = none →
    (s.me.mat.pairEnd = none → s.me.mat.posted = none → (s.me.mat.queue ≠ [] ∨ ∃ r ∈ s.me.mat.running, s.me.clk.unf < r.finish) →
      Gives (.mmap x t k ring fa fb a sat) s fun u => u.me.mat.posted = none ∧ u.me.bun.hold = some .queueEmpties ∧
        u.me.mat.queue = s.me.mat.queue ∧ SameRegisters s u ∧ u.mem = s.mem) ∧
    (s.me.mat.pairEnd = none → s.me.mat.posted = none → s.me.mat.queue = [] → (∀ r ∈ s.me.mat.running, r.finish ≤ s.me.clk.unf) →
      Gives (.mmap x t k ring fa fb a sat) s fun u =>
        u.me.mat.posted = some { cmd := cmdOf s (.mmap x t k ring fa fb a sat) (s.sreg a) 0 0 none, waited := 0, lost := false } ∧
          u.me.bun.hold = some .partner ∧ u.me.mat.queue = s.me.mat.queue ∧ SameRegisters s u ∧ u.mem = s.mem) ∧
    (∀ p, s.me.mat.pairEnd = some (.issue p) → Gives (.mmap x t k ring fa fb a sat) s fun u =>
      u.me.mat.queue = s.me.mat.queue ++ [cmdOf s (.mmap x t k ring fa fb a sat) (s.sreg a) 0 0 (some p)] ∧
        u.me.mat.posted = none ∧ u.me.mat.pairEnd = none ∧ OutcomeDue s u true false 0 false ∧ PairCounted s u ∧
        SameRegisters s u ∧ u.mem = s.mem) ∧
    (s.me.mat.pairEnd = some .abort → Gives (.mmap x t k ring fa fb a sat) s fun u =>
      u.me.mat.queue = s.me.mat.queue ∧ u.me.mat.posted = none ∧ u.me.mat.pairEnd = none ∧
        OutcomeDue s u true true (t.setWidth 6) false ∧ PairCounted s u ∧ SameRegisters s u ∧ u.mem = s.mem)

/-- R202, R203: PAIR_ISSUE gives each of two posted, agreeing halves of one cohort the other, unless one has waited 4,096 clocks;
PAIR_ABORT ends a half that has waited so long, both halves that disagree, and a half that has lost its partner. A half that waits loses
it when a task of its cohort faults on the partner core, by anything but a pre-emption, a request of the dispatcher or a `syscall`. -/
def Sys2Proof.Claims.PairEvents : Prop :=
  ∀ (s : State) (c p : CoreId) (a : Posted), s.dev.wbuf = [] → s.dev.cur.core = c → p = partnerOf c → (s.core c).waitingHalf = some a →
    (∀ b, (s.core p).waitingHalf = some b → s.pairable c p = true → a.cmd.agrees b.cmd = true →
      a.waited < 4096 → b.waited < 4096 → a.lost = false → b.lost = false → Gives .pairIssue s fun t => (t.core c).mat.pairEnd =
        some (.issue (s.peerOf p b.cmd)) ∧
        (t.core p).mat.pairEnd = some (.issue (s.peerOf c a.cmd)) ∧ t.mem = s.mem) ∧
    (∀ b, (s.core p).waitingHalf = some b → s.pairable c p = true → a.cmd.agrees b.cmd = false → a.waited < 4096 →
      a.lost = false → Gives .pairAbort s fun t => (t.core c).mat.pairEnd = some .abort ∧ (t.core p).mat.pairEnd = some .abort ∧
        t.mem = s.mem) ∧
    ((4096 ≤ a.waited ∨ a.lost = true) →
      Gives .pairAbort s fun t => (t.core c).mat.pairEnd = some .abort ∧ t.core p = s.core p ∧ t.mem = s.mem) ∧
    (∀ k m r, s.taskOf c = some k → s.taskOf p = some m → m.cohort = k.cohort → r.scause.getLsbD 8 = false →
      r.scause.setWidth 8 ≠ (0x13 : BitVec 8) → ((s.stopAt p r none).core c).mat.posted = some { a with lost := true })

/-- R202, R203: `mmap` and the events that join or abort its two halves. -/
def Obligations.PairedPasses : Prop :=
  Claims.PairedPass ∧ Claims.PairEvents

/-- R190: MATRIX_COMMAND_START starts the first command of the queue when it may start and the freeze line is not asserted: it leaves the
queue, its start clock is the core's, and a pass takes its ring word, its latch and its scale slot as they stand. R194, R197, R198,
R208: what a `tcfg`, `tcfg.off`, `tzero`, `mscl`, `mpset` or `ringcfg` (of SIZE 0 too) writes at its start, and the tag of an `mlatch`,
is then in place, and no other byte of memory has changed. -/
def Obligations.MatrixCommandStarts : Prop :=
  ∀ (s : State) (m : MCmd) (q : List MCmd), s.dev.wbuf = [] → s.mem.wf = true → s.me.run = .running → s.me.frozen = false →
    s.me.mat.queue = m :: q → s.me.mat.canStart m s.me.clk.unf = true → (∀ r ∈ s.me.mat.running, r.popsAt s.me.clk.unf = false) →
    Gives .matrixCommandStart s fun t =>
      t.me.mat.queue = q ∧ t.me.mat.lastStart = s.me.clk.unf ∧
      (∃ r, t.me.mat.running = s.me.mat.running ++ [r] ∧ r.cmd = m ∧ r.start = s.me.clk.unf ∧
        ∀ kk ring, m.sources = some (kk, ring) → r.ring = s.me.ctx.rings.get ring.toFin ∧ r.scales = s.me.mat.scale.get kk.toFin ∧
          r.latch = s.peeks (latchAddr s.dev.cur.core kk.toNat 0) 69632) ∧
      (∀ x n rows cols int, m.instr = .tcfg x n rows cols int →
        t.me.mat.tcfg.get n.toFin = tileShape rows cols int ∧ (∀ p ∈ rowPlaces s n 0 128, t.mem.read p = 0) ∧
          SameBytes s t (rowPlaces s n 0 128)) ∧
      (∀ x n row0 nm1, m.instr = .tzero x n row0 nm1 →
        (∀ p ∈ rowPlaces s n row0.toNat (nm1.toNat + 1), t.mem.read p = 0) ∧
          SameBytes s t (rowPlaces s n row0.toNat (nm1.toNat + 1))) ∧
      (∀ x n a, m.instr = .mscl x n a → t.me.mat.scale.get n.toFin = m.a.setWidth 32 ∧ t.mem = s.mem) ∧
      (∀ x n a, m.instr = .mpset x n a → n ≠ 7 → t.me.ctx.mp.get n.toFin = m.a ∧ t.mem = s.mem) ∧
      (∀ x n, m.instr = .tcfgOff x n →
        t.me.mat.tcfg.get n.toFin = s.me.mat.tcfg.get n.toFin &&& ~~~0x40000#32 ∧ t.mem = s.mem) ∧
      (∀ x n f a, m.instr = .mlatch x n f a → t.me.mat.tag.get n.toFin = some f ∧ t.me.sv.town.getLsbD (36 + n.toNat) = true ∧
        t.mem = s.mem) ∧
      (∀ x n a b, m.instr = .ringcfg x n a b → fieldNat m.b 0 12 = 0 →
        t.me.ctx.rings.get n.toFin = s.me.ctx.rings.get n.toFin &&& ~~~0xFFF00000000#64 ∧ t.mem = s.mem) ∧
      (∀ x n a b, m.instr = .ringcfg x n a b → fieldNat m.b 0 12 ≠ 0 →
        rCount (t.me.ctx.rings.get n.toFin) = 0 ∧ rSize (t.me.ctx.rings.get n.toFin) = fieldNat m.b 0 12 ∧
          rBase (t.me.ctx.rings.get n.toFin) = fieldNat m.a 0 20 ∧ t.mem = s.mem)

/-- R48: without the BF16 rule, the sum of a chain of finite products is their exact sum, in whatever order they come. -/
def Sys2Proof.Claims.ChainSumExact : Prop :=
  ∀ ps : List FVal, (∀ p ∈ ps, isFinite p) →
    ∃ n e, chainSum false ps = .fin n e ∧ (n : ℚ) * (2 : ℚ) ^ e = (ps.map valueOf).sum

/-- R51, R192, R201: the landing of a pass's row replaces each element of the tile row by the old one plus its chain, drained with the
scales of its row and column groups, and marks the tile dirty. -/
def Sys2Proof.Claims.PassRowLands : Prop :=
  ∀ (s : State) (c : CoreId) (clk ord row : Nat) (t : BitVec 3) (sums : List Chain) (asc : Byte) (bs : BitVec 32) (sat : Bool)
    (j : Nat) (e : Chain), s.dev.wbuf = [] → sums.length ≤ 128 → sums[j]? = some e →
    (s.matLandOne c { clk := clk, ord := ord, what := .drain t row sums asc bs false sat }).peekNat
        (tileAddr c t.toNat (512 * row + 4 * j)) 4 =
      (drainF (BitVec.ofNat 32 (s.peekNat (tileAddr c t.toNat (512 * row + 4 * j)) 4)) e asc.toNat
        (bs.extractLsb' (8 * (j / 32)) 8).toNat).toNat ∧
    (s.matLandOne c { clk := clk, ord := ord, what := .drain t row sums asc bs true sat }).peekNat
        (tileAddr c t.toNat (512 * row + 4 * j)) 4 =
      (drainI (BitVec.ofNat 32 (s.peekNat (tileAddr c t.toNat (512 * row + 4 * j)) 4)) e sat).toNat ∧
    ((s.matLandOne c { clk := clk, ord := ord, what := .drain t row sums asc bs false sat }).core c).mat.tcfg.get t.toFin =
      setBit ((s.core c).mat.tcfg.get t.toFin) 19 true

/-- R48, R51, R192, R201: chains sum exactly, and a pass replaces its rows by the drained chains. -/
def Obligations.PassArithmetic : Prop :=
  Claims.ChainSumExact ∧ Claims.PassRowLands

/-- R206, R207, R302: MICRO_STEP_FEED feeds the step at mp7.STEP when the sequencer may: its command is the last of the queue, issued
in the core's clock and read from the parameters as they stand. A step that fails a check is not fed: the routine ends, and its fault
is pending as a late error; the checks are, in order, the form of the step, TILE_OWNER, those of R191 and the 65th result. While the
unit has still to make the core's clock, or the freeze line is asserted, nothing is fed. -/
def Obligations.MicroStepFed : Prop :=
  ∀ (s : State) (k : Core) (w : W64), s.dev.wbuf = [] → k = s.me.syncSh →
    (s.me.frozen = true ∨ s.me.mat.settled s.me.clk.unf = false → exec .microStepFeed s = .next s) ∧
    (s.me.frozen = false → s.me.mat.settled s.me.clk.unf = true → k.canFeed = true → s.me.ctx.lates.length < 32 →
    w = w64 (s.peekNat (microAddr s.dev.cur.core (8 * fieldNat (k.ctx.mp.get 7) 32 10)) 8) →
    (∀ e, decodeSyllable (w.setWidth 32) 0 = .error e → Gives .microStepFeed s fun t => RoutineFailed s t 0x02) ∧
    (∀ i, decodeSyllable (w.setWidth 32) 0 = .ok i →
      (stepOwned i = true → k.ownsTiles = false → Gives .microStepFeed s fun t => RoutineFailed s t 0x0B) ∧
      ((stepOwned i = true → k.ownsTiles = true) →
        (∀ code, k.matFault i (k.mpVal (microFields i).1) (k.mpVal (microFields i).2) = some code →
          Gives .microStepFeed s fun t => RoutineFailed s t code) ∧
        (k.matFault i (k.mpVal (microFields i).1) (k.mpVal (microFields i).2) = none →
          (stepResult i = true → 64 ≤ k.inFlight → Gives .microStepFeed s fun t => RoutineFailed s t 0x02) ∧
          ((stepResult i = true → k.inFlight < 64) → Gives .microStepFeed s fun t =>
            (∃ m, t.me.mat.queue = s.me.mat.queue ++ [m] ∧ m.instr = i ∧ m.micro = true ∧ m.issue = s.me.clk.unf ∧
              m.a = k.mpVal (microFields i).1 ∧ m.b = k.mpVal (microFields i).2) ∧ t.me.mat.mfeed = 1 ∧ t.mem = s.mem)))))

namespace Sys2Proof.Claims

/-- An instruction whose result is the token of an engine operation: lent byte, operands, token register, the operation's kind and
operand values, its flags, and the code of its first failing check at issue (R216, R223 to R232, R247 to R251). -/
structure EngineOut where
  x : Lent
  u : Uses
  d : BitVec 6
  kind : EngKind
  a : W64
  b : W64
  ord : Bool
  acq : Bool
  rel : Bool
  scope : BitVec 3
  fault : Option Nat
deriving DecidableEq, Repr

/-- The first code whose check fails. -/
def firstFault : List (Bool × Nat) → Option Nat
  | [] => none
  | p :: ps => if p.1 then some p.2 else firstFault ps

/-- A KV instruction on registers A and B. -/
def kvRow (s : State) (kind : EngKind) (x : Lent) (d a b : BitVec 6) (acq rel : Bool) (scope : BitVec 3)
    (checks : W64 → W64 → List (Bool × Nat)) : Option EngineOut :=
  some { x := x, u := (Uses.none.r a).r b, d := d, kind := kind, a := s.sreg a, b := s.sreg b, ord := false, acq := acq, rel := rel,
         scope := scope, fault := firstFault (checks (s.sreg a) (s.sreg b)) }

/-- Bits `lo` to `lo + n - 1` of a word, as a number. -/
def field (w : W64) (lo n : Nat) : Nat := (w.extractLsb' lo n).toNat

/-- R225: the checks of `kst` and `kapp`: reserved bits, a length of 1 to 2^20, the arena and slot, a source in the local store. -/
def storeChecks (s : State) (more : W64 → Bool) (a b : W64) : List (Bool × Nat) :=
  [(field b 20 12 != 0 || field b 53 11 != 0 || field b 32 21 == 0 || decide (2 ^ 20 < field b 32 21), 0x02),
   (s.kvaFault a || more a, 0x10), (decide (2 ^ 20 < field b 0 20 + field b 32 21), 0x06)]

/-- R216, R220: the checks of a copy whose descriptor lies at local-store offset `a`: where it may lie, and what it may hold. -/
def copyRow' (s : State) (rec_ : Bool) (x : Lent) (d a : BitVec 6) (ord acq rel : Bool) (scope : BitVec 3) : Option EngineOut :=
  let off := (s.sreg a).toNat
  some { x := x, u := Uses.none.r a, d := d, kind := if rec_ then .copyc else .copy, a := s.sreg a, b := 0, ord := ord, acq := acq,
         rel := rel, scope := scope,
         fault := if 2 ^ 20 ≤ off ∨ off % 64 ≠ 0 ∨ 2 ^ 20 < off + 128 then some 0x06
           else s.descFault rec_ (s.coreTenant s.dev.cur.core) (s.lsDesc off) }

/-- The KV, copy, tier and mailbox instructions, with their checks in order. -/
def engineRow (s : State) : Instr → Option EngineOut
  | .copy x d a ord acq rel scope => copyRow' s false x d a ord acq rel scope
  | .copyc x d a ord acq rel scope => copyRow' s true x d a ord acq rel scope
  | .kst x d a b acq rel scope => kvRow s .kst x d a b acq rel scope (storeChecks s fun _ => false)
  | .kapp x d a b acq rel scope => kvRow s .kapp x d a b acq rel scope (storeChecks s s.kappFault)
  | .kfree x d a b acq rel scope => kvRow s .kfree x d a b acq rel scope fun a b =>
    [(b == 0 || field b 32 32 != 0, 0x02), (s.kvaFault a, 0x10)]
  | .kcommit x d a b acq rel scope => kvRow s .kcommit x d a b acq rel scope fun a b =>
    [(field b 22 41 != 0, 0x02), (s.kvaFault a, 0x10)]
  | .kdedup x d a b acq rel scope => kvRow s .kdedup x d a b acq rel scope fun a b =>
    [(b == 0 || field b 32 32 != 0, 0x02), (s.kvaFault a, 0x10)]
  | .kfork x d a b acq rel scope => kvRow s .kfork x d a b acq rel scope fun a b =>
    [(field b 0 48 != 0, 0x02), (s.kvaFault a || s.kvaFault b, 0x10)]
  | .kwin x d a b acq rel scope => kvRow s .kwin x d a b acq rel scope fun a b =>
    [(field b 16 48 != 0, 0x02), (s.kvaFault a, 0x10)]
  | .kpin x d a b acq rel scope => kvRow s .kpin x d a b acq rel scope fun a b =>
    [(field b 1 63 != 0, 0x02), (s.kvaFault a, 0x10)]
  | .mbox x d a b =>
    let v := s.sreg b
    kvRow s .mbox x d a b (v.getLsbD 63) (v.getLsbD 62) (v.extractLsb' 59 3) fun _ b =>
      [(field b 8 51 != 0 || decide (4 < field b 59 3), 0x02), (b.getLsbD 7, 0x08), (!s.me.ctx.kvslot.getLsbD 16, 0x10)]
  | .verify x d a b =>
    let v := s.sreg b
    kvRow s .verify x d a b (v.getLsbD 63) (v.getLsbD 62) (v.extractLsb' 59 3) fun a b =>
      [(field b 0 7 == 0 || decide (64 < field b 0 7) || field b 7 52 != 0 || decide (4 < field b 59 3), 0x02),
       (!s.me.ctx.kvslot.getLsbD 16, 0x10), (decide (2 ^ 20 < field a 0 20 + 8 * field b 0 7), 0x06)]
  | .tmove x d a b =>
    let size := match s.walk (s.coreTenant s.dev.cur.core) .walk (s.sreg a).toNat with
      | .ok e => if rowOf (s.sreg a).toNat = .paged then e.size else 65536
      | .error _ => 65536
    kvRow s .tmove x d a b false false 0 fun a b =>
      [(field b 0 16 == 0 || decide (2 ≤ field b 16 2) || field b 18 46 != 0, 0x02), (a.toNat % size != 0, 0x06)]
  | _ => none

/-- The tile rows that a `logit` names can be sent: tile configured, rows inside it (R191, R248). -/
def logitFault (s : State) (a b : W64) : Option Nat :=
  let k := (synced s).me
  if field a 3 5 ≠ 0 ∨ field a 15 1 ≠ 0 ∨ field a 23 9 ≠ 0 ∨ field b 1 58 ≠ 0 ∨ 4 < field b 59 3 then some 0x02
  else if !s.me.ctx.kvslot.getLsbD 16 then some 0x10
  else if !s.me.ownsTiles then some 0x0B
  else match k.rowsFault (a.extractLsb' 0 3) (field a 8 7) (field a 16 7 + 1) with
    | some c => some c
    | none => if tcInt (k.shTile (a.extractLsb' 0 3)) then some 0x09 else none

/-- R224: the first failing check of a `kld`. -/
def kldFault (s : State) (a b : W64) : Option Nat :=
  let w := (synced s).me.mat.shRing.get (b.extractLsb' 12 2).toFin
  firstFault
    [(field b 24 8 != 0 || field b 58 6 != 0 || field b 0 12 == 0 || decide (2048 < field b 0 12) || field b 14 2 == 3 ||
        decide (2 ^ 26 < field b 32 26), 0x02),
     (s.kvaFault a, 0x10), (rSize w == 0 || decide (rSize w < field b 0 12) || (field b 14 2 != 0 && rNx w), 0x09)]

/-- The two instructions that look at the issue-side copy of the matrix unit (R191). -/
def engineRowM (s : State) : Instr → Option EngineOut
  | .kld x d a b acq rel scope =>
    some { x := x, u := (Uses.none.r a).r b, d := d, kind := .kld, a := s.sreg a, b := s.sreg b, ord := false, acq := acq, rel := rel,
           scope := scope, fault := kldFault s (s.sreg a) (s.sreg b) }
  | .logit x d a b =>
    some { x := x, u := (Uses.none.r a).r b, d := d, kind := .logit, a := s.sreg a, b := s.sreg b, ord := false,
           acq := (s.sreg b).getLsbD 63, rel := (s.sreg b).getLsbD 62, scope := (s.sreg b).extractLsb' 59 3,
           fault := logitFault s (s.sreg a) (s.sreg b) }
  | _ => none

/-- R213, R215: what issuing an engine operation leaves: with a free place in the table of 64, one more operation with these
operands, whose token place is awaited by D, pending from issue + 1 (D = 0: by no register); with none, the token of a refusal for
D and no operation. -/
abbrev EngineIssued (s t : State) (r : EngineOut) : Prop :=
  t.mem = s.mem ∧ SameRegisters s t ∧ t.me.bun = s.me.bun ∧ t.me.run = s.me.run ∧
  (s.me.ctx.toks.length < 64 →
    ∃ o e, t.dev.eng = s.dev.eng ++ [o] ∧ o.id = s.dev.nextId ∧ o.kind = r.kind ∧ o.a = r.a ∧ o.b = r.b ∧ o.ord = r.ord ∧
      o.acq = r.acq ∧ o.rel = r.rel ∧ o.scope = r.scope ∧ o.token = none ∧ o.owner = .task (s.me.task.getD 0) s.dev.cur.core ∧
      t.me.ctx.toks = s.me.ctx.toks ++ [e] ∧ e.op = o.id ∧ e.slot = o.slot ∧ e.reg = r.d ∧ e.pend = false ∧
      ((∃ n, n < 64 ∧ ∀ x ∈ s.me.ctx.toks, x.slot ≠ n) → o.slot < 64 ∧ ∀ x ∈ s.me.ctx.toks, x.slot ≠ o.slot) ∧
      t.me.flights = if r.d = 0 then s.me.flights else
        insertFlight { s.due 1 (.pend r.d (isBanked s.me.priv r.d) o.id) false 0 with counts := false } s.me.flights) ∧
  (64 ≤ s.me.ctx.toks.length → t.dev.eng = s.dev.eng ∧ t.me.ctx.toks = s.me.ctx.toks ∧
      t.me.flights = if r.d = 0 then s.me.flights else
        insertFlight { s.due 1 (.s r.d s.me.priv) false (BitVec.ofNat 1024 (3 * 2 ^ 56)) with counts := false } s.me.flights)

/-- The state after PERM of check 7 for a resource that the tenant was not given: the fault log gets it as well (R212, R387). -/
def refusedHere (s : State) : State := (trappedHere s 0x08).modMe fun k =>
  { k with bun := { k.bun with refused := some (0x08, s.me.bun.addr.toNat) } }

/-- R227: the requests of a `kalloc`, read from the local store at issue. -/
def kallocReqs (s : State) (a b : W64) : List W64 :=
  (List.range b.toNat).map fun i => w64 (memNat s (lsPlace s (Config.lsBase + field a 0 20 + 8 * i)) 8)

end Sys2Proof.Claims

/-- R87, R213, R215, R216, R220, R223 to R232, R247 to R251: a copy, a KV operation, `tmove`, `verify`, `logit` and `mbox` either trap
with the code of their first failing check, or issue their operation and take its token place. The PERM of a record ring that the
tenant was not given goes to the fault log as well (R212, R387). -/
def Sys2Proof.Claims.EngineSyllables : Prop :=
  (∀ (i : Instr) (s : State) (r : EngineOut), engineRow s i = some r → i.wf = true → s.dev.wbuf = [] → s.Ready r.x r.u →
    (r.fault = none → Gives i s fun t => EngineIssued s t r) ∧
    (∀ code, r.fault = some code →
      exec i s = .next (if code = 0x08 ∧ r.kind ≠ .mbox then refusedHere s else trappedHere s code))) ∧
  (∀ (i : Instr) (s : State) (r : EngineOut), engineRowM s i = some r → i.wf = true → s.dev.wbuf = [] → s.Ready r.x r.u →
    (r.fault = none → Gives i s fun t => EngineIssued s t r) ∧
    (∀ code, r.fault = some code → exec i s = .next (trappedHere (synced s) code)))

/-- R227: `kalloc` reads its list from the local store at issue: with a good list it issues its operation with these requests; else it
traps with the code of its first failing check. -/
def Sys2Proof.Claims.AllocationListRead : Prop :=
  ∀ (s : State) (x : Lent) (d a b : BitVec 6) (acq rel : Bool) (scope : BitVec 3) (va vb : W64),
    (Instr.kalloc x d a b acq rel scope).wf = true → s.dev.wbuf = [] → s.Ready x ((Uses.none.r a).r b) → Quiet s →
    va = s.sreg a → vb = s.sreg b →
    (∀ code, firstFault [(field va 0 20 % 8 != 0 || vb == 0 || decide (256 < vb.toNat), 0x02), (s.arenaUndef va, 0x10),
        (decide (2 ^ 20 < field va 0 20 + 8 * vb.toNat), 0x06)] = some code →
      exec (.kalloc x d a b acq rel scope) s = .next (trappedHere s code)) ∧
    (field va 0 20 % 8 = 0 → vb ≠ 0 → vb.toNat ≤ 256 → s.arenaUndef va = false → field va 0 20 + 8 * vb.toNat ≤ 2 ^ 20 →
    ((∀ w ∈ kallocReqs s va vb, field w 16 8 ≠ 0 ∧ field w 12 4 = 0) →
      Gives (.kalloc x d a b acq rel scope) s fun t =>
        EngineIssued s t { x := x, u := Uses.none, d := d, kind := .kalloc, a := va, b := vb, ord := false, acq := acq, rel := rel,
                           scope := scope, fault := none } ∧
        (s.me.ctx.toks.length < 64 → ∃ o, t.dev.eng = s.dev.eng ++ [o] ∧ o.reqs = kallocReqs s va vb)) ∧
    ((∃ w ∈ kallocReqs s va vb, field w 16 8 = 0 ∨ field w 12 4 ≠ 0) →
      exec (.kalloc x d a b acq rel scope) s = .next (trappedHere s 0x02)))

/-- R215 to R232, R247 to R251: the instructions whose result is the token of an engine operation. -/
def Obligations.EngineOperationIssued : Prop :=
  Claims.EngineSyllables ∧ Claims.AllocationListRead

namespace Sys2Proof.Claims

/-- A stream slot of the acting core. -/
def slotOf (s : State) (n : BitVec 3) : StreamSlot := s.me.ctx.streams.get n.toFin

/-- R234: a pattern that `sbind` refuses: a reserved bit of CTL, E = 3, a gather pattern for writing, a count of 0 in use. -/
def badPattern (dir : Bool) (p : BitVec 512) : Bool :=
  let ctl : W64 := p.extractLsb' 64 64
  field ctl 5 59 != 0 || field ctl 0 2 == 3 || (ctl.getLsbD 4 && dir) ||
    (!ctl.getLsbD 4 && (List.range 4).any fun d => decide (d ≤ field ctl 2 2) && p.extractLsb' (128 + 32 * d) 32 == 0)

/-- No register, no byte of memory and no part of the bundle differs. -/
abbrev Unmoved (s t : State) : Prop := SameRegisters s t ∧ t.mem = s.mem ∧ t.me.bun = s.me.bun ∧ t.me.run = s.me.run

/-- The earlier accesses of the acting core, and the writes of others that it can see, have performed at device scope, and no release
of it waits (R83, R91). -/
abbrev Released (s : State) : Prop := s.releaseReady s.dev.cur.core (s.me.seq 1) 3 = true ∧ s.me.defer = []

/-- The acting core may use the queue: it is its tenant's, and enabled (R212, R356). -/
abbrev QueueOpen (s : State) (q : BitVec 8) : Prop := s.mine (s.hq q).owner = true ∧ (s.hq q).en = true

end Sys2Proof.Claims

/-- R234 to R236: `sbind` binds a register to a free slot by the pattern in the local store, `sfree` ends a binding, both at
issue + 1; a new binding starts at entry 0 with an empty FIFO, an ended one discards its FIFO and gather queue; `ixq` puts its
index at the end of the gather queue, from which, with 64 in it, the oldest first moves on into the FIFO. What R234 and R236 refuse
traps, and `sfree` of an unbound slot has no effect. -/
def Obligations.StreamSyllables : Prop :=
  (∀ (s : State) (x : Lent) (slot vr : BitVec 3) (dir : Bool) (a : BitVec 6) (off : Nat) (p : BitVec 512), s.dev.wbuf = [] →
    s.Ready x (Uses.none.r a) → s.dev.writes = [] → off = field (s.sreg a) 0 20 → NoEntryOver s 0 (Config.lsBase + off) 64 →
    p = BitVec.ofNat 512 (memNat s (lsPlace s (Config.lsBase + off)) 64) →
    (off % 64 ≠ 0 → exec (.sbind x slot vr dir a) s = .next (trappedHere s 0x06)) ∧
    (off % 64 = 0 → (badPattern dir p = true ∨ (slotOf s slot).bound = true ∨ ∃ n, (slotOf s n).bound = true ∧ (slotOf s n).vr = vr) →
      exec (.sbind x slot vr dir a) s = .next (trappedHere s 0x02)) ∧
    (off % 64 = 0 → badPattern dir p = false → (slotOf s slot).bound = false →
      (∀ n, (slotOf s n).bound = true → (slotOf s n).vr ≠ vr) →
      exec (.sbind x slot vr dir a) s = .next (s.issues (effectDue s (.bind slot vr dir) (p.setWidth 1024))))) ∧
  (∀ (s : State) (x : Lent) (slot : BitVec 3), s.dev.wbuf = [] → s.Ready x Uses.none →
    exec (.sfree x slot) s = .next (if (slotOf s slot).bound then s.issues (effectDue s (.unbind slot) 0) else s)) ∧
  (∀ (k : Core) (f : Flight) (slot vr : BitVec 3) (dir : Bool), f.dest = .bind slot vr dir →
    (k.landDest f).ctx.streams.get slot.toFin =
      { bound := true, dir := dir, vr := vr, pat := f.val.setWidth 512, next := 0, fifo := [], gq := [], stopped := false }) ∧
  (∀ (k : Core) (f : Flight) (slot : BitVec 3), f.dest = .unbind slot →
    ((k.landDest f).ctx.streams.get slot.toFin).bound = false ∧ ((k.landDest f).ctx.streams.get slot.toFin).fifo = [] ∧
      ((k.landDest f).ctx.streams.get slot.toFin).gq = [] ∧ (k.landDest f).wents = k.wents ∧ (k.landDest f).ctx.v = k.ctx.v) ∧
  (∀ (s : State) (x : Lent) (slot : BitVec 3) (a : BitVec 6) (st : StreamSlot), s.dev.wbuf = [] → s.Ready x (Uses.none.r a) →
    st = slotOf s slot →
    (st.bound = true → st.dir = false → st.pat.getLsbD 68 = true → st.gq.length < 64 →
      Gives (.ixq x slot a) s fun t => slotOf t slot = { st with gq := st.gq ++ [(s.sreg a).setWidth 32] } ∧
        (∀ n, n ≠ slot → slotOf t n = slotOf s n) ∧ t.me.flights = s.me.flights ∧ Unmoved s t) ∧
    (∀ i len, st.bound = true → st.dir = false → st.pat.getLsbD 68 = true → st.gq.length = 64 →
      st.nextFetch = some i → len = st.entryBytes → rowSpan (st.entryVa i) len = .ls → s.dev.writes = [] →
      (∀ e ∈ s.me.wents, e.ahead s.dev.cur.core (2 ^ 64) (st.entryVa i) len = false) →
      Gives (.ixq x slot a) s fun t => slotOf t slot =
          { st with
            gq := st.gq.drop 1 ++ [(s.sreg a).setWidth 32]
            fifo := st.fifo ++
              [{ idx := i, val := BitVec.ofNat 1024 (memNat s (lsPlace s (st.entryVa i)) len), fault := none }]
            stopped := false } ∧
        (∀ n, n ≠ slot → slotOf t n = slotOf s n) ∧ t.me.flights = s.me.flights ∧ Unmoved s t) ∧
    (st.bound = false ∨ st.dir = true ∨ st.pat.getLsbD 68 = false ∨ (64 ≤ st.gq.length ∧ st.nextFetch = none) →
      exec (.ixq x slot a) s = .next (trappedHere s 0x02)))

/-- R234, R236, R237: STREAM_ENTRY_FETCH brings the next entry of a read stream of the running context behind those of its FIFO: the
bytes in memory, or, where the checks of a load find a fault, that fault, which stops the stream. It waits for no walk and no time slot
(R331, R387). Only for a MEMWIN is memory written: the tenant's fault log (R59, R328). -/
def Sys2Proof.Claims.StreamEntryFetched : Prop :=
  ∀ (s : State) (slot : BitVec 3) (st : StreamSlot) (i va len : Nat), s.dev.wbuf = [] → s.me.run = .running → s.me.priv = false →
    slot = BitVec.ofNat 3 s.dev.cur.n → st = slotOf s slot → st.nextFetch = some i → va = st.entryVa i → len = st.entryBytes →
    s.fetchWaits slot = false →
    (rowSpan va len = .ls → s.dev.writes = [] → (∀ e ∈ s.me.wents, e.ahead s.dev.cur.core (2 ^ 64) va len = false) →
      Gives .streamEntryFetch s fun t =>
      (slotOf t slot).fifo = st.fifo ++ [{ idx := i, val := BitVec.ofNat 1024 (memNat s (lsPlace s va) len), fault := none }] ∧
        (slotOf t slot).stopped = false ∧ (slotOf t slot).next = (if st.gath then st.next else st.next + 1) ∧
        (slotOf t slot).gq = (if st.gath then st.gq.drop 1 else st.gq) ∧ Unmoved s t) ∧
    (∀ code a, s.dataFault .read true va len = some (code, a) → Gives .streamEntryFetch s fun t =>
      (slotOf t slot).fifo = st.fifo ++ [{ idx := i, val := 0, fault := some (BitVec.ofNat 8 code, BitVec.ofNat 64 a) }] ∧
        (slotOf t slot).stopped = true ∧ SameRegisters s t ∧ t.me.bun = s.me.bun ∧ t.me.run = s.me.run ∧
        (code ≠ 0x07 → t.mem = s.mem))

/-- R90, R184, R237: STREAM_ENTRY_DRAIN takes the first landed entry of a write stream whose earlier entries have all landed; with
no access outstanding and no earlier entry for the local store, an entry there is then in memory, and no other byte changes. An entry
whose store the checks refuse becomes a late error, and the stream stops. That the stopped stream then holds no entry is the model's
choice (log 18). Only for a MEMWIN is memory written: the tenant's fault log (R59, R328). -/
def Sys2Proof.Claims.StreamEntryDrained : Prop :=
  ∀ (s : State) (slot : BitVec 3) (e : WEnt) (v : V1024), s.dev.wbuf = [] → s.mem.wf = true → slot = BitVec.ofNat 3 s.dev.cur.n →
    s.me.toDrain slot = some e → e.val = some v → 0 < e.len →
    (rowSpan e.va e.len = .ls → s.zoneAt e.va e.len = none → s.me.ops = [] → s.dev.writes = [] →
      (∀ x ∈ s.me.wents, x.place ≠ e.place → x.ahead s.dev.cur.core e.seq e.va e.len = false) →
      Gives .streamEntryDrain s fun t =>
        t.me.wents = (s.me.wents.filter fun x => x.place != e.place) ∧
        (∀ j, j < e.len → t.mem.read (lsPlace s e.va + j) = v.extractLsb' (8 * j) 8) ∧
        SameBytes s t (addrs (lsPlace s e.va) e.len) ∧ SameRegisters s t) ∧
    (∀ code a, s.storeFault e.va e.len = some (code, a) → e.own.sv = false →
      (e.own.task.bind s.taskById).all (fun k => k.where_ == .on s.dev.cur.core) = true → s.me.ctx.lates.length < 32 →
        Gives .streamEntryDrain s fun t =>
        t.me.ctx.lates = s.me.ctx.lates ++
          [{ scause := BitVec.ofNat 64 (code + 0x200), sfaddr := BitVec.ofNat 64 a, sfinfo := 0 }] ∧
        t.me.wents = (s.me.wents.filter fun x => x.slot != slot) ∧ (slotOf t slot).stopped = true ∧
        (code ≠ 0x07 → t.mem = s.mem))

/-- R90, R184, R234 to R237: how entries of streams come from memory and go to it. -/
def Obligations.StreamEntries : Prop :=
  Claims.StreamEntryFetched ∧ Claims.StreamEntryDrained

/-- R91, R238, R239: `qput` to an open queue with room, for which no other party has waited longer, reserves a place, and when the
core's earlier accesses have performed its token is the last of the queue; else its bundle is held. `qget` takes the oldest token, for
D at issue + 8, and is held when there is none. A frame slot moves with its token. A queue that is not the tenant's or not enabled, or
whose role the token breaks, refuses with PERM (R212, R239, R387); a bundle that already waits for it stays held (R357). -/
def Sys2Proof.Claims.QueueTransfer : Prop :=
  (∀ (i : Instr) (s : State) (x : Lent) (u : Uses) (q : BitVec 8), s.dev.wbuf = [] → s.Ready x u →
    ((∃ a, i = .qput x q a ∧ u = Uses.none.r a) ∨ (∃ d, i = .qget x q d ∧ u = Uses.none)) → ¬QueueOpen s q →
    (s.me.waiting.queue ≠ some q → exec i s = .next (refusedHere s)) ∧
    (s.me.waiting.queue = some q → Gives i s fun t => (t.me.bun.hold = some (.fullQueue q) ∨ t.me.bun.hold = some (.emptyQueue q)) ∧
      (t.hq q).toks = (s.hq q).toks ∧ t.me.flights = s.me.flights ∧ SameRegisters s t ∧ t.mem = s.mem)) ∧
  (∀ (s : State) (x : Lent) (q : BitVec 8) (a d : BitVec 6), s.dev.wbuf = [] → QueueOpen s q →
    (s.Ready x (Uses.none.r a) → s.putRefused q (s.sreg a) = true → exec (.qput x q a) s = .next (trappedHere s 0x08)) ∧
    (s.Ready x Uses.none → s.getRefused q = true → exec (.qget x q d) s = .next (trappedHere s 0x08))) ∧
  (∀ (s : State) (x : Lent) (q : BitVec 8) (a : BitVec 6) (h : HwQueue) (c : CoreId), s.dev.wbuf = [] → s.Ready x (Uses.none.r a) →
    QueueOpen s q → h = s.hq q → c = s.dev.cur.core → s.putRefused q (s.sreg a) = false →
    (h.toks.length + h.resv < h.depth → firstIn (.core c) h.putters = true →
      Gives (.qput x q a) s fun t =>
        (Released s → (t.hq q).toks = h.toks ++ [s.sreg a] ∧ (t.hq q).resv = h.resv) ∧
        (s.releaseReady c (s.me.seq 1) 3 = false → s.me.defer = [] → (t.hq q).toks = h.toks ∧ (t.hq q).resv = h.resv + 1 ∧
          t.me.defer = [(s.me.seq 1, .put q (s.sreg a))]) ∧
        (t.hq q).putters = h.putters.filter (· != .core c) ∧
        (∀ f, s.roleOf q = some (f, 1) → (t.fring f).slots = (s.fring f).slots.set (field (s.sreg a) 32 4) .decode) ∧
        (∀ f, s.roleOf q = some (f, 0) → (t.fring f).slots = (s.fring f).slots.set (field (s.sreg a) 32 4) .empty) ∧
        t.me.flights = s.me.flights ∧ Unmoved s t) ∧
    (h.depth ≤ h.toks.length + h.resv ∨ firstIn (.core c) h.putters = false →
      Gives (.qput x q a) s fun t => t.me.bun.hold = some (.fullQueue q) ∧ (t.hq q).toks = h.toks ∧ (t.hq q).resv = h.resv ∧
        .core c ∈ (t.hq q).putters ∧ SameRegisters s t ∧ t.mem = s.mem)) ∧
  (∀ (s : State) (x : Lent) (q : BitVec 8) (d : BitVec 6) (h : HwQueue) (c : CoreId), s.dev.wbuf = [] → s.Ready x Uses.none → s.Room →
    QueueOpen s q → h = s.hq q → c = s.dev.cur.core → s.getRefused q = false →
    (∀ w rest, h.toks = w :: rest → firstIn c h.getters = true →
      Gives (.qget x q d) s fun t =>
        (t.hq q).toks = rest ∧ (t.hq q).resv = h.resv ∧ (t.hq q).getters = h.getters.filter (· != c) ∧
        t.me.flights = insertFlight (s.due 8 (.s d s.me.priv) false (w.setWidth 1024)) s.me.flights ∧
        (∀ f, s.roleOf q = some (f, 0) →
          (t.fring (w.extractLsb' 36 8)).slots = (s.fring (w.extractLsb' 36 8)).slots.set (field w 32 4) .render) ∧ Unmoved s t) ∧
    (h.toks = [] ∨ firstIn c h.getters = false → Gives (.qget x q d) s fun t => t.me.bun.hold = some (.emptyQueue q) ∧
        (t.hq q).toks = h.toks ∧ c ∈ (t.hq q).getters ∧ t.me.flights = s.me.flights ∧ SameRegisters s t ∧ t.mem = s.mem))

/-- R222: `crwait` on an open ring issues PCNT for D at issue + 1 once it exceeds A, and holds its bundle before; a ring that the tenant
was not given refuses with PERM (R212, R387). -/
def Sys2Proof.Claims.RecordWait : Prop :=
  ∀ (s : State) (x : Lent) (dn : BitVec 8) (a d : BitVec 6) (n : Nat), s.dev.wbuf = [] → s.Ready x (Uses.none.r a) → s.Room →
    n = (s.dev.dns.get dn.toFin).pcnt →
    (s.dnOwned dn (s.coreTenant s.dev.cur.core) = false → exec (.crwait x dn a d) s = .next (refusedHere s)) ∧
    (s.dnOwned dn (s.coreTenant s.dev.cur.core) = true → ((s.sreg a).toNat < n → exec (.crwait x dn a d) s = .next (s.issues
      (s.due 1 (.s d s.me.priv) false (BitVec.ofNat 1024 (n % 2 ^ 64))))) ∧
    (n ≤ (s.sreg a).toNat → exec (.crwait x dn a d) s = .next (s.modBun fun b => { b with hold := some (.record dn) })))

/-- R91, R222, R238, R239: hardware queues and done rings. -/
def Obligations.QueuesAndRings : Prop :=
  Claims.QueueTransfer ∧ Claims.RecordWait

namespace Sys2Proof.Claims

/-- The bytes of KV space that a `kld` reads for its next row, as the engine finds them, with the table entries it then holds (R339). -/
def kldRead (s : State) (o : EngOp) : Except (Nat × Nat) (List Byte × EngOp) :=
  let n := kldBytes o.b (BitVec.ofNat 64 (o.list.getD 0 0))
  let off := field o.a 0 48 + o.pos * field o.b 32 26
  (do let r ← kvArenaOf o o.a; kvRead o r (field o.a 48 12) n off n : Kv (List Byte × EngOp)).run s |>.1

/-- The operation ends with this token, or goes on when there is none. -/
abbrev EndsWith (t : State) (id : Nat) (token : Option W64) : Prop := ∃ o, t.engOp id = some o ∧ o.token = token

end Sys2Proof.Claims

/-- R86, R88, R217, R219: a copy without a function moves granule by granule. The check of the first 4 KiB of a copy of one dimension
from local store to local store makes their granules; reading a part of one takes its bytes as they stand; writing one that is read
puts them at its destination and changes no other byte; a copy with no move left gives STATUS 01 and the bytes moved as COUNT. -/
def Sys2Proof.Claims.CopyMovesBytes : Prop :=
  (∀ (s : State) (o : EngOp) (c : CoreId) (src dst n : Nat), s.engOp o.id = some o → o.kind = .copy → o.pos = 0 → o.token = none →
    o.grains = [] → o.fail = none → s.engStart o = true → s.engCore o = some c → copyFn o.desc = 0 →
    copyNdm1 o.desc = 0 → n = min 4096 (copyCnt o.desc 0) → src = descNat o.desc 0 8 → dst = descNat o.desc 8 8 →
    rowSpan src n = .ls → rowSpan dst n = .ls →
    (s.engineTurn o.id).mem = s.mem ∧ ∃ p, (s.engineTurn o.id).engOp o.id = some p ∧ p.pos = n ∧
      p.grains.map (fun g => (g.dst, g.len)) = granulesOf dst n ∧
      ∀ g ∈ p.grains, g.skip = 0 ∧ g.put = false ∧ (∀ x ∈ g.src, x.got = none) ∧
        g.src.map (fun x => (x.va, x.len)) = granulesOf (src + (g.dst - dst)) g.len) ∧
  (∀ (s : State) (o : EngOp) (c : CoreId) (g : Grain) (i : Nat) (p : Part), s.engOp o.id = some o → s.engCore o = some c →
    g ∈ o.grains → g.src[i]? = some p → rowSpan p.va p.len = .ls → s.dev.writes = [] →
    (s.copyMove o (.read g i)).mem = s.mem ∧ ∃ q, (s.copyMove o (.read g i)).engOp o.id = some q ∧
      q.grains = o.grains.map fun x => if x.id = g.id then
        { g with src := g.src.set i { p with got := some (s.peeks (lsAddr c (p.va - Config.lsBase)) p.len) } } else x) ∧
  (∀ (s : State) (o : EngOp) (c : CoreId) (g : Grain), s.engOp o.id = some o → s.engCore o = some c → copyFn o.desc = 0 →
    g ∈ o.grains → g.skip = 0 → g.got.length = g.len → 0 < g.len → rowSpan g.dst g.len = .ls →
    (∀ j, j < g.len → (s.copyMove o (.put g)).peek (lsAddr c (g.dst - Config.lsBase) + j) = g.got.getD j 0) ∧
    (∀ a, a ∉ addrs (lsAddr c (g.dst - Config.lsBase)) g.len → (s.copyMove o (.put g)).peek a = s.peek a)) ∧
  (∀ (s : State) (o : EngOp), s.engOp o.id = some o → o.isCopy = true → o.pos = copyTotal o.desc → o.pos ≠ 0 → o.token = none →
    o.grains = [] → o.fail = none → copyFn o.desc ≠ 1 →
    (s.engineTurn o.id).mem = s.mem ∧
      EndsWith (s.engineTurn o.id) o.id (some (BitVec.ofNat 64 (2 ^ 56 + copyTotal o.desc % 2 ^ 48))))

/-- R219, R221: COPY_COMPLETION ends a copy whose walk is over and whose writes have performed. A `copy` writes no record; a `copyc`
whose ring is its tenant's takes the ring's next record: SEQ and the token are in it, with the core, tenant and tag, and PCNT is one
more, where the ring lies in a vault of the tenant. -/
def Sys2Proof.Claims.CopyCompletes : Prop :=
  ∀ (s : State) (o : EngOp) (w : W64), s.dev.wbuf = [] → s.mem.wf = true → s.dev.probe = none → s.engOp s.dev.cur.n = some o →
    o.token = some w → o.stage = 0 → s.engWritesDone o = true →
    (o.kind = .copy → exec .copyCompletion s = .next (s.setEng { o with stage := 1 })) ∧
    (∀ id (c : CoreId) (dn : BitVec 8) (r : DoneRing) (at_ : Nat), o.kind = .copyc → o.owner = .task id c →
      dn = BitVec.ofNat 8 (descNat o.desc 17 1) → r = s.dev.dns.get dn.toFin → s.dnOwned dn (tid o.tenant) = true →
      at_ = r.base + 64 + 64 * (r.seq % 2 ^ field r.dw0 16 5) → rowSpan at_ 64 = .vault → rowSpan r.base 64 = .vault →
      s.ownsVault (tid o.tenant) (vaultOf at_) = true → s.ownsVault (tid o.tenant) (vaultOf r.base) = true →
      s.zoneAt at_ 64 = none → s.zoneAt r.base 64 = none →
      Gives .copyCompletion s fun t =>
        (t.dev.dns.get dn.toFin).pcnt = r.seq + 1 ∧ (t.dev.dns.get dn.toFin).seq = r.seq + 1 ∧
        memNat t (vaultPlace at_) 8 = (r.seq + 1) % 2 ^ 64 ∧ memNat t (vaultPlace at_ + 8) 8 = w.toNat ∧
        memNat t (vaultPlace at_ + 16) 8 = descNat o.desc 20 4 + c.val * 2 ^ 32 + o.tenant.toNat * 2 ^ 40 ∧
        memNat t (vaultPlace at_ + 24) 8 = o.faddr.toNat ∧ memNat t (vaultPlace r.base) 8 = (r.seq + 1) % 2 ^ 64 ∧
        SameBytes s t (addrs (vaultPlace at_) 64 ++ addrs (vaultPlace r.base) 8) ∧ SameRegisters s t)

/-- R217, R219, R221: what a copy moves, and what its completion writes. -/
def Obligations.CopyOperation : Prop :=
  Claims.CopyMovesBytes ∧ Claims.CopyCompletes

/-- R224: KLD_ROW begins a `kld` by taking the ring word as it stands. Then, while the ring has room and the program has left the ring
alone, it writes its next row into the slot of ring counter T0 + r and advances TAIL by one; after the last row it has its token,
which counts the bytes of the rows. A fault of a row ends it with that fault's code (R339) and the bytes before it. -/
def Sys2Proof.Claims.KldRowLands : Prop :=
  ∀ (s : State) (o : EngOp) (c : CoreId) (k : Task) (n : Nat) (w : W64), s.dev.wbuf = [] → s.mem.wf = true →
    s.engOp s.dev.cur.n = some o → o.kind = .kld → o.token = none → o.task = some n → s.taskById n = some k → k.where_ = .on c →
    s.dev.probe = none → w = (s.core c).ctx.rings.get (o.b.extractLsb' 12 2).toFin →
    (o.stage = 0 → s.engStart o = true → s.kldBefore o = false → (s.core c).ringBusy o = false →
      exec .kldRow s = .next (s.setEng { o with stage := 1, list := [w.toNat] })) ∧
    (∀ bs p, o.stage = 1 → kldDetached o w = false → rCount w ≠ rSize w → kldRead s o = .ok (bs, p) →
      Gives .kldRow s fun t =>
        (∀ j, j < (kldWiden o.b bs).length →
          t.mem.read (lsAddr c (rOffset w (rTail w)) + j) = (kldWiden o.b bs).getD j 0) ∧
        SameBytes s t (addrs (lsAddr c (rOffset w (rTail w))) (kldWiden o.b bs).length) ∧
        (t.core c).ctx.rings.get (o.b.extractLsb' 12 2).toFin = setField w 12 12 (rStep w (rTail w) 1) ∧
        EndsWith t o.id (if o.pos + 1 < field o.b 0 12 then none
          else some (BitVec.ofNat 64 (2 ^ 56 + (o.pos + 1) * (kldWiden o.b bs).length % 2 ^ 48)))) ∧
    (∀ f, o.stage = 1 → kldDetached o w = false → rCount w ≠ rSize w → kldRead s o = .error f →
      s.engineLogs f.1 f.2 = false →
      Gives .kldRow s fun t => t.mem = s.mem ∧ t.core c = s.core c ∧ ∃ x, t.engOp o.id = some x ∧ x.pos = o.pos ∧
        x.token = some (BitVec.ofNat 64 (2 * 2 ^ 56 + f.1 * 2 ^ 48 +
          o.pos * (if rNx (BitVec.ofNat 64 (o.list.getD 0 0)) then 544 else 512) % 2 ^ 48)))

/-- R215, R307, R313, R361: TOKEN_LANDS writes the token of an operation that is ready: to the register of a loaded context that still
awaits it, to nothing when the task has ended, to the command register that awaits it, to the register of a system engine
operation. The operation is then gone. -/
def Sys2Proof.Claims.TokenLands : Prop :=
  (∀ (s : State) (o : EngOp) (w : W64), s.dev.wbuf = [] → s.engOp s.dev.cur.n = some o → s.tokenReady o = true → o.token = some w →
    (∀ n d (k : Task) (c : CoreId) e, o.owner = .task n d → s.taskById n = some k → k.where_ = .on c →
      (s.core c).ctx.toks.find? (fun t => t.op == o.id) = some e →
      Gives .tokenLands s fun t => t.dev.eng = s.dev.eng.filter (fun x => x.id != o.id) ∧ t.mem = s.mem ∧
        t.core c = (if e.pend then (s.core c).setS e.reg e.bank w else s.core c).modCtx fun x =>
          { x with toks := (s.core c).ctx.toks.filter fun t => t.op != o.id }) ∧
    (∀ n d, o.owner = .task n d → (∀ k, s.taskById n = some k → ∃ x, k.where_ = .ended x) →
      exec .tokenLands s = .next (s.dropEng o.id)) ∧
    (∀ t q a, o.owner = .queue t q → (s.cq t q).awaits.find? (fun x => x.2 == o.id) = some a →
      exec .tokenLands s = .next ((s.dropEng o.id).modCq t q fun cq =>
        { cq with c := cq.c.set a.1.toNat w a.1.isLt, awaits := cq.awaits.filter fun x => x.2 != o.id }))) ∧
  (∀ (s : State) (o : SysOp), s.dev.wbuf = [] → s.engOp s.dev.cur.n = none → s.me.sysop = some o → o.op = s.dev.cur.n →
    o.todo = none → o.waits = [] → (∀ f ∈ s.me.flights, ∀ r b, f.dest ≠ .pend r b o.op) →
    exec .tokenLands s = .next (s.modMe fun k => { (if o.reg = 0 then k else k.setS o.reg true o.token) with sysop := none }))

/-- R215, R224, R307, R313, R361: `kld` brings its rows, and tokens land. -/
def Obligations.EngineTokens : Prop :=
  Claims.KldRowLands ∧ Claims.TokenLands

namespace Sys2Proof.Claims

/-- The late error with which an access ends (R300): its code, TIMEOUT, its first address, and the register of a dropped load. -/
def lateOf (code : Nat) (timeout : Bool) (va info : Nat) : LateErr :=
  { scause := BitVec.ofNat 64 (code + 0x200 + if timeout then 0x800 else 0), sfaddr := BitVec.ofNat 64 va,
    sfinfo := BitVec.ofNat 64 info }

/-- No release of any core waits for accesses. -/
abbrev NoRelease (s : State) : Prop := ∀ c, (s.core c).defer = []

/-- An access is of the user's, and its context, which is loaded on the acting core, can take one more late error (R291, R300). -/
abbrev UserLate (s : State) (own : Owner) : Prop :=
  own.sv = false ∧ s.me.ctx.lates.length < 32 ∧ (own.task.bind s.taskById).all (fun k => k.where_ == .on s.dev.cur.core) = true

end Sys2Proof.Claims

/-- R17, R102: RESULT_LANDS, in a clock in which the running core issues nothing, lands what is due; what is not due stays in
flight, and memory does not change. -/
def Sys2Proof.Claims.DueResultsLand : Prop :=
  ∀ (s : State), s.dev.wbuf = [] → s.me.run = .running → s.me.clk.gap ≠ 0 → s.me.lateLoad = false → (∀ f ∈ s.me.flights, f.rem =
    0 → f.wait = none) →
    Gives .resultLands s fun t => t.me.flights = s.me.flights.filter (fun f => !f.due) ∧ t.mem = s.mem ∧
      ∀ (r : BitVec 6), r ≠ 0 → t.me.sreg r = match (dueFor s.me r).getLast? with
        | some f => f.val.setWidth 64
        | none => s.me.sreg r

/-- R63, R142: LOAD_DATA_ARRIVES performs an outstanding scalar load of one granule that may perform: its result holds the bytes of
memory, extended, and waits no more. Whether a vault read met a corrected error, which is logged, is free. -/
def Sys2Proof.Claims.LoadDataArrives : Prop :=
  ∀ (s : State) (o : MemOp) (p : Part) (pa size : Nat) (sx : Bool) (d : BitVec 6), s.dev.wbuf = [] → s.me.op s.dev.cur.n = some o →
    s.opReady s.dev.cur.core o = true → o.kind = .load size sx → o.parts = [p] → p.pa = some pa → p.len = size → rowOf p.va ≠ .vlat →
    s.dev.writes = [] → (∀ e ∈ s.me.wents, o.seq ≤ e.seq ∨ e.overlaps p.va size = false) → NoRelease s → o.dreg = some d →
      (o.onVault = true → Config.freeByte s.dev.free ≠ 1) →
    Gives .loadDataArrives s fun t =>
      t.mem = s.mem ∧ SameRegisters s t ∧ (∀ x ∈ t.me.ops, x.id ≠ o.id) ∧
      ∀ f ∈ s.me.flights, f.wait = some o.id → ∀ b, f.dest = .s d b →
        { f with wait := none, val := (extended size sx (shownNat s pa size)).setWidth 1024 } ∈ t.me.flights

/-- R17, R63, R102, R142: results land in their clock, the last in issue order stands, and a load that waits gets its bytes. -/
def Obligations.ResultsLand : Prop :=
  Claims.LandingKeepsTheLatest ∧ Claims.DueResultsLand ∧ Claims.LoadDataArrives

/-- R63, R145, R299, R300: an access without a response for 20 µs ends with TIMEOUT, and one that host or peer memory refuses without:
both are late errors of the context at the access's first byte, and the results of a load are dropped. After one of the supervisor's own
accesses the core halts (R291). That their code is DATA_UNMAPPED (0x06), which R145 says of an AtomicOp only, is the model's reading
(log 82). -/
def Obligations.AccessEndsLate : Prop :=
  (∀ (s : State) (o : MemOp), s.dev.wbuf = [] → s.me.op s.dev.cur.n = some o → o.isAccess = true →
    o.rel = false → NoRelease s →
    (∀ (i : Instr) (timeout : Bool),
      (i = .responseTimeout ∧ timeout = true ∧ o.since + 20000 ≤ s.dev.board.dtime) ∨
        (i = .lateErrorResponse ∧ timeout = false ∧ o.external = true) →
      (o.own.sv = true → Gives i s fun t => t.me.run = .halted ∧ (∀ x ∈ t.me.ops, x.id ≠ o.id) ∧ t.mem = s.mem) ∧
      (UserLate s o.own → Gives i s fun t =>
        t.me.ctx.lates = s.me.ctx.lates ++ [lateOf 0x06 timeout o.firstVa (dropInfo o.dreg)] ∧ t.mem = s.mem ∧ SameRegisters s t ∧
        (∀ x ∈ t.me.ops, x.id ≠ o.id) ∧
        ∀ f ∈ s.me.flights, f.wait = some o.id → f.err = false →
          { f with wait := none, err := true, faddr := BitVec.ofNat 64 o.firstVa } ∈ t.me.flights))) ∧
  (∀ (s : State) (w : PendingWrite), s.dev.wbuf = [] → s.me.op s.dev.cur.n = none →
    s.coreWrite s.dev.cur.core s.dev.cur.n = some w → NoRelease s →
    (∀ (i : Instr) (timeout : Bool),
      (i = .responseTimeout ∧ timeout = true ∧ 1 ≤ w.lvl ∧ w.since + 20000 ≤ s.dev.board.dtime) ∨
        (i = .lateErrorResponse ∧ timeout = false ∧ w.lvl = 2 ∧ w.external = true) →
      (w.own.sv = true → Gives i s fun t => t.me.run = .halted ∧ (∀ x ∈ t.dev.writes, x.id ≠ w.id) ∧ t.mem = s.mem) ∧
      (UserLate s w.own → Gives i s fun t =>
        t.me.ctx.lates = s.me.ctx.lates ++ [lateOf 0x06 timeout w.va 0] ∧ t.mem = s.mem ∧ SameRegisters s t ∧
        ∀ x ∈ t.dev.writes, x.id ≠ w.id)))

/-- R80: WRITE_PERFORMS moves a write that may move to its next point. A local one, one that its target's arbiter or controller takes,
and one that a PCIe port accepts, is then in memory; before that no byte of memory changes. -/
def Sys2Proof.Claims.WriteAdvances : Prop :=
  ∀ (s : State) (w : PendingWrite) (pa : Nat) (here : Bool), s.dev.wbuf = [] → s.mem.wf = true →
    s.dev.writes.find? (fun x => x.id == s.dev.cur.n) = some w → s.writeReady w = true → w.pa = some pa → w.lvl < 3 →
    NoRelease s → here = isLocalByte (s.upd fun d => { d with cur := { d.cur with core := w.core } }) w.va →
    ((w.lvl = 0 ∧ here = true ∧ w.op = none) ∨
        (w.lvl = 1 ∧ (targetOf pa < 16 ∨ targetOf pa = 18)) ∨ w.lvl = 2 →
      Gives .writePerforms s fun t =>
        (∀ j b, w.data[j]? = some (some b) → t.peek (pa + j) = b) ∧
        (∀ j, w.data[j]? = some none → t.peek (pa + j) = s.peek (pa + j)) ∧ SameBeside s t pa w.data.length) ∧
    ((w.lvl = 0 ∧ rowOf w.va ≠ .vlat ∧ (here = false ∨ w.op ≠ none)) ∨ (w.lvl = 1 ∧ targetOf pa ≠ 18 ∧ 16 ≤ targetOf pa) →
      Gives .writePerforms s fun t => t.mem = s.mem ∧ ∃ x ∈ t.dev.writes, x.id = w.id ∧ x.lvl = w.lvl + 1 ∧ x.data = w.data)

/-- R327, R330, R331: PAGE_WALK of a walk whose tables give a leaf ends it: the TLB of every core that waited holds the leaf, and every
waiting store that the leaf covers and permits has its place. -/
def Sys2Proof.Claims.WalkReturns : Prop :=
  ∀ (s : State) (w : Walk) (e : TlbEntry), s.dev.wbuf = [] → (s.dev.walks.take 64).find? (fun x => x.id == s.dev.cur.n) = some w →
    w.turn = none → s.walk (tid w.tenant) .walk (w.page * 65536) = .ok e → (s.dev.writes.map (·.id)).Nodup → NoRelease s →
    s.heldPage (tid w.tenant) (w.page * 65536) = false → (∀ y ∈ s.dev.writes, y.err = none) →
    Gives .pageWalk s fun t =>
      (∀ x ∈ t.dev.walks, x.id ≠ w.id) ∧ (∀ c ∈ w.cores, e ∈ (t.core c).utlb) ∧
      ∀ x ∈ s.dev.writes, x.tenant = w.tenant → x.pa = none → e.page ≤ x.va → x.va < e.page + e.size → (∃ b, some b ∈ x.data) →
        s.leafOk (tid w.tenant) e .write = true → ∃ y ∈ t.dev.writes, y.id = x.id ∧ y.data = x.data ∧ y.pa = some (s.placeOf e x.va)

/-- R115, R119, R379: OVERLAY_MISS of a bundle whose segment is in no half, with no copy in flight, starts the copy of that segment into
the half that does not hold the last bundle, at the line that the fetch needs, and counts the miss once. OVERLAY_LINE_LANDS brings
the copy's next line from its page, if that permits execution, else the line is held invalid; the copy goes on with the next line. It
waits for no walk and no time slot (R331, R387). -/
def Sys2Proof.Claims.OverlayFills : Prop :=
  (∀ (s : State) (va addr len n : Nat) (i : BitVec 32) (h : Fin 2), s.dev.wbuf = [] → s.me.run = .running → s.me.clk.gap = 0 →
    s.fetchBundle s.dev.cur.core s.me.ctx.pc.toNat = .wait va → s.me.imem.waiting ≠ some (va / 64) → s.me.imem.copy = none →
    s.fetchWord s.dev.cur.core va = .miss → s.me.imem.find (s.coreImages s.dev.cur.core) va = none →
    findSeg (s.coreImages s.dev.cur.core) va = some (i, n, addr, len) →
    h = (match s.me.imem.lastHalf with | some 0 => 1 | _ => 0) →
    Gives .overlayMiss s fun t => t.mem = s.mem ∧ t.me.ctx = s.me.ctx ∧ t.me.imem.miss = s.me.imem.miss + 1 ∧
      t.me.imem.halves.get h = some { image := i, seg := n, addr := addr, len := len, have_ := 0, bad := 0 } ∧
      (∀ g, g ≠ h → t.me.imem.halves.get g = s.me.imem.halves.get g) ∧
      t.me.imem.copy = some { half := h, line := (va - addr) / 64, left := (len + 63) / 64 }) ∧
  (∀ (s : State) (cp : SegCopy) (x : Half) (r : Except Nat TlbEntry) (va : Nat), s.dev.wbuf = [] → s.mem.wf = true →
    s.me.imem.refetch = none → s.me.imem.copy = some cp → s.me.imem.halves.get cp.half = some x → va = x.addr + 64 * cp.line →
    r = (s.coreXlate s.dev.cur.core .exec va).1 → s.dev.probe = none → rowOf va = .paged → cp.line < 2048 →
    Gives .overlayLineLands s fun t =>
      t.me.ctx = s.me.ctx ∧
      t.me.imem.copy = (if cp.left ≤ 1 then none
        else some { cp with line := (cp.line + 1) % ((x.len + 63) / 64), left := cp.left - 1 }) ∧
      (∀ e, r = .ok e →
        (∀ j, j < min 64 (x.len - 64 * cp.line) →
          t.mem.read (imemAddr s.dev.cur.core cp.half.val (64 * cp.line) + j) = s.peek (s.placeOf e va + j)) ∧
        SameBytes s t (addrs (imemAddr s.dev.cur.core cp.half.val (64 * cp.line)) 64) ∧
        ∃ y, t.me.imem.halves.get cp.half = some y ∧ y.have_.getLsbD cp.line = true) ∧
      (∀ code, r = .error code →
        t.mem = s.mem ∧ ∃ y, t.me.imem.halves.get cp.half = some y ∧ y.have_.getLsbD cp.line = false ∧
          y.bad.getLsbD cp.line = true))

/-- R80, R115, R119, R327, R330, R331, R379: writes move to their target, walks end, and segments arrive. -/
def Obligations.MemorySideEvents : Prop :=
  Claims.WriteAdvances ∧ Claims.WalkReturns ∧ Claims.OverlayFills

namespace Sys2Proof.Claims

/-- The task of the acting core may use the barrier: it is enabled, its tenant's, bound to its cohort, and has its rank (R34, R212). -/
abbrev MemberOf (s : State) (hb : BitVec 6) (k : Task) : Prop :=
  s.mine (s.hb hb).owner = true ∧ (s.hb hb).en = true ∧ s.me.task = some k.id ∧ s.taskById k.id = some k ∧
    (s.hb hb).cohort = some k.cohort ∧ (s.hb hb).members.getLsbD k.rank = true

/-- The task of the acting core is a member of the step group, which is enabled and its tenant's. -/
abbrev InGroup (s : State) (sg : BitVec 5) (n : Nat) (m : Member) : Prop :=
  s.mine (s.sg sg).owner = true ∧ (s.sg sg).en = true ∧ s.me.task = some n ∧ (s.sg sg).member n = some m

/-- The places of the bytes of 4-byte words of vault addresses. -/
def wordPlaces (ws : List Nat) : List Nat := ws.flatMap fun w => addrs (vaultPlace w) 4

/-- The words that the members of a group have written in its open step. -/
def openWords (s : State) (sg : BitVec 5) : List Nat := (s.groupZones sg).flatMap fun n => (s.zone n).plane.map (·.word)

/-- No task of the group waits for a step or is owed a trap. -/
abbrev FreshStep (g : StepGroup) (n : Nat) : Prop := (∀ w ∈ g.waits, w.1 ≠ n) ∧ g.owed = [] ∧ g.steps ∉ g.bad ∧ g.broken = false

end Sys2Proof.Claims

/-- R34, R36, R91, R125: an arrival at a barrier counts when the core's earlier accesses have performed: below the expected count it
adds one; the last one ends the phase, and A is 0 again. At a broken barrier `bara` has no effect. Before the accesses have
performed the arrival is on its way. -/
def Sys2Proof.Claims.BarrierArrival : Prop :=
  ∀ (s : State) (x : Lent) (hb : BitVec 6) (k : Task) (b : Barrier), s.dev.wbuf = [] → s.Ready x Uses.none → MemberOf s hb k →
    b = s.hb hb →
    (Released s → b.broken = false → Gives (.bara x hb) s fun t =>
      (b.count + 1 < b.expect → (t.hb hb).count = b.count + 1 ∧ (t.hb hb).phase = b.phase ∧ (t.hb hb).broken = false) ∧
      (b.expect ≤ b.count + 1 → (t.hb hb).count = 0 ∧ b.phase < (t.hb hb).phase) ∧
      (∀ n, n ≠ hb → t.hb n = s.hb n) ∧ t.me.flights = s.me.flights ∧ Unmoved s t) ∧
    (Released s → b.broken = true → exec (.bara x hb) s = .next s) ∧
    (s.releaseReady s.dev.cur.core (s.me.seq 1) 3 = false → s.me.defer = [] →
      exec (.bara x hb) s = .next (s.modMe fun c => { c with defer := [(s.me.seq 1, .arrive hb k.id false)] }))

/-- R34, R36, R125: `barw` completes when the phase of its task's last arrival has ended: its outcome goes to p15 and TOKSTAT, 1 when
that phase, or the barrier, broke; until then its bundle is held. `barw.a` whose arrival ends the phase completes at once. -/
def Sys2Proof.Claims.BarrierWait : Prop :=
  ∀ (s : State) (x : Lent) (hb : BitVec 6) (k : Task) (b : Barrier), s.dev.wbuf = [] → s.Ready x Uses.none → s.Room → MemberOf s hb k →
    b = s.hb hb → (∀ w ∈ b.waits, w.1 ≠ k.id) → s.arriving hb k.id = false →
    (b.broken = true → Gives (.barw x hb) s fun t => OutcomeDue s t false true hb false ∧ SameRegisters s t ∧ t.mem = s.mem ∧
      t.me.bun = s.me.bun) ∧
    (b.broken = false → ∀ ph, b.last.find? (fun l => l.1 == k.rank) = some (k.rank, ph) →
      (ph < b.phase ∨ ph ∈ b.bad → Gives (.barw x hb) s fun t =>
        OutcomeDue s t false (b.bad.contains ph) hb false ∧ SameRegisters s t ∧ t.mem = s.mem ∧ t.me.bun = s.me.bun) ∧
      (b.phase ≤ ph → ph ∉ b.bad → Gives (.barw x hb) s fun t => t.me.bun.hold = some (.barrier hb) ∧ t.me.flights = s.me.flights ∧
        SameRegisters s t ∧ t.mem = s.mem)) ∧
    (b.broken = false → b.phase ∉ b.bad → Released s → s.arrivingHeld hb k.id = false →
      (b.expect ≤ b.count + 1 → Gives (.barwA x hb) s fun t =>
        OutcomeDue s t false false hb false ∧ (t.hb hb).count = 0 ∧ b.phase < (t.hb hb).phase ∧ SameRegisters s t ∧ t.mem = s.mem ∧
          t.me.bun = s.me.bun) ∧
      (b.count + 1 < b.expect → Gives (.barwA x hb) s fun t =>
        t.me.bun.hold = some (.barrier hb) ∧ (t.hb hb).count = b.count + 1 ∧ t.me.flights = s.me.flights ∧ SameRegisters s t ∧
          t.mem = s.mem))

/-- R34, R36, R241: `barset` binds its barrier to the cohort of its task, with the expected count A and the member set at offset B of
the local store: no arrival has come, a new phase has begun, and every waiter of the old one finds it broken. Operands that R241
excludes trap; a barrier that the tenant was not given refuses with PERM (R212). -/
def Sys2Proof.Claims.BarrierBound : Prop :=
  ∀ (s : State) (x : Lent) (hb a b : BitVec 6) (k : Task) (h : Cohort) (m : BitVec 128), s.dev.wbuf = [] →
    s.Ready x ((Uses.none.r a).r b) → s.dev.writes = [] → NoEntryOver s 0 (Config.lsBase + (s.sreg b).toNat) 16 →
    (s.mine (s.hb hb).owner = false ∨ (s.hb hb).en = false → exec (.barset x hb a b) s = .next (refusedHere s)) ∧
    (s.mine (s.hb hb).owner = true → (s.hb hb).en = true →
    (s.sreg a = 0 ∨ 256 ≤ (s.sreg a).toNat ∨ 2 ^ 20 ≤ (s.sreg b).toNat → exec (.barset x hb a b) s = .next (trappedHere s 0x02)) ∧
    (s.sreg a ≠ 0 → (s.sreg a).toNat < 256 → (s.sreg b).toNat < 2 ^ 20 → 2 ^ 20 < (s.sreg b).toNat + 16 →
      exec (.barset x hb a b) s = .next (trappedHere s 0x06)) ∧
    (s.me.task = some k.id → s.taskById k.id = some k → s.cohortById k.cohort = some h → s.sreg a ≠ 0 → (s.sreg a).toNat < 256 →
    (s.sreg b).toNat + 16 ≤ 2 ^ 20 →
    m = BitVec.ofNat 128 (memNat s (lsPlace s (Config.lsBase + (s.sreg b).toNat)) 16) →
    (m.toNat < 2 ^ h.size → Gives (.barset x hb a b) s fun t =>
      (t.hb hb).cohort = some k.cohort ∧ (t.hb hb).expect = (s.sreg a).toNat ∧ (t.hb hb).members = m ∧ (t.hb hb).count = 0 ∧
        (t.hb hb).arrived = [] ∧ (s.hb hb).phase ∈ (t.hb hb).bad ∧ (s.hb hb).phase < (t.hb hb).phase ∧
        (∀ n, n ≠ hb → t.hb n = s.hb n) ∧ t.me.flights = s.me.flights ∧ Unmoved s t) ∧
    (2 ^ h.size ≤ m.toNat → exec (.barset x hb a b) s = .next (trappedHere s 0x02))))

/-- R14, R34, R36, R91, R125, R241: barriers. -/
def Obligations.Barriers : Prop :=
  Claims.BarrierArrival ∧ Claims.BarrierWait ∧ Claims.BarrierBound

/-- R93, R242, R246: `stepjoin` makes the task a member, with the core's number as its index; `stepleave` counts as its arrival when its
zone accesses have performed, without a wait, and it leaves the group with the commit. From a broken group it leaves at once. -/
def Sys2Proof.Claims.StepMembership : Prop :=
  (∀ (s : State) (x : Lent) (sg : BitVec 5) (k : Task) (g : StepGroup), s.dev.wbuf = [] → s.Ready x Uses.none → g = s.sg sg →
    s.mine g.owner = true → g.en = true → s.me.task = some k.id → s.taskById k.id = some k → g.member k.id = none →
    (g.cohort = none ∨ g.cohort = some k.cohort) → g.members.length < 128 →
    exec (.stepjoin x sg) s = .next (s.modSg sg fun g =>
      { g with
        cohort := some k.cohort
        members := g.members ++
          [{ task := k.id, index := s.dev.cur.core.val, rank := k.rank, arrived := false, leaving := false }] })) ∧
  (∀ (s : State) (x : Lent) (sg : BitVec 5) (n : Nat) (m o : Member) (g : StepGroup), s.dev.wbuf = [] → s.Ready x Uses.none →
    g = s.sg sg → InGroup s sg n m → s.leavingSoon sg n = false → s.me.defer = [] →
    (s.zoneDone s.dev.cur.core sg n (s.me.seq 1) s.dev.nextId = true → g.broken = false → o ∈ g.members → o.task ≠ n →
      o.arrived = false → Gives (.stepleave x sg) s fun t =>
      (t.sg sg).members = g.members.map (fun y => if y.task = n then { y with arrived := true, leaving := true } else y) ∧
        (t.sg sg).steps = g.steps ∧ t.me.flights = s.me.flights ∧ Unmoved s t) ∧
    (g.broken = true → Gives (.stepleave x sg) s fun t =>
      (t.sg sg).members = g.members.filter (fun y => y.task != n) ∧ t.me.flights = s.me.flights ∧ Unmoved s t))

/-- R92, R93, R243, R244, R246: the last member's `step` commits the group: each word that one member alone wrote gets the last value that
it wrote, a word that several wrote what the zone's collision rule makes of their last values in member order; no other byte of
memory changes, the next planes are empty, a new step is open, and p15 and BROKEN become 0. Before the last arrival its bundle is
held. At a broken group `step` ends at once, whatever the member still has to access, with BROKEN and p15 = 1. -/
def Sys2Proof.Claims.StepCommits : Prop :=
  (∀ (s : State) (x : Lent) (sg : BitVec 5) (n : Nat) (m : Member) (g : StepGroup), s.dev.wbuf = [] → s.mem.wf = true →
    s.Ready x Uses.none → s.Room → g = s.sg sg → InGroup s sg n m → FreshStep g n → s.me.defer = [] →
    s.stepSoon sg n false = false →
    s.zoneDone s.dev.cur.core sg n (s.me.seq 1) s.dev.nextId = true →
    ((∀ y ∈ g.members, y.task ≠ n → y.arrived = true) →
      (∀ a ∈ s.groupZones sg, ∀ b ∈ s.groupZones sg, a ≠ b → ∀ p ∈ (s.zone a).plane, ∀ q ∈ (s.zone b).plane, p.word ≠ q.word) →
      (∀ w ∈ openWords s sg, rowOf w = .vault ∧ w % 4 = 0) →
      ((∀ y ∈ g.members, y.leaving = false) ∨ ∀ z ∈ s.groupZones sg, (s.zone z).rule ≠ 3) →
      Gives (.step x sg) s fun t =>
        (∀ z ∈ s.groupZones sg, ∀ w ∈ (s.zone z).plane.map (·.word), memNat t (vaultPlace w) 4 =
          (collide (s.zone z).rule ((memberOrder g.members).filterMap fun y => lastValue (s.zone z).plane y.task w)).toNat) ∧
        SameBytes s t (wordPlaces (openWords s sg)) ∧ (∀ z ∈ s.groupZones sg, (t.zone z).plane = []) ∧
        (t.sg sg).steps = g.steps + 1 ∧ OutcomeDue s t false false (sg.setWidth 6) true ∧ SameRegisters s t ∧ t.me.bun = s.me.bun) ∧
    ((∃ y ∈ g.members, y.task ≠ n ∧ y.arrived = false) → Gives (.step x sg) s fun t =>
      t.me.bun.hold = some (.stepWait sg) ∧ (t.sg sg).steps = g.steps ∧ t.me.flights = s.me.flights ∧ SameRegisters s t ∧ t.mem =
        s.mem)) ∧
  (∀ (s : State) (x : Lent) (sg : BitVec 5) (n : Nat) (m : Member) (g : StepGroup), s.dev.wbuf = [] → s.Ready x Uses.none → s.Room →
    g = s.sg sg → InGroup s sg n m → (∀ w ∈ g.waits, w.1 ≠ n) → g.owed = [] → g.broken = true → s.me.defer = [] →
    s.stepSoon sg n false = false → Gives (.step x sg) s fun t =>
      OutcomeDue s t false true (sg.setWidth 6) true ∧ SameRegisters s t ∧ t.mem = s.mem ∧ t.me.bun = s.me.bun)

/-- R14, R92, R93, R242 to R246: step groups. -/
def Obligations.StepGroups : Prop :=
  Claims.StepMembership ∧ Claims.StepCommits

namespace Sys2Proof.Claims

/-- R13, R292: the special registers of the acting core by number; 0x10 to 0x15 and 0x18 to 0x1F stand apart. -/
def sprFile (s : State) : List (Nat × W64) :=
  let k := s.me
  [(0x00, k.ctx.wid), (0x01, BitVec.ofNat 64 s.dev.cur.core.val), (0x02, k.ctx.tenant.setWidth 64), (0x03, k.clk.cycle),
   (0x04, s.seqlen s.dev.cur.core), (0x05, k.ctx.kvslot), (0x06, k.ctx.occ), (0x07, k.ctx.draft), (0x08, k.ctx.tokstat),
   (0x09, k.ctx.qs.setWidth 64),
   (0x40, (if k.ctx.fz then 1 else 0) ||| (if k.sv.priv then 2 else 0) ||| (if k.sv.pdef then 4 else 0)), (0x41, k.sv.stvec),
   (0x42, k.sv.sepc), (0x43, k.sv.scause), (0x44, k.sv.sfaddr), (0x45, k.sv.sfinfo), (0x46, k.sv.ssave), (0x47, k.sv.stsave),
   (0x48, k.sv.slsave), (0x49, k.sv.lsmask.setWidth 64), (0x4A, k.sv.town), (0x4B, k.sv.towna), (0x4C, k.sv.ctxid),
   (0x4D, k.sv.snext), (0x4E, BitVec.ofNat 64 k.snap.length)]

/-- R13, R154, R189, R292: the value of a special register. -/
def sprOf (s : State) (n : BitVec 8) : W64 :=
  match (sprFile s).find? fun p => p.1 == n.toNat with
  | some p => p.2
  | none =>
    if 0x10 ≤ n.toNat ∧ n.toNat ≤ 0x15 then match s.me.ctx.loops[n.toNat - 0x10]? with
      | some l => BitVec.ofNat 64 l.idx
      | none => 0
    else (s.me.mat.tcfg.toList.getD (n.toNat - 0x18) 0).setWidth 64

/-- R13, R293: what a write of a word leaves in the fields that `mtsr` may write. -/
def sprWritten (n : BitVec 8) (w : W64) : W64 := match n.toNat with
  | 0x06 => if 256 < w.toNat then 256 else w
  | 0x07 => if 64 < w.toNat then 64 else w
  | 0x40 => w &&& 1
  | 0x46 => w &&& 0x000FFFFFFFFFF000
  | 0x47 | 0x48 => w &&& 0x000FFFFFFFFF0000
  | 0x49 => w &&& 0xFFFF
  | _ => w &&& 0x000FFFFFFFFFFFFC

/-- R291, R292: the registers that `mtsr` writes at a level. -/
abbrev writable (priv : Bool) (n : BitVec 8) : Prop :=
  n = 0x06 ∨ n = 0x07 ∨ (priv = true ∧ (n = 0x40 ∨ n = 0x41 ∨ n = 0x42 ∨ n = 0x46 ∨ n = 0x47 ∨ n = 0x48 ∨ n = 0x49))

/-- R291: the privileged syllables, with their lent byte and operands. -/
def privRow : Instr → Option (Lent × Uses)
  | .eret x | .wfi x | .halt x | .csave x _ | .crest x _ | .tsave x _ | .tsaveOut x _ | .tlbinvAll x _ => some (x, Uses.none)
  | .tlbinvPage x _ a | .tlbinvTen x _ a => some (x, Uses.none.r a)
  | _ => none

/-- R313: the system engine operations: lent byte, operands and token register. -/
def sysRow : Instr → Option (Lent × Uses × BitVec 6)
  | .csave x d | .crest x d | .tsave x d | .tsaveOut x d | .tlbinvAll x d => some (x, Uses.none, d)
  | .tlbinvPage x d a | .tlbinvTen x d a => some (x, Uses.none.r a, d)
  | _ => none

/-- R317, R319, R335: what a system engine operation that waits for earlier accesses has to do. -/
def workOf (s : State) : Instr → Option SysWork
  | .crest .. => some .crest
  | .tlbinvPage _ _ a => some (.inv 0 (s.sreg a))
  | .tlbinvTen _ _ a => some (.inv 1 (s.sreg a))
  | .tlbinvAll .. => some (.inv 2 0)
  | _ => none

/-- A system engine operation has begun: it holds its token, or what it has to do, and D is pending from issue + 1 (R215, R313). -/
abbrev SysBegun (t : State) (d : BitVec 6) (token : W64) (todo : Option SysWork) : Prop :=
  ∃ o, t.me.sysop = some o ∧ o.token = token ∧ o.todo = todo ∧ o.reg = 0 ∧
    ∃ f ∈ t.me.flights, f.dest = .pend d (decide (48 ≤ d.toNat)) o.op ∧ f.rem = 1 ∧ f.counts = false

/-- A span of one vault of the core's tenant, outside every zone, which no turn that is asked about waits for (log 73). -/
abbrev OwnSpan (s : State) (va n : Nat) : Prop :=
  rowOf va = .vault ∧ va % 4096 = 0 ∧ va + n ≤ Config.vaultEnd ∧ vaultOf va = vaultOf (va + n - 1) ∧
    s.ownsVault (s.coreTenant s.dev.cur.core) (vaultOf va) = true ∧ s.zoneAt va n = none ∧ s.dev.probe = none

/-- Does a TLB entry map any address? -/
abbrev Covers (e : TlbEntry) : Prop := e.page < 2 ^ 64 ∧ 0 < e.size

/-- The acting core's task, held and loaded on it. -/
abbrev LoadedTask (s : State) (k : Task) : Prop :=
  s.me.task = some k.id ∧ s.taskById k.id = some k ∧ k.where_ = .on s.dev.cur.core

end Sys2Proof.Claims

/-- R13, R189, R291, R292, R293, R316: `mfsr` issues the register's value for D at issue + 1; `mtsr` writes its RW fields at issue + 1
and nothing else; both raise PERM for a register that the level may not read or write. -/
def Sys2Proof.Claims.SpecialRegisters : Prop :=
  (∀ (s : State) (x : Lent) (d : BitVec 6) (n : BitVec 8), (Instr.mfsr x d n).wf = true → s.dev.wbuf = [] → s.Ready x Uses.none →
    (s.me.priv = true ∨ n.toNat < 0x40 → s.Room →
      exec (.mfsr x d n) s = .next (s.issues (s.due 1 (.s d s.me.priv) false ((sprOf s n).setWidth 1024)))) ∧
    (s.me.priv = false → 0x40 ≤ n.toNat → exec (.mfsr x d n) s = .next (trappedHere s 0x08))) ∧
  (∀ (s : State) (x : Lent) (a : SSrc) (n : BitVec 8), (Instr.mtsr x a n).wf = true → s.dev.wbuf = [] → s.Ready x (Uses.none.s a) →
    (writable s.me.priv n →
      exec (.mtsr x a n) s = .next (s.issues (effectDue s (.spr n) ((sprWritten n (s.src a)).setWidth 1024)))) ∧
    (¬ writable s.me.priv n → exec (.mtsr x a n) s = .next (trappedHere s 0x08))) ∧
  (∀ (s : State) (k : Core) (f : Flight) (n : BitVec 8), f.dest = .spr n → writable true n →
    k = s.me.landDest f →
      sprOf (s.modMe fun _ => k) n = (if n = 0x40 then (sprOf s n &&& ~~~1) ||| (f.val.setWidth 64 &&& 1)
        else if n = 0x49 then f.val.setWidth 64 &&& 0xFFFF else f.val.setWidth 64) ∧
      ∀ m : BitVec 8, m ≠ n → m ≠ 0x04 → sprOf (s.modMe fun _ => k) m = sprOf s m)

/-- R247: `seqbind` names a sequence: KVSLOT takes A[16:0] at issue + 1. A value of 18 bits or more raises ILLEGAL_OPCODE, and with
A[16] = 1 an undefined arena or a slot that it does not have KV_RANGE. -/
def Sys2Proof.Claims.SequenceBound : Prop :=
  (∀ (s : State) (x : Lent) (a : BitVec 6) (v kva : W64), s.dev.wbuf = [] → s.Ready x (Uses.none.r a) → v = s.sreg a →
    kva = BitVec.ofNat 64 (field v 12 4 * 2 ^ 60 + field v 0 12 * 2 ^ 48) →
    (2 ^ 17 ≤ v.toNat → exec (.seqbind x a) s = .next (trappedHere s 0x02)) ∧
    (v.toNat < 2 ^ 17 → v.getLsbD 16 = true → s.kvaFault kva = true → exec (.seqbind x a) s = .next (trappedHere s 0x10)) ∧
    (v.toNat < 2 ^ 17 → (v.getLsbD 16 = false ∨ s.kvaFault kva = false) →
      exec (.seqbind x a) s = .next (s.issues (effectDue s (.spr 0x05) (v.setWidth 1024))))) ∧
  (∀ (k : Core) (f : Flight), f.dest = .spr 0x05 → k.landDest f = k.modCtx fun x => { x with kvslot := f.val.setWidth 64 })

/-- R291, R314, R315, R320, R321: at user level every privileged syllable raises PERM. At supervisor level `syscall` leaves its number
for the trap after its bundle; `eret` alone in its bundle returns to user level at SEPC, 3 clocks after issue, with its snapshot in
flight; `halt` halts the core and kills its task; `wfi` frees the core, and its task is saved at SSAVE. -/
def Sys2Proof.Claims.LevelChanges : Prop :=
  (∀ (i : Instr) (s : State) (x : Lent) (u : Uses), privRow i = some (x, u) → s.dev.wbuf = [] → s.Ready x u → s.me.priv = false →
    exec i s = .next (trappedHere s 0x08)) ∧
  (∀ (s : State) (x : Lent) (n : BitVec 16), s.dev.wbuf = [] → s.Ready x Uses.none →
    exec (.syscall x n) s = .next (s.modBun fun b => { b with syscall := some (n.setWidth 64) })) ∧
  (∀ (s : State) (x : Lent), s.dev.wbuf = [] → s.Ready x Uses.none → s.me.priv = true →
    (s.me.bun.single = false → exec (.eret x) s = .next (trappedHere s 0x02)) ∧
    (s.me.bun.single = true → Gives (.eret x) s fun t =>
      t.me.sv.priv = false ∧ t.me.ctx.pc = s.me.sv.sepc ∧ t.me.clk.gap = 2 ∧ t.me.snap = [] ∧ t.me.held = s.me.heldSnap ∧
        (∀ n : Fin 4, (t.me.latch.get n).stale = true) ∧
        (∀ f ∈ s.me.snap, f.valid = true → f.err = false → { f with rem := f.rem + 3 } ∈ t.me.flights) ∧
        t.me.ctx.s = s.me.ctx.s ∧ t.me.ctx.v = s.me.ctx.v ∧ t.mem = s.mem ∧
        ∀ k, s.me.task = some k.id → s.taskById k.id = some k → t.taskById k.id = some { k with where_ := .on s.dev.cur.core })) ∧
  (∀ (s : State) (x : Lent), s.dev.wbuf = [] → s.Ready x Uses.none → s.me.priv = true →
    (Gives (.halt x) s fun t => t.me.run = .halted ∧ (∀ k, s.me.task = some k.id → s.taskById k.id = some k → k.alive = true →
      t.me.task = none ∧ ∃ k', t.taskById k.id = some k' ∧ k'.where_ = .ended true)) ∧
    (Gives (.wfi x) s fun t => t.me.run = .free ∧ t.me.task = none ∧ t.me.flights = [] ∧ t.me.snap = [] ∧ t.me.sv.priv = true ∧
      ∀ k, LoadedTask s k → t.taskById k.id = some { k with where_ := .saved, area := some s.me.sv.ssave.toNat }))

/-- R13, R247, R291 to R293, R314 to R316, R320, R321: special registers, `seqbind`, and the instructions that change the level. -/
def Obligations.SystemInstructions : Prop :=
  Claims.SpecialRegisters ∧ Claims.SequenceBound ∧ Claims.LevelChanges

/-- R313, R317, R318, R319, R335, R382: at supervisor level a system engine operation begins when none is in flight, else it raises
ILLEGAL_OPCODE. `crest` and `tlbinv` then have their work to do; `tsave` of an owner changes nothing, as R382 has it: that this rule, and
not the last line of R318, which would write TOWN and TOWNA, is followed is the model's choice (log 110). `tsave.out` leaves the tile file
owned by no context. -/
def Sys2Proof.Claims.SystemOperationBegins : Prop :=
  ∀ (i : Instr) (s : State) (x : Lent) (u : Uses) (d : BitVec 6), sysRow i = some (x, u, d) → s.dev.wbuf = [] → s.Ready x u →
    s.me.priv = true →
    (s.me.sysop ≠ none → exec i s = .next (trappedHere s 0x02)) ∧
    (s.me.sysop = none →
      (∀ w, workOf s i = some w → Gives i s fun t => SysBegun t d 0 (some w) ∧ SameRegisters s t ∧ t.mem = s.mem) ∧
      (∀ y, i = .tsave y d → s.me.ownsTiles = true → Gives i s fun t => SysBegun t d (BitVec.ofNat 64 (2 ^ 56)) none ∧
        t.me.sv = s.me.sv ∧ t.me.ctx = s.me.ctx ∧ t.me.mat = s.me.mat ∧ t.mem = s.mem) ∧
      (∀ y, i = .tsave y d → s.me.sv.town.getLsbD 32 = false → OwnSpan s (s.me.sv.stsave.toNat + 0xC8000) 4096 →
        memNat s (vaultPlace (s.me.sv.stsave.toNat + 0xC8040)) 8 % 2 = 0 → Gives i s fun t =>
          SysBegun t d (BitVec.ofNat 64 (2 ^ 56 + 8)) none ∧ t.mem = s.mem ∧ t.me.sv.towna = s.me.sv.stsave ∧
          t.me.sv.town = (s.me.sv.ctxid &&& 0xFFFFFFFF) ||| 0x100000000 ∧ (∀ n : Fin 8, t.me.mat.tcfg.get n = 0) ∧
          ∀ n : Fin 4, t.me.mat.tag.get n = none) ∧
      (∀ y, i = .tsaveOut y d → s.me.sv.town.getLsbD 32 = false → Gives i s fun t =>
        SysBegun t d (BitVec.ofNat 64 (2 ^ 56)) none ∧ t.me.sv = s.me.sv ∧ t.me.mat = s.me.mat ∧
          t.mem = s.mem) ∧
      (∀ y, i = .tsaveOut y d → s.me.sv.town.getLsbD 32 = true → (∀ n : Fin 8, (s.me.mat.tcfg.get n).getLsbD 19 = false) →
        (∀ n, 36 ≤ n → n < 40 → s.me.sv.town.getLsbD n = false) → s.mem.wf = true →
        OwnSpan s (s.me.sv.towna.toNat + 0xC8000) 4096 → Gives i s fun t =>
          SysBegun t d (BitVec.ofNat 64 (2 ^ 56 + 72)) none ∧ t.me.sv.town.getLsbD 32 = false ∧
          (∀ n : Fin 8, memNat t (vaultPlace (s.me.sv.towna.toNat + 0xC8000) + 8 * n.val) 8 = (s.me.mat.tcfg.get n).toNat % 2 ^ 19) ∧
          memNat t (vaultPlace (s.me.sv.towna.toNat + 0xC8000) + 64) 8 = 1 ∧
          SameBytes s t (addrs (vaultPlace (s.me.sv.towna.toNat + 0xC8000)) 72)))

/-- R305, R307, R317: `csave` with no live granule writes the context's 24 KiB at SSAVE as they stand at issue, counts them in its
token, and its task is saved there: SEPC, the scalar registers, the predicates, the vector registers and the loop count lie at the
offsets of R305, and no other byte of memory changes. -/
def Sys2Proof.Claims.ContextSaved : Prop :=
  ∀ (s : State) (x : Lent) (d : BitVec 6) (k : Task) (p : Nat), s.dev.wbuf = [] → s.mem.wf = true → s.Ready x Uses.none →
    s.me.priv = true → s.me.sysop = none → s.me.sv.lsmask = 0 → OwnSpan s s.me.sv.ssave.toNat 0x6000 → LoadedTask s k →
    s.me.snap.length ≤ 64 → s.me.ctx.loops.length ≤ 6 → p = vaultPlace s.me.sv.ssave.toNat →
    Gives (.csave x d) s fun t =>
      SysBegun t d (BitVec.ofNat 64 (2 ^ 56 + 0x6000)) none ∧
      t.taskById k.id = some { k with where_ := .saved, area := some s.me.sv.ssave.toNat } ∧
      memNat t p 8 = s.me.sv.sepc.toNat ∧ memNat t (p + 0x10) 8 = s.me.ctx.wid.toNat ∧
      memNat t (p + 0x48) 8 = (s.me.ctx.p ||| 1).toNat ∧ memNat t (p + 0xA0) 8 = s.me.ctx.loops.length ∧
      (∀ r : Fin 64, r ≠ 0 → memNat t (p + 0x400 + 8 * r.val) 8 = (s.me.ctx.s.get r).toNat) ∧
      (∀ r : Fin 32, memNat t (p + 0x1C00 + 128 * r.val) 128 = (s.me.ctx.v.get r).toNat) ∧
      SameBytes s t (addrs p 0x6000) ∧ SameRegisters s t

/-- R319, R335: a `tlbinv` whose core's earlier accesses have performed, and which no translated access waits for, removes what it
names when its token lands: one tenant's entries, or every entry, from every TLB; and its token is COMPLETE. A `tlbinv.ten` of
another tenant removes nothing and has PERM; that the tenant meant is the one that owns the core's cluster is the model's reading
(log 97). -/
def Sys2Proof.Claims.TranslationsRemoved : Prop :=
  ∀ (s : State) (o : SysOp) (kind : BitVec 2) (a : W64) (c : CoreId), s.dev.wbuf = [] → c = s.dev.cur.core →
    s.engOp s.dev.cur.n = none → s.me.sysop = some o → o.op = s.dev.cur.n → o.todo = some (.inv kind a) → o.reg ≠ 0 →
    s.me.flights = [] → s.accessesDone c o.seq 3 false = true → s.dev.writes = [] → (∀ d, (s.core d).ops = []) →
    (∀ e ∈ s.dev.eng, e.grains = []) →
    (kind = 2 → Gives .tokenLands s fun t => (∀ d, ∀ e ∈ (t.core d).utlb, ¬ Covers e) ∧ (∀ n, ∀ e ∈ t.dev.ctlb.get n, ¬ Covers e) ∧
      (∀ e ∈ t.dev.lltlb, ¬ Covers e) ∧ t.me.sysop = none ∧
      t.me.sreg o.reg = (if s.me.priv = true ∨ o.reg.toNat < 48 then BitVec.ofNat 64 (2 ^ 56) else s.me.sreg o.reg) ∧ t.mem = s.mem) ∧
    (kind = 1 → field a 0 4 = (s.coreTenant c).val → Gives .tokenLands s fun t =>
      (∀ d, ∀ e ∈ (t.core d).utlb, e ∈ (s.core d).utlb ∧ (Covers e → e.tenant.toNat ≠ (s.coreTenant c).val)) ∧
      (∀ e ∈ t.dev.lltlb, e ∈ s.dev.lltlb ∧ (Covers e → e.tenant.toNat ≠ (s.coreTenant c).val)) ∧ t.mem = s.mem) ∧
    (kind = 1 → field a 0 4 ≠ (s.coreTenant c).val → Gives .tokenLands s fun t =>
      (∀ d, (t.core d).utlb = (s.core d).utlb) ∧ t.dev.lltlb = s.dev.lltlb ∧ t.me.sysop = none ∧ t.mem = s.mem ∧
      t.me.sreg o.reg = (if s.me.priv = true ∨ o.reg.toNat < 48 then BitVec.ofNat 64 (2 * 2 ^ 56 + 0x08 * 2 ^ 48) else s.me.sreg o.reg))

/-- R305, R307, R313, R317 to R319, R335, R382: `csave`, `crest`, the removal of translations, and the other system operations. -/
def Obligations.SystemOperations : Prop :=
  Claims.SystemOperationBegins ∧ Claims.ContextSaved ∧ Claims.TranslationsRemoved

namespace Sys2Proof.Claims

/-- Register `r` of the acting queue. -/
def creg (s : State) (r : BitVec 4) : W64 := s.myCq.c.get r.toFin

/-- The acting queue runs a command that reads `reads`: enabled, RUNNING, no recovery, and no awaited register read (R345, R361). -/
abbrev QueueRuns (s : State) (reads : List (BitVec 4)) : Prop :=
  s.myCq.en = true ∧ s.myCq.state = 1 ∧ s.dev.board.recovery = false ∧ ∀ r ∈ reads, ∀ a ∈ s.myCq.awaits, a.1 ≠ r

/-- A command has completed: what it does to its queue, and PROG, whose windows start again (R365). -/
def progressed (s : State) (f : CmdQueue → CmdQueue) : State := s.modMyCq fun c =>
  { f c with prog := c.prog + 1, since := s.dev.board.dtime, wdPre := false }

/-- A command of `len` bytes has completed, and the next one follows (R349). -/
def ran (s : State) (len : Nat) (f : CmdQueue → CmdQueue) : State :=
  progressed s fun c => { f c with cpc := c.cpc + BitVec.ofNat 64 len }

/-- A command has completed and transfers to `pc` (R353). -/
def went (s : State) (f : CmdQueue → CmdQueue) (pc : W64) : State := progressed s fun c => { f c with cpc := pc }

/-- cD becomes `w`, and no longer awaits a token (R361). -/
def putC (d : BitVec 4) (w : W64) (c : CmdQueue) : CmdQueue :=
  { c with c := c.c.set d.toNat w d.isLt, awaits := c.awaits.filter fun a => a.1 != d }

/-- R352, R364: the commands whose whole effect is a value for cD: length, registers read, D, and the value. -/
def valueRow (s : State) : Instr → Option (Nat × List (BitVec 4) × BitVec 4 × W64)
  | .cmov d a => some (4, [a], d, creg s a)
  | .cmovi d imm => some (4, [], d, imm.signExtend 64)
  | .cmoviExt d ext => some (12, [], d, ext)
  | .cadd d a b => some (4, [a, b], d, creg s a + creg s b)
  | .caddImm d a ext => some (12, [a], d, creg s a + ext)
  | .csub d a b => some (4, [a, b], d, creg s a - creg s b)
  | .csubImm d a ext => some (12, [a], d, creg s a - ext)
  | .cand d a b => some (4, [a, b], d, creg s a &&& creg s b)
  | .candImm d a ext => some (12, [a], d, creg s a &&& ext)
  | .cor d a b => some (4, [a, b], d, creg s a ||| creg s b)
  | .corImm d a ext => some (12, [a], d, creg s a ||| ext)
  | .ccmp d a b cond => some (4, [a, b], d, if condition cond (creg s a) (creg s b) then 1 else 0)
  | .ccmpImm d a ext cond => some (12, [a], d, if condition cond (creg s a) ext then 1 else 0)
  | .ctime d => some (4, [], d, BitVec.ofNat 64 s.dev.board.dtime)
  | _ => none

/-- CPC + disp: a displacement counts words from the command's own address (R350). -/
def branchTo (s : State) (disp : BitVec 14) : W64 := s.myCq.cpc + disp.signExtend 64 * 4

/-- The tenant of the acting queue may use the 8 bytes at `va` for `acc`, outside every zone; they stand at place `p`. -/
abbrev Reaches (s : State) (acc : Acc) (va : W64) (p : Nat) : Prop :=
  va.toNat % 8 = 0 ∧ rowSpan va.toNat 8 ≠ .hole ∧ s.engPlace s.dev.cur.t none acc va.toNat = .ok p ∧ s.zoneAt va.toNat 8 = none

/-- Only memory, and under which keys its data units stand, differs from a given state. -/
abbrev BesidesMemory (t u : State) : Prop := { t.dev with tags := u.dev.tags } = u.dev ∧ t.part = u.part

/-- The acting queue has entered FAULTED with a code, on the same command, and completed nothing (R351). -/
abbrev QueueFaulted (s t : State) (code : Nat) : Prop :=
  t.myCq = { s.myCq with state := 3, code := BitVec.ofNat 8 code } ∧ t.dev.cores = s.dev.cores ∧ t.part = s.part

end Sys2Proof.Claims

/-- R352, R365: each register command writes cD alone, discarding a token that cD awaits, advances CPC past itself and PROG by one, and
changes nothing else. -/
def Obligations.RegisterCommands : Prop :=
  ∀ (i : Instr) (s : State) (len : Nat) (reads : List (BitVec 4)) (d : BitVec 4) (v : W64),
    valueRow s i = some (len, reads, d, v) → s.dev.wbuf = [] → QueueRuns s reads → exec i s = .next (ran s len (putC d v))

/-- R347, R353, R361, R364: the control commands: where the queue goes, what becomes of the register that `cloop` counts and of the
call stack, a ninth call, the end of a submission, and `chalt`; and a command that reads an awaited register waits. -/
def Obligations.ControlCommands : Prop :=
  ∀ (s : State), s.dev.wbuf = [] →
    (∀ (d : BitVec 4) (disp : BitVec 14), QueueRuns s [] → exec (.cbr 0 d disp) s = .next (went s id (branchTo s disp))) ∧
    (∀ (m : BitVec 2) (d : BitVec 4) (disp : BitVec 14), m = 1 ∨ m = 2 → QueueRuns s [d] →
      exec (.cbr m d disp) s = .next (if (creg s d = 0) ↔ m = 1 then went s id (branchTo s disp) else ran s 4 id)) ∧
    (∀ (d : BitVec 4) (disp : BitVec 14), QueueRuns s [d] →
      exec (.cloop d disp) s = .next (if creg s d = 0 then ran s 4 id
        else if creg s d = 1 then ran s 4 (putC d 0) else went s (putC d (creg s d - 1)) (branchTo s disp))) ∧
    (∀ (i : Instr) (pc : W64) (reads : List (BitVec 4)),
      (∃ disp, i = .ccall disp ∧ pc = branchTo s disp ∧ reads = []) ∨ (∃ a, i = .ccallIndirect a ∧ pc = creg s a ∧ reads = [a]) →
      QueueRuns s reads →
      (s.myCq.stack.length < 8 → exec i s = .next (went s (fun c => { c with stack := (c.cpc + 4) :: c.stack }) pc)) ∧
      (8 ≤ s.myCq.stack.length → Gives i s fun t => QueueFaulted s t 0x02)) ∧
    (QueueRuns s [] →
      (∀ pc rest, s.myCq.stack = pc :: rest → exec .cret s = .next (went s (fun c => { c with stack := rest }) pc)) ∧
      (s.myCq.stack = [] → exec .cret s = .next (progressed s fun c => { c with rp := c.rp + 1, state := 0 })) ∧
      exec .chalt s = .next (ran s 4 fun c => { c with state := 2 })) ∧
    (∀ (i : Instr) (len : Nat) (reads : List (BitVec 4)) (d r : BitVec 4) (v : W64), valueRow s i = some (len, reads, d, v) →
      r ∈ reads → (∃ a ∈ s.myCq.awaits, a.1 = r) → exec i s = .next s)

/-- R351, R354, R363: at an aligned address that the tenant may use, `cld` loads 8 bytes into cD, `cst` stores cD's and changes no
other byte, `csig.set` and `csig.add` replace the word, and `cwait` completes when the word meets its condition and waits when not.
A misaligned address, or one that the tenant may not use, faults the queue with the rule's code and CPC on the command. -/
def Obligations.MemoryCommands : Prop :=
  ∀ (s : State), s.dev.wbuf = [] → s.mem.wf = true →
    (∀ (d a : BitVec 4) (off : BitVec 13) (p : Nat), QueueRuns s [a] → Reaches s .read (creg s a + off.signExtend 64 * 8) p →
      exec (.cld d a off) s = .next (ran s 4 (putC d (BitVec.ofNat 64 (shownNat s p 8))))) ∧
    (∀ (d a : BitVec 4) (off : BitVec 13) (p : Nat), QueueRuns s [a, d] → Reaches s .write (creg s a + off.signExtend 64 * 8) p →
      Gives (.cst d a off) s fun t => shownNat t p 8 = (creg s d).toNat ∧ SameBeside s t p 8 ∧ BesidesMemory t (ran s 4 id)) ∧
    (∀ (i : Instr) (a b : BitVec 4) (p : Nat) (v : W64),
      (i = .csigSet a b ∧ v = creg s b) ∨ (i = .csigAdd a b ∧ v = BitVec.ofNat 64 (shownNat s p 8) + creg s b) →
      QueueRuns s [a, b] → (∀ acc, acc = .read ∨ acc = .write ∨ acc = .rmw → Reaches s acc (creg s a) p) →
      Gives i s fun t => shownNat t p 8 = v.toNat ∧ SameBeside s t p 8 ∧ BesidesMemory t (ran s 4 id)) ∧
    (∀ (a b : BitVec 4) (cond : BitVec 3) (p : Nat) (m : W64), (Instr.cwait a b cond).wf = true → QueueRuns s [a, b] →
      Reaches s .read (creg s a) p → m = BitVec.ofNat 64 (shownNat s p 8) →
      exec (.cwait a b cond) s =
        .next (if (if cond = 0 then m = creg s b else if cond = 1 then m ≠ creg s b else (creg s b).toNat ≤ m.toNat)
          then ran s 4 id else s)) ∧
    (∀ (i : Instr) (acc : Acc) (va : W64) (reads : List (BitVec 4)) (code : Nat),
      (∃ d a off, i = .cld d a off ∧ acc = .read ∧ va = creg s a + off.signExtend 64 * 8 ∧ reads = [a]) ∨
      (∃ d a off, i = .cst d a off ∧ acc = .write ∧ va = creg s a + off.signExtend 64 * 8 ∧ reads = [a, d]) ∨
      (∃ a b, (i = .csigSet a b ∨ i = .csigAdd a b) ∧ acc = .rmw ∧ va = creg s a ∧ reads = [a, b]) ∨
      (∃ a b cond, i = .cwait a b cond ∧ acc = .read ∧ va = creg s a ∧ reads = [a, b]) →
      QueueRuns s reads →
      (va.toNat % 8 ≠ 0 ∧ code = 0x06) ∨
        (va.toNat % 8 = 0 ∧ rowSpan va.toNat 8 ≠ .hole ∧ s.zoneAt va.toNat 8 = none ∧
          s.engPlace s.dev.cur.t none acc va.toNat = .error code) →
      Gives i s fun t => QueueFaulted s t code)

namespace Sys2Proof.Claims

/-- An address in resource space: kind, index and doubleword, with every other bit 0 (R355). -/
def rsa (kind idx dw : Nat) : W64 := BitVec.ofNat 64 (kind * 2 ^ 20 + idx * 2 ^ 8 + dw * 8)

/-- A resource of the acting queue's tenant: its kind, index and a doubleword of its record (R355). -/
abbrev OwnRecord (s : State) (kind idx dw : Nat) : Prop :=
  1 ≤ kind ∧ kind ≤ 7 ∧ idx < resCount kind ∧ dw < 32 ∧ s.resOwner kind idx = some (BitVec.ofNat 4 s.dev.cur.t.val)

/-- A stream that a register names, of the acting queue's tenant (R364). -/
abbrev OwnStream (s : State) (w : W64) : Prop := (s.strm (w.setWidth 8)).owner = some (BitVec.ofNat 4 s.dev.cur.t.val)

/-- R362: a fence of commands, and whether it waits for the queue's copies and launches. -/
def cmdFenceRow : Instr → Option (Bool × Bool)
  | .cfenceCopy => some (true, false)
  | .cfenceLaunch => some (false, true)
  | .cfenceAll => some (true, true)
  | _ => none

/-- What a fence of commands waits for is over (R362). -/
abbrev FenceOver (s : State) (copies launches : Bool) : Prop :=
  (copies = true → ∀ o ∈ s.dev.eng, o.owner ≠ .queue s.dev.cur.t s.dev.cur.q) ∧
  (launches = true → ∀ l ∈ s.dev.launches, l.tenant = s.dev.cur.t → l.queue = s.dev.cur.q → s.launchGone l.id = true)

end Sys2Proof.Claims

/-- R355 to R357: `cld.r` returns a doubleword of a resource record of the tenant, COUNT of a hardware queue being its tokens held;
`cst.r` to a disabled record of kinds 1 to 6 writes its fields, to an enabled one other than DW0 faults with PERM; a resource
that the tenant was not given faults with PERM, an address that breaks the layout with ILLEGAL_OPCODE. -/
def Obligations.ResourceCommands : Prop :=
  ∀ (s : State) (d a : BitVec 4) (off : BitVec 13) (kind idx dw : Nat), s.dev.wbuf = [] → QueueRuns s [a, d] →
    creg s a + off.signExtend 64 * 8 = rsa kind idx dw →
    (OwnRecord s kind idx dw →
      exec (.cldR d a off) s = .next (ran s 4 (putC d (s.resRead kind idx dw))) ∧
      (kind = 1 → dw = 2 → s.resRead kind idx dw = BitVec.ofNat 64 (s.hq (BitVec.ofNat 8 idx)).toks.length) ∧
      (kind ≠ 7 → (s.resRead kind idx 0).getLsbD 0 = false → (dw = 0 → (creg s d).getLsbD 0 = false) →
        resRange kind dw (creg s d &&& resMask kind dw) = true → ¬ (kind = 1 ∧ dw = 2) →
        Gives (.cstR d a off) s fun t => t.resRead kind idx dw = creg s d &&& resMask kind dw ∧
          (∀ k i n, 1 ≤ k → k ≤ 7 → i < resCount k → n < 32 → (k, i, n) ≠ (kind, idx, dw) → t.resRead k i n = s.resRead k i n) ∧
          t.mem = s.mem ∧ t.myCq = (ran s 4 id).myCq) ∧
      ((s.resRead kind idx 0).getLsbD 0 = true → dw ≠ 0 → Gives (.cstR d a off) s fun t => QueueFaulted s t 0x08 ∧
        ∀ k i n, t.resRead k i n = s.resRead k i n)) ∧
    (1 ≤ kind → kind ≤ 7 → idx < resCount kind → dw < 32 → s.resOwner kind idx ≠ some (BitVec.ofNat 4 s.dev.cur.t.val) →
      (Gives (.cldR d a off) s fun t => QueueFaulted s t 0x08) ∧ (Gives (.cstR d a off) s fun t => QueueFaulted s t 0x08)) ∧
    (kind < 16 → idx < 256 → dw < 32 → (kind = 0 ∨ 7 < kind ∨ resCount kind ≤ idx) →
      Gives (.cldR d a off) s fun t => QueueFaulted s t 0x02)

/-- R359 to R364, R376: the commands that act on other parts. `claunch` of a start vector that passes every check adds its launch, its
cohorts, ready, and its tasks, and sets cD to 0; of one that does not, it sets cD to the reason, 13 where it cannot be read (the
model's choice, log 19); it waits while the list of launches is full. `cseg` installs and removes a
segment table. `ccopy` and `ccopy.c` start a copy whose token cD awaits. The fences wait; `crung.rd` and `crung.set` read a
stream's rung and request one; `cint` raises a vector. -/
def Obligations.LaunchAndCopyCommands : Prop :=
  ∀ (s : State), s.dev.wbuf = [] →
    (∀ (d a b : BitVec 4), QueueRuns s [a, b] →
      (s.launchListFull s.dev.cur.t = true → exec (.claunch d a b) s = .next s) ∧
      (s.launchListFull s.dev.cur.t = false → s.readLaunch s.dev.cur.t s.dev.cur.q (creg s a).toNat (creg s b) = none →
        Gives (.claunch d a b) s fun t => t.myCq = (ran s 4 (putC d 13)).myCq)) ∧
    (∀ (d a b : BitVec 4) (l : Launch), QueueRuns s [a, b] → s.launchListFull s.dev.cur.t = false →
      s.readLaunch s.dev.cur.t s.dev.cur.q (creg s a).toNat (creg s b) = some l →
      (s.rejection l ≠ 0 → exec (.claunch d a b) s = .next (ran s 4 (putC d (BitVec.ofNat 64 (s.rejection l))))) ∧
      (s.rejection l = 0 → Gives (.claunch d a b) s fun t => t.myCq = (ran s 4 (putC d 0)).myCq ∧ t.mem = s.mem ∧
        ∃ n cs ks, t.dev.launches = s.dev.launches ++ [{ l with id := n }] ∧ t.dev.cohorts = s.dev.cohorts ++ cs ∧
          t.dev.tasks = s.dev.tasks ++ ks ∧ (∀ c ∈ cs, c.launch = n ∧ c.state = .ready ∧ c.size = l.size) ∧
          cs.length = (((List.range 6).take l.level).map l.countN).prod ∧ ks.length = ((List.range 6).map l.countN).prod ∧
          ∀ k ∈ ks, k.where_ = .fresh ∧ k.ctxid = 0 ∧ ∃ c ∈ cs, k.cohort = c.id)) ∧
    (∀ (a : BitVec 4) (h m n : Nat), QueueRuns s [a] → (creg s a).toNat % 64 = 0 →
      s.devNat s.dev.cur.t (creg s a).toNat 8 = .ok h → s.devNat s.dev.cur.t ((creg s a).toNat + 8) 8 = .ok m → n = h / 2 ^ 32 →
      (∀ l ∈ s.dev.launches, l.tenant = s.dev.cur.t → l.image = BitVec.ofNat 32 h → s.launchAlive l.id = false) →
      (∀ bs, 1 ≤ n → n ≤ 256 → s.devRead s.dev.cur.t ((creg s a).toNat + 16) (16 * n) = .ok bs →
        (m = 0 ∨ ∃ ms, s.devRead s.dev.cur.t m 8704 = .ok ms ∧ sectionOk ms = true) →
        (∀ k, k < n → leNat ((bs.drop (16 * k)).take 8) % 2 ^ 16 = 0 ∧ leNat ((bs.drop (16 * k)).take 8) < Config.vaultBase ∧
          4 ≤ leNat ((bs.drop (16 * k + 8)).take 8) ∧ leNat ((bs.drop (16 * k + 8)).take 8) ≤ 131072 ∧
          leNat ((bs.drop (16 * k + 8)).take 8) % 4 = 0) →
        ((s.tenant s.dev.cur.t).images.length < 8 ∨ ∃ i ∈ (s.tenant s.dev.cur.t).images, i.id = BitVec.ofNat 32 h) →
        Gives (.cseg a) s fun t => t.myCq = (ran s 4 id).myCq ∧ t.mem = s.mem ∧ ∃ g, g.id = BitVec.ofNat 32 h ∧
          g.micro = BitVec.ofNat 64 m ∧
          g.segs = (List.range n).map (fun k => (leNat ((bs.drop (16 * k)).take 8), leNat ((bs.drop (16 * k + 8)).take 8))) ∧
          (t.tenant s.dev.cur.t).images = (s.tenant s.dev.cur.t).images.filter (fun i => i.id != g.id) ++ [g]) ∧
      (n = 0 → (∃ i ∈ (s.tenant s.dev.cur.t).images, i.id = BitVec.ofNat 32 h) →
        Gives (.cseg a) s fun t => t.myCq = (ran s 4 id).myCq ∧ t.mem = s.mem ∧
          (t.tenant s.dev.cur.t).images = (s.tenant s.dev.cur.t).images.filter fun i => i.id != BitVec.ofNat 32 h)) ∧
    (∀ (i : Instr) (c : Bool) (d a : BitVec 4) (n : Nat), (i = .ccopy d a ∧ c = false) ∨ (i = .ccopyC d a ∧ c = true) →
      QueueRuns s [a] → (creg s a).toNat % 64 = 0 → s.devNat s.dev.cur.t (creg s a).toNat 128 = .ok n →
      s.descFault c s.dev.cur.t (BitVec.ofNat 1024 n) = none → (s.queueCopies s.dev.cur.t s.dev.cur.q).length < 64 →
      Gives i s fun t => ∃ o, t.dev.eng = s.dev.eng ++ [o] ∧ o.kind = (if c then .ccopyC else .ccopy) ∧
        o.owner = .queue s.dev.cur.t s.dev.cur.q ∧ o.desc = BitVec.ofNat 1024 n ∧ o.token = none ∧ t.mem = s.mem ∧
        t.myCq = (ran s 4 fun q => { q with awaits := (d, o.id) :: q.awaits.filter fun x => x.1 != d }).myCq) ∧
    (∀ (i : Instr) (c l : Bool), cmdFenceRow i = some (c, l) → QueueRuns s [] →
      (FenceOver s c l → exec i s = .next (ran s 4 id)) ∧ (¬ FenceOver s c l → exec i s = .next s)) ∧
    (∀ (d a : BitVec 4), QueueRuns s [a] →
      (OwnStream s (creg s a) → exec (.crungRd d a) s =
        .next (ran s 4 (putC d (BitVec.ofNat 64 (field ((s.strm ((creg s a).setWidth 8)).word 0) 8 3))))) ∧
      (¬ OwnStream s (creg s a) → Gives (.crungRd d a) s fun t => QueueFaulted s t 0x08)) ∧
    (∀ (a b : BitVec 4) (n : BitVec 8), QueueRuns s [a, b] → n = (creg s a).setWidth 8 →
      (OwnStream s (creg s a) → field (creg s b) 0 3 ≤ field ((s.strm n).word 0) 2 3 → Gives (.crungSet a b) s fun t =>
        field ((t.strm n).word 0) 11 3 = field (creg s b) 0 3 ∧ field ((t.strm n).word 0) 14 2 = 3 ∧
        field ((t.strm n).word 0) 16 5 = 0 ∧ field ((t.strm n).word 0) 0 11 = field ((s.strm n).word 0) 0 11 ∧
        (∀ k, 1 ≤ k → k < 32 → (t.strm n).word k = (s.strm n).word k) ∧ (∀ m, m ≠ n → t.strm m = s.strm m) ∧
        t.myCq = (ran s 4 id).myCq ∧ t.mem = s.mem) ∧
      (OwnStream s (creg s a) → field ((s.strm n).word 0) 2 3 < field (creg s b) 0 3 →
        Gives (.crungSet a b) s fun t => QueueFaulted s t 0x02)) ∧
    (∀ (n : BitVec 5), QueueRuns s [] →
      (n ≠ 31 → exec (.cint n) s = .next ((ran s 4 id).emit (.msix s.dev.cur.t n.toNat))) ∧
      (n = 31 → Gives (.cint n) s fun t => QueueFaulted s t 0x02))

namespace Sys2Proof.Claims

/-- A disabled queue: its submission has ended, RP stays (R348). -/
def disabledQueue (c : CmdQueue) : CmdQueue :=
  { c with en := false, state := 0, code := 0, stack := [] }

/-- The function of a tenant works: the virtual functions are enabled and its partition exists (R383, R384, R406). -/
abbrev FunctionUp (s : State) (t : TenantId) : Prop := s.dev.board.vfUp = true ∧ (s.part.get t).getLsbD 16 = true

/-- R346: the queue registers that the host reads, by their offset. -/
def queueReads (c : CmdQueue) : List (Nat × W64) :=
  [(0x00, c.base), (0x08, (if c.en then 1 else 0) + BitVec.ofNat 64 (c.log2n % 16) <<< 8), (0x10, c.rp.setWidth 64),
   (0x18, c.wp.setWidth 64), (0x20, c.state.setWidth 64 + c.code.setWidth 64 <<< 8), (0x28, c.cpc &&& 0xFFFFFFFFFFFFC), (0x30, 0),
   (0x38, c.wd1.setWidth 64 + c.wd2.setWidth 64 <<< 32), (0x40, c.prog.setWidth 64)]

/-- What RESUME and ABANDON make of a queue (R346). -/
def resumed (c : CmdQueue) : CmdQueue := if c.state = 2 ∨ c.state = 3 then { c with state := 1, code := 0 } else c
/-- What ABANDON makes of a queue (R346). -/
def abandoned (c : CmdQueue) : CmdQueue :=
  if c.state = 2 ∨ c.state = 3 then { c with state := 0, code := 0, rp := c.rp + 1, stack := [] } else c

/-- R294: a supervisor control block: its 64 bytes give ENTRY, CTXBASE and NCTX, and nothing else. -/
abbrev ControlBlock (bs : List Byte) (entry base : W64) (n : Nat) : Prop :=
  bs = toLe 8 entry.toNat ++ toLe 8 base.toNat ++ toLe 8 n ++ zeros 40 ∧ entry.toNat < 2 ^ 52 ∧ entry.toNat % 4 = 0 ∧
    base.toNat < 2 ^ 52 ∧ base.toNat % 0x200000 = 0 ∧ 1 ≤ n ∧ n ≤ 4096

/-- The memory of cluster `cl` that a change of owner zeroes (R385). -/
def clusterByte (cl : BitVec 16) (a : Nat) : Prop :=
  ∃ c : CoreId, cl.getLsbD (c.val / 8) = true ∧
    ((∃ off, off < 2 ^ 23 ∧ a = vaultAddr c.val off) ∨ (∃ off, off < 2 ^ 20 ∧ a = lsAddr c off) ∨
      (∃ off, off < 2 ^ 21 ∧ a = tileAddr c 0 off) ∨ ∃ off, off < 2 ^ 14 ∧ a = microAddr c off)

/-- The clusters that a TPART value gives its tenant (R383). -/
def clustersOf (w : W64) : BitVec 16 := if w.getLsbD 16 then w.setWidth 16 else 0

/-- The owner of a resource after a grant to tenant `t`: one that has an owner keeps it (R355). -/
def ownedAfter {n : Nat} (mask : BitVec n) (i : Nat) (t : TenantId) (old : Option (BitVec 4)) : Option (BitVec 4) :=
  if old = none ∧ mask.getLsbD i = true then some (BitVec.ofNat 4 t.val) else old

/-- How bring-up ends: VERIFY fails unless `ok`; what the later stages do is `b`'s (R406). -/
def ended (b : Boot) (ok : Bool) : Boot :=
  if ok = false then { b with fail := 2 } else if b.fail = 3 ∨ b.fail = 4 then b else { b with fail := 0 }

/-- A byte of the flash that holds the firmware image (log 112). -/
def flashByte (a : Nat) : Prop := Config.flashAt ≤ a ∧ a < Config.flashAt + Config.imageBytes

/-- May link `n` train once bring-up has ended so: of port 0 alone before the LINKS stage; after it the first of each port, and the
second of a port that is bifurcated (R396, R406). -/
def trained (b : Boot) (n : Nat) : Bool :=
  if b.fail = 2 ∨ b.fail = 3 then n == 0
  else (b.fail != 4 || b.ports.getLsbD (n / 2)) && (n % 2 == 0 || b.split.getLsbD (n / 2))

/-- The device after its bring-up stages, as the failed stage leaves it (R406): every register at reset. -/
def broughtUp (s : State) (b : Boot) (tags : List (Nat × UnitTag)) : Dev :=
  { Reset.dev with
    board := { Reset.board with
      bootstat := if b.fail = 2 then 2 else if b.fail = 3 then BitVec.ofNat 64 (3 + b.memfail.toNat * 256)
        else if b.fail = 4 then 4 else 8
      split := if b.fail = 2 ∨ b.fail = 3 then 0 else b.split
      links := Vector.ofFn fun i => trained b i.val
      out := s.dev.board.out }
    tags := tags
    turns := s.dev.turns, rr := s.dev.rr, cur := s.dev.cur, free := s.dev.free, nextId := s.dev.nextId }

/-- A place of an SRAM of the device, which bring-up zeroes (R406). -/
def sramByte (a : Nat) : Prop := Config.vaultAt ≤ a ∧ a < Config.recoveryAt

/-- A temperature shown by THERMSTAT (R412). -/
def shown (temp : BitVec 8) (b : Board) : Board := { b with thermstat := (b.thermstat >>> 8) <<< 8 ||| temp.setWidth 64 }

/-- What TEMP and TRIP make of the board (R411): at TRIP the trip is entered, TRIPPED counts it, and every island goes to its lowest
operating point; from 5 °C below on it is left. -/
def tripJudged (b : Board) : Board :=
  if field b.thermctl 0 8 ≤ field b.thermstat 0 8 ∧ b.tripped = false then
    { b with
      tripped := true
      thermstat := (b.thermstat &&& ~~~(0xFFFFFFFF00 : W64)) ||| BitVec.ofNat 64 (min (field b.thermstat 8 32 + 1) 0xFFFFFFFF) <<< 8
      island := Vector.ofFn fun n => Config.lowestPoint n.val }
  else if field b.thermstat 0 8 + 5 ≤ field b.thermctl 0 8 then { b with tripped := false }
  else b

/-- Every task of a tenant that is still listed has ended, where the tasks' numbers differ. -/
abbrev TasksEnded (s r : State) (t : TenantId) : Prop :=
  (s.dev.tasks.map (·.id)).Nodup → ∀ k ∈ r.dev.tasks, ∀ c ∈ s.dev.cohorts, c.id = k.cohort → ∀ l ∈ s.dev.launches,
    l.id = c.launch → l.tenant = t → k.alive = false

/-- The number that `n` bytes of a tier spell as they lie there, as ciphertext (R391, R396). -/
def rawNat (s : State) (a n : Nat) : Nat := leNat ((addrs a n).map s.peekRaw)

end Sys2Proof.Claims

/-- R6, R343, R346 to R348: the worker takes entry RP of an idle queue: CPC and c0 come from it, the call depth is 0, and the queue
runs. RESUME and ABANDON act on a halted or faulted queue alone. The doorbell writes WP. CQCTL enables a queue whose LOG2N is in
range and gives it to a worker, and clearing EN ends the submission. Where a function does not work, its writes have no effect. A
read returns the register. -/
def Obligations.QueueRegisters : Prop :=
  ∀ (s : State), s.dev.wbuf = [] →
    (∀ bs, s.myCq.en = true → s.myCq.state = 0 → s.myCq.wp ≠ s.myCq.rp → s.dev.board.recovery = false →
      s.devRead s.dev.cur.t (s.myCq.base.toNat + 16 * (s.myCq.rp.toNat % 2 ^ s.myCq.log2n)) 16 = .ok bs →
      exec .submissionTake s = .next (s.modMyCq fun c => { putC 0 (BitVec.ofNat 64 (leNat (bs.drop 8))) c with
        cpc := BitVec.ofNat 64 (leNat (bs.take 8)), stack := [], state := 1 })) ∧
    (FunctionUp s s.dev.cur.t → exec .resume s = .next (s.modMyCq resumed) ∧ exec .abandon s = .next (s.modMyCq abandoned)) ∧
    (¬ FunctionUp s s.dev.cur.t → exec .resume s = .next s ∧ exec .abandon s = .next s) ∧
    (∀ (t : TenantId) (q : QueueId), FunctionUp s t →
      (∀ wp, exec (.cqwpDoorbell t q wp) s = .next (s.modCq t q fun c => { c with wp := wp })) ∧
      (∀ v : W64, ∃ w : Fin 6, exec (.cqctlWrite t q v) s =
        .next ((s.upd fun d => { d with free := d.free + 1 }).modCq t q fun c =>
          if c.en then (if v.getLsbD 0 then c else disabledQueue c)
          else if 4 ≤ field v 8 4 then
            { c with log2n := field v 8 4, en := v.getLsbD 0, worker := if v.getLsbD 0 then w else c.worker }
          else c)) ∧
      (∀ r ∈ queueReads (s.cq t q), s.dev.board.bootstat ≠ 0 →
        s.regRead (BitVec.ofNat 5 (t.val + 1)) (BitVec.ofNat 20 (q.val * 0x80 + r.1)) = s.emit (.readData (some r.2)))) ∧
    (∀ (t : TenantId) (q : QueueId), ¬ FunctionUp s t →
      (∀ wp, exec (.cqwpDoorbell t q wp) s = .next s) ∧ ∀ v : W64, exec (.cqctlWrite t q v) s = .next s)

/-- R345, R386, R395, R397, R407, R411, R412: the events of the board: a lock-step mismatch of the running Hazel begins a recovery, and
its end ends it; a slot begins; a link drops or comes up, where bring-up and its port let it; a temperature below 125 °C is shown, at
or above TRIP the trip is entered, counted once, and the islands go to their lowest points, 5 °C below it is left; an island shows its
operating point, unless a trip holds it or Hazel does not run; at 125 °C all registers but DTIME are lost with all memory of the device
but the flash, and the device is off. -/
def Obligations.BoardEvents : Prop :=
  ∀ (s : State), s.dev.wbuf = [] →
    (s.dev.board.hazelUp = false → exec .hazelMismatch s = .next s) ∧
    (s.dev.board.hazelUp = true → exec .hazelMismatch s = .next ((s.modBoard fun b => { b with recovery := true }).emit
      (.deviceLog 0x15 0))) ∧
    exec .hazelRecoveryEnd s = .next (s.modBoard fun b => { b with recovery := false }) ∧
    exec .slotBoundary s = .next (s.modBoard fun b => { b with slot := b.dtime / 1000 % 16 }) ∧
    (∀ n : Fin 8, s.dev.cur.n % 8 = n.val →
      exec .linkDrops s = .next (s.modBoard fun b => { b with links := b.links.set n.val false n.isLt }) ∧
      exec .linkUp s = .next (if (if s.dev.board.vfUp then n.val % 2 = 0 ∨ s.dev.board.split.getLsbD (n.val / 2) = true
          else s.dev.board.bootstat ≠ 0 ∧ n.val = 0) then
        s.modBoard fun b => { b with links := b.links.set n.val true n.isLt } else s)) ∧
    (∀ (i : Instr) (temp : BitVec 8), i = .thermalTrip temp ∨ i = .thermalTripExit temp ∨ i = .thermalShutdown temp →
      (temp.toNat < 125 → exec i s = .next (s.modBoard fun b => tripJudged (shown temp b))) ∧
      (125 ≤ temp.toNat → s.mem.wf = true → Gives i s fun t =>
        t.dev = { Reset.dev with
          board := { Reset.board with dtime := s.dev.board.dtime, off := true, out := s.dev.board.out }
          turns := s.dev.turns, rr := s.dev.rr, cur := s.dev.cur, free := s.dev.free, nextId := s.dev.nextId } ∧
        t.part = .replicate 16 0 ∧ ∀ a, t.mem.read a =
          if a < Config.flashAt ∨ (Config.vlatAt ≤ a ∧ a < Config.hostAt) then 0 else s.mem.read a)) ∧
    (∀ (i : BitVec 5) (mhz mv : BitVec 16) (watt : BitVec 32) (h : i.toNat < 24),
      exec (.operatingPointChange i mhz mv watt) s =
        .next (if s.dev.board.tripped = false ∧ s.dev.board.hazelUp = true then
          s.modBoard fun b => { b with island := b.island.set i.toNat (watt ++ mv ++ mhz) h } else s))

/-- R294, R355, R369, R383 to R385, R390: the registers of a partition. TPART creates a partition when READY, in clusters that no
other partition has: it is written, the tenant owns what Hazel grants, the clusters' memories read 0, and no other byte of memory
changes; a write that would share a cluster is refused. Disabling one kills its tasks (the model's choice, log 43), zeroes its
clusters and takes back what it owned. SVCB takes its control block when no task of the tenant lives, and KVALID sets the valid
bits of the keys; that bit 16 is the generator key's is the model's reading (log 30). -/
def Obligations.PartitionRegisters : Prop :=
  ∀ (s : State) (t : TenantId), s.dev.wbuf = [] →
    (∀ (v : W64) (g : Grant), s.dev.board.ready = true → v.getLsbD 16 = true → (v.setWidth 16 : BitVec 16) ≠ 0 →
      (s.part.get t).getLsbD 16 = false → s.tenantBusy t = false →
      ((∀ u, u ≠ t → clustersOf (s.part.get u) &&& v.setWidth 16 = 0) → s.mem.wf = true → Gives (.tpartWrite t v g) s fun r =>
        r.part = s.part.set t.val (v &&& 0x3FFFF) t.isLt ∧
        (∀ a, (clusterByte (v.setWidth 16) a → r.mem.read a = 0) ∧ (¬ clusterByte (v.setWidth 16) a → r.mem.read a = s.mem.read a)) ∧
        (∀ c : CoreId, v.getLsbD (c.val / 8) = true → (r.core c).sv.town.getLsbD 32 = false) ∧
        (∀ c : CoreId, v.getLsbD (c.val / 8) = false → r.core c = s.core c) ∧
        (r.tenant t).dsctl = g.dsctl &&& 0x1FFFFFF ∧
        (∀ i, (r.dev.hqs.get i).owner = ownedAfter g.hq i.val t (s.dev.hqs.get i).owner) ∧
        (∀ i, (r.dev.dns.get i).owner = ownedAfter g.dn i.val t (s.dev.dns.get i).owner) ∧
        (∀ i, (r.dev.hbs.get i).owner = ownedAfter g.hb i.val t (s.dev.hbs.get i).owner) ∧
        (∀ i, (r.dev.sgs.get i).owner = ownedAfter g.sg i.val t (s.dev.sgs.get i).owner) ∧
        (∀ i, (r.dev.pzs.get i).owner = ownedAfter g.pz i.val t (s.dev.pzs.get i).owner) ∧
        (∀ i, (r.dev.frings.get i).owner = ownedAfter g.fring i.val t (s.dev.frings.get i).owner) ∧
        (∀ i, (r.dev.streams.get i).owner = ownedAfter g.streams i.val t (s.dev.streams.get i).owner)) ∧
      ((∃ u, u ≠ t ∧ clustersOf (s.part.get u) &&& v.setWidth 16 ≠ 0) → exec (.tpartWrite t v g) s = .next s)) ∧
    (∀ (v : W64) (g : Grant), s.dev.board.hazelUp = true → v.getLsbD 16 = false → (s.part.get t).getLsbD 16 = true →
      (s.tenantBusy t = false ∨ (v.setWidth 16 : BitVec 16) = (s.part.get t).setWidth 16) → s.mem.wf = true →
      Gives (.tpartWrite t v g) s fun r => r.part = s.part.set t.val (v &&& 0x3FFFF) t.isLt ∧ TasksEnded s r t ∧
        (∀ a, clusterByte (clustersOf (s.part.get t)) a → r.mem.read a = 0) ∧ (r.tenant t).mkeys = .replicate 16 0 ∧
        (r.tenant t).gkey = none ∧ (r.tenant t).troot = 0 ∧ (∀ q, (r.cq t q).en = false) ∧
        ∀ i, (r.dev.hqs.get i).owner ≠ some (BitVec.ofNat 4 t.val)) ∧
    (FunctionUp s t →
      (∀ v : W64, exec (.kvalidWrite t v) s = .next (s.modTenant t fun x =>
        { x with kvalid := v.setWidth 16, gkey := if v.getLsbD 16 then some x.gkeyReg else none })) ∧
      (∀ (v entry base : W64) (n : Nat) (bs : List Byte), s.tenantBusy t = false → v.getLsbD 0 = true →
        s.devRead t (v &&& 0xFFFFFFFFFF000).toNat 64 = .ok bs → ControlBlock bs entry base n →
        exec (.svcbWrite t v) s = .next (s.modTenant t fun x =>
          { x with svcb := (v &&& 0xFFFFFFFFFF000) ||| 1, svEntry := entry, svBase := base, svNctx := n })) ∧
      (∀ v : W64, s.tenantBusy t = false → v.getLsbD 0 = false →
        exec (.svcbWrite t v) s = .next (s.modTenant t fun x => { x with svcb := v &&& 0xFFFFFFFFFF000 })) ∧
      (∀ v : W64, s.tenantBusy t = true → exec (.svcbWrite t v) s = .next s))

/-- R392, R406 to R408: after power-on reset or DEVCTL.RESET every register of the device has its reset value, the stage that failed shows
in BOOTSTAT, the links are those of the stage, and no partition exists. VERIFY fails where the image in flash does not verify; where it
does, every SRAM reads 0. Power-on also leaves no memory of the tiers, which DEVCTL.RESET leaves (the model's choice, log 31); the
flash keeps its image, unless at DEVCTL.RESET it does not verify and the one in the recovery window, which then takes its place, does
(log 112). Each completes from every state; the reset of a device that is off (R411) has no effect, but for power-on. A function-level
reset of function 0 does what DEVCTL.RESET does; of virtual function n + 1 it ends the tasks of tenant n and disables its queues and
egress channels, and leaves TPART and its keys; of no function it has no effect. -/
def Obligations.DeviceResets : Prop :=
  ∀ (s : State), s.dev.wbuf = [] → s.mem.wf = true →
    (∀ b : Boot, ∃ t, exec (.powerOnReset b) s = .next t ∧ t.dev = broughtUp s (ended b (s.imageOk Config.flashAt)) t.dev.tags ∧
      t.part = .replicate 16 0 ∧ (∀ x, x ∈ t.dev.tags ↔ x ∈ s.dev.tags ∧ Config.flashAt ≤ x.1 * 64) ∧
      ∀ a, t.mem.read a = if a < Config.flashAt then 0 else s.mem.read a) ∧
    (∀ (b : Boot) (old new ok : Bool), s.dev.board.off = false → old = s.imageOk Config.flashAt → new = s.imageOk Config.recoveryAt →
      ok = (old || new) →
      ∃ t, exec (.deviceReset b) s = .next t ∧ t.dev = broughtUp s (ended b ok) t.dev.tags ∧ t.part = .replicate 16 0 ∧
      (∀ x, x ∈ t.dev.tags ↔ x ∈ s.dev.tags ∧ ¬ (ok = true ∧ sramByte (x.1 * 64))) ∧
      (∀ a, ok = true → sramByte a → t.mem.read a = 0) ∧
      (∀ a, ¬ flashByte a → ¬ (ok = true ∧ sramByte a) → t.mem.read a = s.mem.read a) ∧
      (∀ i, i < Config.imageBytes → t.mem.read (Config.flashAt + i) =
        s.mem.read ((if old = false ∧ new = true then Config.recoveryAt else Config.flashAt) + i))) ∧
    (s.dev.board.off = true → (∀ b, exec (.deviceReset b) s = .next s) ∧ exec (.functionLevelReset 0) s = .next s) ∧
    (∀ fn : BitVec 5, (17 ≤ fn.toNat ∨ (fn ≠ 0 ∧ s.dev.board.vfUp = false)) → exec (.functionLevelReset fn) s = .next s) ∧
    (s.dev.board.off = false → ∃ t, exec (.functionLevelReset 0) s = .next t ∧ t.part = .replicate 16 0 ∧ t.dev.cores = Reset.dev.cores ∧
      t.dev.tenants = Reset.dev.tenants ∧ t.dev.tasks = [] ∧
      (s.imageOk Config.flashAt = true → ∀ a, sramByte a → t.mem.read a = 0)) ∧
    (∀ t : TenantId, s.dev.board.vfUp = true →
      ∃ r, exec (.functionLevelReset (BitVec.ofNat 5 (t.val + 1))) s = .next r ∧ r.part = s.part ∧
        (∀ q, (r.cq t q).en = false ∧ (r.cq t q).state = 0 ∧ (r.cq t q).rp = (s.cq t q).rp) ∧
        (∀ ch : Fin 64, ((r.tenant t).egress.get ch).ctl.getLsbD 0 = false) ∧ (r.tenant t).mkeys = (s.tenant t).mkeys ∧
        TasksEnded s r t)

/-- R6, R346, R368, R390, R393, R396, R399, R412: what the host does through its functions. A checkpoint or restore stops admission and
pre-empts every resident cohort; once nothing is under way it has moved the device's memories, the tiers as ciphertext (R391), and DONE
is set: the places of the parts in the safe tier are the model's choice (log 33), and so is how the tiers' ciphertext is held (log 57). A
report carries the hash of the firmware image, its nonce and DTIME, and its signature by the identity key (the places of image and
signature bytes: log 112). Function 0 reads and writes the tiers' ciphertext through BAR2, a virtual function what its tenant may use;
other accesses, and writes to an offset without a register, get Unsupported Request. Register writes reach their fields; a CQCMD with
both bits abandons. -/
def Obligations.HostAccesses : Prop :=
  ∀ (s : State), s.dev.wbuf = [] →
    (∀ (i : Instr) (v : W64) (back : Bool), (i = .checkpoint v ∧ back = false) ∨ (i = .restore v ∧ back = true) →
      s.dev.board.hazelUp = true → s.dev.board.ckptJob = none → v.getLsbD 62 = true → v.getLsbD 61 = back → Gives i s fun t =>
        t.dev.board.ckptJob = some { target := field v 12 40 * 4096, restore := back } ∧ t.dev.board.ckpt.getLsbD 63 = false ∧
        t.dev.cohorts = s.dev.cohorts.map (fun c => if ∃ d ∈ s.dev.cohorts, d.id = c.id ∧ d.state = .resident then
          { c with state := .preempting, asked := false } else c) ∧ t.mem = s.mem ∧ t.dev.cores = s.dev.cores) ∧
    (∀ (j : CkptJob), s.dev.board.ckptJob = some j → (∀ c ∈ s.dev.cohorts, c.state ≠ .resident ∧ c.state ≠ .preempting) →
      s.dev.eng = [] → (∃ n, s.dev.board.links.get n = true) → j.target < 2 ^ 52 → s.mem.wf = true → Gives .checkpointDone s fun t =>
        t.dev.board.ckptJob = none ∧ t.dev.board.ckpt.getLsbD 63 = true ∧ t.dev.cores = s.dev.cores ∧
        ∀ p ∈ safeParts, ∀ k, k < p.2.2 →
          if j.restore then t.peekRaw (p.1 + k) = s.peekRaw (Config.hostAt + j.target + p.2.1 + k)
          else t.peekRaw (Config.hostAt + j.target + p.2.1 + k) = s.peekRaw (p.1 + k)) ∧
    (∀ (fn : BitVec 5) (nonce : BitVec 256), s.dev.board.hazelUp = true → fn = 0 ∨ (s.dev.board.vfUp = true ∧ 1 ≤ fn.toNat ∧
      fn.toNat ≤ 16) →
      ∃ body : List Byte, body.length = 160 ∧ body.take 48 = sha384 (s.peeks Config.flashAt (Config.imageBytes - 96)) ∧
        (fn = 0 → (body.drop 48).take 48 = zeros 48) ∧ (body.drop 96).take 32 = toLe 32 nonce.toNat ∧
        (body.drop 128).take 8 = toLe 8 s.dev.board.dtime ∧
        exec (.attestationReport fn nonce) s = .next (s.emit (.report (body ++ signatureBytes Config.identityKey body)))) ∧
    (∀ (off : BitVec 41) (n : BitVec 4) (p : Nat), 1 ≤ n.toNat → n.toNat ≤ 8 → s.dev.board.vfUp = true → s.mem.wf = true →
      s.dev.board.bootstat ≠ 0 →
      ((off.toNat + n.toNat ≤ Config.nearBytes ∧ p = Config.nearAt + off.toNat) ∨
        (Config.nearBytes ≤ off.toNat ∧ off.toNat + n.toNat ≤ Config.nearBytes + Config.farBytes ∧
          p = Config.farAt + (off.toNat - Config.nearBytes)) →
        exec (.hostBar2Access 0 off n none) s = .next (s.emit (.readData (some (BitVec.ofNat 64 (rawNat s p n.toNat))))) ∧
        (∀ w : W64, Gives (.hostBar2Access 0 off n (some w)) s fun t => rawNat t p n.toNat = w.toNat % 2 ^ (8 * n.toNat) ∧
          (∀ a, a ∉ addrs p n.toNat → t.peekRaw a = s.peekRaw a) ∧ { t.dev with tags := s.dev.tags } = s.dev ∧ t.part = s.part)) ∧
      (∀ (t : TenantId) (v : Nat), (s.part.get t).getLsbD 16 = true → s.devNat t off.toNat n.toNat = .ok v →
        exec (.hostBar2Access (BitVec.ofNat 5 (t.val + 1)) off n none) s = .next (s.emit (.readData (some (BitVec.ofNat 64 v))))) ∧
      (∀ (t : TenantId) (w : Option W64) (f : Nat × Nat), (s.part.get t).getLsbD 16 = true →
        ((w = none ∧ s.devNat t off.toNat n.toNat = .error f) ∨
          (∃ v, w = some v ∧ s.devWrite t off.toNat (toLe n.toNat v.toNat) = .error f)) →
        ∃ r l, exec (.hostBar2Access (BitVec.ofNat 5 (t.val + 1)) off n w) s = .next r ∧ r.dev.board.out = l ++ [.readData none] ∧
          (s.engineLogs f.1 f.2 = false → r = s.emit (.readData none))) ∧
      (∀ (fn : BitVec 5) (w : Option W64),
        17 ≤ fn.toNat ∨ (fn = 0 ∧ Config.nearBytes + Config.farBytes < off.toNat + n.toNat) ∨
          (∃ t : TenantId, fn.toNat = t.val + 1 ∧ (s.part.get t).getLsbD 16 = false) →
        exec (.hostBar2Access fn off n w) s = .next (s.emit (.readData none)))) ∧
    (∀ (fn : BitVec 5) (off : BitVec 20) (v : W64), s.dev.board.bootstat ≠ 0 → off.toNat % 8 = 0 → s.hostRead fn off.toNat = none →
      exec (.registerWrite fn off v) s = .next (s.emit (.readData none))) ∧
    (∀ (t : TenantId) (q : QueueId) (v : W64), FunctionUp s t → s.dev.board.bootstat ≠ 0 →
      exec (.registerWrite (BitVec.ofNat 5 (t.val + 1)) (BitVec.ofNat 20 (q.val * 0x80 + 0x30)) v) s =
        .next (s.modCq t q fun c => if v.getLsbD 1 then abandoned c else if v.getLsbD 0 then resumed c else c) ∧
      exec (.registerWrite (BitVec.ofNat 5 (t.val + 1)) (BitVec.ofNat 20 (q.val * 0x80 + 0x38)) v) s =
        .next (s.modCq t q fun c => { c with wd1 := v.extractLsb' 0 32, wd2 := v.extractLsb' 32 32 }) ∧
      exec (.registerWrite (BitVec.ofNat 5 (t.val + 1)) 0x1000 v) s =
        .next (s.modTenant t fun x => { x with dsctl := v &&& 0x1FFFFFF }) ∧
      exec (.registerWrite (BitVec.ofNat 5 (t.val + 1)) 0x1028 v) s =
        .next (s.modTenant t fun x => { x with flrp := v.extractLsb' 0 32 }) ∧
      (∀ k : Fin 16, Gives (.registerWrite (BitVec.ofNat 5 (t.val + 1)) (BitVec.ofNat 20 (0x2000 + 0x40 * k.val)) v) s fun r =>
        ((r.tenant t).mkeys.get k).extractLsb' 0 64 = v ∧
        ((r.tenant t).mkeys.get k).extractLsb' 64 448 = ((s.tenant t).mkeys.get k).extractLsb' 64 448 ∧
        ∀ i, i ≠ k → (r.tenant t).mkeys.get i = (s.tenant t).mkeys.get i)) ∧
    (∀ v : W64, s.dev.board.bootstat ≠ 0 → s.dev.board.stage ≠ 2 → exec (.registerWrite 0 0x10010 v) s = .next (
      if 85 ≤ field v 0 8 ∧ field v 0 8 ≤ 115 then s.modBoard fun b => tripJudged { b with thermctl := v &&& 0xFF } else s)) ∧
    (∀ (fn : BitVec 5) (off : BitVec 20) (v : W64), off.toNat % 8 ≠ 0 → exec (.registerWrite fn off v) s = .next s)

namespace Sys2Proof.Claims

/-- The sampler that the cursor names works on group `j` of round `r` (R258). -/
abbrev Working (s : State) (j : Job) (r : Round) : Prop :=
  (s.dev.samplers.get s.dev.cur.k).job = some j ∧ s.roundOf s.dev.cur.k j.key = some r

/-- A Pip word has run: the group after it, at the next word. -/
def pipAt (s : State) (j : Job) : State := s.modSampler s.dev.cur.k fun x => { x with job := some { j with pip := j.pip + 1 } }

/-- Register wA, and hB broadcast in place of wB when S is 1 (R269). -/
def laneArg (j : Job) (b : BitVec 3) (h : Bool) : List (BitVec 32) :=
  if h then j.lanes.map fun _ => j.h.get b.toFin else j.w.get b.toFin

/-- One lane's FP32 result of two values, rounded once (R269). -/
def lanes2 (f : FVal → FVal → FVal) (a b : List (BitVec 32)) : List (BitVec 32) := List.zipWith (fun x y => toF32 (f (f32 x) (f32 y))) a b

/-- Is an FP32 pattern above 0? -/
def above0 (x : BitVec 32) : Bool := x.getLsbD 31 == false && x != 0 && !(f32 x).isNan
/-- Is a pattern other than a zero? -/
def notZero (x : BitVec 32) : Bool := x.setWidth 31 != (0 : BitVec 31)

/-- R269: the conditions of `pcmp`. -/
def pipCondition (c : BitVec 3) (a b : FVal) : Bool :=
  if a.isNan || b.isNan then c == 1 else match c.toNat with
  | 0 => a.eqv b
  | 1 => !a.eqv b
  | 2 => a.lt b
  | 3 => a.lt b || a.eqv b
  | 4 => b.lt a
  | _ => b.lt a || a.eqv b

/-- R269: the lane operations that look nothing up: the register wD, and its lanes. -/
def pipRow (j : Job) : Instr → Option (BitVec 3 × List (BitVec 32))
  | .pld d => some (d, j.lanes.map (·.2))
  | .pldIdx d => some (d, j.lanes.map fun l => toF32 (.fin false l.1 0))
  | .padd d a b h => some (d, lanes2 (FVal.add 0) (j.w.get a.toFin) (laneArg j b h))
  | .psub d a b h => some (d, lanes2 (fun x y => FVal.add 0 x y.neg) (j.w.get a.toFin) (laneArg j b h))
  | .pmul d a b h => some (d, lanes2 FVal.mul (j.w.get a.toFin) (laneArg j b h))
  | .pmax d a b h => some (d, lanes2 (FVal.minmax true) (j.w.get a.toFin) (laneArg j b h))
  | .pmin d a b h => some (d, lanes2 (FVal.minmax false) (j.w.get a.toFin) (laneArg j b h))
  | .pexp d a => some (d, (j.w.get a.toFin).map fun x => toF32 (FVal.exp (f32 x)))
  | .plog d a => some (d, (j.w.get a.toFin).map fun x => toF32 (FVal.ln (f32 x)))
  | .ppen d a b c => some (d, List.zipWith (fun x y => if above0 y then
      (if above0 x then toF32 (FVal.div (f32 x) (f32 (j.h.get c.toFin))) else toF32 (FVal.mul (f32 x) (f32 (j.h.get c.toFin)))) else x)
      (j.w.get a.toFin) (j.w.get b.toFin))
  | .pfreq d a b c e => some (d, List.zipWith (fun x y =>
      let z := FVal.add 0 (f32 x) (FVal.mul (f32 (j.h.get c.toFin)) (f32 y)).neg
      toF32 (if above0 y then FVal.add 0 z (f32 (j.h.get e.toFin)).neg else z)) (j.w.get a.toFin) (j.w.get b.toFin))
  | .pclamp d a b c => some (d, (j.w.get a.toFin).map fun x =>
      toF32 (FVal.minmax false (FVal.minmax true (f32 x) (f32 (j.h.get b.toFin))) (f32 (j.h.get c.toFin))))
  | .psel d c a b => some (d, List.zipWith (fun m p => if notZero m then p.1 else p.2) (j.w.get c.toFin)
      (List.zip (j.w.get a.toFin) (j.w.get b.toFin)))
  | .pcmp d a b h c => some (d, List.zipWith (fun x y => if pipCondition c (f32 x) (f32 y) then 0x3F800000 else 0)
      (j.w.get a.toFin) (laneArg j b h))
  | _ => none

/-- R269: the skips: whether one skips, and how many words. -/
def skipRow (j : Job) (r : Round) : Instr → Option (Bool × Nat)
  | .pskip n => some (true, n.toNat)
  | .pskipNz a n => some (notZero (j.h.get a.toFin), n.toNat)
  | .pskipZ a n => some (!notZero (j.h.get a.toFin), n.toNat)
  | .pskipNone a n => some ((List.zip j.lanes (j.w.get a.toFin)).all fun p => !(p.1.1 < r.vocab && notZero p.2), n.toNat)
  | .pnop => some (false, 0)
  | _ => none

/-- A sampler's table lookup answers `v` for every active lane `f` gives (R254, R263, R265). -/
abbrev Looks (s : State) (j : Job) (r : Round) {α : Type} (look : Nat → Kv α) (f : Nat → α) : Prop :=
  ∀ l ∈ j.lanes, l.1 < r.vocab → (look l.1).run s = (.ok (f l.1), s)

/-- The value that a hashed table holds for a token: the first probed entry that names it, before any empty one (R254). -/
def tableValue (s : State) (t : Nat) : List Nat → Nat
  | [] => 0
  | va :: rest =>
    let e := memNat s (vaultPlace va) 8
    if e % 2 ^ 32 = t + 1 then e / 2 ^ 32 else if e % 2 ^ 32 = 0 then 0 else tableValue s t rest

/-- A span of one vault of tenant `t`, outside every zone, which no turn that is asked about waits for (log 73). -/
abbrev VaultSpan (s : State) (t : TenantId) (va n : Nat) : Prop :=
  rowOf va = .vault ∧ va + n ≤ Config.vaultEnd ∧ vaultOf va = vaultOf (va + n - 1) ∧ s.ownsVault t (vaultOf va) = true ∧
    s.zoneAt va n = none ∧ s.dev.probe = none

/-- The probes of a token in a table of 2^w entries at `base` (R254). -/
def probes (base w t : Nat) : List Nat :=
  (List.range 16).map fun k => base + 8 * ((t * 0x9E3779B1 % 2 ^ 32 / 2 ^ (32 - w) + k) % 2 ^ w)

/-- The first group of a chunk: up to 64 lanes, those at or above VOCAB entering as −∞ (R258), and Pip's registers. -/
def firstGroup (o : EngOp) (c : CoreId) (q : SeqKey) (r : Round) : Job :=
  let all := o.list.zipIdx.map fun x => (fieldNat o.a 32 32 + x.2, BitVec.ofNat 32 x.1)
  let lanes := (all.take 64).map fun x => (x.1, if x.1 < r.vocab then x.2 else 0xFF800000)
  { op := o.id, core := c, key := q, last := o.b.getLsbD 0, rest := all.drop 64, lanes := lanes,
    w := .replicate 8 (lanes.map fun _ => 0), h := Vector.ofFn fun i => nth r.param i.val 0, pip := 0 }

/-- The `logit` that the cursor names is ready to be taken by its sampler, which is free (R255). -/
abbrev ChunkReady (s : State) (o : EngOp) (c : CoreId) (n : Nat) : Prop :=
  s.engOp s.dev.cur.n = some o ∧ o.owner = .task n c ∧ o.kind = .logit ∧ o.stage = 1 ∧ o.token = none ∧ samplerOf c = s.dev.cur.k ∧
    (s.dev.samplers.get s.dev.cur.k).job = none ∧ s.chunkBefore s.dev.cur.k o = false

/-- The record of a chunk's sequence, with DW0 and DW7 of its header, as the sampler finds them (R79, R252). -/
abbrev RecordAt (s : State) (o : EngOp) (rec_ d0 d7 : Nat) : Prop :=
  s.recordVa s.dev.cur.k (seqKey o.tenant o.kvslot) = .ok rec_ ∧ s.numAs (smpAs s.dev.cur.k o.tenant) rec_ 8 = .ok d0 ∧
    s.numAs (smpAs s.dev.cur.k o.tenant) (rec_ + 56) 8 = .ok d7

end Sys2Proof.Claims

/-- R254, R258, R263, R265, R269: each Pip instruction sets the register that it names, lane by lane, each lane rounded once, or skips
words, and moves on to the next word; nothing else changes. `pcnt` and `pbias` look tokens up in the record's tables, `pmask` asks
the grammar; a table's answer is the value of its first probed entry for the token. -/
def Obligations.PipInstructions : Prop :=
  ∀ (s : State) (j : Job) (r : Round), s.dev.wbuf = [] → Working s j r →
    (∀ i d l, pipRow j i = some (d, l) → i.wf = true → exec i s = .next (pipAt s { j with w := j.w.set d.toNat l d.isLt })) ∧
    (∀ i b n, skipRow j r i = some (b, n) → exec i s = .next (pipAt s { j with pip := j.pip + if b then n else 0 })) ∧
    (∀ (d : BitVec 3) (imm : BitVec 18),
      exec (.pimm d imm) s = .next (pipAt s { j with h := j.h.set d.toNat (imm ++ (0 : BitVec 14)) d.isLt })) ∧
    (∀ (d : BitVec 3) (f : Nat → Nat), Looks s j r (countOf r) f → exec (.pcnt d) s = .next (pipAt s { j with
      w := j.w.set d.toNat (j.lanes.map fun l => if l.1 < r.vocab then
        toF32 (.fin false (f l.1 + (s.pathTokens r).count l.1) 0) else 0) d.isLt })) ∧
    (∀ (d : BitVec 3) (f : Nat → Nat), Looks s j r (biasOf r) f → exec (.pbias d) s = .next (pipAt s { j with
      w := j.w.set d.toNat (j.lanes.map fun l => if l.1 < r.vocab then BitVec.ofNat 32 (f l.1) else 0) d.isLt })) ∧
    (∀ (d a : BitVec 3), r.gbase = 0 → exec (.pmask d a) s = .next (pipAt s { j with w := j.w.set d.toNat (j.w.get a.toFin) d.isLt })) ∧
    (∀ (d a : BitVec 3) (f : Nat → Bool), r.gbase ≠ 0 → Looks s j r (pipAllowed r) f →
      exec (.pmask d a) s = .next (pipAt s { j with w := j.w.set d.toNat (List.zipWith
        (fun x l => if l.1 < r.vocab ∧ f l.1 = true then x else 0xFF800000) (j.w.get a.toFin) j.lanes) d.isLt })) ∧
    (∀ v : Nat, v < 2 ^ 24 → s.dev.writes = [] → VaultSpan s r.tenant r.recBase 0x20000 → r.recBase % 8 = 0 →
      (countOf r v).run s = (.ok (tableValue s v (probes (r.recBase + 0x10000) 12 v)), s) ∧
      (biasOf r v).run s = (.ok (tableValue s v (probes (r.recBase + 0xC000) 10 v)), s))

/-- R255, R259, R260, R266, R268, R269: `pend` gives the lanes' outputs to select-and-accumulate: the round takes the active ones, and
the next group begins, or the chunk ends. With a NaN among them the round ends. The last chunk of a plain greedy round, when the
completion's writes do not fault, frees the round and posts its first candidate with its log-probability. -/
def Sys2Proof.Claims.GroupEnds : Prop :=
  ∀ (s : State) (j : Job) (r r' : Round) (d : BitVec 3) (outs : List (Nat × BitVec 32)) (k : SamplerId), s.dev.wbuf = [] →
    Working s j r → k = s.dev.cur.k →
    outs = (List.zipWith (fun l x => (l.1, x)) j.lanes (j.w.get d.toFin)).filter (fun x => decide (x.1 < r.vocab)) →
    (r.selects outs = some r' → j.rest ≠ [] → exec (.pend d) s = .next (((s.setRound k r').modSampler k fun x =>
      { x with job := some (j.group r') }))) ∧
    (r.selects outs = some r' → j.rest = [] → j.last = false →
      exec (.pend d) s = .next ((s.setRound k r').modSampler k fun x => { x with job := none })) ∧
    (r.selects outs = none → Gives (.pend d) s fun t => (t.dev.samplers.get k).job = none ∧ t.roundOf k j.key = none ∧
      t.dev.cores = s.dev.cores) ∧
    (∀ (x : BitVec 32) (v : Nat) (rest : List (BitVec 32 × Nat)) (u : State), r.selects outs = some r' → j.rest = [] →
      j.last = true → r'.mode = 0 → r'.cands = (x, v) :: rest → s.treeOf j.key = none → s.outboxOf j.key = [] →
      ((s.tenant (tid j.key.tenant)).mail.filter fun p => p.mbox == mailboxOf r.hdr).length < 16 → v ≠ r.eos → r.key = j.key →
      u = (((s.setRound k r').modSampler k fun y => { y with job := none }).smLose r.as (r.recBase + 56) 0 4 0) →
      ((commitWrites r' (committed r.hdr)
        { toks := [(v, r'.logp x)], acc := 0, index := r'.index, cands := r'.cands }).run u).1 = .ok () →
      Gives (.pend d) s fun t => (t.dev.samplers.get k).job = none ∧ t.roundOf k j.key = none ∧
        (t.tenant (tid j.key.tenant)).mail = (s.tenant (tid j.key.tenant)).mail ++
          [{ mbox := mailboxOf r.hdr, kind := 0x80, val := BitVec.ofNat 64 (v + (r'.logp x).toNat * 2 ^ 32) }])

/-- R248, R255 to R258, R267, R270: a free sampler takes the oldest `logit` chunk of its core: of a sequence in quarantine it refuses
it with PIP_FAULT, of one whose LOCK names another sampler with PERM; into an open round it goes as the first group of Pip, or unchanged
when PIPON is 0; it opens a round with M = −∞, S = 0 and no candidate when none is open, the next of its sequence's unfinished tree if
it has one. -/
def Sys2Proof.Claims.ChunkTaken : Prop :=
  ∀ (s : State) (o : EngOp) (c : CoreId) (n rec_ d0 d7 : Nat) (k : SamplerId) (q : SeqKey), s.dev.wbuf = [] → ChunkReady s o c n →
    RecordAt s o rec_ d0 d7 → k = s.dev.cur.k → q = seqKey o.tenant o.kvslot →
    (d0 / 4 % 2 = 1 → exec .logitChunkTaken s = .next (s.setEng { o with token := some (BitVec.ofNat 64
      (2 * 2 ^ 56 + 0x12 * 2 ^ 48)) })) ∧
    (d0 / 4 % 2 = 0 → d7 % 16 ≠ 0 → d7 % 16 ≠ k.val + 1 →
      exec .logitChunkTaken s = .next (s.setEng { o with token := some (BitVec.ofNat 64 (2 * 2 ^ 56 + 0x08 * 2 ^ 48)) })) ∧
    (∀ r u, d0 / 4 % 2 = 0 → d7 % 16 = 0 ∨ d7 % 16 = k.val + 1 → s.roundOf k q = some r →
      u = s.setEng { o with token := some (BitVec.ofNat 64 (2 ^ 56 + 4 * o.list.length % 2 ^ 48)) } →
      (r.pipon = true →
        exec .logitChunkTaken s = .next (u.modSampler k fun x => { x with job := some (firstGroup o c q r) })) ∧
      (∀ r', r.pipon = false → o.b.getLsbD 0 = false →
        r.selects ((o.list.zipIdx.map fun x => (fieldNat o.a 32 32 + x.2, BitVec.ofNat 32 x.1)).filter
          (fun x => decide (x.1 < r.vocab))) = some r' →
        exec .logitChunkTaken s = .next ((u.setRound k r').modSampler k fun x => { x with job := none }))) ∧
    (∀ bs, d0 / 4 % 2 = 0 → d7 % 16 = 0 → s.roundOf k q = none → s.outboxOf q = [] → (s.dev.samplers.get k).rounds.length < 64 →
      s.readAs (.pair k.val) (tid o.tenant) rec_ (if (s.treeOf q).isSome then 0x600 else 0x200) = .ok bs → (d0 / 8 % 2 = 1) →
      headerBad ((List.range 16).map fun i => BitVec.ofNat 64 (leNat ((bs.drop (8 * i)).take 8))) = false →
      pipValid ((List.range 64).map fun i => BitVec.ofNat 32 (leNat ((bs.drop (0x100 + 4 * i)).take 4))) 0 0 = true →
      VaultSpan s (tid o.tenant) rec_ 0x600 → rec_ % 64 = 0 → s.mem.wf = true →
      Gives .logitChunkTaken s fun t => ∃ r, (t.dev.samplers.get k).rounds = (s.dev.samplers.get k).rounds ++ [r] ∧ r.key = q ∧
        r.mx = 0xFF800000 ∧ r.sum = 0 ∧ r.cands = [] ∧ r.smp = k ∧ r.recBase = rec_ ∧ r.tree = (s.treeOf q).isSome ∧
        r.index = ((s.treeOf q).map (·.next)).getD 0 ∧
        (t.dev.samplers.get k).job = some (firstGroup o c q r) ∧ memNat t (vaultPlace (rec_ + 56)) 8 % 16 = k.val + 1 ∧
        SameBytes s t (addrs (vaultPlace (rec_ + 56)) 8) ∧
        t.dev.eng = (s.setEng { o with token := some (BitVec.ofNat 64 (2 ^ 56 + 4 * o.list.length % 2 ^ 48)) }).dev.eng)

/-- R248, R262, R263, R267: a sampler takes the tree of a `verify`: of a sequence in quarantine it is refused; one that breaks a rule of
trees is not taken, with ILLEGAL_OPCODE; else the record holds its nodes, and N + 1 rounds are expected. That the token's COUNT is then
the number of nodes is the model's choice (log 121). -/
def Sys2Proof.Claims.DraftTreeTaken : Prop :=
  ∀ (s : State) (o : EngOp) (c : CoreId) (m n rec_ : Nat) (k : SamplerId) (h bs : List Byte), s.dev.wbuf = [] → k = s.dev.cur.k →
    s.engOp s.dev.cur.n = some o → o.owner = .task m c → o.kind = .verify → o.token = none → samplerOf c = k →
    s.engStart o = true →
    s.recordVa k (seqKey o.tenant o.kvslot) = .ok rec_ → n = fieldNat o.b 0 7 → s.readAs (.pair k.val) (tid o.tenant) rec_ 128 = .ok h →
    s.engBytes o (Config.lsBase + fieldNat o.a 0 20) (8 * n) = .ok bs →
    (leNat (h.take 8) / 4 % 2 = 1 →
      exec .draftTreeTaken s = .next (s.setEng { o with token := some (BitVec.ofNat 64 (2 * 2 ^ 56 + 0x12 * 2 ^ 48)) })) ∧
    (leNat (h.take 8) / 4 % 2 = 0 → s.treeOf (seqKey o.tenant o.kvslot) = none →
      treeBad (leNat ((h.drop 24).take 4)) (treeNodes bs) = true →
      exec .draftTreeTaken s = .next (s.setEng { o with token := some (BitVec.ofNat 64 (2 * 2 ^ 56 + 0x02 * 2 ^ 48)) })) ∧
    (leNat (h.take 8) / 4 % 2 = 0 → s.treeOf (seqKey o.tenant o.kvslot) = none →
      treeBad (leNat ((h.drop 24).take 4)) (treeNodes bs) = false → leNat ((h.drop 32).take 8) = 0 →
      1 ≤ n → n ≤ 64 → VaultSpan s (tid o.tenant) rec_ 0x600 → rec_ % 64 = 0 → s.mem.wf = true → Gives .draftTreeTaken s fun t =>
        (∃ y, t.treeOf (seqKey o.tenant o.kvslot) = some y ∧ y.draws = [] ∧ y.lists = [] ∧ y.next = 0 ∧
          y.nodes = (treeNodes bs).map fun x => (x.1, x.2.1, false)) ∧
        ((addrs (vaultPlace (rec_ + 0x200)) (8 * n)).map t.mem.read = bs) ∧
        t.dev.eng = (s.setEng { o with token := some (BitVec.ofNat 64 (2 ^ 56 + n)) }).dev.eng)

/-- R248, R255 to R260, R262, R263, R266 to R270: a group of the sampler ends, and logits and draft trees reach it. -/
def Obligations.GroupEndsAndHandOver : Prop :=
  Claims.GroupEnds ∧ Claims.ChunkTaken ∧ Claims.DraftTreeTaken

namespace Sys2Proof.Claims

/-- What a unit does with a frame that it has taken: nothing of it is coded yet. -/
def newJob (s : State) (w : W64) : FrameJob := { ring := BitVec.ofNat 8 s.dev.cur.n, tok := w, last := false, coded := 0 }

/-- A slot of a frame ring lies in one vault of the ring's tenant, outside every zone. -/
abbrev SlotUsable (s : State) (f : FrameRing) (w : W64) : Prop :=
  VaultSpan s f.tenant (f.slotAddr w) f.stride ∧ f.latentBytes + (f.height + f.height / 2) * f.rowStride ≤ f.stride

end Sys2Proof.Claims

/-- R239, R401 to R403: a decoder takes the oldest token of DECQ, and when it has written the pixels puts it on ENCQ, its slot then
ENCODE: no byte outside the slot's pixel area changes; an encoder takes the oldest token of ENCQ, puts its chunk tokens on BSQ, key
frames marked, each chunk's bytes staged behind those before it, and after LAST returns the token to FREEQ, its slot then EMPTY. -/
def Sys2Proof.Claims.FramePath : Prop :=
  (∀ (s : State) (f : FrameRing) (w : W64) (rest : List W64), s.dev.wbuf = [] → f = s.fring (BitVec.ofNat 8 s.dev.cur.n) → f.en = true →
    (∀ q, q = f.queue 1 → (s.hq q).en = true → (s.hq q).toks = w :: rest → (s.hq q).getters = [] → s.dev.decs.get f.dec = none →
      (s.hq q).mayGet 1 = true →
      exec .decoderTake s = .next ((s.modHq q fun h => { h with toks := rest }).upd fun d =>
        { d with decs := d.decs.set f.dec.val (some (newJob s w)) f.dec.isLt })) ∧
    (∀ q, q = f.queue 2 → (s.hq q).en = true → (s.hq q).toks = w :: rest → (s.hq q).getters = [] → s.dev.encs.get f.enc = none →
      (s.hq q).mayGet 2 = true →
      exec .encoderTake s = .next ((s.modHq q fun h => { h with toks := rest }).upd fun d =>
        { d with encs := d.encs.set f.enc.val (some (newJob s w)) f.enc.isLt }))) ∧
  (∀ (s : State) (i : Fin 4) (j : FrameJob) (f : FrameRing) (q : BitVec 8) (x : DecodeIn), s.dev.wbuf = [] → s.mem.wf = true →
    s.dev.cur.n % 4 = i.val → s.dev.decs.get i = some j → f = s.fring j.ring → q = f.queue 2 → (s.hq q).en = true →
    (s.hq q).room = true → firstIn (.dec i) (s.hq q).putters = true → (s.hq q).mayPut 1 = true → s.decodeIn f j.tok = .ok x →
      SlotUsable s f j.tok →
    Gives .decodeComplete s fun t => t.dev.decs.get i = none ∧ (t.hq q).toks = (s.hq q).toks ++ [j.tok] ∧
      (t.fring j.ring).slots = f.slots.set (tokSlot j.tok) .encode ∧
      SameBytes s t (addrs (vaultPlace (f.slotAddr j.tok + f.latentBytes)) ((f.height + f.height / 2) * f.rowStride)) ∧
      t.dev.cores = s.dev.cores) ∧
  (∀ (s : State) (n : BitVec 3) (len : BitVec 20) (last : Bool) (j : FrameJob) (f : FrameRing) (q : BitVec 8) (px : List Byte),
    s.dev.wbuf = [] → s.pixels f j.tok = .ok px → s.dev.encs.get n.toFin = some j → j.last = false → f = s.fring j.ring → q =
      f.bsq → (s.hq q).en = true → (s.hq q).room = true →
    firstIn (.enc n.toFin) (s.hq q).putters = true → (s.hq q).mayPut 2 = true →
    Gives (.chunkToken n len last) s fun t => t.mem = s.mem ∧
      t.dev.encs.get n.toFin = some { j with last := last, coded := j.coded + len.toNat } ∧
      ∃ w : W64, (∃ x, t.dev.staged = s.dev.staged ++ [x] ∧ x.q = q ∧ x.tok = w ∧ x.bytes.length = len.toNat ∧ x.taken = false) ∧
      (t.hq q).toks = (s.hq q).toks ++ [w] ∧ field w 0 32 = field j.tok 0 32 ∧ field w 32 20 = len.toNat ∧
      w.getLsbD 52 = decide (field w 0 32 % (if field (f.dw.get 7) 16 16 = 0 then 60 else field (f.dw.get 7) 16 16) = 0) ∧
      w.getLsbD 53 = last ∧ field w 56 8 = 2) ∧
  (∀ (s : State) (i : Fin 8) (j : FrameJob) (f : FrameRing) (q : BitVec 8), s.dev.wbuf = [] → s.dev.cur.n % 8 = i.val →
    s.dev.encs.get i = some j → j.last = true → f = s.fring j.ring → q = f.queue 0 → (s.hq q).en = true → (s.hq q).room = true →
    firstIn (.enc i) (s.hq q).putters = true → (s.hq q).mayPut 2 = true →
    Gives .encodeComplete s fun t => t.mem = s.mem ∧ t.dev.encs.get i = none ∧ (t.hq q).toks = (s.hq q).toks ++ [j.tok] ∧
      (t.fring j.ring).slots = f.slots.set (tokSlot j.tok) .empty)

/-- R268, R404, R405: the oldest outbox post of a sequence is delivered when its mailbox has room, and stays otherwise; a token frame
of a mailbox goes out as one record of 24 bytes when the channel's ring has room: its length, the mailbox, the kind, the value and
DTIME, and WP moves past it. -/
def Sys2Proof.Claims.PostsLeave : Prop :=
  (∀ (s : State) (q : SeqKey) (p : Post), s.dev.wbuf = [] → s.dev.outbox[s.dev.cur.n]? = some (q, p) →
    (∀ y ∈ s.dev.outbox.take s.dev.cur.n, y.1 ≠ q) →
    (((s.tenant (tid q.tenant)).mail.filter fun x => x.mbox == p.mbox).length < 16 →
      exec .mailboxPost s = .next ((s.modTenant (tid q.tenant) fun x => { x with mail := x.mail ++ [p] }).upd
        fun d => { d with outbox := d.outbox.eraseIdx s.dev.cur.n })) ∧
    (16 ≤ ((s.tenant (tid q.tenant)).mail.filter fun x => x.mbox == p.mbox).length → exec .mailboxPost s = .next s)) ∧
  (∀ (s : State) (t : TenantId) (ch : BitVec 6) (m : BitVec 12) (p : Post) (e : Egress) (rest : List Post), s.dev.wbuf = [] →
    s.mem.wf = true → e = (s.tenant t).egress.get ch.toFin → e.ctl.getLsbD 0 = true → field e.ctl 1 2 = 0 →
    (∃ n, s.dev.board.links.get n = true) → (s.tenant t).mail = p :: rest → p.mbox = m → m.toNat % 64 = ch.toNat →
    (e.wp - e.rp).toNat + 24 ≤ 2 ^ field e.ctl 3 5 →
    Gives (.sesameEgressRecord t ch (some m)) s fun r => (r.tenant t).mail = rest ∧
      ((r.tenant t).egress.get ch.toFin) = { e with wp := e.wp + 24 } ∧
      ∀ k : Fin 24, r.mem.read (Config.hostAt + (e.base.toNat + (e.wp.toNat + k.val) % 2 ^ field e.ctl 3 5) % 2 ^ 64) =
        (toLe 4 20 ++ toLe 2 m.toNat ++ [p.kind, 0] ++ toLe 8 p.val.toNat ++ toLe 8 s.dev.board.dtime).getD k.val 0)

/-- R239, R268, R401 to R405: frames and chunks pass the decoder and the encoder, and posted writes leave. -/
def Obligations.FramesAndPosts : Prop :=
  Claims.FramePath ∧ Claims.PostsLeave

namespace Sys2Proof.Claims

/-- Task and cohort numbers name one task and one cohort each. -/
abbrev Distinct (s : State) : Prop := (s.dev.tasks.map (·.id)).Nodup ∧ (s.dev.cohorts.map (·.id)).Nodup

/-- Is a cohort one of the launches of a queue? -/
abbrev ofQueue (s : State) (t : TenantId) (q : QueueId) (c : Cohort) : Prop :=
  ∃ l ∈ s.dev.launches, l.tenant = t ∧ l.queue = q ∧ l.id = c.launch

/-- The loaded task of core `c`, of a cohort. -/
abbrev RunsOf (s : State) (cohort : Nat) (c : CoreId) : Prop :=
  ∃ k ∈ s.dev.tasks, k.cohort = cohort ∧ k.alive = true ∧ s.coreOf k.id = some c

/-- The registers of context area `a` of a tenant, as the dispatcher writes them, each in its field (R293, R295). -/
abbrev AreaRegisters (s : State) (t : TenantId) (a : Nat) (v : SvRegs) : Prop :=
  let base := (s.tenant t).svBase.toNat + a * 0x200000
  v.ssave = sprWritten 0x46 (BitVec.ofNat 64 (base + 0x1D0000)) ∧ v.stsave = sprWritten 0x47 (BitVec.ofNat 64 (base + 0x100000)) ∧
    v.slsave = sprWritten 0x48 (BitVec.ofNat 64 base) ∧ v.ctxid = BitVec.ofNat 64 (a + 1) ∧
    v.stvec = sprWritten 0x41 (s.tenant t).svEntry

/-- No pre-emption has come to its end: each cohort that is being pre-empted has a task on a core (R366, R378). -/
abbrev PreemptionsGoOn (s : State) : Prop :=
  ∀ c ∈ s.dev.cohorts, c.state = .preempting → ∃ k ∈ s.dev.tasks, k.cohort = c.id ∧ k.alive = true ∧ s.coreOf k.id ≠ none

/-- The matrix unit of the acting core has nothing to do. -/
abbrev MatrixIdle (k : Core) : Prop :=
  k.mat.queue = [] ∧ k.mat.running = [] ∧ k.mat.lands = [] ∧ k.mpRun = false

/-- R368, R371: the slack of a cohort: until EPOCH + frame × PERIOD + DOFF less the work that its tasks have left, or until the deadline
that its best-effort launch was given; in 64-bit signed arithmetic. -/
def slackOf (s : State) (l : Launch) (c : Cohort) : Int :=
  let at_ (dw : Fin 32) (lo n : Nat) : Nat := field ((s.strm l.stream).dw.get dw) lo n
  let work := ((s.dev.tasks.filter fun k => k.cohort == c.id && k.alive).length) *
    field ((s.strm l.stream).dw.get ⟨(9 + 2 * l.rung) % 32, Nat.mod_lt _ (by decide)⟩) 0 32
  let d : Int := if l.sv then (at_ 2 0 64 + c.frame * at_ 1 0 32 + at_ 1 32 32 : Nat) - (work : Nat) else (l.due : Nat)
  (d - s.dev.board.dtime).bmod (2 ^ 64)

/-- R367: the keys of the ready list, first to last: slack in steps of 2^20 ns, PRIO, the order in which launches were accepted, the
cohort's place in its launch. -/
def readyKeys (s : State) (l : Launch) (c : Cohort) : List Int :=
  [slackOf s l c / 2 ^ 20, l.prio, l.arrival, l.queue.val, l.id, c.order]

end Sys2Proof.Claims

/-- R367, R368: the head of a tenant's ready list is a ready cohort of a launch of the tenant, and no other ready cohort of the tenant has
lower keys. That launches accepted at one DTIME count as accepted in one clock, in queue order, is the model's choice (log 38). -/
def Sys2Proof.Claims.ReadyOrder : Prop :=
  ∀ (s : State) (t : TenantId) (r : Ranked), s.readyHead t = some r →
    r.cohort ∈ s.dev.cohorts ∧ r.cohort.state = .ready ∧ s.launchById r.cohort.launch = some r.launch ∧ r.launch.tenant = t ∧
    ∀ c ∈ s.dev.cohorts, ∀ l, c.state = .ready → s.launchById c.launch = some l → l.tenant = t →
      ¬ readyKeys s l c < readyKeys s r.launch r.cohort

/-- R25, R26, R366, R367, R370, R374: a decision makes the one ready cohort that fits resident, whole: under PLACE 0 its tasks get
different free cores of the tenant, under PLACE 1 and 2 core k mod 8 of the clusters that the table of R26 names, in ascending order. -/
def Sys2Proof.Claims.CohortMadeResident : Prop :=
  ∀ (s : State) (r : Ranked) (id : Nat), s.dev.wbuf = [] → Distinct s → s.dev.board.recovery = false → s.dev.board.ckptJob = none →
    PreemptionsGoOn s → s.readyHead s.dev.cur.t = some r → id = r.cohort.id → (∀ c ∈ s.dev.cohorts, c.state = .ready → c.id = id) →
    r.launch.fits (s.aliveTasks id).length (s.freeCores s.dev.cur.t) = true →
    ((s.aliveTasks id).filter fun k => k.ctxid == 0).length ≤ s.freeAreas s.dev.cur.t → Gives .dispatchDecision s fun t =>
      t.dev.cohorts = s.dev.cohorts.map (fun c =>
        if c.id = id then { c with state := .resident, admitted := true, asked := false } else c) ∧
      t.dev.cores = s.dev.cores ∧ t.mem = s.mem ∧ (t.tenant s.dev.cur.t).lastDec = s.dev.board.dtime ∧
        (t.tenant s.dev.cur.t).due = false ∧
      (∀ k ∈ s.dev.tasks, k.cohort ≠ id → k ∈ t.dev.tasks) ∧
      (r.launch.placeCode = 0 → ∀ k ∈ t.dev.tasks, k.cohort = id → k.alive = true →
        (∃ c ∈ s.freeCores s.dev.cur.t, k.place = some c) ∧
        ∀ m ∈ t.dev.tasks, m.cohort = id → m.alive = true → m.place = k.place → m = k) ∧
      (r.launch.placeCode = 1 → ∃ cl : List Nat, cl.Pairwise (· < ·) ∧ cl.length = (r.launch.size + 7) / 8 ∧
        (∀ x ∈ cl, x < 16 ∧ ∀ c : CoreId, c.val / 8 = x → c ∈ s.freeCores s.dev.cur.t) ∧
        ∀ k ∈ t.dev.tasks, k.cohort = id → k.rank < 8 * cl.length →
          k.place.map (·.val) = some (8 * cl.getD (k.rank / 8) 0 + k.rank % 8)) ∧
      (r.launch.placeCode = 2 → ∃ ps : List Nat, ps.Pairwise (· < ·) ∧ ps.length = (r.launch.size + 15) / 16 ∧
        (∀ x ∈ ps, x < 8 ∧ ∀ c : CoreId, c.val / 16 = x → c ∈ s.freeCores s.dev.cur.t) ∧
        ∀ k ∈ t.dev.tasks, k.cohort = id → k.rank < 16 * ps.length →
          k.place.map (·.val) = some (16 * ps.getD (k.rank / 16) 0 + k.rank % 16))

/-- R345, R370, R377, R399: while Hazel recovers or a checkpoint runs a decision makes nothing resident, and so does one without a
ready cohort; no decision pre-empts a cohort but a best-effort one of its own tenant. -/
def Sys2Proof.Claims.DecisionsSpareStreams : Prop :=
  ∀ (s : State), s.dev.wbuf = [] →
    (PreemptionsGoOn s → s.dev.board.recovery = true ∨ s.dev.board.ckptJob ≠ none ∨ s.readyHead s.dev.cur.t = none →
      exec .dispatchDecision s = .next (s.modTenant s.dev.cur.t fun x => { x with lastDec := s.dev.board.dtime, due := false })) ∧
    (Distinct s → Gives .dispatchDecision s fun t => ∀ c ∈ t.dev.cohorts, c.state = .preempting →
      (∃ b ∈ s.dev.cohorts, b.id = c.id ∧ b.state = .preempting) ∨
        ∃ l ∈ s.dev.launches, l.id = c.launch ∧ l.sv = false ∧ l.tenant = s.dev.cur.t)

/-- R12, R25, R295, R320: a task of a resident cohort starts on its core, when that is free, at user level at the entry of its rank,
with the context of R12 and the lowest free context area; a tile file that no context owns, or one of an ended context of that area, is
then at the values of task start, and on other cores of the tenant TOWN no longer names that context (the last by log 68); a saved
task's core enters the supervisor with KIND 11 and no loaded context. -/
def Sys2Proof.Claims.TasksStartAndResume : Prop :=
  ∀ (s : State) (k : Task) (l : Launch) (c : CoreId), s.dev.wbuf = [] → s.taskById s.dev.cur.n = some k → s.mayRun k = some (l, c) →
    (∀ a, k.where_ = .fresh → (∀ b, b < a → b ∈ (s.tenant l.tenant).areas) → a ∉ (s.tenant l.tenant).areas → a ≤ 4096 →
      Gives .taskStart s fun t =>
        (t.core c).ctx = { Reset.ctx with pc := nth l.entries k.rank 0, wid := k.wid, tenant := BitVec.ofNat 4 l.tenant.val,
                                          occ := l.occ, draft := l.draft } ∧
        (t.core c).run = .running ∧ (t.core c).task = some k.id ∧ (t.core c).flights = [] ∧ (t.core c).preempt = false ∧
        (t.core c).sv.priv = false ∧
        AreaRegisters s l.tenant a (t.core c).sv ∧ (t.core c).sv.town = (s.core c).sv.town ∧
        ((s.core c).sv.town.getLsbD 32 = false ∨ field (s.core c).sv.town 0 32 = a + 1 →
          (t.core c).mat.tcfg = .replicate 8 0 ∧ (t.core c).mat.tag = .replicate 4 none ∧ (t.core c).mat.scale = .replicate 4 0 ∧
            ∀ n b, n < 4 → b < latchBytes → t.mem.read (latchAddr c n b) = 0) ∧
        (∀ d, d ≠ c → t.core d = if s.owner (clusterOf d) = some l.tenant ∧ field (s.core d).sv.town 0 33 = 2 ^ 32 + a + 1 then
          { s.core d with sv := { (s.core d).sv with town := (s.core d).sv.town &&& ~~~0x100000000#64 } } else s.core d) ∧
            (t.tenant l.tenant).areas = a :: (s.tenant l.tenant).areas ∧
        ∃ k', t.taskById k.id = some k' ∧ k'.where_ = .on c ∧ k'.ctxid = a + 1) ∧
    (k.where_ = .saved → Gives .resumeRequest s fun t =>
      (t.core c).run = .running ∧ (t.core c).sv.priv = true ∧ (t.core c).sv.scause = 0x300 ∧
      (t.core c).ctx.pc = (t.core c).sv.stvec ∧
      AreaRegisters s l.tenant (k.ctxid - 1) (t.core c).sv ∧
      (t.core c).sv.snext = (t.core c).sv.ssave ||| 0x8000000000000000 ∧ (t.core c).task = some k.id ∧
      (t.core c).preempt = false ∧ (t.core c).flights = [] ∧ (∀ n : Fin 4, ((t.core c).latch.get n).stale = true) ∧
      (∀ d, d ≠ c → t.core d = s.core d) ∧ t.dev.tasks = s.dev.tasks)

/-- R12, R25, R26, R295, R320, R345, R366 to R370, R374, R377, R399: the order of ready
cohorts, how they become resident, what a decision spares, and how tasks start and resume. -/
def Obligations.CohortsRun : Prop :=
  Claims.ReadyOrder ∧ Claims.CohortMadeResident ∧ Claims.DecisionsSpareStreams ∧ Claims.TasksStartAndResume

/-- R290, R297 to R299, R302, R303: a stop whose parts have completed enters the supervisor: the four registers of the fault record are
written, MODE.PRIV is 1, the next bundle is the one at STVEC, the latches are stale, the results in flight have become the snapshot,
and the context's registers keep their values. While an access has not performed nothing happens. -/
def Obligations.SupervisorEntered : Prop :=
  ∀ (s : State) (r : StopRec), s.dev.wbuf = [] → s.me.run = .stopping r →
    (∀ n : Fin 8, (s.me.ctx.streams.get n).gq.length ≤ 64) →
    (s.stopReady s.dev.cur.core = false → exec .supervisorEntry s = .next s) ∧
    (s.stopReady s.dev.cur.core = true → MatrixIdle s.me → s.me.defer = [] → (∀ f ∈ s.me.flights, f.counts = true) →
      (∀ o ∈ s.dev.eng, o.kind ≠ .logit) → Gives .supervisorEntry s fun t =>
        t.me.sv.sepc = r.epc &&& 0xFFFFFFFFFFFFC ∧ t.me.sv.scause = r.scause ∧ t.me.sv.sfaddr = r.sfaddr ∧ t.me.sv.sfinfo = r.sfinfo ∧
        t.me.sv.priv = true ∧ t.me.sv.pdef = s.me.preempt ∧ t.me.ctx = { s.me.ctx with pc := s.me.sv.stvec } ∧ t.me.run = .running ∧
        t.me.flights = [] ∧ t.me.snap = s.me.flights.map Flight.entry ∧ t.me.held = .replicate 2 none ∧ t.me.heldSnap = s.me.held ∧
        (∀ n : Fin 4, (t.me.latch.get n).stale = true) ∧ t.me.sv.s = s.me.sv.s ∧ t.me.sv.p = s.me.sv.p ∧ t.mem = s.mem ∧
        ∀ c, c ≠ s.dev.cur.core → t.core c = s.core c)

/-- R27, R301, R365, R366, R378: a pre-emption is asked of every core of its cohort at once; it completes when no core holds a task of the
cohort that has not ended, and the cohort is ready again unless all have ended. A watched queue without progress for WD1 has its resident
cohorts pre-empted the first time, and its tasks killed and FAULTED with WATCHDOG the second; with none to pre-empt its window starts
again (the model's choice, log 111); when WD2 runs out before the pre-emption completes, it is FAULTED and the tasks still loaded are
killed. A watchdog that WD1 = 0 disables does nothing. -/
def Obligations.PreemptionAndWatchdog : Prop :=
  ∀ (s : State), s.dev.wbuf = [] →
    (∀ h, s.cohortById s.dev.cur.n = some h → h.state = .preempting → h.asked = false → Gives .preemptionRequest s fun t =>
      (∀ c, (RunsOf s h.id c → t.core c = { s.core c with preempt := true, sv := { (s.core c).sv with
          pdef := (s.core c).sv.priv || (s.core c).mat.posted.isSome } }) ∧ (¬ RunsOf s h.id c → t.core c = s.core c)) ∧
      t.cohortById h.id = some { h with asked := true } ∧ t.dev.tasks = s.dev.tasks ∧ t.mem = s.mem) ∧
    (∀ h, s.cohortById s.dev.cur.n = some h → h.state = .preempting → 
      (∀ k ∈ s.dev.tasks, k.cohort = h.id → k.alive = true → s.coreOf k.id = none) →
      Gives .preemptionCompletes s fun t => t.cohortById h.id = some { h with
          state := if ∃ k ∈ s.dev.tasks, k.cohort = h.id ∧ k.alive = true then .ready else .done } ∧
        (∀ l, s.launchById h.launch = some l → (t.tenant l.tenant).due = true) ∧
        t.dev.tasks = s.dev.tasks ∧ t.dev.cores = s.dev.cores ∧ t.mem = s.mem) ∧
    (∀ h, s.cohortById s.dev.cur.n = some h → (∃ k ∈ s.dev.tasks, k.cohort = h.id ∧ k.alive = true ∧ s.coreOf k.id ≠ none) →
      exec .preemptionCompletes s = .next s) ∧
    (s.dev.board.recovery = false → s.watched s.dev.cur.t s.dev.cur.q = true → s.myCq.wd1 ≠ 0 → Distinct s →
      s.myCq.since + s.myCq.wd1.toNat * 1000 ≤ s.dev.board.dtime →
      (s.myCq.wdPre = false → (∀ c ∈ s.dev.cohorts, ofQueue s s.dev.cur.t s.dev.cur.q c → c.state ≠ .resident ∧ c.state ≠ .preempting) →
        exec .watchdogWd1 s = .next (s.modMyCq fun c => { c with since := s.dev.board.dtime })) ∧
      (s.myCq.wdPre = false → (∃ c ∈ s.dev.cohorts, ofQueue s s.dev.cur.t s.dev.cur.q c ∧ (c.state = .resident ∨ c.state = .preempting)) →
        Gives .watchdogWd1 s fun t =>
        t.myCq = { s.myCq with wdPre := true, since := s.dev.board.dtime, preAt := some s.dev.board.dtime } ∧
        (∀ c ∈ s.dev.cohorts, ∃ d ∈ t.dev.cohorts, d.id = c.id ∧ (ofQueue s s.dev.cur.t s.dev.cur.q c ∧ c.state = .resident →
          d.state = .preempting) ∧ (¬ (ofQueue s s.dev.cur.t s.dev.cur.q c ∧ c.state = .resident) → d = c)) ∧
        t.dev.tasks = s.dev.tasks ∧ t.mem = s.mem ∧ t.dev.cores = s.dev.cores) ∧
      (s.myCq.wdPre = true → Gives .watchdogWd1 s fun t => t.myCq.state = 3 ∧ t.myCq.code = 0x14 ∧ t.myCq.preAt = none ∧
        ∀ k ∈ t.dev.tasks, ∀ c ∈ s.dev.cohorts, c.id = k.cohort → ofQueue s s.dev.cur.t s.dev.cur.q c → k.alive = false)) ∧
    (s.dev.board.dtime < s.myCq.since + s.myCq.wd1.toNat * 1000 ∨ s.myCq.wd1 = 0 ∨ s.dev.board.recovery = true →
      exec .watchdogWd1 s = .next s) ∧
    (s.myCq.wd1 = 0 → exec .watchdogWd2 s = .next s) ∧
    (∀ at_, s.dev.board.recovery = false → s.myCq.wd1 ≠ 0 → s.myCq.preAt = some at_ →
      at_ + s.myCq.wd2.toNat * 1000 ≤ s.dev.board.dtime → Distinct s →
      (s.queuePreempting s.dev.cur.t s.dev.cur.q = true → Gives .watchdogWd2 s fun t => t.myCq.state = 3 ∧ t.myCq.code = 0x14 ∧
        ∀ k ∈ t.dev.tasks, ∀ c ∈ s.dev.cohorts, c.id = k.cohort → ofQueue s s.dev.cur.t s.dev.cur.q c → c.state = .preempting →
          s.coreOf k.id ≠ none → k.alive = false) ∧
      (s.queuePreempting s.dev.cur.t s.dev.cur.q = false →
        exec .watchdogWd2 s = .next (s.modMyCq fun c => { c with preAt := none })))

namespace Sys2Proof.Claims

/-- The state in which a turn acts: the tape without its head, and the cursor on the turn's agents. -/
def turnOf (s : State) (ts : List Turn) (w : Who) : State := s.upd fun d => { d with turns := ts, cur := w }

/-- What a clock of core `c` has done before its bundle issues: what is due has landed, and the matrix unit has made its clock (R17). -/
def clockOf (s : State) (c : CoreId) : State := (s.modCore c Core.landDue).onDev fun s => s.matTick c

/-- The one syllable of a bundle of one word at `pc` (R99, R101). -/
def loneSyl (pc : W64) (w : BitVec 32) (i : Instr) : Syl :=
  let e := engineOf (majorOf w)
  { addr := pc, word := w, ext := 0, instr := some i, place := 3, lat := if e = 0 then some 0 else if e = 2 then some 2 else none,
    vslot := if e = 2 then some 0 else none, rep := false }

/-- The state in which that bundle issues. -/
def opens (t : State) (pc : W64) : State := t.modBun fun _ => { Reset.bundle with base := pc, next := pc + 4, single := true }

/-- The end of the clock in which a bundle of core `c` issued: its own effects and the next bundle's address (`retire`), the clock's
count, a half of a pair that can end, and a core whose task has ended or that has halted. -/
def clockEnds (r : State) (pre : Core) (c : CoreId) (ys : List Syl) : State :=
  ((((((r.retire pre [] ys).modImem c fun m => { m with waiting := none }).tick c false).onDev fun s => s.pairUp c)).onDev
    fun s => (s.releaseCore c).reapHalted c).flush

/-- A core that works, at a boundary at which nothing is taken and with nothing that freezes it, is to fetch a bundle of the words `ws`
that no check of its shape, and no repeat, concerns; `u` is the state of its turn, and `t` that after what has landed. -/
abbrev Fetches (s u t : State) (ts : List Turn) (c : CoreId) (pc : W64) (ws : List (BitVec 32)) : Prop :=
  s.dev.turns = .core c :: ts ∧ s.dev.board.off = false ∧ u = turnOf s ts { s.dev.cur with core := c } ∧ (s.core c).run = .running ∧
    (s.core c).clk.gap = 0 ∧ u.boundary c = none ∧ ((s.core c).wents = [] ∨ (s.core c).frozen = false) ∧ (s.core c).lateLoad = false ∧
    t = clockOf u c ∧ pc = (s.core c).ctx.pc ∧ (t.core c).ctx.pc = pc ∧ t.fetchBundle c pc.toNat = .words ws ∧ stopped ws = true ∧
    (t.core c).held = .replicate 2 none

end Sys2Proof.Claims

/-- R12, R293, R295, R346, R372, R386, R389, R406, R412: the values at reset: no partition, no link up, BOOTSTAT 0, THERMCTL.TRIP 105,
DTIME 0, every core free at supervisor level with the context of R12, every queue disabled and IDLE with LOG2N 4, no resource with an
owner, LSMASK 0xFFFF, DSCTL and FLCTL as their tables have them, and memory that reads 0; the invariant of the machine holds. The
registers to which the spec gives no reset value, and memory's contents before bring-up, are the model's choice (log 3, log 5). -/
def Obligations.ResetState : Prop :=
  State.reset.Inv ∧ State.reset.part = .replicate 16 0 ∧ (∀ a, State.reset.mem.read a = 0) ∧ State.reset.dev.board.dtime = 0 ∧
    State.reset.dev.board.bootstat = 0 ∧ State.reset.dev.board.thermctl = 105 ∧ (∀ n : Fin 8, State.reset.dev.board.links.get n = false) ∧
    (∀ c, (State.reset.core c).run = .free ∧ (State.reset.core c).sv.priv = true ∧ (State.reset.core c).sv.lsmask = 0xFFFF ∧
      (State.reset.core c).ctx = Reset.ctx ∧ (State.reset.core c).task = none) ∧
    (∀ t q, (State.reset.cq t q).en = false ∧ (State.reset.cq t q).state = 0 ∧ (State.reset.cq t q).log2n = 4) ∧
    (∀ t, (State.reset.tenant t).dsctl = 0x100C350 ∧ (State.reset.tenant t).flctl = 6 ∧ (State.reset.tenant t).troot = 0) ∧
    (∀ q, (State.reset.hq q).owner = none) ∧ State.reset.dev.tasks = [] ∧ State.reset.dev.launches = []

/-- R99, R269, R343, R349, R387, R411, log 1: a step runs the decoded instruction. A queue's turn in its slot, when it is the next of its
worker's queues, runs the command that the bytes at CPC spell, a sampler's the Pip word of its round, an event's the event, where nothing
is under way that their accesses could have to wait for (R331, R336, R387, R397; log 73); a core's turn
runs the syllable, or the header, of a bundle of one word, when it neither traps nor is held, after what is due has landed, and then
counts the clock, and moves on to the next address unless control goes elsewhere. A turn in another's slot does nothing, and so does any
of a device that is off, but for its power-on reset and the wall clock. Whose turn it is the tape says: the model's choice (log 1). -/
def Obligations.StepRunsDecoded : Prop :=
  (∀ (s : State) (ts : List Turn) (t : TenantId) (q : QueueId) (n : Nat) (i : Instr), s.dev.turns = .queue t q :: ts →
    s.dev.board.off = false → s.contended = false → s.served 5 t = true → s.hasTurn t q = true → (s.cq t q).cpc.toNat % 4 = 0 →
    (∃ w, s.devNat t (s.cq t q).cpc.toNat 4 = .ok w ∧ (commandBytes w = 4 → n = w) ∧
      (commandBytes w = 12 → s.devNat t (s.cq t q).cpc.toNat 12 = .ok n ∧ n % 2 ^ 32 = w)) → decodeCommand n = .ok i →
    step s = exec i ((turnOf s ts { s.dev.cur with t := t, q := q }).modTenant t fun x =>
      { x with last := x.last.set (s.cq t q).worker.val q (s.cq t q).worker.isLt })) ∧
  (∀ (s : State) (ts : List Turn) (t : TenantId) (q : QueueId), s.dev.turns = .queue t q :: ts → s.dev.board.off = false →
    s.served 5 t = false ∨ s.hasTurn t q = false → step s = .next (turnOf s ts { s.dev.cur with t := t, q := q })) ∧
  (∀ (s : State) (ts : List Turn) (k : SamplerId) (j : Job) (r : Round) (i : Instr), s.dev.turns = .sampler k :: ts →
    s.dev.board.off = false → s.contended = false → s.scHolds j.op = false → (s.dev.samplers.get k).job = some j →
      s.roundOf k j.key = some r →
    (∀ cls, s.pipClass k = some cls → s.served cls (tid j.key.tenant) = true) → decodePip (r.prog.getD j.pip 0) = .ok i →
    step s = exec i (turnOf s ts { s.dev.cur with k := k })) ∧
  (∀ (s : State) (ts : List Turn) (i : Instr) (w : Who), s.dev.turns = .event i w :: ts → s.dev.board.off = false →
    s.contended = false → i.isEvent = true → step s = if s.slotAllows i w = true ∧ s.scEvent i w = false then exec i
      (turnOf s ts w) else .next (turnOf s ts w)) ∧
  (∀ (s u t e r : State) (ts : List Turn) (c : CoreId) (w : BitVec 32) (i : Instr) (pc : W64), Fetches s u t ts c pc [w] →
    decodeSyllable w 0 = .ok i → (holdBit w = true → ∀ f ∈ vsrcFields w, f ≠ 32 ∧ f ≠ 33) →
    e = ((opens t pc).readTable [loneSyl pc w i]).enter (loneSyl pc w i) → exec i e = .next r →
    ((r.core c).run = .running ∧ (r.core c).bun.hold = none) ∨ (∃ x, i = .halt x ∧ (r.core c).run = .halted) →
    step s = .next (clockEnds r (opens t pc).me c [loneSyl pc w i])) ∧
  (∀ (s u t r : State) (ts : List Turn) (c : CoreId) (w : BitVec 32) (i : Instr) (pc : W64), Fetches s u t ts c pc [w] →
    decodeHeader w = .ok i → exec i (opens t pc) = .next r → step s = .next (clockEnds r (opens t pc).me c [])) ∧
  (∀ (r v : State) (pre : Core) (c : CoreId) (ys : List Syl), r.dev.cur.core = c → (r.core c).bun.taken = false →
    (r.core c).bun.exiting = false → (r.core c).ctx.loops = [] → (r.core c).bun.pushed = false → v = (r.retire pre [] ys).tick c false →
    (v.core c).ctx.pc = (r.core c).bun.next ∧ (v.core c).clk.cycle = (r.core c).clk.cycle + 1 ∧
      (v.core c).clk.unf = (r.core c).clk.unf + 1) ∧
  (∀ (s : State) (t : Turn) (ts : List Turn), s.dev.turns = t :: ts → s.dev.board.off = true →
    ((∀ b w, t ≠ .event (.powerOnReset b) w) → (∀ ns, t ≠ .time ns) → step s = .next (turnOf s ts s.dev.cur)) ∧
    (∀ ns, t = .time ns → step s = .next ((turnOf s ts s.dev.cur).modBoard fun b => { b with dtime := b.dtime + ns })))

/-- R99 to R125, R193, R211, R269, R313, R349: words that the spec's own encodings spell decode to their instructions. -/
def Obligations.EncodedWords : Prop :=
  let x : Lent := { guard := none, ix := 0 }
  decodeSyllable 0x080813E8 0x89 =
      .ok (.addi { guard := some { neg := false, p := 2 }, ix := 1 } { n := false, r := 4 } (.s 4) 0x3E8) ∧
    decodeSyllable 0x080813E8 0 = .ok (.addi x { n := false, r := 4 } (.s 4) 0x3E8) ∧
    decodeSyllable 0x30104146 0 = .ok (.vadd x .w512 false 0 { n := false, r := 4 } (.v 5) (.v 6)) ∧
    decodeSyllable 0xA87FFFF0 0 = .ok (.br x 0x7FFFF0) ∧ decodeSyllable 0xA0108D03 0 = .ok (.ld x 3 1 false 4 8 3) ∧
    decodeSyllable 0xB9C28850 0 = .ok (.vmaxe x .w1024 false { n := false, r := 10 } (.v 8) 5 0) ∧
    decodeSyllable 0xCAA400C0 0 = .ok (.mma x 2 1 0 0 0 12 false) ∧ decodeSyllable 0xDB060000 0 = .ok (.step x 3) ∧
    decodeSyllable 0xD9030400 0 = .ok (.qget x 12 4) ∧ decodeSyllable 0xE3E9A800 0 = .ok (.tlbinvPage x 52 53) ∧
    decodeCommand 0x79158000 = .ok (.claunch 4 5 6) ∧ decodePip 0x50040000 = .ok (.ppen 0 0 1 0) ∧
    decodeHeader 0xF8000000 = .ok (.nop false 0 0 0)

/-- R99 to R125, R140 to R157, R159, R193, R210, R211, R269, R313, R349, R350: decoding the word that the encoder gives for a
well-formed instruction gives that instruction back, with every operand, whatever the stop bit is: of syllables, of the header, of
commands and of Pip words. -/
def Obligations.DecodeAfterEncode : Prop :=
  (∀ (i : Instr) (n : Nat) (stop : Bool), i.wf = true → i.syl = some n → (∀ o a b c, i ≠ .nop o a b c) →
    decodeSyllable (BitVec.ofNat 32 (n + if stop then 2 ^ 31 else 0)) i.lent.enc = .ok i) ∧
  (∀ (o : Bool) (a b c : BitVec 8) (n : Nat), (Instr.nop o a b c).syl = some n → decodeHeader (BitVec.ofNat 32 n) = .ok (.nop o a b c)) ∧
  (∀ (i : Instr) (n : Nat), i.wf = true → i.cmd = some n → decodeCommand n = .ok i) ∧
  (∀ (i : Instr) (n : Nat), i.wf = true → i.pip = some n → decodePip (BitVec.ofNat 32 n) = .ok i)

/-- R355, R383, log 2, log 3: every step keeps the invariant: from a state whose memory is in its canonical form, with no byte waiting,
and in which no two partitions share a cluster, a step that goes on gives such a state. -/
def Obligations.StepKeepsInvariant : Prop := ∀ (s t : State), s.Inv → step s = .next t → t.Inv
end

