-- ==== Sys2Proof/Laws/Kv.lean ====
section
/-! SUPPORT. The reads of the engines and the samplers, once: an answer comes from an unchanged state. -/

namespace Sys2Proof.Machine

/-- When the computation answers, it has changed nothing. -/
def Reads {α : Type} (m : Kv α) : Prop := ∀ s x u, m.run s = (.ok x, u) → u = s

/-- A value. -/
theorem Reads.pure {α : Type} (a : α) : Reads (Pure.pure a : Kv α) := by
  rintro s x u h
  cases h
  rfl

/-- One after the other. -/
theorem Reads.bind {α β : Type} {m : Kv α} {f : α → Kv β} (hm : Reads m) (hf : ∀ a, Reads (f a)) : Reads (m >>= f) := by
  intro s x u h
  rcases e : m.run s with ⟨r, t⟩
  have hb : (ExceptT.bindCont f r : StateM State (Except (Nat × Nat) β)) t = (.ok x, u) := by
    have e1 : (m.run s).1 = r := by rw [e]
    have e2 : (m.run s).2 = t := by rw [e]
    rw [← e1, ← e2]
    exact h
  cases r with
  | ok a => exact (hf a t x u hb).trans (hm s a t e)
  | error e' => cases hb

/-- Either of two. -/
theorem Reads.ite {α : Type} {c : Prop} [Decidable c] {m n : Kv α} (hm : Reads m) (hn : Reads n) : Reads (if c then m else n) := by
  split
  · exact hm
  · exact hn

/-- A read of a KV structure (R87). -/
theorem kvGet_reads (a : KvAs) (va n : Nat) : Reads (kvGet a va n) := by
  intro s x u h
  change (match s.readAs a.v a.t va n with
    | .ok l => ((.ok (leNat l), s) : Except (Nat × Nat) Nat × State)
    | .error f => (.error f, s)) = _ at h
  split at h <;> cases h
  rfl

/-- A read of a sampler (R254). -/
theorem smGet_reads (a : KvAs) (va n : Nat) : Reads (smGet a va n) := by
  intro s x u h
  change (match s.numAs a va n with
    | .ok v => ((.ok v, s) : Except (Nat × Nat) Nat × State)
    | .error f => (.error (5, f.2), s.smpLog a.t f.1 f.2)) = _ at h
  split at h <;> cases h
  rfl

/-- A lookup in a hashed table (R254). -/
theorem lookIn_reads (a : KvAs) (v : Nat) (ps : List Nat) : Reads (lookIn a v ps) := by
  induction ps with
  | nil => exact .pure _
  | cons va rest ih => exact .bind (smGet_reads _ _ _) fun _ => .ite (.pure _) (.ite (.pure _) ih)

/-- A count. -/
theorem countOf_reads (r : Round) (v : Nat) : Reads (countOf r v) := lookIn_reads _ _ _

/-- A bias. -/
theorem biasOf_reads (r : Round) (v : Nat) : Reads (biasOf r v) := lookIn_reads _ _ _

/-- A transition of the grammar (R265). -/
theorem transOf_reads (a : KvAs) (gbase state v : Nat) : Reads (transOf a gbase state v) :=
  .bind (smGet_reads _ _ _) fun _ => .bind (smGet_reads _ _ _) fun _ => .bind (smGet_reads _ _ _) fun _ => .bind (smGet_reads _ _ _) fun _ =>
    .bind (smGet_reads _ _ _) fun _ => .pure _

/-- Whether a transition is allowed (R265). -/
theorem transAllowed_reads (t : KvAs) (rec_ : Nat) (a : Auto) (x : Trans) : Reads (transAllowed t rec_ a x) := by
  unfold transAllowed
  split
  · exact .pure _
  · split
    · exact .pure _
    · exact .pure _
    · split
      · exact .pure _
      · exact .bind (smGet_reads _ _ _) fun _ => .pure _
    · exact .pure _

/-- Whether the grammar allows a token (R265). -/
theorem pipAllowed_reads (r : Round) (v : Nat) : Reads (pipAllowed r v) := .bind (transOf_reads _ _ _ _) fun _ => transAllowed_reads _ _ _ _

end Sys2Proof.Machine
end

