-- ==== Sys2Proof/Laws/Memory.lean ====
section
/-! SUPPORT. The laws of memory: every operation keeps the canonical form, a byte written is the byte read, and every other byte
is kept; what `act` leaves. -/

namespace Sys2Proof.Machine

/-- The canonical form of the rest of a list. -/
theorem Memory.wfCells_cons (lo : Option Nat) (c : Host.Cell) (cs : List Host.Cell) :
    Memory.wfCells lo (c :: cs) = true ↔
      (∀ l, lo = some l → l < c.1) ∧ c.2 ≠ 0 ∧ Memory.wfCells (some c.1) cs = true := by
  cases lo <;> simp [Memory.wfCells, and_assoc]

/-- A lower bound may be lowered. -/
theorem Memory.wfCells_weaken {lo hi : Option Nat} {cs : List Host.Cell} (h : Memory.wfCells hi cs = true)
    (hle : ∀ l, lo = some l → ∃ k, hi = some k ∧ l ≤ k) : Memory.wfCells lo cs = true := by
  cases cs with
  | nil => rfl
  | cons c cs =>
    rw [Memory.wfCells_cons] at h ⊢
    refine ⟨fun l hl => ?_, h.2⟩
    obtain ⟨k, hk, hlk⟩ := hle l hl
    exact Nat.lt_of_le_of_lt hlk (h.1 k hk)

/-- A write keeps the form, above any bound that lies below its address. -/
theorem Memory.writeCells_wf {a : Nat} {b : Byte} (cs : List Host.Cell) :
    ∀ lo : Option Nat, (∀ l, lo = some l → l < a) → Memory.wfCells lo cs = true →
      Memory.wfCells lo (Memory.writeCells cs a b) = true := by
  induction cs with
  | nil =>
    intro lo hlo _
    unfold Memory.writeCells
    split
    · rfl
    · exact (Memory.wfCells_cons ..).2 ⟨hlo, ‹_›, rfl⟩
  | cons c cs ih =>
    intro lo hlo h
    obtain ⟨h1, h2, h3⟩ := (Memory.wfCells_cons ..).1 h
    unfold Memory.writeCells
    split
    · rename_i hc
      split
      · exact Memory.wfCells_weaken h3 fun l hl => ⟨c.1, rfl, Nat.le_of_lt (h1 l hl)⟩
      · exact (Memory.wfCells_cons ..).2 ⟨hlo, ‹_›, by rw [← hc]; exact h3⟩
    · split
      · split
        · exact h
        · rename_i ha hb
          exact (Memory.wfCells_cons ..).2 ⟨hlo, hb, (Memory.wfCells_cons ..).2 ⟨fun l hl => by cases hl; exact ha, h2, h3⟩⟩
      · refine (Memory.wfCells_cons ..).2 ⟨h1, h2, ih (some c.1) (fun l hl => ?_) h3⟩
        cases hl
        omega

/-- A write keeps the canonical form. -/
theorem Memory.write_wf {m : Memory} (h : m.wf = true) (a : Nat) (b : Byte) : (m.write a b).wf = true :=
  Memory.writeCells_wf m.cells none (fun _ hl => by cases hl) h

/-- A list of writes keeps the canonical form. -/
theorem Memory.writes_wf {m : Memory} (h : m.wf = true) (l : List Host.Cell) : (m.writes l).wf = true := by
  induction l with
  | nil => exact h
  | cons c cs ih => exact Memory.write_wf ih c.1 c.2

/-- No write changes nothing. -/
@[simp] theorem Memory.writes_nil (m : Memory) : m.writes [] = m := rfl

/-- The newest write is made last. -/
@[simp] theorem Memory.writes_cons (m : Memory) (c : Host.Cell) (l : List Host.Cell) :
    m.writes (c :: l) = (m.writes l).write c.1 c.2 := rfl

/-- Below the bound of a list nothing is listed. -/
theorem Memory.readCells_below {a : Nat} (cs : List Host.Cell) :
    ∀ l, a ≤ l → Memory.wfCells (some l) cs = true → Memory.readCells cs a = 0 := by
  cases cs with
  | nil => intros; rfl
  | cons c cs =>
    intro l hl h
    have := ((Memory.wfCells_cons ..).1 h).1 l rfl
    unfold Memory.readCells
    rw [if_neg (by omega), if_pos (by omega)]

/-- A byte reads as it was written, and every other byte as before. -/
theorem Memory.readCells_writeCells (cs : List Host.Cell) (a : Nat) (b : Byte) (k : Nat) :
    ∀ lo, Memory.wfCells lo cs = true →
      Memory.readCells (Memory.writeCells cs a b) k = if k = a then b else Memory.readCells cs k := by
  induction cs with
  | nil =>
    intro _ _
    unfold Memory.writeCells
    by_cases hb : b = 0
    · simp [Memory.readCells, hb]
    · rw [if_neg hb]
      by_cases hk : k = a
      · simp [Memory.readCells, hk]
      · simp [Memory.readCells, hk, Ne.symm hk]
  | cons c cs ih =>
    intro lo h
    obtain ⟨_, _, h3⟩ := (Memory.wfCells_cons ..).1 h
    have key := ih (some c.1) h3
    unfold Memory.writeCells
    by_cases hc : c.1 = a
    · rw [if_pos hc]
      by_cases hb : b = 0
      · rw [if_pos hb]
        by_cases hk : k = a
        · subst hk
          simpa [hb] using Memory.readCells_below cs c.1 (by omega) h3
        · rw [if_neg hk]
          conv_rhs => unfold Memory.readCells
          rw [if_neg (by omega)]
          split
          · exact Memory.readCells_below cs c.1 (by omega) h3
          · rfl
      · rw [if_neg hb]
        conv_lhs => unfold Memory.readCells
        conv_rhs => unfold Memory.readCells
        by_cases hk : k = a
        · simp [hk]
        · have hk' : ¬ a = k := fun e => hk e.symm
          simp [hc, hk, hk']
    · rw [if_neg hc]
      by_cases ha : a < c.1
      · rw [if_pos ha]
        by_cases hb : b = 0
        · rw [if_pos hb]
          by_cases hk : k = a
          · subst hk
            conv_lhs => unfold Memory.readCells
            rw [if_neg hc, if_pos ha, if_pos rfl, hb]
          · rw [if_neg hk]
        · rw [if_neg hb]
          conv_lhs => unfold Memory.readCells
          by_cases hk : k = a
          · simp [hk]
          · rw [if_neg (by simpa using Ne.symm hk), if_neg hk]
            by_cases hka : k < a
            · rw [if_pos hka]
              conv_rhs => unfold Memory.readCells
              rw [if_neg (by omega), if_pos (by omega)]
            · rw [if_neg hka]
      · rw [if_neg ha]
        conv_lhs => unfold Memory.readCells
        conv_rhs => unfold Memory.readCells
        by_cases hck : c.1 = k
        · rw [if_pos hck, if_pos hck, if_neg (by omega)]
        · rw [if_neg hck, if_neg hck]
          by_cases hlt : k < c.1
          · rw [if_pos hlt, if_pos hlt, if_neg (by omega)]
          · rw [if_neg hlt, if_neg hlt, key]

/-- A byte written reads back, and every other byte reads as before. -/
theorem Memory.read_write {m : Memory} (h : m.wf = true) (a : Nat) (b : Byte) (k : Nat) :
    (m.write a b).read k = if k = a then b else m.read k :=
  Memory.readCells_writeCells m.cells a b k none h

/-- After a list of writes a byte is the newest one written there, else what it was. -/
theorem Memory.read_writes {m : Memory} (h : m.wf = true) (l : List Host.Cell) (k : Nat) :
    (m.writes l).read k = match l.find? (fun c => c.1 == k) with
      | some c => c.2
      | none => m.read k := by
  induction l with
  | nil => rfl
  | cons c cs ih =>
    rw [Memory.writes_cons, Memory.read_write (Memory.writes_wf h cs), ih, List.find?_cons]
    by_cases hk : k = c.1
    · simp [hk]
    · have : (c.1 == k) = false := by simpa using Ne.symm hk
      rw [if_neg hk, this]

/-- Every meaning of the form `act f` answers a next state. -/
theorem act_next (f : State → State) (s : State) : ∃ t, act f s = .next t := ⟨_, rfl⟩

/-- What `act f` leaves: the bytes written are in memory, the partition registers are kept, and nothing waits to be written. -/
theorem act_eq (f : State → State) (s : State) :
    act f s = .next { mem := s.mem.writes (f s).dev.wbuf, part := s.part, dev := { (f s).dev with wbuf := [] } } := rfl

/-- `act f` keeps the canonical form and leaves nothing to be written. -/
theorem act_inv {f : State → State} {s t : State} (h : s.mem.wf = true) (ht : act f s = .next t) :
    t.mem.wf = true ∧ t.dev.wbuf = [] := by
  cases ht
  exact ⟨Memory.writes_wf h _, rfl⟩

/-- `actPart` keeps the canonical form and leaves nothing to be written. -/
theorem actPart_inv {g : State → Vector W64 16} {f : State → State} {s t : State} (h : s.mem.wf = true)
    (ht : actPart g f s = .next t) : t.mem.wf = true ∧ t.dev.wbuf = [] := by
  cases ht
  exact ⟨Memory.writes_wf h _, rfl⟩

/-- Where `f` writes no byte and keeps memory and partitions, `act f` answers what `f` leaves. -/
theorem act_clean {f : State → State} {s : State} (hm : (f s).mem = s.mem) (hp : (f s).part = s.part)
    (hw : (f s).dev.wbuf = []) : act f s = .next (f s) := by
  have h : (f s) = { mem := (f s).mem, part := (f s).part, dev := { (f s).dev with wbuf := (f s).dev.wbuf } } := rfl
  rw [act_eq, hw, Memory.writes_nil, h, hm, hp, hw]

end Sys2Proof.Machine
end

