-- ==== Sys2Proof/Laws/State.lean ====
section
/-! SUPPORT. One lemma for each field under each update of the state, the device, a core and its context. -/

namespace Sys2Proof.Machine

variable (s : State) (k : Core)

/-! ## Updates of one part of the device -/

@[simp] theorem State.upd_mem (f : Dev → Dev) : (s.upd f).mem = s.mem := rfl
@[simp] theorem State.upd_part (f : Dev → Dev) : (s.upd f).part = s.part := rfl
@[simp] theorem State.upd_dev (f : Dev → Dev) : (s.upd f).dev = f s.dev := rfl

@[simp] theorem State.modCore_mem (c : CoreId) (f : Core → Core) : (s.modCore c f).mem = s.mem := rfl
@[simp] theorem State.modCore_part (c : CoreId) (f : Core → Core) : (s.modCore c f).part = s.part := rfl
@[simp] theorem State.modCore_writes (c : CoreId) (f : Core → Core) : (s.modCore c f).dev.writes = s.dev.writes := rfl
@[simp] theorem State.modCore_ctlb (c : CoreId) (f : Core → Core) : (s.modCore c f).dev.ctlb = s.dev.ctlb := rfl
@[simp] theorem State.modCore_lltlb (c : CoreId) (f : Core → Core) : (s.modCore c f).dev.lltlb = s.dev.lltlb := rfl
@[simp] theorem State.modCore_walks (c : CoreId) (f : Core → Core) : (s.modCore c f).dev.walks = s.dev.walks := rfl
@[simp] theorem State.modCore_eng (c : CoreId) (f : Core → Core) : (s.modCore c f).dev.eng = s.dev.eng := rfl
@[simp] theorem State.modCore_hqs (c : CoreId) (f : Core → Core) : (s.modCore c f).dev.hqs = s.dev.hqs := rfl
@[simp] theorem State.modCore_dns (c : CoreId) (f : Core → Core) : (s.modCore c f).dev.dns = s.dev.dns := rfl
@[simp] theorem State.modCore_hbs (c : CoreId) (f : Core → Core) : (s.modCore c f).dev.hbs = s.dev.hbs := rfl
@[simp] theorem State.modCore_sgs (c : CoreId) (f : Core → Core) : (s.modCore c f).dev.sgs = s.dev.sgs := rfl
@[simp] theorem State.modCore_pzs (c : CoreId) (f : Core → Core) : (s.modCore c f).dev.pzs = s.dev.pzs := rfl
@[simp] theorem State.modCore_frings (c : CoreId) (f : Core → Core) : (s.modCore c f).dev.frings = s.dev.frings := rfl
@[simp] theorem State.modCore_streams (c : CoreId) (f : Core → Core) : (s.modCore c f).dev.streams = s.dev.streams := rfl
@[simp] theorem State.modCore_launches (c : CoreId) (f : Core → Core) : (s.modCore c f).dev.launches = s.dev.launches := rfl
@[simp] theorem State.modCore_cohorts (c : CoreId) (f : Core → Core) : (s.modCore c f).dev.cohorts = s.dev.cohorts := rfl
@[simp] theorem State.modCore_tasks (c : CoreId) (f : Core → Core) : (s.modCore c f).dev.tasks = s.dev.tasks := rfl
@[simp] theorem State.modCore_cqs (c : CoreId) (f : Core → Core) : (s.modCore c f).dev.cqs = s.dev.cqs := rfl
@[simp] theorem State.modCore_tenants (c : CoreId) (f : Core → Core) : (s.modCore c f).dev.tenants = s.dev.tenants := rfl
@[simp] theorem State.modCore_samplers (c : CoreId) (f : Core → Core) : (s.modCore c f).dev.samplers = s.dev.samplers := rfl
@[simp] theorem State.modCore_outbox (c : CoreId) (f : Core → Core) : (s.modCore c f).dev.outbox = s.dev.outbox := rfl
@[simp] theorem State.modCore_decs (c : CoreId) (f : Core → Core) : (s.modCore c f).dev.decs = s.dev.decs := rfl
@[simp] theorem State.modCore_encs (c : CoreId) (f : Core → Core) : (s.modCore c f).dev.encs = s.dev.encs := rfl
@[simp] theorem State.modCore_staged (c : CoreId) (f : Core → Core) : (s.modCore c f).dev.staged = s.dev.staged := rfl
@[simp] theorem State.modCore_board (c : CoreId) (f : Core → Core) : (s.modCore c f).dev.board = s.dev.board := rfl
@[simp] theorem State.modCore_wbuf (c : CoreId) (f : Core → Core) : (s.modCore c f).dev.wbuf = s.dev.wbuf := rfl
@[simp] theorem State.modCore_tags (c : CoreId) (f : Core → Core) : (s.modCore c f).dev.tags = s.dev.tags := rfl
@[simp] theorem State.modCore_turns (c : CoreId) (f : Core → Core) : (s.modCore c f).dev.turns = s.dev.turns := rfl
@[simp] theorem State.modCore_rr (c : CoreId) (f : Core → Core) : (s.modCore c f).dev.rr = s.dev.rr := rfl
@[simp] theorem State.modCore_cur (c : CoreId) (f : Core → Core) : (s.modCore c f).dev.cur = s.dev.cur := rfl
@[simp] theorem State.modCore_free (c : CoreId) (f : Core → Core) : (s.modCore c f).dev.free = s.dev.free := rfl
@[simp] theorem State.modCore_nextId (c : CoreId) (f : Core → Core) : (s.modCore c f).dev.nextId = s.dev.nextId := rfl
@[simp] theorem State.modCore_probe (c : CoreId) (f : Core → Core) : (s.modCore c f).dev.probe = s.dev.probe := rfl

@[simp] theorem State.modMe_mem (f : Core → Core) : (s.modMe f).mem = s.mem := rfl
@[simp] theorem State.modMe_part (f : Core → Core) : (s.modMe f).part = s.part := rfl
@[simp] theorem State.modMe_writes (f : Core → Core) : (s.modMe f).dev.writes = s.dev.writes := rfl
@[simp] theorem State.modMe_ctlb (f : Core → Core) : (s.modMe f).dev.ctlb = s.dev.ctlb := rfl
@[simp] theorem State.modMe_lltlb (f : Core → Core) : (s.modMe f).dev.lltlb = s.dev.lltlb := rfl
@[simp] theorem State.modMe_walks (f : Core → Core) : (s.modMe f).dev.walks = s.dev.walks := rfl
@[simp] theorem State.modMe_eng (f : Core → Core) : (s.modMe f).dev.eng = s.dev.eng := rfl
@[simp] theorem State.modMe_hqs (f : Core → Core) : (s.modMe f).dev.hqs = s.dev.hqs := rfl
@[simp] theorem State.modMe_dns (f : Core → Core) : (s.modMe f).dev.dns = s.dev.dns := rfl
@[simp] theorem State.modMe_hbs (f : Core → Core) : (s.modMe f).dev.hbs = s.dev.hbs := rfl
@[simp] theorem State.modMe_sgs (f : Core → Core) : (s.modMe f).dev.sgs = s.dev.sgs := rfl
@[simp] theorem State.modMe_pzs (f : Core → Core) : (s.modMe f).dev.pzs = s.dev.pzs := rfl
@[simp] theorem State.modMe_frings (f : Core → Core) : (s.modMe f).dev.frings = s.dev.frings := rfl
@[simp] theorem State.modMe_streams (f : Core → Core) : (s.modMe f).dev.streams = s.dev.streams := rfl
@[simp] theorem State.modMe_launches (f : Core → Core) : (s.modMe f).dev.launches = s.dev.launches := rfl
@[simp] theorem State.modMe_cohorts (f : Core → Core) : (s.modMe f).dev.cohorts = s.dev.cohorts := rfl
@[simp] theorem State.modMe_tasks (f : Core → Core) : (s.modMe f).dev.tasks = s.dev.tasks := rfl
@[simp] theorem State.modMe_cqs (f : Core → Core) : (s.modMe f).dev.cqs = s.dev.cqs := rfl
@[simp] theorem State.modMe_tenants (f : Core → Core) : (s.modMe f).dev.tenants = s.dev.tenants := rfl
@[simp] theorem State.modMe_samplers (f : Core → Core) : (s.modMe f).dev.samplers = s.dev.samplers := rfl
@[simp] theorem State.modMe_outbox (f : Core → Core) : (s.modMe f).dev.outbox = s.dev.outbox := rfl
@[simp] theorem State.modMe_decs (f : Core → Core) : (s.modMe f).dev.decs = s.dev.decs := rfl
@[simp] theorem State.modMe_encs (f : Core → Core) : (s.modMe f).dev.encs = s.dev.encs := rfl
@[simp] theorem State.modMe_staged (f : Core → Core) : (s.modMe f).dev.staged = s.dev.staged := rfl
@[simp] theorem State.modMe_board (f : Core → Core) : (s.modMe f).dev.board = s.dev.board := rfl
@[simp] theorem State.modMe_wbuf (f : Core → Core) : (s.modMe f).dev.wbuf = s.dev.wbuf := rfl
@[simp] theorem State.modMe_tags (f : Core → Core) : (s.modMe f).dev.tags = s.dev.tags := rfl
@[simp] theorem State.modMe_turns (f : Core → Core) : (s.modMe f).dev.turns = s.dev.turns := rfl
@[simp] theorem State.modMe_rr (f : Core → Core) : (s.modMe f).dev.rr = s.dev.rr := rfl
@[simp] theorem State.modMe_cur (f : Core → Core) : (s.modMe f).dev.cur = s.dev.cur := rfl
@[simp] theorem State.modMe_free (f : Core → Core) : (s.modMe f).dev.free = s.dev.free := rfl
@[simp] theorem State.modMe_nextId (f : Core → Core) : (s.modMe f).dev.nextId = s.dev.nextId := rfl
@[simp] theorem State.modMe_probe (f : Core → Core) : (s.modMe f).dev.probe = s.dev.probe := rfl

@[simp] theorem State.modBun_mem (f : BundleCtx → BundleCtx) : (s.modBun f).mem = s.mem := rfl
@[simp] theorem State.modBun_part (f : BundleCtx → BundleCtx) : (s.modBun f).part = s.part := rfl
@[simp] theorem State.modBun_writes (f : BundleCtx → BundleCtx) : (s.modBun f).dev.writes = s.dev.writes := rfl
@[simp] theorem State.modBun_ctlb (f : BundleCtx → BundleCtx) : (s.modBun f).dev.ctlb = s.dev.ctlb := rfl
@[simp] theorem State.modBun_lltlb (f : BundleCtx → BundleCtx) : (s.modBun f).dev.lltlb = s.dev.lltlb := rfl
@[simp] theorem State.modBun_walks (f : BundleCtx → BundleCtx) : (s.modBun f).dev.walks = s.dev.walks := rfl
@[simp] theorem State.modBun_eng (f : BundleCtx → BundleCtx) : (s.modBun f).dev.eng = s.dev.eng := rfl
@[simp] theorem State.modBun_hqs (f : BundleCtx → BundleCtx) : (s.modBun f).dev.hqs = s.dev.hqs := rfl
@[simp] theorem State.modBun_dns (f : BundleCtx → BundleCtx) : (s.modBun f).dev.dns = s.dev.dns := rfl
@[simp] theorem State.modBun_hbs (f : BundleCtx → BundleCtx) : (s.modBun f).dev.hbs = s.dev.hbs := rfl
@[simp] theorem State.modBun_sgs (f : BundleCtx → BundleCtx) : (s.modBun f).dev.sgs = s.dev.sgs := rfl
@[simp] theorem State.modBun_pzs (f : BundleCtx → BundleCtx) : (s.modBun f).dev.pzs = s.dev.pzs := rfl
@[simp] theorem State.modBun_frings (f : BundleCtx → BundleCtx) : (s.modBun f).dev.frings = s.dev.frings := rfl
@[simp] theorem State.modBun_streams (f : BundleCtx → BundleCtx) : (s.modBun f).dev.streams = s.dev.streams := rfl
@[simp] theorem State.modBun_launches (f : BundleCtx → BundleCtx) : (s.modBun f).dev.launches = s.dev.launches := rfl
@[simp] theorem State.modBun_cohorts (f : BundleCtx → BundleCtx) : (s.modBun f).dev.cohorts = s.dev.cohorts := rfl
@[simp] theorem State.modBun_tasks (f : BundleCtx → BundleCtx) : (s.modBun f).dev.tasks = s.dev.tasks := rfl
@[simp] theorem State.modBun_cqs (f : BundleCtx → BundleCtx) : (s.modBun f).dev.cqs = s.dev.cqs := rfl
@[simp] theorem State.modBun_tenants (f : BundleCtx → BundleCtx) : (s.modBun f).dev.tenants = s.dev.tenants := rfl
@[simp] theorem State.modBun_samplers (f : BundleCtx → BundleCtx) : (s.modBun f).dev.samplers = s.dev.samplers := rfl
@[simp] theorem State.modBun_outbox (f : BundleCtx → BundleCtx) : (s.modBun f).dev.outbox = s.dev.outbox := rfl
@[simp] theorem State.modBun_decs (f : BundleCtx → BundleCtx) : (s.modBun f).dev.decs = s.dev.decs := rfl
@[simp] theorem State.modBun_encs (f : BundleCtx → BundleCtx) : (s.modBun f).dev.encs = s.dev.encs := rfl
@[simp] theorem State.modBun_staged (f : BundleCtx → BundleCtx) : (s.modBun f).dev.staged = s.dev.staged := rfl
@[simp] theorem State.modBun_board (f : BundleCtx → BundleCtx) : (s.modBun f).dev.board = s.dev.board := rfl
@[simp] theorem State.modBun_wbuf (f : BundleCtx → BundleCtx) : (s.modBun f).dev.wbuf = s.dev.wbuf := rfl
@[simp] theorem State.modBun_tags (f : BundleCtx → BundleCtx) : (s.modBun f).dev.tags = s.dev.tags := rfl
@[simp] theorem State.modBun_turns (f : BundleCtx → BundleCtx) : (s.modBun f).dev.turns = s.dev.turns := rfl
@[simp] theorem State.modBun_rr (f : BundleCtx → BundleCtx) : (s.modBun f).dev.rr = s.dev.rr := rfl
@[simp] theorem State.modBun_cur (f : BundleCtx → BundleCtx) : (s.modBun f).dev.cur = s.dev.cur := rfl
@[simp] theorem State.modBun_free (f : BundleCtx → BundleCtx) : (s.modBun f).dev.free = s.dev.free := rfl
@[simp] theorem State.modBun_nextId (f : BundleCtx → BundleCtx) : (s.modBun f).dev.nextId = s.dev.nextId := rfl
@[simp] theorem State.modBun_probe (f : BundleCtx → BundleCtx) : (s.modBun f).dev.probe = s.dev.probe := rfl

@[simp] theorem State.modTenant_mem (t : TenantId) (f : Tenant → Tenant) : (s.modTenant t f).mem = s.mem := rfl
@[simp] theorem State.modTenant_part (t : TenantId) (f : Tenant → Tenant) : (s.modTenant t f).part = s.part := rfl
@[simp] theorem State.modTenant_cores (t : TenantId) (f : Tenant → Tenant) : (s.modTenant t f).dev.cores = s.dev.cores := rfl
@[simp] theorem State.modTenant_writes (t : TenantId) (f : Tenant → Tenant) : (s.modTenant t f).dev.writes = s.dev.writes := rfl
@[simp] theorem State.modTenant_ctlb (t : TenantId) (f : Tenant → Tenant) : (s.modTenant t f).dev.ctlb = s.dev.ctlb := rfl
@[simp] theorem State.modTenant_lltlb (t : TenantId) (f : Tenant → Tenant) : (s.modTenant t f).dev.lltlb = s.dev.lltlb := rfl
@[simp] theorem State.modTenant_walks (t : TenantId) (f : Tenant → Tenant) : (s.modTenant t f).dev.walks = s.dev.walks := rfl
@[simp] theorem State.modTenant_eng (t : TenantId) (f : Tenant → Tenant) : (s.modTenant t f).dev.eng = s.dev.eng := rfl
@[simp] theorem State.modTenant_hqs (t : TenantId) (f : Tenant → Tenant) : (s.modTenant t f).dev.hqs = s.dev.hqs := rfl
@[simp] theorem State.modTenant_dns (t : TenantId) (f : Tenant → Tenant) : (s.modTenant t f).dev.dns = s.dev.dns := rfl
@[simp] theorem State.modTenant_hbs (t : TenantId) (f : Tenant → Tenant) : (s.modTenant t f).dev.hbs = s.dev.hbs := rfl
@[simp] theorem State.modTenant_sgs (t : TenantId) (f : Tenant → Tenant) : (s.modTenant t f).dev.sgs = s.dev.sgs := rfl
@[simp] theorem State.modTenant_pzs (t : TenantId) (f : Tenant → Tenant) : (s.modTenant t f).dev.pzs = s.dev.pzs := rfl
@[simp] theorem State.modTenant_frings (t : TenantId) (f : Tenant → Tenant) : (s.modTenant t f).dev.frings = s.dev.frings := rfl
@[simp] theorem State.modTenant_streams (t : TenantId) (f : Tenant → Tenant) : (s.modTenant t f).dev.streams = s.dev.streams := rfl
@[simp] theorem State.modTenant_launches (t : TenantId) (f : Tenant → Tenant) : (s.modTenant t f).dev.launches = s.dev.launches := rfl
@[simp] theorem State.modTenant_cohorts (t : TenantId) (f : Tenant → Tenant) : (s.modTenant t f).dev.cohorts = s.dev.cohorts := rfl
@[simp] theorem State.modTenant_tasks (t : TenantId) (f : Tenant → Tenant) : (s.modTenant t f).dev.tasks = s.dev.tasks := rfl
@[simp] theorem State.modTenant_cqs (t : TenantId) (f : Tenant → Tenant) : (s.modTenant t f).dev.cqs = s.dev.cqs := rfl
@[simp] theorem State.modTenant_samplers (t : TenantId) (f : Tenant → Tenant) : (s.modTenant t f).dev.samplers = s.dev.samplers := rfl
@[simp] theorem State.modTenant_outbox (t : TenantId) (f : Tenant → Tenant) : (s.modTenant t f).dev.outbox = s.dev.outbox := rfl
@[simp] theorem State.modTenant_decs (t : TenantId) (f : Tenant → Tenant) : (s.modTenant t f).dev.decs = s.dev.decs := rfl
@[simp] theorem State.modTenant_encs (t : TenantId) (f : Tenant → Tenant) : (s.modTenant t f).dev.encs = s.dev.encs := rfl
@[simp] theorem State.modTenant_staged (t : TenantId) (f : Tenant → Tenant) : (s.modTenant t f).dev.staged = s.dev.staged := rfl
@[simp] theorem State.modTenant_board (t : TenantId) (f : Tenant → Tenant) : (s.modTenant t f).dev.board = s.dev.board := rfl
@[simp] theorem State.modTenant_wbuf (t : TenantId) (f : Tenant → Tenant) : (s.modTenant t f).dev.wbuf = s.dev.wbuf := rfl
@[simp] theorem State.modTenant_tags (t : TenantId) (f : Tenant → Tenant) : (s.modTenant t f).dev.tags = s.dev.tags := rfl
@[simp] theorem State.modTenant_turns (t : TenantId) (f : Tenant → Tenant) : (s.modTenant t f).dev.turns = s.dev.turns := rfl
@[simp] theorem State.modTenant_rr (t : TenantId) (f : Tenant → Tenant) : (s.modTenant t f).dev.rr = s.dev.rr := rfl
@[simp] theorem State.modTenant_cur (t : TenantId) (f : Tenant → Tenant) : (s.modTenant t f).dev.cur = s.dev.cur := rfl
@[simp] theorem State.modTenant_free (t : TenantId) (f : Tenant → Tenant) : (s.modTenant t f).dev.free = s.dev.free := rfl
@[simp] theorem State.modTenant_nextId (t : TenantId) (f : Tenant → Tenant) : (s.modTenant t f).dev.nextId = s.dev.nextId := rfl
@[simp] theorem State.modTenant_probe (t : TenantId) (f : Tenant → Tenant) : (s.modTenant t f).dev.probe = s.dev.probe := rfl

@[simp] theorem State.modCq_mem (t : TenantId) (q : QueueId) (f : CmdQueue → CmdQueue) : (s.modCq t q f).mem = s.mem := rfl
@[simp] theorem State.modCq_part (t : TenantId) (q : QueueId) (f : CmdQueue → CmdQueue) : (s.modCq t q f).part = s.part := rfl
@[simp] theorem State.modCq_cores (t : TenantId) (q : QueueId) (f : CmdQueue → CmdQueue) : (s.modCq t q f).dev.cores = s.dev.cores := rfl
@[simp] theorem State.modCq_writes (t : TenantId) (q : QueueId) (f : CmdQueue → CmdQueue) : (s.modCq t q f).dev.writes = s.dev.writes := rfl
@[simp] theorem State.modCq_ctlb (t : TenantId) (q : QueueId) (f : CmdQueue → CmdQueue) : (s.modCq t q f).dev.ctlb = s.dev.ctlb := rfl
@[simp] theorem State.modCq_lltlb (t : TenantId) (q : QueueId) (f : CmdQueue → CmdQueue) : (s.modCq t q f).dev.lltlb = s.dev.lltlb := rfl
@[simp] theorem State.modCq_walks (t : TenantId) (q : QueueId) (f : CmdQueue → CmdQueue) : (s.modCq t q f).dev.walks = s.dev.walks := rfl
@[simp] theorem State.modCq_eng (t : TenantId) (q : QueueId) (f : CmdQueue → CmdQueue) : (s.modCq t q f).dev.eng = s.dev.eng := rfl
@[simp] theorem State.modCq_hqs (t : TenantId) (q : QueueId) (f : CmdQueue → CmdQueue) : (s.modCq t q f).dev.hqs = s.dev.hqs := rfl
@[simp] theorem State.modCq_dns (t : TenantId) (q : QueueId) (f : CmdQueue → CmdQueue) : (s.modCq t q f).dev.dns = s.dev.dns := rfl
@[simp] theorem State.modCq_hbs (t : TenantId) (q : QueueId) (f : CmdQueue → CmdQueue) : (s.modCq t q f).dev.hbs = s.dev.hbs := rfl
@[simp] theorem State.modCq_sgs (t : TenantId) (q : QueueId) (f : CmdQueue → CmdQueue) : (s.modCq t q f).dev.sgs = s.dev.sgs := rfl
@[simp] theorem State.modCq_pzs (t : TenantId) (q : QueueId) (f : CmdQueue → CmdQueue) : (s.modCq t q f).dev.pzs = s.dev.pzs := rfl
@[simp] theorem State.modCq_frings (t : TenantId) (q : QueueId) (f : CmdQueue → CmdQueue) : (s.modCq t q f).dev.frings = s.dev.frings := rfl
@[simp] theorem State.modCq_streams (t : TenantId) (q : QueueId) (f : CmdQueue → CmdQueue) : (s.modCq t q f).dev.streams = s.dev.streams := rfl
@[simp] theorem State.modCq_launches (t : TenantId) (q : QueueId) (f : CmdQueue → CmdQueue) : (s.modCq t q f).dev.launches = s.dev.launches := rfl
@[simp] theorem State.modCq_cohorts (t : TenantId) (q : QueueId) (f : CmdQueue → CmdQueue) : (s.modCq t q f).dev.cohorts = s.dev.cohorts := rfl
@[simp] theorem State.modCq_tasks (t : TenantId) (q : QueueId) (f : CmdQueue → CmdQueue) : (s.modCq t q f).dev.tasks = s.dev.tasks := rfl
@[simp] theorem State.modCq_tenants (t : TenantId) (q : QueueId) (f : CmdQueue → CmdQueue) : (s.modCq t q f).dev.tenants = s.dev.tenants := rfl
@[simp] theorem State.modCq_samplers (t : TenantId) (q : QueueId) (f : CmdQueue → CmdQueue) : (s.modCq t q f).dev.samplers = s.dev.samplers := rfl
@[simp] theorem State.modCq_outbox (t : TenantId) (q : QueueId) (f : CmdQueue → CmdQueue) : (s.modCq t q f).dev.outbox = s.dev.outbox := rfl
@[simp] theorem State.modCq_decs (t : TenantId) (q : QueueId) (f : CmdQueue → CmdQueue) : (s.modCq t q f).dev.decs = s.dev.decs := rfl
@[simp] theorem State.modCq_encs (t : TenantId) (q : QueueId) (f : CmdQueue → CmdQueue) : (s.modCq t q f).dev.encs = s.dev.encs := rfl
@[simp] theorem State.modCq_staged (t : TenantId) (q : QueueId) (f : CmdQueue → CmdQueue) : (s.modCq t q f).dev.staged = s.dev.staged := rfl
@[simp] theorem State.modCq_board (t : TenantId) (q : QueueId) (f : CmdQueue → CmdQueue) : (s.modCq t q f).dev.board = s.dev.board := rfl
@[simp] theorem State.modCq_wbuf (t : TenantId) (q : QueueId) (f : CmdQueue → CmdQueue) : (s.modCq t q f).dev.wbuf = s.dev.wbuf := rfl
@[simp] theorem State.modCq_tags (t : TenantId) (q : QueueId) (f : CmdQueue → CmdQueue) : (s.modCq t q f).dev.tags = s.dev.tags := rfl
@[simp] theorem State.modCq_turns (t : TenantId) (q : QueueId) (f : CmdQueue → CmdQueue) : (s.modCq t q f).dev.turns = s.dev.turns := rfl
@[simp] theorem State.modCq_rr (t : TenantId) (q : QueueId) (f : CmdQueue → CmdQueue) : (s.modCq t q f).dev.rr = s.dev.rr := rfl
@[simp] theorem State.modCq_cur (t : TenantId) (q : QueueId) (f : CmdQueue → CmdQueue) : (s.modCq t q f).dev.cur = s.dev.cur := rfl
@[simp] theorem State.modCq_free (t : TenantId) (q : QueueId) (f : CmdQueue → CmdQueue) : (s.modCq t q f).dev.free = s.dev.free := rfl
@[simp] theorem State.modCq_nextId (t : TenantId) (q : QueueId) (f : CmdQueue → CmdQueue) : (s.modCq t q f).dev.nextId = s.dev.nextId := rfl
@[simp] theorem State.modCq_probe (t : TenantId) (q : QueueId) (f : CmdQueue → CmdQueue) : (s.modCq t q f).dev.probe = s.dev.probe := rfl

@[simp] theorem State.modMyCq_mem (f : CmdQueue → CmdQueue) : (s.modMyCq f).mem = s.mem := rfl
@[simp] theorem State.modMyCq_part (f : CmdQueue → CmdQueue) : (s.modMyCq f).part = s.part := rfl
@[simp] theorem State.modMyCq_cores (f : CmdQueue → CmdQueue) : (s.modMyCq f).dev.cores = s.dev.cores := rfl
@[simp] theorem State.modMyCq_writes (f : CmdQueue → CmdQueue) : (s.modMyCq f).dev.writes = s.dev.writes := rfl
@[simp] theorem State.modMyCq_ctlb (f : CmdQueue → CmdQueue) : (s.modMyCq f).dev.ctlb = s.dev.ctlb := rfl
@[simp] theorem State.modMyCq_lltlb (f : CmdQueue → CmdQueue) : (s.modMyCq f).dev.lltlb = s.dev.lltlb := rfl
@[simp] theorem State.modMyCq_walks (f : CmdQueue → CmdQueue) : (s.modMyCq f).dev.walks = s.dev.walks := rfl
@[simp] theorem State.modMyCq_eng (f : CmdQueue → CmdQueue) : (s.modMyCq f).dev.eng = s.dev.eng := rfl
@[simp] theorem State.modMyCq_hqs (f : CmdQueue → CmdQueue) : (s.modMyCq f).dev.hqs = s.dev.hqs := rfl
@[simp] theorem State.modMyCq_dns (f : CmdQueue → CmdQueue) : (s.modMyCq f).dev.dns = s.dev.dns := rfl
@[simp] theorem State.modMyCq_hbs (f : CmdQueue → CmdQueue) : (s.modMyCq f).dev.hbs = s.dev.hbs := rfl
@[simp] theorem State.modMyCq_sgs (f : CmdQueue → CmdQueue) : (s.modMyCq f).dev.sgs = s.dev.sgs := rfl
@[simp] theorem State.modMyCq_pzs (f : CmdQueue → CmdQueue) : (s.modMyCq f).dev.pzs = s.dev.pzs := rfl
@[simp] theorem State.modMyCq_frings (f : CmdQueue → CmdQueue) : (s.modMyCq f).dev.frings = s.dev.frings := rfl
@[simp] theorem State.modMyCq_streams (f : CmdQueue → CmdQueue) : (s.modMyCq f).dev.streams = s.dev.streams := rfl
@[simp] theorem State.modMyCq_launches (f : CmdQueue → CmdQueue) : (s.modMyCq f).dev.launches = s.dev.launches := rfl
@[simp] theorem State.modMyCq_cohorts (f : CmdQueue → CmdQueue) : (s.modMyCq f).dev.cohorts = s.dev.cohorts := rfl
@[simp] theorem State.modMyCq_tasks (f : CmdQueue → CmdQueue) : (s.modMyCq f).dev.tasks = s.dev.tasks := rfl
@[simp] theorem State.modMyCq_tenants (f : CmdQueue → CmdQueue) : (s.modMyCq f).dev.tenants = s.dev.tenants := rfl
@[simp] theorem State.modMyCq_samplers (f : CmdQueue → CmdQueue) : (s.modMyCq f).dev.samplers = s.dev.samplers := rfl
@[simp] theorem State.modMyCq_outbox (f : CmdQueue → CmdQueue) : (s.modMyCq f).dev.outbox = s.dev.outbox := rfl
@[simp] theorem State.modMyCq_decs (f : CmdQueue → CmdQueue) : (s.modMyCq f).dev.decs = s.dev.decs := rfl
@[simp] theorem State.modMyCq_encs (f : CmdQueue → CmdQueue) : (s.modMyCq f).dev.encs = s.dev.encs := rfl
@[simp] theorem State.modMyCq_staged (f : CmdQueue → CmdQueue) : (s.modMyCq f).dev.staged = s.dev.staged := rfl
@[simp] theorem State.modMyCq_board (f : CmdQueue → CmdQueue) : (s.modMyCq f).dev.board = s.dev.board := rfl
@[simp] theorem State.modMyCq_wbuf (f : CmdQueue → CmdQueue) : (s.modMyCq f).dev.wbuf = s.dev.wbuf := rfl
@[simp] theorem State.modMyCq_tags (f : CmdQueue → CmdQueue) : (s.modMyCq f).dev.tags = s.dev.tags := rfl
@[simp] theorem State.modMyCq_turns (f : CmdQueue → CmdQueue) : (s.modMyCq f).dev.turns = s.dev.turns := rfl
@[simp] theorem State.modMyCq_rr (f : CmdQueue → CmdQueue) : (s.modMyCq f).dev.rr = s.dev.rr := rfl
@[simp] theorem State.modMyCq_cur (f : CmdQueue → CmdQueue) : (s.modMyCq f).dev.cur = s.dev.cur := rfl
@[simp] theorem State.modMyCq_free (f : CmdQueue → CmdQueue) : (s.modMyCq f).dev.free = s.dev.free := rfl
@[simp] theorem State.modMyCq_nextId (f : CmdQueue → CmdQueue) : (s.modMyCq f).dev.nextId = s.dev.nextId := rfl
@[simp] theorem State.modMyCq_probe (f : CmdQueue → CmdQueue) : (s.modMyCq f).dev.probe = s.dev.probe := rfl

@[simp] theorem State.modBoard_mem (f : Board → Board) : (s.modBoard f).mem = s.mem := rfl
@[simp] theorem State.modBoard_part (f : Board → Board) : (s.modBoard f).part = s.part := rfl
@[simp] theorem State.modBoard_cores (f : Board → Board) : (s.modBoard f).dev.cores = s.dev.cores := rfl
@[simp] theorem State.modBoard_writes (f : Board → Board) : (s.modBoard f).dev.writes = s.dev.writes := rfl
@[simp] theorem State.modBoard_ctlb (f : Board → Board) : (s.modBoard f).dev.ctlb = s.dev.ctlb := rfl
@[simp] theorem State.modBoard_lltlb (f : Board → Board) : (s.modBoard f).dev.lltlb = s.dev.lltlb := rfl
@[simp] theorem State.modBoard_walks (f : Board → Board) : (s.modBoard f).dev.walks = s.dev.walks := rfl
@[simp] theorem State.modBoard_eng (f : Board → Board) : (s.modBoard f).dev.eng = s.dev.eng := rfl
@[simp] theorem State.modBoard_hqs (f : Board → Board) : (s.modBoard f).dev.hqs = s.dev.hqs := rfl
@[simp] theorem State.modBoard_dns (f : Board → Board) : (s.modBoard f).dev.dns = s.dev.dns := rfl
@[simp] theorem State.modBoard_hbs (f : Board → Board) : (s.modBoard f).dev.hbs = s.dev.hbs := rfl
@[simp] theorem State.modBoard_sgs (f : Board → Board) : (s.modBoard f).dev.sgs = s.dev.sgs := rfl
@[simp] theorem State.modBoard_pzs (f : Board → Board) : (s.modBoard f).dev.pzs = s.dev.pzs := rfl
@[simp] theorem State.modBoard_frings (f : Board → Board) : (s.modBoard f).dev.frings = s.dev.frings := rfl
@[simp] theorem State.modBoard_streams (f : Board → Board) : (s.modBoard f).dev.streams = s.dev.streams := rfl
@[simp] theorem State.modBoard_launches (f : Board → Board) : (s.modBoard f).dev.launches = s.dev.launches := rfl
@[simp] theorem State.modBoard_cohorts (f : Board → Board) : (s.modBoard f).dev.cohorts = s.dev.cohorts := rfl
@[simp] theorem State.modBoard_tasks (f : Board → Board) : (s.modBoard f).dev.tasks = s.dev.tasks := rfl
@[simp] theorem State.modBoard_cqs (f : Board → Board) : (s.modBoard f).dev.cqs = s.dev.cqs := rfl
@[simp] theorem State.modBoard_tenants (f : Board → Board) : (s.modBoard f).dev.tenants = s.dev.tenants := rfl
@[simp] theorem State.modBoard_samplers (f : Board → Board) : (s.modBoard f).dev.samplers = s.dev.samplers := rfl
@[simp] theorem State.modBoard_outbox (f : Board → Board) : (s.modBoard f).dev.outbox = s.dev.outbox := rfl
@[simp] theorem State.modBoard_decs (f : Board → Board) : (s.modBoard f).dev.decs = s.dev.decs := rfl
@[simp] theorem State.modBoard_encs (f : Board → Board) : (s.modBoard f).dev.encs = s.dev.encs := rfl
@[simp] theorem State.modBoard_staged (f : Board → Board) : (s.modBoard f).dev.staged = s.dev.staged := rfl
@[simp] theorem State.modBoard_wbuf (f : Board → Board) : (s.modBoard f).dev.wbuf = s.dev.wbuf := rfl
@[simp] theorem State.modBoard_tags (f : Board → Board) : (s.modBoard f).dev.tags = s.dev.tags := rfl
@[simp] theorem State.modBoard_turns (f : Board → Board) : (s.modBoard f).dev.turns = s.dev.turns := rfl
@[simp] theorem State.modBoard_rr (f : Board → Board) : (s.modBoard f).dev.rr = s.dev.rr := rfl
@[simp] theorem State.modBoard_cur (f : Board → Board) : (s.modBoard f).dev.cur = s.dev.cur := rfl
@[simp] theorem State.modBoard_free (f : Board → Board) : (s.modBoard f).dev.free = s.dev.free := rfl
@[simp] theorem State.modBoard_nextId (f : Board → Board) : (s.modBoard f).dev.nextId = s.dev.nextId := rfl
@[simp] theorem State.modBoard_probe (f : Board → Board) : (s.modBoard f).dev.probe = s.dev.probe := rfl

@[simp] theorem State.modSampler_mem (k : SamplerId) (f : Sampler → Sampler) : (s.modSampler k f).mem = s.mem := rfl
@[simp] theorem State.modSampler_part (k : SamplerId) (f : Sampler → Sampler) : (s.modSampler k f).part = s.part := rfl
@[simp] theorem State.modSampler_cores (k : SamplerId) (f : Sampler → Sampler) : (s.modSampler k f).dev.cores = s.dev.cores := rfl
@[simp] theorem State.modSampler_writes (k : SamplerId) (f : Sampler → Sampler) : (s.modSampler k f).dev.writes = s.dev.writes := rfl
@[simp] theorem State.modSampler_ctlb (k : SamplerId) (f : Sampler → Sampler) : (s.modSampler k f).dev.ctlb = s.dev.ctlb := rfl
@[simp] theorem State.modSampler_lltlb (k : SamplerId) (f : Sampler → Sampler) : (s.modSampler k f).dev.lltlb = s.dev.lltlb := rfl
@[simp] theorem State.modSampler_walks (k : SamplerId) (f : Sampler → Sampler) : (s.modSampler k f).dev.walks = s.dev.walks := rfl
@[simp] theorem State.modSampler_eng (k : SamplerId) (f : Sampler → Sampler) : (s.modSampler k f).dev.eng = s.dev.eng := rfl
@[simp] theorem State.modSampler_hqs (k : SamplerId) (f : Sampler → Sampler) : (s.modSampler k f).dev.hqs = s.dev.hqs := rfl
@[simp] theorem State.modSampler_dns (k : SamplerId) (f : Sampler → Sampler) : (s.modSampler k f).dev.dns = s.dev.dns := rfl
@[simp] theorem State.modSampler_hbs (k : SamplerId) (f : Sampler → Sampler) : (s.modSampler k f).dev.hbs = s.dev.hbs := rfl
@[simp] theorem State.modSampler_sgs (k : SamplerId) (f : Sampler → Sampler) : (s.modSampler k f).dev.sgs = s.dev.sgs := rfl
@[simp] theorem State.modSampler_pzs (k : SamplerId) (f : Sampler → Sampler) : (s.modSampler k f).dev.pzs = s.dev.pzs := rfl
@[simp] theorem State.modSampler_frings (k : SamplerId) (f : Sampler → Sampler) : (s.modSampler k f).dev.frings = s.dev.frings := rfl
@[simp] theorem State.modSampler_streams (k : SamplerId) (f : Sampler → Sampler) : (s.modSampler k f).dev.streams = s.dev.streams := rfl
@[simp] theorem State.modSampler_launches (k : SamplerId) (f : Sampler → Sampler) : (s.modSampler k f).dev.launches = s.dev.launches := rfl
@[simp] theorem State.modSampler_cohorts (k : SamplerId) (f : Sampler → Sampler) : (s.modSampler k f).dev.cohorts = s.dev.cohorts := rfl
@[simp] theorem State.modSampler_tasks (k : SamplerId) (f : Sampler → Sampler) : (s.modSampler k f).dev.tasks = s.dev.tasks := rfl
@[simp] theorem State.modSampler_cqs (k : SamplerId) (f : Sampler → Sampler) : (s.modSampler k f).dev.cqs = s.dev.cqs := rfl
@[simp] theorem State.modSampler_tenants (k : SamplerId) (f : Sampler → Sampler) : (s.modSampler k f).dev.tenants = s.dev.tenants := rfl
@[simp] theorem State.modSampler_outbox (k : SamplerId) (f : Sampler → Sampler) : (s.modSampler k f).dev.outbox = s.dev.outbox := rfl
@[simp] theorem State.modSampler_decs (k : SamplerId) (f : Sampler → Sampler) : (s.modSampler k f).dev.decs = s.dev.decs := rfl
@[simp] theorem State.modSampler_encs (k : SamplerId) (f : Sampler → Sampler) : (s.modSampler k f).dev.encs = s.dev.encs := rfl
@[simp] theorem State.modSampler_staged (k : SamplerId) (f : Sampler → Sampler) : (s.modSampler k f).dev.staged = s.dev.staged := rfl
@[simp] theorem State.modSampler_board (k : SamplerId) (f : Sampler → Sampler) : (s.modSampler k f).dev.board = s.dev.board := rfl
@[simp] theorem State.modSampler_wbuf (k : SamplerId) (f : Sampler → Sampler) : (s.modSampler k f).dev.wbuf = s.dev.wbuf := rfl
@[simp] theorem State.modSampler_tags (k : SamplerId) (f : Sampler → Sampler) : (s.modSampler k f).dev.tags = s.dev.tags := rfl
@[simp] theorem State.modSampler_turns (k : SamplerId) (f : Sampler → Sampler) : (s.modSampler k f).dev.turns = s.dev.turns := rfl
@[simp] theorem State.modSampler_rr (k : SamplerId) (f : Sampler → Sampler) : (s.modSampler k f).dev.rr = s.dev.rr := rfl
@[simp] theorem State.modSampler_cur (k : SamplerId) (f : Sampler → Sampler) : (s.modSampler k f).dev.cur = s.dev.cur := rfl
@[simp] theorem State.modSampler_free (k : SamplerId) (f : Sampler → Sampler) : (s.modSampler k f).dev.free = s.dev.free := rfl
@[simp] theorem State.modSampler_nextId (k : SamplerId) (f : Sampler → Sampler) : (s.modSampler k f).dev.nextId = s.dev.nextId := rfl
@[simp] theorem State.modSampler_probe (k : SamplerId) (f : Sampler → Sampler) : (s.modSampler k f).dev.probe = s.dev.probe := rfl

@[simp] theorem State.modHq_mem (q : BitVec 8) (f : HwQueue → HwQueue) : (s.modHq q f).mem = s.mem := rfl
@[simp] theorem State.modHq_part (q : BitVec 8) (f : HwQueue → HwQueue) : (s.modHq q f).part = s.part := rfl
@[simp] theorem State.modHq_cores (q : BitVec 8) (f : HwQueue → HwQueue) : (s.modHq q f).dev.cores = s.dev.cores := rfl
@[simp] theorem State.modHq_writes (q : BitVec 8) (f : HwQueue → HwQueue) : (s.modHq q f).dev.writes = s.dev.writes := rfl
@[simp] theorem State.modHq_ctlb (q : BitVec 8) (f : HwQueue → HwQueue) : (s.modHq q f).dev.ctlb = s.dev.ctlb := rfl
@[simp] theorem State.modHq_lltlb (q : BitVec 8) (f : HwQueue → HwQueue) : (s.modHq q f).dev.lltlb = s.dev.lltlb := rfl
@[simp] theorem State.modHq_walks (q : BitVec 8) (f : HwQueue → HwQueue) : (s.modHq q f).dev.walks = s.dev.walks := rfl
@[simp] theorem State.modHq_eng (q : BitVec 8) (f : HwQueue → HwQueue) : (s.modHq q f).dev.eng = s.dev.eng := rfl
@[simp] theorem State.modHq_dns (q : BitVec 8) (f : HwQueue → HwQueue) : (s.modHq q f).dev.dns = s.dev.dns := rfl
@[simp] theorem State.modHq_hbs (q : BitVec 8) (f : HwQueue → HwQueue) : (s.modHq q f).dev.hbs = s.dev.hbs := rfl
@[simp] theorem State.modHq_sgs (q : BitVec 8) (f : HwQueue → HwQueue) : (s.modHq q f).dev.sgs = s.dev.sgs := rfl
@[simp] theorem State.modHq_pzs (q : BitVec 8) (f : HwQueue → HwQueue) : (s.modHq q f).dev.pzs = s.dev.pzs := rfl
@[simp] theorem State.modHq_frings (q : BitVec 8) (f : HwQueue → HwQueue) : (s.modHq q f).dev.frings = s.dev.frings := rfl
@[simp] theorem State.modHq_streams (q : BitVec 8) (f : HwQueue → HwQueue) : (s.modHq q f).dev.streams = s.dev.streams := rfl
@[simp] theorem State.modHq_launches (q : BitVec 8) (f : HwQueue → HwQueue) : (s.modHq q f).dev.launches = s.dev.launches := rfl
@[simp] theorem State.modHq_cohorts (q : BitVec 8) (f : HwQueue → HwQueue) : (s.modHq q f).dev.cohorts = s.dev.cohorts := rfl
@[simp] theorem State.modHq_tasks (q : BitVec 8) (f : HwQueue → HwQueue) : (s.modHq q f).dev.tasks = s.dev.tasks := rfl
@[simp] theorem State.modHq_cqs (q : BitVec 8) (f : HwQueue → HwQueue) : (s.modHq q f).dev.cqs = s.dev.cqs := rfl
@[simp] theorem State.modHq_tenants (q : BitVec 8) (f : HwQueue → HwQueue) : (s.modHq q f).dev.tenants = s.dev.tenants := rfl
@[simp] theorem State.modHq_samplers (q : BitVec 8) (f : HwQueue → HwQueue) : (s.modHq q f).dev.samplers = s.dev.samplers := rfl
@[simp] theorem State.modHq_outbox (q : BitVec 8) (f : HwQueue → HwQueue) : (s.modHq q f).dev.outbox = s.dev.outbox := rfl
@[simp] theorem State.modHq_decs (q : BitVec 8) (f : HwQueue → HwQueue) : (s.modHq q f).dev.decs = s.dev.decs := rfl
@[simp] theorem State.modHq_encs (q : BitVec 8) (f : HwQueue → HwQueue) : (s.modHq q f).dev.encs = s.dev.encs := rfl
@[simp] theorem State.modHq_staged (q : BitVec 8) (f : HwQueue → HwQueue) : (s.modHq q f).dev.staged = s.dev.staged := rfl
@[simp] theorem State.modHq_board (q : BitVec 8) (f : HwQueue → HwQueue) : (s.modHq q f).dev.board = s.dev.board := rfl
@[simp] theorem State.modHq_wbuf (q : BitVec 8) (f : HwQueue → HwQueue) : (s.modHq q f).dev.wbuf = s.dev.wbuf := rfl
@[simp] theorem State.modHq_tags (q : BitVec 8) (f : HwQueue → HwQueue) : (s.modHq q f).dev.tags = s.dev.tags := rfl
@[simp] theorem State.modHq_turns (q : BitVec 8) (f : HwQueue → HwQueue) : (s.modHq q f).dev.turns = s.dev.turns := rfl
@[simp] theorem State.modHq_rr (q : BitVec 8) (f : HwQueue → HwQueue) : (s.modHq q f).dev.rr = s.dev.rr := rfl
@[simp] theorem State.modHq_cur (q : BitVec 8) (f : HwQueue → HwQueue) : (s.modHq q f).dev.cur = s.dev.cur := rfl
@[simp] theorem State.modHq_free (q : BitVec 8) (f : HwQueue → HwQueue) : (s.modHq q f).dev.free = s.dev.free := rfl
@[simp] theorem State.modHq_nextId (q : BitVec 8) (f : HwQueue → HwQueue) : (s.modHq q f).dev.nextId = s.dev.nextId := rfl
@[simp] theorem State.modHq_probe (q : BitVec 8) (f : HwQueue → HwQueue) : (s.modHq q f).dev.probe = s.dev.probe := rfl

@[simp] theorem State.modDn_mem (n : BitVec 8) (f : DoneRing → DoneRing) : (s.modDn n f).mem = s.mem := rfl
@[simp] theorem State.modDn_part (n : BitVec 8) (f : DoneRing → DoneRing) : (s.modDn n f).part = s.part := rfl
@[simp] theorem State.modDn_cores (n : BitVec 8) (f : DoneRing → DoneRing) : (s.modDn n f).dev.cores = s.dev.cores := rfl
@[simp] theorem State.modDn_writes (n : BitVec 8) (f : DoneRing → DoneRing) : (s.modDn n f).dev.writes = s.dev.writes := rfl
@[simp] theorem State.modDn_ctlb (n : BitVec 8) (f : DoneRing → DoneRing) : (s.modDn n f).dev.ctlb = s.dev.ctlb := rfl
@[simp] theorem State.modDn_lltlb (n : BitVec 8) (f : DoneRing → DoneRing) : (s.modDn n f).dev.lltlb = s.dev.lltlb := rfl
@[simp] theorem State.modDn_walks (n : BitVec 8) (f : DoneRing → DoneRing) : (s.modDn n f).dev.walks = s.dev.walks := rfl
@[simp] theorem State.modDn_eng (n : BitVec 8) (f : DoneRing → DoneRing) : (s.modDn n f).dev.eng = s.dev.eng := rfl
@[simp] theorem State.modDn_hqs (n : BitVec 8) (f : DoneRing → DoneRing) : (s.modDn n f).dev.hqs = s.dev.hqs := rfl
@[simp] theorem State.modDn_hbs (n : BitVec 8) (f : DoneRing → DoneRing) : (s.modDn n f).dev.hbs = s.dev.hbs := rfl
@[simp] theorem State.modDn_sgs (n : BitVec 8) (f : DoneRing → DoneRing) : (s.modDn n f).dev.sgs = s.dev.sgs := rfl
@[simp] theorem State.modDn_pzs (n : BitVec 8) (f : DoneRing → DoneRing) : (s.modDn n f).dev.pzs = s.dev.pzs := rfl
@[simp] theorem State.modDn_frings (n : BitVec 8) (f : DoneRing → DoneRing) : (s.modDn n f).dev.frings = s.dev.frings := rfl
@[simp] theorem State.modDn_streams (n : BitVec 8) (f : DoneRing → DoneRing) : (s.modDn n f).dev.streams = s.dev.streams := rfl
@[simp] theorem State.modDn_launches (n : BitVec 8) (f : DoneRing → DoneRing) : (s.modDn n f).dev.launches = s.dev.launches := rfl
@[simp] theorem State.modDn_cohorts (n : BitVec 8) (f : DoneRing → DoneRing) : (s.modDn n f).dev.cohorts = s.dev.cohorts := rfl
@[simp] theorem State.modDn_tasks (n : BitVec 8) (f : DoneRing → DoneRing) : (s.modDn n f).dev.tasks = s.dev.tasks := rfl
@[simp] theorem State.modDn_cqs (n : BitVec 8) (f : DoneRing → DoneRing) : (s.modDn n f).dev.cqs = s.dev.cqs := rfl
@[simp] theorem State.modDn_tenants (n : BitVec 8) (f : DoneRing → DoneRing) : (s.modDn n f).dev.tenants = s.dev.tenants := rfl
@[simp] theorem State.modDn_samplers (n : BitVec 8) (f : DoneRing → DoneRing) : (s.modDn n f).dev.samplers = s.dev.samplers := rfl
@[simp] theorem State.modDn_outbox (n : BitVec 8) (f : DoneRing → DoneRing) : (s.modDn n f).dev.outbox = s.dev.outbox := rfl
@[simp] theorem State.modDn_decs (n : BitVec 8) (f : DoneRing → DoneRing) : (s.modDn n f).dev.decs = s.dev.decs := rfl
@[simp] theorem State.modDn_encs (n : BitVec 8) (f : DoneRing → DoneRing) : (s.modDn n f).dev.encs = s.dev.encs := rfl
@[simp] theorem State.modDn_staged (n : BitVec 8) (f : DoneRing → DoneRing) : (s.modDn n f).dev.staged = s.dev.staged := rfl
@[simp] theorem State.modDn_board (n : BitVec 8) (f : DoneRing → DoneRing) : (s.modDn n f).dev.board = s.dev.board := rfl
@[simp] theorem State.modDn_wbuf (n : BitVec 8) (f : DoneRing → DoneRing) : (s.modDn n f).dev.wbuf = s.dev.wbuf := rfl
@[simp] theorem State.modDn_tags (n : BitVec 8) (f : DoneRing → DoneRing) : (s.modDn n f).dev.tags = s.dev.tags := rfl
@[simp] theorem State.modDn_turns (n : BitVec 8) (f : DoneRing → DoneRing) : (s.modDn n f).dev.turns = s.dev.turns := rfl
@[simp] theorem State.modDn_rr (n : BitVec 8) (f : DoneRing → DoneRing) : (s.modDn n f).dev.rr = s.dev.rr := rfl
@[simp] theorem State.modDn_cur (n : BitVec 8) (f : DoneRing → DoneRing) : (s.modDn n f).dev.cur = s.dev.cur := rfl
@[simp] theorem State.modDn_free (n : BitVec 8) (f : DoneRing → DoneRing) : (s.modDn n f).dev.free = s.dev.free := rfl
@[simp] theorem State.modDn_nextId (n : BitVec 8) (f : DoneRing → DoneRing) : (s.modDn n f).dev.nextId = s.dev.nextId := rfl
@[simp] theorem State.modDn_probe (n : BitVec 8) (f : DoneRing → DoneRing) : (s.modDn n f).dev.probe = s.dev.probe := rfl

@[simp] theorem State.modHb_mem (n : BitVec 6) (f : Barrier → Barrier) : (s.modHb n f).mem = s.mem := rfl
@[simp] theorem State.modHb_part (n : BitVec 6) (f : Barrier → Barrier) : (s.modHb n f).part = s.part := rfl
@[simp] theorem State.modHb_cores (n : BitVec 6) (f : Barrier → Barrier) : (s.modHb n f).dev.cores = s.dev.cores := rfl
@[simp] theorem State.modHb_writes (n : BitVec 6) (f : Barrier → Barrier) : (s.modHb n f).dev.writes = s.dev.writes := rfl
@[simp] theorem State.modHb_ctlb (n : BitVec 6) (f : Barrier → Barrier) : (s.modHb n f).dev.ctlb = s.dev.ctlb := rfl
@[simp] theorem State.modHb_lltlb (n : BitVec 6) (f : Barrier → Barrier) : (s.modHb n f).dev.lltlb = s.dev.lltlb := rfl
@[simp] theorem State.modHb_walks (n : BitVec 6) (f : Barrier → Barrier) : (s.modHb n f).dev.walks = s.dev.walks := rfl
@[simp] theorem State.modHb_eng (n : BitVec 6) (f : Barrier → Barrier) : (s.modHb n f).dev.eng = s.dev.eng := rfl
@[simp] theorem State.modHb_hqs (n : BitVec 6) (f : Barrier → Barrier) : (s.modHb n f).dev.hqs = s.dev.hqs := rfl
@[simp] theorem State.modHb_dns (n : BitVec 6) (f : Barrier → Barrier) : (s.modHb n f).dev.dns = s.dev.dns := rfl
@[simp] theorem State.modHb_sgs (n : BitVec 6) (f : Barrier → Barrier) : (s.modHb n f).dev.sgs = s.dev.sgs := rfl
@[simp] theorem State.modHb_pzs (n : BitVec 6) (f : Barrier → Barrier) : (s.modHb n f).dev.pzs = s.dev.pzs := rfl
@[simp] theorem State.modHb_frings (n : BitVec 6) (f : Barrier → Barrier) : (s.modHb n f).dev.frings = s.dev.frings := rfl
@[simp] theorem State.modHb_streams (n : BitVec 6) (f : Barrier → Barrier) : (s.modHb n f).dev.streams = s.dev.streams := rfl
@[simp] theorem State.modHb_launches (n : BitVec 6) (f : Barrier → Barrier) : (s.modHb n f).dev.launches = s.dev.launches := rfl
@[simp] theorem State.modHb_cohorts (n : BitVec 6) (f : Barrier → Barrier) : (s.modHb n f).dev.cohorts = s.dev.cohorts := rfl
@[simp] theorem State.modHb_tasks (n : BitVec 6) (f : Barrier → Barrier) : (s.modHb n f).dev.tasks = s.dev.tasks := rfl
@[simp] theorem State.modHb_cqs (n : BitVec 6) (f : Barrier → Barrier) : (s.modHb n f).dev.cqs = s.dev.cqs := rfl
@[simp] theorem State.modHb_tenants (n : BitVec 6) (f : Barrier → Barrier) : (s.modHb n f).dev.tenants = s.dev.tenants := rfl
@[simp] theorem State.modHb_samplers (n : BitVec 6) (f : Barrier → Barrier) : (s.modHb n f).dev.samplers = s.dev.samplers := rfl
@[simp] theorem State.modHb_outbox (n : BitVec 6) (f : Barrier → Barrier) : (s.modHb n f).dev.outbox = s.dev.outbox := rfl
@[simp] theorem State.modHb_decs (n : BitVec 6) (f : Barrier → Barrier) : (s.modHb n f).dev.decs = s.dev.decs := rfl
@[simp] theorem State.modHb_encs (n : BitVec 6) (f : Barrier → Barrier) : (s.modHb n f).dev.encs = s.dev.encs := rfl
@[simp] theorem State.modHb_staged (n : BitVec 6) (f : Barrier → Barrier) : (s.modHb n f).dev.staged = s.dev.staged := rfl
@[simp] theorem State.modHb_board (n : BitVec 6) (f : Barrier → Barrier) : (s.modHb n f).dev.board = s.dev.board := rfl
@[simp] theorem State.modHb_wbuf (n : BitVec 6) (f : Barrier → Barrier) : (s.modHb n f).dev.wbuf = s.dev.wbuf := rfl
@[simp] theorem State.modHb_tags (n : BitVec 6) (f : Barrier → Barrier) : (s.modHb n f).dev.tags = s.dev.tags := rfl
@[simp] theorem State.modHb_turns (n : BitVec 6) (f : Barrier → Barrier) : (s.modHb n f).dev.turns = s.dev.turns := rfl
@[simp] theorem State.modHb_rr (n : BitVec 6) (f : Barrier → Barrier) : (s.modHb n f).dev.rr = s.dev.rr := rfl
@[simp] theorem State.modHb_cur (n : BitVec 6) (f : Barrier → Barrier) : (s.modHb n f).dev.cur = s.dev.cur := rfl
@[simp] theorem State.modHb_free (n : BitVec 6) (f : Barrier → Barrier) : (s.modHb n f).dev.free = s.dev.free := rfl
@[simp] theorem State.modHb_nextId (n : BitVec 6) (f : Barrier → Barrier) : (s.modHb n f).dev.nextId = s.dev.nextId := rfl
@[simp] theorem State.modHb_probe (n : BitVec 6) (f : Barrier → Barrier) : (s.modHb n f).dev.probe = s.dev.probe := rfl

@[simp] theorem State.modSg_mem (n : BitVec 5) (f : StepGroup → StepGroup) : (s.modSg n f).mem = s.mem := rfl
@[simp] theorem State.modSg_part (n : BitVec 5) (f : StepGroup → StepGroup) : (s.modSg n f).part = s.part := rfl
@[simp] theorem State.modSg_cores (n : BitVec 5) (f : StepGroup → StepGroup) : (s.modSg n f).dev.cores = s.dev.cores := rfl
@[simp] theorem State.modSg_writes (n : BitVec 5) (f : StepGroup → StepGroup) : (s.modSg n f).dev.writes = s.dev.writes := rfl
@[simp] theorem State.modSg_ctlb (n : BitVec 5) (f : StepGroup → StepGroup) : (s.modSg n f).dev.ctlb = s.dev.ctlb := rfl
@[simp] theorem State.modSg_lltlb (n : BitVec 5) (f : StepGroup → StepGroup) : (s.modSg n f).dev.lltlb = s.dev.lltlb := rfl
@[simp] theorem State.modSg_walks (n : BitVec 5) (f : StepGroup → StepGroup) : (s.modSg n f).dev.walks = s.dev.walks := rfl
@[simp] theorem State.modSg_eng (n : BitVec 5) (f : StepGroup → StepGroup) : (s.modSg n f).dev.eng = s.dev.eng := rfl
@[simp] theorem State.modSg_hqs (n : BitVec 5) (f : StepGroup → StepGroup) : (s.modSg n f).dev.hqs = s.dev.hqs := rfl
@[simp] theorem State.modSg_dns (n : BitVec 5) (f : StepGroup → StepGroup) : (s.modSg n f).dev.dns = s.dev.dns := rfl
@[simp] theorem State.modSg_hbs (n : BitVec 5) (f : StepGroup → StepGroup) : (s.modSg n f).dev.hbs = s.dev.hbs := rfl
@[simp] theorem State.modSg_pzs (n : BitVec 5) (f : StepGroup → StepGroup) : (s.modSg n f).dev.pzs = s.dev.pzs := rfl
@[simp] theorem State.modSg_frings (n : BitVec 5) (f : StepGroup → StepGroup) : (s.modSg n f).dev.frings = s.dev.frings := rfl
@[simp] theorem State.modSg_streams (n : BitVec 5) (f : StepGroup → StepGroup) : (s.modSg n f).dev.streams = s.dev.streams := rfl
@[simp] theorem State.modSg_launches (n : BitVec 5) (f : StepGroup → StepGroup) : (s.modSg n f).dev.launches = s.dev.launches := rfl
@[simp] theorem State.modSg_cohorts (n : BitVec 5) (f : StepGroup → StepGroup) : (s.modSg n f).dev.cohorts = s.dev.cohorts := rfl
@[simp] theorem State.modSg_tasks (n : BitVec 5) (f : StepGroup → StepGroup) : (s.modSg n f).dev.tasks = s.dev.tasks := rfl
@[simp] theorem State.modSg_cqs (n : BitVec 5) (f : StepGroup → StepGroup) : (s.modSg n f).dev.cqs = s.dev.cqs := rfl
@[simp] theorem State.modSg_tenants (n : BitVec 5) (f : StepGroup → StepGroup) : (s.modSg n f).dev.tenants = s.dev.tenants := rfl
@[simp] theorem State.modSg_samplers (n : BitVec 5) (f : StepGroup → StepGroup) : (s.modSg n f).dev.samplers = s.dev.samplers := rfl
@[simp] theorem State.modSg_outbox (n : BitVec 5) (f : StepGroup → StepGroup) : (s.modSg n f).dev.outbox = s.dev.outbox := rfl
@[simp] theorem State.modSg_decs (n : BitVec 5) (f : StepGroup → StepGroup) : (s.modSg n f).dev.decs = s.dev.decs := rfl
@[simp] theorem State.modSg_encs (n : BitVec 5) (f : StepGroup → StepGroup) : (s.modSg n f).dev.encs = s.dev.encs := rfl
@[simp] theorem State.modSg_staged (n : BitVec 5) (f : StepGroup → StepGroup) : (s.modSg n f).dev.staged = s.dev.staged := rfl
@[simp] theorem State.modSg_board (n : BitVec 5) (f : StepGroup → StepGroup) : (s.modSg n f).dev.board = s.dev.board := rfl
@[simp] theorem State.modSg_wbuf (n : BitVec 5) (f : StepGroup → StepGroup) : (s.modSg n f).dev.wbuf = s.dev.wbuf := rfl
@[simp] theorem State.modSg_tags (n : BitVec 5) (f : StepGroup → StepGroup) : (s.modSg n f).dev.tags = s.dev.tags := rfl
@[simp] theorem State.modSg_turns (n : BitVec 5) (f : StepGroup → StepGroup) : (s.modSg n f).dev.turns = s.dev.turns := rfl
@[simp] theorem State.modSg_rr (n : BitVec 5) (f : StepGroup → StepGroup) : (s.modSg n f).dev.rr = s.dev.rr := rfl
@[simp] theorem State.modSg_cur (n : BitVec 5) (f : StepGroup → StepGroup) : (s.modSg n f).dev.cur = s.dev.cur := rfl
@[simp] theorem State.modSg_free (n : BitVec 5) (f : StepGroup → StepGroup) : (s.modSg n f).dev.free = s.dev.free := rfl
@[simp] theorem State.modSg_nextId (n : BitVec 5) (f : StepGroup → StepGroup) : (s.modSg n f).dev.nextId = s.dev.nextId := rfl
@[simp] theorem State.modSg_probe (n : BitVec 5) (f : StepGroup → StepGroup) : (s.modSg n f).dev.probe = s.dev.probe := rfl

@[simp] theorem State.modPz_mem (n : BitVec 6) (f : Zone → Zone) : (s.modPz n f).mem = s.mem := rfl
@[simp] theorem State.modPz_part (n : BitVec 6) (f : Zone → Zone) : (s.modPz n f).part = s.part := rfl
@[simp] theorem State.modPz_cores (n : BitVec 6) (f : Zone → Zone) : (s.modPz n f).dev.cores = s.dev.cores := rfl
@[simp] theorem State.modPz_writes (n : BitVec 6) (f : Zone → Zone) : (s.modPz n f).dev.writes = s.dev.writes := rfl
@[simp] theorem State.modPz_ctlb (n : BitVec 6) (f : Zone → Zone) : (s.modPz n f).dev.ctlb = s.dev.ctlb := rfl
@[simp] theorem State.modPz_lltlb (n : BitVec 6) (f : Zone → Zone) : (s.modPz n f).dev.lltlb = s.dev.lltlb := rfl
@[simp] theorem State.modPz_walks (n : BitVec 6) (f : Zone → Zone) : (s.modPz n f).dev.walks = s.dev.walks := rfl
@[simp] theorem State.modPz_eng (n : BitVec 6) (f : Zone → Zone) : (s.modPz n f).dev.eng = s.dev.eng := rfl
@[simp] theorem State.modPz_hqs (n : BitVec 6) (f : Zone → Zone) : (s.modPz n f).dev.hqs = s.dev.hqs := rfl
@[simp] theorem State.modPz_dns (n : BitVec 6) (f : Zone → Zone) : (s.modPz n f).dev.dns = s.dev.dns := rfl
@[simp] theorem State.modPz_hbs (n : BitVec 6) (f : Zone → Zone) : (s.modPz n f).dev.hbs = s.dev.hbs := rfl
@[simp] theorem State.modPz_sgs (n : BitVec 6) (f : Zone → Zone) : (s.modPz n f).dev.sgs = s.dev.sgs := rfl
@[simp] theorem State.modPz_frings (n : BitVec 6) (f : Zone → Zone) : (s.modPz n f).dev.frings = s.dev.frings := rfl
@[simp] theorem State.modPz_streams (n : BitVec 6) (f : Zone → Zone) : (s.modPz n f).dev.streams = s.dev.streams := rfl
@[simp] theorem State.modPz_launches (n : BitVec 6) (f : Zone → Zone) : (s.modPz n f).dev.launches = s.dev.launches := rfl
@[simp] theorem State.modPz_cohorts (n : BitVec 6) (f : Zone → Zone) : (s.modPz n f).dev.cohorts = s.dev.cohorts := rfl
@[simp] theorem State.modPz_tasks (n : BitVec 6) (f : Zone → Zone) : (s.modPz n f).dev.tasks = s.dev.tasks := rfl
@[simp] theorem State.modPz_cqs (n : BitVec 6) (f : Zone → Zone) : (s.modPz n f).dev.cqs = s.dev.cqs := rfl
@[simp] theorem State.modPz_tenants (n : BitVec 6) (f : Zone → Zone) : (s.modPz n f).dev.tenants = s.dev.tenants := rfl
@[simp] theorem State.modPz_samplers (n : BitVec 6) (f : Zone → Zone) : (s.modPz n f).dev.samplers = s.dev.samplers := rfl
@[simp] theorem State.modPz_outbox (n : BitVec 6) (f : Zone → Zone) : (s.modPz n f).dev.outbox = s.dev.outbox := rfl
@[simp] theorem State.modPz_decs (n : BitVec 6) (f : Zone → Zone) : (s.modPz n f).dev.decs = s.dev.decs := rfl
@[simp] theorem State.modPz_encs (n : BitVec 6) (f : Zone → Zone) : (s.modPz n f).dev.encs = s.dev.encs := rfl
@[simp] theorem State.modPz_staged (n : BitVec 6) (f : Zone → Zone) : (s.modPz n f).dev.staged = s.dev.staged := rfl
@[simp] theorem State.modPz_board (n : BitVec 6) (f : Zone → Zone) : (s.modPz n f).dev.board = s.dev.board := rfl
@[simp] theorem State.modPz_wbuf (n : BitVec 6) (f : Zone → Zone) : (s.modPz n f).dev.wbuf = s.dev.wbuf := rfl
@[simp] theorem State.modPz_tags (n : BitVec 6) (f : Zone → Zone) : (s.modPz n f).dev.tags = s.dev.tags := rfl
@[simp] theorem State.modPz_turns (n : BitVec 6) (f : Zone → Zone) : (s.modPz n f).dev.turns = s.dev.turns := rfl
@[simp] theorem State.modPz_rr (n : BitVec 6) (f : Zone → Zone) : (s.modPz n f).dev.rr = s.dev.rr := rfl
@[simp] theorem State.modPz_cur (n : BitVec 6) (f : Zone → Zone) : (s.modPz n f).dev.cur = s.dev.cur := rfl
@[simp] theorem State.modPz_free (n : BitVec 6) (f : Zone → Zone) : (s.modPz n f).dev.free = s.dev.free := rfl
@[simp] theorem State.modPz_nextId (n : BitVec 6) (f : Zone → Zone) : (s.modPz n f).dev.nextId = s.dev.nextId := rfl
@[simp] theorem State.modPz_probe (n : BitVec 6) (f : Zone → Zone) : (s.modPz n f).dev.probe = s.dev.probe := rfl

@[simp] theorem State.modFring_mem (n : BitVec 8) (f : FrameRing → FrameRing) : (s.modFring n f).mem = s.mem := rfl
@[simp] theorem State.modFring_part (n : BitVec 8) (f : FrameRing → FrameRing) : (s.modFring n f).part = s.part := rfl
@[simp] theorem State.modFring_cores (n : BitVec 8) (f : FrameRing → FrameRing) : (s.modFring n f).dev.cores = s.dev.cores := rfl
@[simp] theorem State.modFring_writes (n : BitVec 8) (f : FrameRing → FrameRing) : (s.modFring n f).dev.writes = s.dev.writes := rfl
@[simp] theorem State.modFring_ctlb (n : BitVec 8) (f : FrameRing → FrameRing) : (s.modFring n f).dev.ctlb = s.dev.ctlb := rfl
@[simp] theorem State.modFring_lltlb (n : BitVec 8) (f : FrameRing → FrameRing) : (s.modFring n f).dev.lltlb = s.dev.lltlb := rfl
@[simp] theorem State.modFring_walks (n : BitVec 8) (f : FrameRing → FrameRing) : (s.modFring n f).dev.walks = s.dev.walks := rfl
@[simp] theorem State.modFring_eng (n : BitVec 8) (f : FrameRing → FrameRing) : (s.modFring n f).dev.eng = s.dev.eng := rfl
@[simp] theorem State.modFring_hqs (n : BitVec 8) (f : FrameRing → FrameRing) : (s.modFring n f).dev.hqs = s.dev.hqs := rfl
@[simp] theorem State.modFring_dns (n : BitVec 8) (f : FrameRing → FrameRing) : (s.modFring n f).dev.dns = s.dev.dns := rfl
@[simp] theorem State.modFring_hbs (n : BitVec 8) (f : FrameRing → FrameRing) : (s.modFring n f).dev.hbs = s.dev.hbs := rfl
@[simp] theorem State.modFring_sgs (n : BitVec 8) (f : FrameRing → FrameRing) : (s.modFring n f).dev.sgs = s.dev.sgs := rfl
@[simp] theorem State.modFring_pzs (n : BitVec 8) (f : FrameRing → FrameRing) : (s.modFring n f).dev.pzs = s.dev.pzs := rfl
@[simp] theorem State.modFring_streams (n : BitVec 8) (f : FrameRing → FrameRing) : (s.modFring n f).dev.streams = s.dev.streams := rfl
@[simp] theorem State.modFring_launches (n : BitVec 8) (f : FrameRing → FrameRing) : (s.modFring n f).dev.launches = s.dev.launches := rfl
@[simp] theorem State.modFring_cohorts (n : BitVec 8) (f : FrameRing → FrameRing) : (s.modFring n f).dev.cohorts = s.dev.cohorts := rfl
@[simp] theorem State.modFring_tasks (n : BitVec 8) (f : FrameRing → FrameRing) : (s.modFring n f).dev.tasks = s.dev.tasks := rfl
@[simp] theorem State.modFring_cqs (n : BitVec 8) (f : FrameRing → FrameRing) : (s.modFring n f).dev.cqs = s.dev.cqs := rfl
@[simp] theorem State.modFring_tenants (n : BitVec 8) (f : FrameRing → FrameRing) : (s.modFring n f).dev.tenants = s.dev.tenants := rfl
@[simp] theorem State.modFring_samplers (n : BitVec 8) (f : FrameRing → FrameRing) : (s.modFring n f).dev.samplers = s.dev.samplers := rfl
@[simp] theorem State.modFring_outbox (n : BitVec 8) (f : FrameRing → FrameRing) : (s.modFring n f).dev.outbox = s.dev.outbox := rfl
@[simp] theorem State.modFring_decs (n : BitVec 8) (f : FrameRing → FrameRing) : (s.modFring n f).dev.decs = s.dev.decs := rfl
@[simp] theorem State.modFring_encs (n : BitVec 8) (f : FrameRing → FrameRing) : (s.modFring n f).dev.encs = s.dev.encs := rfl
@[simp] theorem State.modFring_staged (n : BitVec 8) (f : FrameRing → FrameRing) : (s.modFring n f).dev.staged = s.dev.staged := rfl
@[simp] theorem State.modFring_board (n : BitVec 8) (f : FrameRing → FrameRing) : (s.modFring n f).dev.board = s.dev.board := rfl
@[simp] theorem State.modFring_wbuf (n : BitVec 8) (f : FrameRing → FrameRing) : (s.modFring n f).dev.wbuf = s.dev.wbuf := rfl
@[simp] theorem State.modFring_tags (n : BitVec 8) (f : FrameRing → FrameRing) : (s.modFring n f).dev.tags = s.dev.tags := rfl
@[simp] theorem State.modFring_turns (n : BitVec 8) (f : FrameRing → FrameRing) : (s.modFring n f).dev.turns = s.dev.turns := rfl
@[simp] theorem State.modFring_rr (n : BitVec 8) (f : FrameRing → FrameRing) : (s.modFring n f).dev.rr = s.dev.rr := rfl
@[simp] theorem State.modFring_cur (n : BitVec 8) (f : FrameRing → FrameRing) : (s.modFring n f).dev.cur = s.dev.cur := rfl
@[simp] theorem State.modFring_free (n : BitVec 8) (f : FrameRing → FrameRing) : (s.modFring n f).dev.free = s.dev.free := rfl
@[simp] theorem State.modFring_nextId (n : BitVec 8) (f : FrameRing → FrameRing) : (s.modFring n f).dev.nextId = s.dev.nextId := rfl
@[simp] theorem State.modFring_probe (n : BitVec 8) (f : FrameRing → FrameRing) : (s.modFring n f).dev.probe = s.dev.probe := rfl

@[simp] theorem State.modStream_mem (n : BitVec 8) (f : StreamRec → StreamRec) : (s.modStream n f).mem = s.mem := rfl
@[simp] theorem State.modStream_part (n : BitVec 8) (f : StreamRec → StreamRec) : (s.modStream n f).part = s.part := rfl
@[simp] theorem State.modStream_cores (n : BitVec 8) (f : StreamRec → StreamRec) : (s.modStream n f).dev.cores = s.dev.cores := rfl
@[simp] theorem State.modStream_writes (n : BitVec 8) (f : StreamRec → StreamRec) : (s.modStream n f).dev.writes = s.dev.writes := rfl
@[simp] theorem State.modStream_ctlb (n : BitVec 8) (f : StreamRec → StreamRec) : (s.modStream n f).dev.ctlb = s.dev.ctlb := rfl
@[simp] theorem State.modStream_lltlb (n : BitVec 8) (f : StreamRec → StreamRec) : (s.modStream n f).dev.lltlb = s.dev.lltlb := rfl
@[simp] theorem State.modStream_walks (n : BitVec 8) (f : StreamRec → StreamRec) : (s.modStream n f).dev.walks = s.dev.walks := rfl
@[simp] theorem State.modStream_eng (n : BitVec 8) (f : StreamRec → StreamRec) : (s.modStream n f).dev.eng = s.dev.eng := rfl
@[simp] theorem State.modStream_hqs (n : BitVec 8) (f : StreamRec → StreamRec) : (s.modStream n f).dev.hqs = s.dev.hqs := rfl
@[simp] theorem State.modStream_dns (n : BitVec 8) (f : StreamRec → StreamRec) : (s.modStream n f).dev.dns = s.dev.dns := rfl
@[simp] theorem State.modStream_hbs (n : BitVec 8) (f : StreamRec → StreamRec) : (s.modStream n f).dev.hbs = s.dev.hbs := rfl
@[simp] theorem State.modStream_sgs (n : BitVec 8) (f : StreamRec → StreamRec) : (s.modStream n f).dev.sgs = s.dev.sgs := rfl
@[simp] theorem State.modStream_pzs (n : BitVec 8) (f : StreamRec → StreamRec) : (s.modStream n f).dev.pzs = s.dev.pzs := rfl
@[simp] theorem State.modStream_frings (n : BitVec 8) (f : StreamRec → StreamRec) : (s.modStream n f).dev.frings = s.dev.frings := rfl
@[simp] theorem State.modStream_launches (n : BitVec 8) (f : StreamRec → StreamRec) : (s.modStream n f).dev.launches = s.dev.launches := rfl
@[simp] theorem State.modStream_cohorts (n : BitVec 8) (f : StreamRec → StreamRec) : (s.modStream n f).dev.cohorts = s.dev.cohorts := rfl
@[simp] theorem State.modStream_tasks (n : BitVec 8) (f : StreamRec → StreamRec) : (s.modStream n f).dev.tasks = s.dev.tasks := rfl
@[simp] theorem State.modStream_cqs (n : BitVec 8) (f : StreamRec → StreamRec) : (s.modStream n f).dev.cqs = s.dev.cqs := rfl
@[simp] theorem State.modStream_tenants (n : BitVec 8) (f : StreamRec → StreamRec) : (s.modStream n f).dev.tenants = s.dev.tenants := rfl
@[simp] theorem State.modStream_samplers (n : BitVec 8) (f : StreamRec → StreamRec) : (s.modStream n f).dev.samplers = s.dev.samplers := rfl
@[simp] theorem State.modStream_outbox (n : BitVec 8) (f : StreamRec → StreamRec) : (s.modStream n f).dev.outbox = s.dev.outbox := rfl
@[simp] theorem State.modStream_decs (n : BitVec 8) (f : StreamRec → StreamRec) : (s.modStream n f).dev.decs = s.dev.decs := rfl
@[simp] theorem State.modStream_encs (n : BitVec 8) (f : StreamRec → StreamRec) : (s.modStream n f).dev.encs = s.dev.encs := rfl
@[simp] theorem State.modStream_staged (n : BitVec 8) (f : StreamRec → StreamRec) : (s.modStream n f).dev.staged = s.dev.staged := rfl
@[simp] theorem State.modStream_board (n : BitVec 8) (f : StreamRec → StreamRec) : (s.modStream n f).dev.board = s.dev.board := rfl
@[simp] theorem State.modStream_wbuf (n : BitVec 8) (f : StreamRec → StreamRec) : (s.modStream n f).dev.wbuf = s.dev.wbuf := rfl
@[simp] theorem State.modStream_tags (n : BitVec 8) (f : StreamRec → StreamRec) : (s.modStream n f).dev.tags = s.dev.tags := rfl
@[simp] theorem State.modStream_turns (n : BitVec 8) (f : StreamRec → StreamRec) : (s.modStream n f).dev.turns = s.dev.turns := rfl
@[simp] theorem State.modStream_rr (n : BitVec 8) (f : StreamRec → StreamRec) : (s.modStream n f).dev.rr = s.dev.rr := rfl
@[simp] theorem State.modStream_cur (n : BitVec 8) (f : StreamRec → StreamRec) : (s.modStream n f).dev.cur = s.dev.cur := rfl
@[simp] theorem State.modStream_free (n : BitVec 8) (f : StreamRec → StreamRec) : (s.modStream n f).dev.free = s.dev.free := rfl
@[simp] theorem State.modStream_nextId (n : BitVec 8) (f : StreamRec → StreamRec) : (s.modStream n f).dev.nextId = s.dev.nextId := rfl
@[simp] theorem State.modStream_probe (n : BitVec 8) (f : StreamRec → StreamRec) : (s.modStream n f).dev.probe = s.dev.probe := rfl

@[simp] theorem State.setCell_mem (a : Nat) (b : Byte) : (s.setCell a b).mem = s.mem := rfl
@[simp] theorem State.setCell_part (a : Nat) (b : Byte) : (s.setCell a b).part = s.part := rfl
@[simp] theorem State.setCell_cores (a : Nat) (b : Byte) : (s.setCell a b).dev.cores = s.dev.cores := rfl
@[simp] theorem State.setCell_writes (a : Nat) (b : Byte) : (s.setCell a b).dev.writes = s.dev.writes := rfl
@[simp] theorem State.setCell_ctlb (a : Nat) (b : Byte) : (s.setCell a b).dev.ctlb = s.dev.ctlb := rfl
@[simp] theorem State.setCell_lltlb (a : Nat) (b : Byte) : (s.setCell a b).dev.lltlb = s.dev.lltlb := rfl
@[simp] theorem State.setCell_walks (a : Nat) (b : Byte) : (s.setCell a b).dev.walks = s.dev.walks := rfl
@[simp] theorem State.setCell_eng (a : Nat) (b : Byte) : (s.setCell a b).dev.eng = s.dev.eng := rfl
@[simp] theorem State.setCell_hqs (a : Nat) (b : Byte) : (s.setCell a b).dev.hqs = s.dev.hqs := rfl
@[simp] theorem State.setCell_dns (a : Nat) (b : Byte) : (s.setCell a b).dev.dns = s.dev.dns := rfl
@[simp] theorem State.setCell_hbs (a : Nat) (b : Byte) : (s.setCell a b).dev.hbs = s.dev.hbs := rfl
@[simp] theorem State.setCell_sgs (a : Nat) (b : Byte) : (s.setCell a b).dev.sgs = s.dev.sgs := rfl
@[simp] theorem State.setCell_pzs (a : Nat) (b : Byte) : (s.setCell a b).dev.pzs = s.dev.pzs := rfl
@[simp] theorem State.setCell_frings (a : Nat) (b : Byte) : (s.setCell a b).dev.frings = s.dev.frings := rfl
@[simp] theorem State.setCell_streams (a : Nat) (b : Byte) : (s.setCell a b).dev.streams = s.dev.streams := rfl
@[simp] theorem State.setCell_launches (a : Nat) (b : Byte) : (s.setCell a b).dev.launches = s.dev.launches := rfl
@[simp] theorem State.setCell_cohorts (a : Nat) (b : Byte) : (s.setCell a b).dev.cohorts = s.dev.cohorts := rfl
@[simp] theorem State.setCell_tasks (a : Nat) (b : Byte) : (s.setCell a b).dev.tasks = s.dev.tasks := rfl
@[simp] theorem State.setCell_cqs (a : Nat) (b : Byte) : (s.setCell a b).dev.cqs = s.dev.cqs := rfl
@[simp] theorem State.setCell_tenants (a : Nat) (b : Byte) : (s.setCell a b).dev.tenants = s.dev.tenants := rfl
@[simp] theorem State.setCell_samplers (a : Nat) (b : Byte) : (s.setCell a b).dev.samplers = s.dev.samplers := rfl
@[simp] theorem State.setCell_outbox (a : Nat) (b : Byte) : (s.setCell a b).dev.outbox = s.dev.outbox := rfl
@[simp] theorem State.setCell_decs (a : Nat) (b : Byte) : (s.setCell a b).dev.decs = s.dev.decs := rfl
@[simp] theorem State.setCell_encs (a : Nat) (b : Byte) : (s.setCell a b).dev.encs = s.dev.encs := rfl
@[simp] theorem State.setCell_staged (a : Nat) (b : Byte) : (s.setCell a b).dev.staged = s.dev.staged := rfl
@[simp] theorem State.setCell_board (a : Nat) (b : Byte) : (s.setCell a b).dev.board = s.dev.board := rfl
@[simp] theorem State.setCell_tags (a : Nat) (b : Byte) : (s.setCell a b).dev.tags = s.dev.tags := rfl
@[simp] theorem State.setCell_turns (a : Nat) (b : Byte) : (s.setCell a b).dev.turns = s.dev.turns := rfl
@[simp] theorem State.setCell_rr (a : Nat) (b : Byte) : (s.setCell a b).dev.rr = s.dev.rr := rfl
@[simp] theorem State.setCell_cur (a : Nat) (b : Byte) : (s.setCell a b).dev.cur = s.dev.cur := rfl
@[simp] theorem State.setCell_free (a : Nat) (b : Byte) : (s.setCell a b).dev.free = s.dev.free := rfl
@[simp] theorem State.setCell_nextId (a : Nat) (b : Byte) : (s.setCell a b).dev.nextId = s.dev.nextId := rfl
@[simp] theorem State.setCell_probe (a : Nat) (b : Byte) : (s.setCell a b).dev.probe = s.dev.probe := rfl

@[simp] theorem State.emit_mem (o : HostOut) : (s.emit o).mem = s.mem := rfl
@[simp] theorem State.emit_part (o : HostOut) : (s.emit o).part = s.part := rfl
@[simp] theorem State.emit_cores (o : HostOut) : (s.emit o).dev.cores = s.dev.cores := rfl
@[simp] theorem State.emit_writes (o : HostOut) : (s.emit o).dev.writes = s.dev.writes := rfl
@[simp] theorem State.emit_ctlb (o : HostOut) : (s.emit o).dev.ctlb = s.dev.ctlb := rfl
@[simp] theorem State.emit_lltlb (o : HostOut) : (s.emit o).dev.lltlb = s.dev.lltlb := rfl
@[simp] theorem State.emit_walks (o : HostOut) : (s.emit o).dev.walks = s.dev.walks := rfl
@[simp] theorem State.emit_eng (o : HostOut) : (s.emit o).dev.eng = s.dev.eng := rfl
@[simp] theorem State.emit_hqs (o : HostOut) : (s.emit o).dev.hqs = s.dev.hqs := rfl
@[simp] theorem State.emit_dns (o : HostOut) : (s.emit o).dev.dns = s.dev.dns := rfl
@[simp] theorem State.emit_hbs (o : HostOut) : (s.emit o).dev.hbs = s.dev.hbs := rfl
@[simp] theorem State.emit_sgs (o : HostOut) : (s.emit o).dev.sgs = s.dev.sgs := rfl
@[simp] theorem State.emit_pzs (o : HostOut) : (s.emit o).dev.pzs = s.dev.pzs := rfl
@[simp] theorem State.emit_frings (o : HostOut) : (s.emit o).dev.frings = s.dev.frings := rfl
@[simp] theorem State.emit_streams (o : HostOut) : (s.emit o).dev.streams = s.dev.streams := rfl
@[simp] theorem State.emit_launches (o : HostOut) : (s.emit o).dev.launches = s.dev.launches := rfl
@[simp] theorem State.emit_cohorts (o : HostOut) : (s.emit o).dev.cohorts = s.dev.cohorts := rfl
@[simp] theorem State.emit_tasks (o : HostOut) : (s.emit o).dev.tasks = s.dev.tasks := rfl
@[simp] theorem State.emit_cqs (o : HostOut) : (s.emit o).dev.cqs = s.dev.cqs := rfl
@[simp] theorem State.emit_tenants (o : HostOut) : (s.emit o).dev.tenants = s.dev.tenants := rfl
@[simp] theorem State.emit_samplers (o : HostOut) : (s.emit o).dev.samplers = s.dev.samplers := rfl
@[simp] theorem State.emit_outbox (o : HostOut) : (s.emit o).dev.outbox = s.dev.outbox := rfl
@[simp] theorem State.emit_decs (o : HostOut) : (s.emit o).dev.decs = s.dev.decs := rfl
@[simp] theorem State.emit_encs (o : HostOut) : (s.emit o).dev.encs = s.dev.encs := rfl
@[simp] theorem State.emit_staged (o : HostOut) : (s.emit o).dev.staged = s.dev.staged := rfl
@[simp] theorem State.emit_wbuf (o : HostOut) : (s.emit o).dev.wbuf = s.dev.wbuf := rfl
@[simp] theorem State.emit_tags (o : HostOut) : (s.emit o).dev.tags = s.dev.tags := rfl
@[simp] theorem State.emit_turns (o : HostOut) : (s.emit o).dev.turns = s.dev.turns := rfl
@[simp] theorem State.emit_rr (o : HostOut) : (s.emit o).dev.rr = s.dev.rr := rfl
@[simp] theorem State.emit_cur (o : HostOut) : (s.emit o).dev.cur = s.dev.cur := rfl
@[simp] theorem State.emit_free (o : HostOut) : (s.emit o).dev.free = s.dev.free := rfl
@[simp] theorem State.emit_nextId (o : HostOut) : (s.emit o).dev.nextId = s.dev.nextId := rfl
@[simp] theorem State.emit_probe (o : HostOut) : (s.emit o).dev.probe = s.dev.probe := rfl

@[simp] theorem State.setCell_wbuf (a : Nat) (b : Byte) : (s.setCell a b).dev.wbuf = (a, b) :: s.dev.wbuf := rfl

/-! ## Updates of one part of a core -/

@[simp] theorem Core.modCtx_sv (f : Ctx → Ctx) : (k.modCtx f).sv = k.sv := rfl
@[simp] theorem Core.modCtx_latch (f : Ctx → Ctx) : (k.modCtx f).latch = k.latch := rfl
@[simp] theorem Core.modCtx_flights (f : Ctx → Ctx) : (k.modCtx f).flights = k.flights := rfl
@[simp] theorem Core.modCtx_snap (f : Ctx → Ctx) : (k.modCtx f).snap = k.snap := rfl
@[simp] theorem Core.modCtx_held (f : Ctx → Ctx) : (k.modCtx f).held = k.held := rfl
@[simp] theorem Core.modCtx_heldSnap (f : Ctx → Ctx) : (k.modCtx f).heldSnap = k.heldSnap := rfl
@[simp] theorem Core.modCtx_mat (f : Ctx → Ctx) : (k.modCtx f).mat = k.mat := rfl
@[simp] theorem Core.modCtx_imem (f : Ctx → Ctx) : (k.modCtx f).imem = k.imem := rfl
@[simp] theorem Core.modCtx_run (f : Ctx → Ctx) : (k.modCtx f).run = k.run := rfl
@[simp] theorem Core.modCtx_clk (f : Ctx → Ctx) : (k.modCtx f).clk = k.clk := rfl
@[simp] theorem Core.modCtx_bun (f : Ctx → Ctx) : (k.modCtx f).bun = k.bun := rfl
@[simp] theorem Core.modCtx_waiting (f : Ctx → Ctx) : (k.modCtx f).waiting = k.waiting := rfl
@[simp] theorem Core.modCtx_ops (f : Ctx → Ctx) : (k.modCtx f).ops = k.ops := rfl
@[simp] theorem Core.modCtx_wents (f : Ctx → Ctx) : (k.modCtx f).wents = k.wents := rfl
@[simp] theorem Core.modCtx_defer (f : Ctx → Ctx) : (k.modCtx f).defer = k.defer := rfl
@[simp] theorem Core.modCtx_utlb (f : Ctx → Ctx) : (k.modCtx f).utlb = k.utlb := rfl
@[simp] theorem Core.modCtx_sysop (f : Ctx → Ctx) : (k.modCtx f).sysop = k.sysop := rfl
@[simp] theorem Core.modCtx_task (f : Ctx → Ctx) : (k.modCtx f).task = k.task := rfl
@[simp] theorem Core.modCtx_preempt (f : Ctx → Ctx) : (k.modCtx f).preempt = k.preempt := rfl
@[simp] theorem Core.modCtx_microImg (f : Ctx → Ctx) : (k.modCtx f).microImg = k.microImg := rfl
@[simp] theorem Core.modCtx_ecc (f : Ctx → Ctx) : (k.modCtx f).ecc = k.ecc := rfl
@[simp] theorem Core.modCtx_reaped (f : Ctx → Ctx) : (k.modCtx f).reaped = k.reaped := rfl
@[simp] theorem Core.modMat_ctx (f : Matrix → Matrix) : (k.modMat f).ctx = k.ctx := rfl
@[simp] theorem Core.modMat_sv (f : Matrix → Matrix) : (k.modMat f).sv = k.sv := rfl
@[simp] theorem Core.modMat_latch (f : Matrix → Matrix) : (k.modMat f).latch = k.latch := rfl
@[simp] theorem Core.modMat_flights (f : Matrix → Matrix) : (k.modMat f).flights = k.flights := rfl
@[simp] theorem Core.modMat_snap (f : Matrix → Matrix) : (k.modMat f).snap = k.snap := rfl
@[simp] theorem Core.modMat_held (f : Matrix → Matrix) : (k.modMat f).held = k.held := rfl
@[simp] theorem Core.modMat_heldSnap (f : Matrix → Matrix) : (k.modMat f).heldSnap = k.heldSnap := rfl
@[simp] theorem Core.modMat_imem (f : Matrix → Matrix) : (k.modMat f).imem = k.imem := rfl
@[simp] theorem Core.modMat_run (f : Matrix → Matrix) : (k.modMat f).run = k.run := rfl
@[simp] theorem Core.modMat_clk (f : Matrix → Matrix) : (k.modMat f).clk = k.clk := rfl
@[simp] theorem Core.modMat_bun (f : Matrix → Matrix) : (k.modMat f).bun = k.bun := rfl
@[simp] theorem Core.modMat_waiting (f : Matrix → Matrix) : (k.modMat f).waiting = k.waiting := rfl
@[simp] theorem Core.modMat_ops (f : Matrix → Matrix) : (k.modMat f).ops = k.ops := rfl
@[simp] theorem Core.modMat_wents (f : Matrix → Matrix) : (k.modMat f).wents = k.wents := rfl
@[simp] theorem Core.modMat_defer (f : Matrix → Matrix) : (k.modMat f).defer = k.defer := rfl
@[simp] theorem Core.modMat_utlb (f : Matrix → Matrix) : (k.modMat f).utlb = k.utlb := rfl
@[simp] theorem Core.modMat_sysop (f : Matrix → Matrix) : (k.modMat f).sysop = k.sysop := rfl
@[simp] theorem Core.modMat_task (f : Matrix → Matrix) : (k.modMat f).task = k.task := rfl
@[simp] theorem Core.modMat_preempt (f : Matrix → Matrix) : (k.modMat f).preempt = k.preempt := rfl
@[simp] theorem Core.modMat_microImg (f : Matrix → Matrix) : (k.modMat f).microImg = k.microImg := rfl
@[simp] theorem Core.modMat_ecc (f : Matrix → Matrix) : (k.modMat f).ecc = k.ecc := rfl
@[simp] theorem Core.modMat_reaped (f : Matrix → Matrix) : (k.modMat f).reaped = k.reaped := rfl
@[simp] theorem Core.addFlight_ctx (f : Flight) : (k.addFlight f).ctx = k.ctx := rfl
@[simp] theorem Core.addFlight_sv (f : Flight) : (k.addFlight f).sv = k.sv := rfl
@[simp] theorem Core.addFlight_latch (f : Flight) : (k.addFlight f).latch = k.latch := rfl
@[simp] theorem Core.addFlight_snap (f : Flight) : (k.addFlight f).snap = k.snap := rfl
@[simp] theorem Core.addFlight_held (f : Flight) : (k.addFlight f).held = k.held := rfl
@[simp] theorem Core.addFlight_heldSnap (f : Flight) : (k.addFlight f).heldSnap = k.heldSnap := rfl
@[simp] theorem Core.addFlight_mat (f : Flight) : (k.addFlight f).mat = k.mat := rfl
@[simp] theorem Core.addFlight_imem (f : Flight) : (k.addFlight f).imem = k.imem := rfl
@[simp] theorem Core.addFlight_run (f : Flight) : (k.addFlight f).run = k.run := rfl
@[simp] theorem Core.addFlight_clk (f : Flight) : (k.addFlight f).clk = k.clk := rfl
@[simp] theorem Core.addFlight_bun (f : Flight) : (k.addFlight f).bun = k.bun := rfl
@[simp] theorem Core.addFlight_waiting (f : Flight) : (k.addFlight f).waiting = k.waiting := rfl
@[simp] theorem Core.addFlight_ops (f : Flight) : (k.addFlight f).ops = k.ops := rfl
@[simp] theorem Core.addFlight_wents (f : Flight) : (k.addFlight f).wents = k.wents := rfl
@[simp] theorem Core.addFlight_defer (f : Flight) : (k.addFlight f).defer = k.defer := rfl
@[simp] theorem Core.addFlight_utlb (f : Flight) : (k.addFlight f).utlb = k.utlb := rfl
@[simp] theorem Core.addFlight_sysop (f : Flight) : (k.addFlight f).sysop = k.sysop := rfl
@[simp] theorem Core.addFlight_task (f : Flight) : (k.addFlight f).task = k.task := rfl
@[simp] theorem Core.addFlight_preempt (f : Flight) : (k.addFlight f).preempt = k.preempt := rfl
@[simp] theorem Core.addFlight_microImg (f : Flight) : (k.addFlight f).microImg = k.microImg := rfl
@[simp] theorem Core.addFlight_ecc (f : Flight) : (k.addFlight f).ecc = k.ecc := rfl
@[simp] theorem Core.addFlight_reaped (f : Flight) : (k.addFlight f).reaped = k.reaped := rfl
@[simp] theorem Core.modCtx_ctx (f : Ctx → Ctx) : (k.modCtx f).ctx = f k.ctx := rfl
@[simp] theorem Core.modMat_mat (f : Matrix → Matrix) : (k.modMat f).mat = f k.mat := rfl
@[simp] theorem Core.addFlight_flights (f : Flight) : (k.addFlight f).flights = insertFlight f k.flights := rfl

@[simp] theorem Core.staleAll_ctx : k.staleAll.ctx = k.ctx := rfl
@[simp] theorem Core.staleAll_sv : k.staleAll.sv = k.sv := rfl
@[simp] theorem Core.staleAll_flights : k.staleAll.flights = k.flights := rfl
@[simp] theorem Core.staleAll_snap : k.staleAll.snap = k.snap := rfl
@[simp] theorem Core.staleAll_held : k.staleAll.held = k.held := rfl
@[simp] theorem Core.staleAll_heldSnap : k.staleAll.heldSnap = k.heldSnap := rfl
@[simp] theorem Core.staleAll_mat : k.staleAll.mat = k.mat := rfl
@[simp] theorem Core.staleAll_imem : k.staleAll.imem = k.imem := rfl
@[simp] theorem Core.staleAll_run : k.staleAll.run = k.run := rfl
@[simp] theorem Core.staleAll_bun : k.staleAll.bun = k.bun := rfl
@[simp] theorem Core.staleAll_waiting : k.staleAll.waiting = k.waiting := rfl
@[simp] theorem Core.staleAll_ops : k.staleAll.ops = k.ops := rfl
@[simp] theorem Core.staleAll_wents : k.staleAll.wents = k.wents := rfl
@[simp] theorem Core.staleAll_defer : k.staleAll.defer = k.defer := rfl
@[simp] theorem Core.staleAll_utlb : k.staleAll.utlb = k.utlb := rfl
@[simp] theorem Core.staleAll_sysop : k.staleAll.sysop = k.sysop := rfl
@[simp] theorem Core.staleAll_task : k.staleAll.task = k.task := rfl
@[simp] theorem Core.staleAll_preempt : k.staleAll.preempt = k.preempt := rfl
@[simp] theorem Core.staleAll_microImg : k.staleAll.microImg = k.microImg := rfl
@[simp] theorem Core.staleAll_ecc : k.staleAll.ecc = k.ecc := rfl
@[simp] theorem Core.staleAll_reaped : k.staleAll.reaped = k.reaped := rfl
@[simp] theorem Core.enterSupervisor_flights (r : StopRec) : (k.enterSupervisor r).flights = k.flights := rfl
@[simp] theorem Core.enterSupervisor_snap (r : StopRec) : (k.enterSupervisor r).snap = k.snap := rfl
@[simp] theorem Core.enterSupervisor_mat (r : StopRec) : (k.enterSupervisor r).mat = k.mat := rfl
@[simp] theorem Core.enterSupervisor_imem (r : StopRec) : (k.enterSupervisor r).imem = k.imem := rfl
@[simp] theorem Core.enterSupervisor_bun (r : StopRec) : (k.enterSupervisor r).bun = k.bun := rfl
@[simp] theorem Core.enterSupervisor_waiting (r : StopRec) : (k.enterSupervisor r).waiting = k.waiting := rfl
@[simp] theorem Core.enterSupervisor_ops (r : StopRec) : (k.enterSupervisor r).ops = k.ops := rfl
@[simp] theorem Core.enterSupervisor_wents (r : StopRec) : (k.enterSupervisor r).wents = k.wents := rfl
@[simp] theorem Core.enterSupervisor_defer (r : StopRec) : (k.enterSupervisor r).defer = k.defer := rfl
@[simp] theorem Core.enterSupervisor_utlb (r : StopRec) : (k.enterSupervisor r).utlb = k.utlb := rfl
@[simp] theorem Core.enterSupervisor_sysop (r : StopRec) : (k.enterSupervisor r).sysop = k.sysop := rfl
@[simp] theorem Core.enterSupervisor_task (r : StopRec) : (k.enterSupervisor r).task = k.task := rfl
@[simp] theorem Core.enterSupervisor_preempt (r : StopRec) : (k.enterSupervisor r).preempt = k.preempt := rfl
@[simp] theorem Core.enterSupervisor_microImg (r : StopRec) : (k.enterSupervisor r).microImg = k.microImg := rfl
@[simp] theorem Core.enterSupervisor_ecc (r : StopRec) : (k.enterSupervisor r).ecc = k.ecc := rfl
@[simp] theorem Core.enterSupervisor_reaped (r : StopRec) : (k.enterSupervisor r).reaped = k.reaped := rfl
@[simp] theorem Core.returnToUser_heldSnap : k.returnToUser.heldSnap = k.heldSnap := rfl
@[simp] theorem Core.returnToUser_run : k.returnToUser.run = k.run := rfl
@[simp] theorem Core.returnToUser_bun : k.returnToUser.bun = k.bun := rfl
@[simp] theorem Core.returnToUser_waiting : k.returnToUser.waiting = k.waiting := rfl
@[simp] theorem Core.returnToUser_ops : k.returnToUser.ops = k.ops := rfl
@[simp] theorem Core.returnToUser_wents : k.returnToUser.wents = k.wents := rfl
@[simp] theorem Core.returnToUser_defer : k.returnToUser.defer = k.defer := rfl
@[simp] theorem Core.returnToUser_utlb : k.returnToUser.utlb = k.utlb := rfl
@[simp] theorem Core.returnToUser_sysop : k.returnToUser.sysop = k.sysop := rfl
@[simp] theorem Core.returnToUser_task : k.returnToUser.task = k.task := rfl
@[simp] theorem Core.returnToUser_preempt : k.returnToUser.preempt = k.preempt := rfl
@[simp] theorem Core.returnToUser_microImg : k.returnToUser.microImg = k.microImg := rfl
@[simp] theorem Core.returnToUser_ecc : k.returnToUser.ecc = k.ecc := rfl
@[simp] theorem Core.returnToUser_reaped : k.returnToUser.reaped = k.reaped := rfl

end Sys2Proof.Machine
end

