-- ==== Sys2Proof/Laws/Ops.lean ====
section
/-! SUPPORT. What each shared operation can do, once: parts of the device after an update, a syllable's checks, its results, its
trap, and what `act` answers for them. -/

namespace Sys2Proof.Machine

/-! ## Parts after an update -/

/-- The element that was replaced. -/
@[simp] theorem vector_get_set_same {α : Type} {n : Nat} (v : Vector α n) (i : Fin n) (x : α) :
    (v.set i.val x i.isLt).get i = x := by
  change (v.set i.val x i.isLt)[i.val] = x
  simp

/-- An element that was not replaced. -/
theorem vector_get_set_ne {α : Type} {n : Nat} (v : Vector α n) {i j : Fin n} (x : α) (h : j ≠ i) :
    (v.set i.val x i.isLt).get j = v.get j := by
  change (v.set i.val x i.isLt)[j.val] = v[j.val]
  exact Vector.getElem_set_ne i.isLt j.isLt (fun e => h (Fin.ext e.symm))

/-- The core that was changed. -/
@[simp] theorem State.core_modCore_same (s : State) (c : CoreId) (f : Core → Core) : (s.modCore c f).core c = f (s.core c) :=
  vector_get_set_same ..

/-- A core that was not changed. -/
theorem State.core_modCore_ne (s : State) {c e : CoreId} (f : Core → Core) (h : e ≠ c) :
    (s.modCore c f).core e = s.core e := vector_get_set_ne _ _ h

/-- The acting core after a change of it. -/
@[simp] theorem State.me_modMe (s : State) (f : Core → Core) : (s.modMe f).me = f s.me :=
  State.core_modCore_same ..

/-- Two changes of one core are one. -/
theorem State.modCore_modCore (s : State) (c : CoreId) (f g : Core → Core) :
    (s.modCore c f).modCore c g = s.modCore c (g ∘ f) := by
  unfold State.modCore State.upd
  simp

/-- Two changes of the acting core are one. -/
theorem State.modMe_modMe (s : State) (f g : Core → Core) : (s.modMe f).modMe g = s.modMe (g ∘ f) :=
  State.modCore_modCore ..

/-- The queue that was changed. -/
@[simp] theorem State.cq_modCq_same (s : State) (t : TenantId) (q : QueueId) (f : CmdQueue → CmdQueue) :
    (s.modCq t q f).cq t q = f (s.cq t q) := vector_get_set_same ..

/-- The acting queue after a change of it. -/
@[simp] theorem State.myCq_modMyCq (s : State) (f : CmdQueue → CmdQueue) : (s.modMyCq f).myCq = f s.myCq :=
  State.cq_modCq_same ..

/-- Two changes of one queue are one. -/
theorem State.modCq_modCq (s : State) (t : TenantId) (q : QueueId) (f g : CmdQueue → CmdQueue) :
    (s.modCq t q f).modCq t q g = s.modCq t q (g ∘ f) := by
  unfold State.modCq State.upd
  simp

/-- The tenant that was changed. -/
@[simp] theorem State.tenant_modTenant_same (s : State) (t : TenantId) (f : Tenant → Tenant) :
    (s.modTenant t f).tenant t = f (s.tenant t) := vector_get_set_same ..

/-- A change of the acting core keeps every other part of the device. -/
theorem OnlyMe.modMe (s : State) (f : Core → Core) : OnlyMe s (s.modMe f) :=
  ⟨rfl, rfl, fun _ h => State.core_modCore_ne s f h, rfl⟩

/-! ## Bytes written in a step (R391) -/

/-- Setting bytes changes the write buffer alone. -/
theorem State.setCells_only (s : State) (a : Nat) (bs : List Byte) :
    ∃ l, s.setCells a bs = s.upd fun d => { d with wbuf := l } := by
  induction bs generalizing s a with
  | nil => exact ⟨s.dev.wbuf, rfl⟩
  | cons b bs ih =>
    obtain ⟨l, h⟩ := ih (s.setCell a b) (a + 1)
    exact ⟨l, by rw [State.setCells, h]; rfl⟩

/-- Writing a byte at a place changes the write buffer and the tags of data units alone. -/
theorem State.poke_only (s : State) (a : Nat) (b : Byte) :
    ∃ l m, s.poke a b = s.upd fun d => { d with wbuf := l, tags := m } := by
  unfold State.poke
  split
  · exact ⟨_, s.dev.tags, rfl⟩
  · unfold State.enterKey
    split
    · split
      · exact ⟨_, s.dev.tags, rfl⟩
      · obtain ⟨l, h⟩ := s.setCells_only (physOf a / 64 * 64) (s.unitAs (s.keyAt a) (physOf a))
        exact ⟨(physOf a, b) :: l, _, by rw [h]; rfl⟩
    · obtain ⟨l, h⟩ := s.setCells_only (physOf a / 64 * 64) (s.unitAs (s.keyAt a) (physOf a))
      exact ⟨(physOf a, b) :: l, _, by rw [h]; rfl⟩
    · exact ⟨_, _, rfl⟩

/-- Writing bytes from a place on changes the write buffer and the tags of data units alone. -/
theorem State.pokes_only (s : State) (a : Nat) (bs : List Byte) :
    ∃ l m, s.pokes a bs = s.upd fun d => { d with wbuf := l, tags := m } := by
  induction bs generalizing s a with
  | nil => exact ⟨s.dev.wbuf, s.dev.tags, rfl⟩
  | cons b bs ih =>
    obtain ⟨l, m, h⟩ := s.poke_only a b
    obtain ⟨l', m', h'⟩ := ih (s.poke a b) (a + 1)
    exact ⟨l', m', by rw [State.pokes, h', h]; rfl⟩

/-- A byte written at a place that no key shows reads back, and every other such byte reads as before. -/
theorem State.peek_poke (s : State) {a c : Nat} (b : Byte) (ha : a < 2 ^ 70) (hc : c < 2 ^ 70) :
    (s.poke a b).peek c = if c = a then b else s.peek c := by
  simp only [State.poke, State.peek, if_pos ha, if_pos hc, State.cell, State.setCell, State.upd, List.find?_cons]
  by_cases h : c = a
  · simp [h]
  · have h' : (a == c) = false := by simpa using Ne.symm h
    simp [h, h']

/-! ## `act` over changes of the acting core -/

/-- A meaning that only changes the acting core answers exactly that. -/
theorem act_me {f : State → State} {s : State} {g : Core → Core} (hs : s.dev.wbuf = []) (h : f s = s.modMe g) :
    act f s = .next (s.modMe g) := by
  rw [act_clean (by simp [h]) (by simp [h]) (by simp [h, hs]), h]

/-- A meaning that changes nothing answers the same state. -/
theorem act_same {f : State → State} {s : State} (hs : s.dev.wbuf = []) (h : f s = s) : act f s = .next s := by
  rw [act_clean (by rw [h]) (by rw [h]) (by rw [h, hs]), h]

/-! ## A syllable's checks (R104, R108) -/

/-- A syllable that passes its checks and names no vector source has its effect. -/
theorem syl_ready {x : Lent} {u : Uses} {s : State} (h : s.Ready x u) (hv : u.vs = []) (body : State → State) :
    syl x u body s = body s := by
  obtain ⟨h1, h2, h3, h4⟩ := h
  simp [syl, h1, h2, h3, h4, hv]

/-- A syllable that passes its checks pops the streams that it names, and has its effect. -/
theorem syl_pops {x : Lent} {u : Uses} {s : State} (h : s.Ready x u) (hv : u.vs ≠ []) (body : State → State) :
    syl x u body s = body (s.modMe fun k => k.popStreams u) := by
  obtain ⟨h1, h2, h3, h4⟩ := h
  simp [syl, h1, h2, h3, h4, hv]

/-- A syllable whose guard is false does nothing. -/
theorem syl_guarded {x : Lent} {u : Uses} {s : State} (h1 : s.me.stale u = false) (h2 : s.me.guard x = false)
    (body : State → State) : syl x u body s = s := by
  simp [syl, h1, h2]

/-- A stale latch traps, whatever the guard. -/
theorem syl_stale {x : Lent} {u : Uses} {s : State} (h : s.me.stale u = true) (body : State → State) :
    syl x u body s = s.trap 5 cLatchStale s.me.bun.addr := by
  simp [syl, h]

/-- A syllable waits under check 6. -/
theorem syl_waits {x : Lent} {u : Uses} {s : State} {c : Hold} (h1 : s.me.stale u = false) (h2 : s.me.guard x = true)
    (h3 : s.me.waits u = some c) (body : State → State) : syl x u body s = s.holdOn c := by
  simp [syl, h1, h2, h3]

/-! ## Results (R302) -/

/-- With room, a result is issued. -/
theorem State.result_room {s : State} (h : s.Room) (f : Flight) : s.result f = s.issues f := by
  have : (!s.me.priv && f.counts && decide (64 ≤ s.me.inFlight)) = false := by
    cases h with
    | inl h => simp [h]
    | inr h => simp [h]
  simp [State.result, this, State.issues, Core.addFlight]

/-- A scalar result, with room. -/
theorem State.resS_room {s : State} (h : s.Room) (lat : Nat) (d : SDst) (v : W64) :
    s.resS lat d v = s.issues (s.due lat (s.toScalar d) true (v.setWidth 1024)) := by
  rw [State.resS, State.result_room h]
  rfl

/-- A predicate result, with room. -/
theorem State.resP_room {s : State} (h : s.Room) (p : BitVec 4) (b : Bool) :
    s.resP p b = s.issues (s.due 1 (.p p s.me.priv) false (if b then 1 else 0)) := by
  rw [State.resP, State.result_room h]
  rfl

/-- A vector result into a register that is bound to no stream, with room. -/
theorem State.resV_room {s : State} (h : s.Room) {d : VDst} (hd : s.me.boundSlot d.r = none) (lat : Nat) (wd : Width) (v : V1024) :
    s.resV lat wd d v = s.issues (s.due lat (if d.n then .none else .v d.r wd) true (lowBits wd.bits v)) := by
  unfold State.resV
  by_cases hn : d.n = true
  · rw [if_pos hn, State.result_room h, if_pos hn]
    rfl
  · rw [if_neg hn, hd]
    simp only [State.result_room h]
    rw [if_neg hn]
    rfl

/-- A mask result, with room. -/
theorem State.resM_room {s : State} (h : s.Room) (lat : Nat) (wd : Width) (m : BitVec 3) (v : BitVec 128) :
    s.resM lat wd m v = s.issues (s.due lat (.m m wd) false (v.setWidth 1024)) := by
  rw [State.resM, State.result_room h]
  rfl

/-! ## Traps (R291, R297, R298) -/

/-- At user level a trap starts a stop with its fault record. -/
theorem Core.trap_user {k : Core} (h : k.priv = false) (chk code : Nat) (a b : W64) :
    (k.trap chk code a b).run =
      .stopping { chk := chk, epc := k.bun.base, scause := w64 code, sfaddr := a, sfinfo := b } := by
  simp [Core.trap, Core.stop, h]

/-- At supervisor level a trap halts the core. -/
theorem Core.trap_priv {k : Core} (h : k.priv = true) (chk code : Nat) (a b : W64) : (k.trap chk code a b).run = .halted := by
  simp [Core.trap, Core.stop, h]

/-! ## Firmware images (R392, R406, R407) -/

/-- An image whose signature's r is 0 does not verify, whatever the keys. -/
theorem State.imageOk_unsigned {s : State} {a : Nat} (h : s.peekNat (a + (Config.imageBytes - 96)) 48 = 0) : s.imageOk a = false := by
  simp [State.imageOk, State.imageAt, h, ecdsaVerify]

/-- The recovery image takes the place of the one in flash when that does not verify and it does; else nothing changes. -/
theorem State.recoverImage_cases (s : State) : s.recoverImage = s ∨
    (s.imageOk Config.flashAt = false ∧ s.imageOk Config.recoveryAt = true ∧
      s.recoverImage = s.pokes Config.flashAt (s.peeks Config.recoveryAt Config.imageBytes)) := by
  unfold State.recoverImage
  split
  · rename_i h
    simp only [Bool.and_eq_true, Bool.not_eq_true'] at h
    exact .inr ⟨h.1, h.2, rfl⟩
  · exact .inl rfl

end Sys2Proof.Machine
end

