-- ==== Sys2Proof/Laws/PerInstr.lean ====
section
/-! SUPPORT. The statement made for every instruction: it is of exactly one kind, a syllable, a command, a Pip word or an event,
and the encoder gives a word to the first three alone. -/

namespace Sys2Proof.Laws.Kind

/-- The instruction is of exactly one of the four kinds. -/
def Statement (i : Instr) : Prop := b01 i.syl.isSome + b01 i.cmd.isSome + b01 i.pip.isSome + b01 i.isEvent = 1

theorem add x y z u : Statement (.add x y z u) := rfl
theorem sub x y z u : Statement (.sub x y z u) := rfl
theorem mul x y z u : Statement (.mul x y z u) := rfl
theorem mulh x y z u : Statement (.mulh x y z u) := rfl
theorem mulhn x y z u : Statement (.mulhn x y z u) := rfl
theorem div x y z u : Statement (.div x y z u) := rfl
theorem divn x y z u : Statement (.divn x y z u) := rfl
theorem rem x y z u : Statement (.rem x y z u) := rfl
theorem remn x y z u : Statement (.remn x y z u) := rfl
theorem and x y z u : Statement (.and x y z u) := rfl
theorem or x y z u : Statement (.or x y z u) := rfl
theorem xor x y z u : Statement (.xor x y z u) := rfl
theorem andn x y z u : Statement (.andn x y z u) := rfl
theorem shl x y z u : Statement (.shl x y z u) := rfl
theorem shr x y z u : Statement (.shr x y z u) := rfl
theorem sra x y z u : Statement (.sra x y z u) := rfl
theorem rot x y z u : Statement (.rot x y z u) := rfl
theorem clz x y z : Statement (.clz x y z) := rfl
theorem popc x y z : Statement (.popc x y z) := rfl
theorem min x y z u : Statement (.min x y z u) := rfl
theorem max x y z u : Statement (.max x y z u) := rfl
theorem minn x y z u : Statement (.minn x y z u) := rfl
theorem maxn x y z u : Statement (.maxn x y z u) := rfl
theorem sext x y z u : Statement (.sext x y z u) := rfl
theorem zext x y z u : Statement (.zext x y z u) := rfl
theorem cmp x y z u v : Statement (.cmp x y z u v) := rfl
theorem pop x y z u v w a : Statement (.pop x y z u v w a) := rfl
theorem pmovFrom x y : Statement (.pmovFrom x y) := rfl
theorem pmovTo x y : Statement (.pmovTo x y) := rfl
theorem agen x y z u : Statement (.agen x y z u) := rfl
theorem agset x y z u : Statement (.agset x y z u) := rfl
theorem lea x y z u v : Statement (.lea x y z u v) := rfl
theorem sel x y z u v : Statement (.sel x y z u v) := rfl
theorem addi x y z u : Statement (.addi x y z u) := rfl
theorem cmpi x y z u v : Statement (.cmpi x y z u v) := rfl
theorem bfx x y z u v : Statement (.bfx x y z u v) := rfl
theorem bfi x y z u v : Statement (.bfi x y z u v) := rfl
theorem movi x y z : Statement (.movi x y z) := rfl
theorem movhi x y z : Statement (.movhi x y z) := rfl
theorem ld x y z u v w a : Statement (.ld x y z u v w a) := rfl
theorem st x y z u v : Statement (.st x y z u v) := rfl
theorem ldacq x y z u v w a b : Statement (.ldacq x y z u v w a b) := rfl
theorem strel x y z u v w a : Statement (.strel x y z u v w a) := rfl
theorem amo x y z u v w a b : Statement (.amo x y z u v w a b) := rfl
theorem cas x y z u v w a : Statement (.cas x y z u v w a) := rfl
theorem cas16 x y z u v w : Statement (.cas16 x y z u v w) := rfl
theorem pref x y z : Statement (.pref x y z) := rfl
theorem br x y : Statement (.br x y) := rfl
theorem brc x y z u : Statement (.brc x y z u) := rfl
theorem bri x y : Statement (.bri x y) := rfl
theorem call x y : Statement (.call x y) := rfl
theorem calli x y : Statement (.calli x y) := rfl
theorem ret x y : Statement (.ret x y) := rfl
theorem loop x y z : Statement (.loop x y z) := by cases y <;> rfl
theorem loopx x y z : Statement (.loopx x y z) := rfl
theorem brk x : Statement (.brk x) := rfl
theorem bsel x y : Statement (.bsel x y) := rfl
theorem pause x y : Statement (.pause x y) := by cases y <;> rfl
theorem exit x : Statement (.exit x) := rfl
theorem nop x y z u : Statement (.nop x y z u) := rfl
theorem vadd x y z u v w a : Statement (.vadd x y z u v w a) := rfl
theorem vsub x y z u v w a : Statement (.vsub x y z u v w a) := rfl
theorem vmul x y z u v w a : Statement (.vmul x y z u v w a) := rfl
theorem vfma x y z u v w a : Statement (.vfma x y z u v w a) := rfl
theorem vfms x y z u v w a : Statement (.vfms x y z u v w a) := rfl
theorem vmin x y z u v w a : Statement (.vmin x y z u v w a) := rfl
theorem vmax x y z u v w a : Statement (.vmax x y z u v w a) := rfl
theorem vabs x y z u v w : Statement (.vabs x y z u v w) := rfl
theorem vneg x y z u v w : Statement (.vneg x y z u v w) := rfl
theorem vand x y z u v w a : Statement (.vand x y z u v w a) := rfl
theorem vor x y z u v w a : Statement (.vor x y z u v w a) := rfl
theorem vxor x y z u v w a : Statement (.vxor x y z u v w a) := rfl
theorem vshl x y z u v w a : Statement (.vshl x y z u v w a) := rfl
theorem vshr x y z u v w a : Statement (.vshr x y z u v w a) := rfl
theorem vsra x y z u v w a : Statement (.vsra x y z u v w a) := rfl
theorem vrot x y z u v w a : Statement (.vrot x y z u v w a) := rfl
theorem vcmp x y z u v w a b : Statement (.vcmp x y z u v w a b) := rfl
theorem vsel x y z u v w : Statement (.vsel x y z u v w) := rfl
theorem vmac16 x y z u v w a : Statement (.vmac16 x y z u v w a) := rfl
theorem vdot4 x y z u v w a : Statement (.vdot4 x y z u v w a) := rfl
theorem vsadd x y z u v w a : Statement (.vsadd x y z u v w a) := rfl
theorem vssub x y z u v w a : Statement (.vssub x y z u v w a) := rfl
theorem vred x y z u v w a : Statement (.vred x y z u v w a) := rfl
theorem vperm x y z u v w a : Statement (.vperm x y z u v w a) := rfl
theorem vbcst x y z u v w : Statement (.vbcst x y z u v w) := rfl
theorem vins x y z u v w a : Statement (.vins x y z u v w a) := rfl
theorem vext x y z u v w a : Statement (.vext x y z u v w a) := rfl
theorem vmov x y z u v : Statement (.vmov x y z u v) := rfl
theorem vcvt x y z u v w a : Statement (.vcvt x y z u v w a) := rfl
theorem vpack x y z u v w a : Statement (.vpack x y z u v w a) := rfl
theorem vunpk x y z u v w a : Statement (.vunpk x y z u v w a) := rfl
theorem vmaxe x y z u v w a : Statement (.vmaxe x y z u v w a) := rfl
theorem vcvtq x y z u v w a : Statement (.vcvtq x y z u v w a) := rfl
theorem vexp2 x y z u v w : Statement (.vexp2 x y z u v w) := rfl
theorem vlog2 x y z u v w : Statement (.vlog2 x y z u v w) := rfl
theorem vrcp x y z u v w : Statement (.vrcp x y z u v w) := rfl
theorem vrsq x y z u v w : Statement (.vrsq x y z u v w) := rfl
theorem vtanh x y z u v w : Statement (.vtanh x y z u v w) := rfl
theorem vrpb x y z u v w a : Statement (.vrpb x y z u v w a) := rfl
theorem vld x y z u v w : Statement (.vld x y z u v w) := rfl
theorem vst x y z u v w a : Statement (.vst x y z u v w a) := rfl
theorem vlds x y z u v w a : Statement (.vlds x y z u v w a) := rfl
theorem vsts x y z u v w : Statement (.vsts x y z u v w) := rfl
theorem vmsk x y z u v w : Statement (.vmsk x y z u v w) := rfl
theorem tcfg x y z u v : Statement (.tcfg x y z u v) := rfl
theorem tcfgOff x y : Statement (.tcfgOff x y) := rfl
theorem tzero x y z u : Statement (.tzero x y z u) := rfl
theorem trowmv x y z u v : Statement (.trowmv x y z u v) := rfl
theorem trowrd x y z u v : Statement (.trowrd x y z u v) := rfl
theorem tcolrd x y z u v : Statement (.tcolrd x y z u v) := rfl
theorem mma x y z u v w a b : Statement (.mma x y z u v w a b) := rfl
theorem mmap x y z u v w a b : Statement (.mmap x y z u v w a b) := rfl
theorem mlatch x y z u : Statement (.mlatch x y z u) := rfl
theorem mscl x y z : Statement (.mscl x y z) := rfl
theorem mdrain x y z u v : Statement (.mdrain x y z u v) := rfl
theorem mcall x y : Statement (.mcall x y) := rfl
theorem mpset x y z : Statement (.mpset x y z) := rfl
theorem ringcfg x y z u : Statement (.ringcfg x y z u) := rfl
theorem ringpop x y z u : Statement (.ringpop x y z u) := rfl
theorem ringpush x y z u : Statement (.ringpush x y z u) := rfl
theorem mpload x y z u : Statement (.mpload x y z u) := rfl
theorem copy x y z u v w a : Statement (.copy x y z u v w a) := rfl
theorem copyc x y z u v w a : Statement (.copyc x y z u v w a) := rfl
theorem kld x y z u v w a : Statement (.kld x y z u v w a) := rfl
theorem kst x y z u v w a : Statement (.kst x y z u v w a) := rfl
theorem kapp x y z u v w a : Statement (.kapp x y z u v w a) := rfl
theorem kalloc x y z u v w a : Statement (.kalloc x y z u v w a) := rfl
theorem kfree x y z u v w a : Statement (.kfree x y z u v w a) := rfl
theorem kcommit x y z u v w a : Statement (.kcommit x y z u v w a) := rfl
theorem kdedup x y z u v w a : Statement (.kdedup x y z u v w a) := rfl
theorem kfork x y z u v w a : Statement (.kfork x y z u v w a) := rfl
theorem kwin x y z u v w a : Statement (.kwin x y z u v w a) := rfl
theorem kpin x y z u v w a : Statement (.kpin x y z u v w a) := rfl
theorem sbind x y z u v : Statement (.sbind x y z u v) := rfl
theorem sfree x y : Statement (.sfree x y) := rfl
theorem ixq x y z : Statement (.ixq x y z) := rfl
theorem qput x y z : Statement (.qput x y z) := rfl
theorem qget x y z : Statement (.qget x y z) := rfl
theorem crwait x y z u : Statement (.crwait x y z u) := rfl
theorem fenceAcq x y z : Statement (.fenceAcq x y z) := rfl
theorem fenceRel x y z : Statement (.fenceRel x y z) := rfl
theorem fenceAr x y z : Statement (.fenceAr x y z) := rfl
theorem drain x y z : Statement (.drain x y z) := rfl
theorem bara x y : Statement (.bara x y) := rfl
theorem barw x y : Statement (.barw x y) := rfl
theorem barwA x y : Statement (.barwA x y) := rfl
theorem barset x y z u : Statement (.barset x y z u) := rfl
theorem stepjoin x y : Statement (.stepjoin x y) := rfl
theorem step x y : Statement (.step x y) := rfl
theorem stepleave x y : Statement (.stepleave x y) := rfl
theorem logit x y z u : Statement (.logit x y z u) := rfl
theorem seqbind x y : Statement (.seqbind x y) := rfl
theorem verify x y z u : Statement (.verify x y z u) := rfl
theorem tmove x y z u : Statement (.tmove x y z u) := rfl
theorem mbox x y z u : Statement (.mbox x y z u) := rfl
theorem syscall x y : Statement (.syscall x y) := rfl
theorem eret x : Statement (.eret x) := rfl
theorem mfsr x y z : Statement (.mfsr x y z) := rfl
theorem mtsr x y z : Statement (.mtsr x y z) := rfl
theorem csave x y : Statement (.csave x y) := rfl
theorem crest x y : Statement (.crest x y) := rfl
theorem tsave x y : Statement (.tsave x y) := rfl
theorem tsaveOut x y : Statement (.tsaveOut x y) := rfl
theorem tlbinvPage x y z : Statement (.tlbinvPage x y z) := rfl
theorem tlbinvTen x y z : Statement (.tlbinvTen x y z) := rfl
theorem tlbinvAll x y : Statement (.tlbinvAll x y) := rfl
theorem wfi x : Statement (.wfi x) := rfl
theorem halt x : Statement (.halt x) := rfl
theorem chunkToken x y z : Statement (.chunkToken x y z) := rfl
theorem sesameEgressRecord x y z : Statement (.sesameEgressRecord x y z) := rfl
theorem cmov x y : Statement (.cmov x y) := rfl
theorem cmovi x y : Statement (.cmovi x y) := rfl
theorem cmoviExt x y : Statement (.cmoviExt x y) := rfl
theorem cadd x y z : Statement (.cadd x y z) := rfl
theorem caddImm x y z : Statement (.caddImm x y z) := rfl
theorem csub x y z : Statement (.csub x y z) := rfl
theorem csubImm x y z : Statement (.csubImm x y z) := rfl
theorem cand x y z : Statement (.cand x y z) := rfl
theorem candImm x y z : Statement (.candImm x y z) := rfl
theorem cor x y z : Statement (.cor x y z) := rfl
theorem corImm x y z : Statement (.corImm x y z) := rfl
theorem ccmp x y z u : Statement (.ccmp x y z u) := rfl
theorem ccmpImm x y z u : Statement (.ccmpImm x y z u) := rfl
theorem cbr x y z : Statement (.cbr x y z) := rfl
theorem cloop x y : Statement (.cloop x y) := rfl
theorem ccall x : Statement (.ccall x) := rfl
theorem ccallIndirect x : Statement (.ccallIndirect x) := rfl
theorem cld x y z : Statement (.cld x y z) := rfl
theorem cldR x y z : Statement (.cldR x y z) := rfl
theorem cst x y z : Statement (.cst x y z) := rfl
theorem cstR x y z : Statement (.cstR x y z) := rfl
theorem cwait x y z : Statement (.cwait x y z) := rfl
theorem csigSet x y : Statement (.csigSet x y) := rfl
theorem csigAdd x y : Statement (.csigAdd x y) := rfl
theorem claunch x y z : Statement (.claunch x y z) := rfl
theorem cseg x : Statement (.cseg x) := rfl
theorem ccopy x y : Statement (.ccopy x y) := rfl
theorem ccopyC x y : Statement (.ccopyC x y) := rfl
theorem ctime x : Statement (.ctime x) := rfl
theorem crungRd x y : Statement (.crungRd x y) := rfl
theorem crungSet x y : Statement (.crungSet x y) := rfl
theorem cint x : Statement (.cint x) := rfl
theorem cqwpDoorbell x y z : Statement (.cqwpDoorbell x y z) := rfl
theorem cqctlWrite x y z : Statement (.cqctlWrite x y z) := rfl
theorem svcbWrite x y : Statement (.svcbWrite x y) := rfl
theorem tpartWrite x y z : Statement (.tpartWrite x y z) := rfl
theorem kvalidWrite x y : Statement (.kvalidWrite x y) := rfl
theorem deviceReset x : Statement (.deviceReset x) := rfl
theorem checkpoint x : Statement (.checkpoint x) := rfl
theorem restore x : Statement (.restore x) := rfl
theorem attestationReport x y : Statement (.attestationReport x y) := rfl
theorem registerWrite x y z : Statement (.registerWrite x y z) := rfl
theorem powerOnReset x : Statement (.powerOnReset x) := rfl
theorem functionLevelReset x : Statement (.functionLevelReset x) := rfl
theorem thermalTrip x : Statement (.thermalTrip x) := rfl
theorem thermalTripExit x : Statement (.thermalTripExit x) := rfl
theorem thermalShutdown x : Statement (.thermalShutdown x) := rfl
theorem operatingPointChange x y z u : Statement (.operatingPointChange x y z u) := rfl
theorem hostBar2Access x y z u : Statement (.hostBar2Access x y z u) := rfl
theorem pld x : Statement (.pld x) := rfl
theorem pldIdx x : Statement (.pldIdx x) := rfl
theorem pcnt x : Statement (.pcnt x) := rfl
theorem pbias x : Statement (.pbias x) := rfl
theorem padd x y z u : Statement (.padd x y z u) := rfl
theorem psub x y z u : Statement (.psub x y z u) := rfl
theorem pmul x y z u : Statement (.pmul x y z u) := rfl
theorem pmax x y z u : Statement (.pmax x y z u) := rfl
theorem pmin x y z u : Statement (.pmin x y z u) := rfl
theorem pexp x y : Statement (.pexp x y) := rfl
theorem plog x y : Statement (.plog x y) := rfl
theorem ppen x y z u : Statement (.ppen x y z u) := rfl
theorem pfreq x y z u v : Statement (.pfreq x y z u v) := rfl
theorem pmask x y : Statement (.pmask x y) := rfl
theorem pclamp x y z u : Statement (.pclamp x y z u) := rfl
theorem psel x y z u : Statement (.psel x y z u) := rfl
theorem pimm x y : Statement (.pimm x y) := rfl
theorem pcmp x y z u v : Statement (.pcmp x y z u v) := rfl
theorem pskip x : Statement (.pskip x) := rfl
theorem pskipNz x y : Statement (.pskipNz x y) := rfl
theorem pskipZ x y : Statement (.pskipZ x y) := rfl
theorem pskipNone x y : Statement (.pskipNone x y) := rfl
theorem pend x : Statement (.pend x) := rfl
theorem pauseHoldEnds : Statement .pauseHoldEnds := rfl
theorem pairIssue : Statement .pairIssue := rfl
theorem pairAbort : Statement .pairAbort := rfl
theorem microStepFeed : Statement .microStepFeed := rfl
theorem matrixCommandStart : Statement .matrixCommandStart := rfl
theorem copyCompletion : Statement .copyCompletion := rfl
theorem kldRow : Statement .kldRow := rfl
theorem streamEntryFetch : Statement .streamEntryFetch := rfl
theorem streamEntryDrain : Statement .streamEntryDrain := rfl
theorem tokenLands : Statement .tokenLands := rfl
theorem resultLands : Statement .resultLands := rfl
theorem loadDataArrives : Statement .loadDataArrives := rfl
theorem responseTimeout : Statement .responseTimeout := rfl
theorem lateErrorResponse : Statement .lateErrorResponse := rfl
theorem preemptionRequest : Statement .preemptionRequest := rfl
theorem supervisorEntry : Statement .supervisorEntry := rfl
theorem resumeRequest : Statement .resumeRequest := rfl
theorem overlayMiss : Statement .overlayMiss := rfl
theorem overlayLineLands : Statement .overlayLineLands := rfl
theorem pageWalk : Statement .pageWalk := rfl
theorem taskStart : Statement .taskStart := rfl
theorem dispatchDecision : Statement .dispatchDecision := rfl
theorem preemptionCompletes : Statement .preemptionCompletes := rfl
theorem watchdogWd1 : Statement .watchdogWd1 := rfl
theorem watchdogWd2 : Statement .watchdogWd2 := rfl
theorem logitChunkTaken : Statement .logitChunkTaken := rfl
theorem draftTreeTaken : Statement .draftTreeTaken := rfl
theorem mailboxPost : Statement .mailboxPost := rfl
theorem decoderTake : Statement .decoderTake := rfl
theorem decodeComplete : Statement .decodeComplete := rfl
theorem encoderTake : Statement .encoderTake := rfl
theorem encodeComplete : Statement .encodeComplete := rfl
theorem submissionTake : Statement .submissionTake := rfl
theorem cret : Statement .cret := rfl
theorem cfenceCopy : Statement .cfenceCopy := rfl
theorem cfenceLaunch : Statement .cfenceLaunch := rfl
theorem cfenceAll : Statement .cfenceAll := rfl
theorem chalt : Statement .chalt := rfl
theorem resume : Statement .resume := rfl
theorem abandon : Statement .abandon := rfl
theorem hazelMismatch : Statement .hazelMismatch := rfl
theorem hazelRecoveryEnd : Statement .hazelRecoveryEnd := rfl
theorem slotBoundary : Statement .slotBoundary := rfl
theorem pnop : Statement .pnop := rfl
theorem writePerforms : Statement .writePerforms := rfl
theorem checkpointDone : Statement .checkpointDone := rfl
theorem linkDrops : Statement .linkDrops := rfl
theorem linkUp : Statement .linkUp := rfl

end Sys2Proof.Laws.Kind
end

