-- ==== Sys2Proof/Tests/Slice0.lean ====
section
/-! SUPPORT. Tests of the model against words and values worked out from the spec, and for every statement a witness: a concrete
state and operands that meet its hypotheses together. -/
namespace Sys2Proof.Tests
set_option Elab.async false
open Sys2Proof Sys2Proof.Machine Sys2Proof.Claims

/-- No guard, IX 0. -/
def x0 : Lent := { guard := none, ix := 0 }
/-- The guard !p3, which is true where p3 is 0. -/
def xg : Lent := { guard := some { neg := true, p := 3 }, ix := 1 }
/-- The same guard with IX 0. -/
def xh : Lent := { guard := some { neg := true, p := 3 }, ix := 0 }
/-- The guard p3. -/
def xf : Lent := { guard := some { neg := false, p := 3 }, ix := 1 }
/-- The destination s4. -/
def d4 : SDst := { n := false, r := 4 }
/-- The destination that reaches the latch alone. -/
def dn : SDst := { n := true, r := 4 }

/-- Accesses of task 1. -/
def of1 : Owner := { sv := false, task := some 1 }

/-- A device that is ready, with cluster 0 in tenant 0's partition. -/
def dev0 : State :=
  { State.reset with
    part := State.reset.part.set 0 0x10001
    dev :=
      { Reset.dev with
        board := { Reset.board with bootstat := 8, links := .replicate 8 true, slotmap := .replicate 7 0, used := .replicate 7 0xFFFF }
        tenants := Reset.dev.tenants.set 0 { Reset.tenant with images := [{ id := 0, segs := [(0x10000, 0x1000)], micro := 0 }] } } }

/-- A segment of image 0 that is wholly resident. -/
def half0 : Half := { image := 0, seg := 0, addr := 0x10000, len := 0x1000, have_ := BitVec.allOnes 2048, bad := 0 }

/-- Core 0 at user level, in a bundle at 0x1_0000, with sN = N and no latch stale. -/
def usr : State := dev0.modMe fun k =>
  { k with
    run := .running
    task := some 1
    sv := { k.sv with priv := false }
    imem := { k.imem with halves := k.imem.halves.set 0 (some half0) }
    latch := .replicate 4 { val := 5, stale := false }
    ctx := { k.ctx with pc := 0x10000, s := .ofFn fun i => BitVec.ofNat 64 i.val }
    bun := { k.bun with base := 0x10000, next := 0x10004, addr := 0x10000, lat := some 0, ord := 8 } }

/-- The same with one register changed. -/
def withS (s : State) (r : BitVec 6) (w : W64) : State := s.modMe fun k => k.setS r k.priv w

/-- Bytes of memory changed. -/
def withMem (s : State) (a : Nat) (bs : List Byte) : State := (s.pokes a bs).flush

/-- An address of the local store in s5, with sixteen bytes there. -/
def lsw : State := withMem (withS usr 5 (w64 (Config.lsBase + 0xFF0))) (lsAddr 0 0xFF0) ((List.range 40).map fun i => BitVec.ofNat 8 (0x80 + i))

/-- Core 0 with values in its vector and mask registers. -/
def vec : State := lsw.modMe fun k => k.modCtx fun c =>
  { c with
    v := .ofFn fun i => BitVec.ofNat 1024 (0x3F80C0A03E4001FF7FC0FF80100081F04049BC3A12345678 ^ (i.val + 1) * (i.val + 1))
    m := .ofFn fun i => BitVec.ofNat 128 (0x5A3C0F0F9669A55A1234FEDC00FF7E81 * (i.val + 1)) }

/-- A stream pattern of one dimension: `n` entries of 128 bytes, 128 bytes apart. -/
def pat (base n : Nat) : BitVec 512 := BitVec.ofNat 512 (base + 2 * 2 ^ 64 + n * 2 ^ 128 + 128 * 2 ^ 256)

/-- Two entries of a read stream. -/
def fifo2 : List FifoEnt := [{ idx := 0, val := 0x1234, fault := none }, { idx := 1, val := 0x5678, fault := none }]

/-- Slot 2 reads into v25, slot 3 writes from v26. -/
def stm : State := vec.modMe fun k => k.modCtx fun c =>
  { c with
    streams := (c.streams.set 2
      { Reset.stream with bound := true, vr := 1, pat := pat (Config.lsBase + 0x1000) 8, next := 2, fifo := fifo2 }).set 3
      { Reset.stream with bound := true, dir := true, vr := 2, pat := pat (Config.lsBase + 0x8000) 8 } }

/-- Core 0 owns its tile file; tile 2 is FP32 and tile 3 i32, latch 1 holds BF16, latch 2 INT8, ring 0 has four rows, s12 to s16 hold
operands of a pass, an `mlatch`, an `mdrain`, a `ringcfg` and an `mpload`. -/
def mtx : State := (withS (withS (withS (withS (withS vec 12 0x7F7F7F7F00400300) 13 0x0000002000000000) 14 0x0000004000000300) 15 0x800) 16 0x40).modMe
  fun k =>
    { k with
      sv := { k.sv with town := 0x100000005, ctxid := 5 }
      ctx := { k.ctx with rings := k.ctx.rings.set 0 (w64 (4 * 2 ^ 32 + 0x4000 * 2 ^ 44 + 3 * 2 ^ 12)) }
      mat := { k.mat with
                        tcfg := (k.mat.tcfg.set 2 (tileShape 127 127 false)).set 3 (tileShape 63 63 true)
                        tag := (k.mat.tag.set 1 (some 0)).set 2 (some 4)
                        shTcfg := (k.mat.tcfg.set 2 (tileShape 127 127 false)).set 3 (tileShape 63 63 true) } }

/-- A step `mpset`-fed routine: routine 1 starts at step 0, which zeroes a tile row. -/
def rtn : State := withMem mtx (microAddr 0 (2 ^ 13 + 8)) [0, 0, 0, 0, 0, 0, 0, 0x80]

/-- A copy descriptor of one dimension: source, destination, count of bytes, done ring. -/
def descr (src dst n dnr : Nat) : List Byte :=
  toLe 8 src ++ toLe 8 dst ++ toLe 8 (dnr * 256 + 0x77 * 2 ^ 32) ++ toLe 16 (n - 1) ++ zeros 88

/-- Core 0 with a copy descriptor at offset 0x200 of its local store, a sequence, and registers changed. -/
def eng (a b : W64) : State :=
  (withMem (withS (withS mtx 5 a) 6 b) (lsAddr 0 0x200)
    (descr (Config.lsBase + 0xFF0) (Config.lsBase + 0x2000) 16 3)).modMe fun k =>
      k.modCtx fun c => { c with kvslot := 0x13005 }

/-- Core 0 with page tables of tenant 0 that map the first 32 MiB of its space to the near tier at 32 MiB, and an arena of four pages
whose descriptor lies at 0x80000, with pages 1 and 2 in slot 0. -/
def pgd : State :=
  let at_ (n : Nat) : Nat := 0x2000000 + n
  let s := (eng 0 0x0000008000000001).modTenant 0 fun t =>
    { t with troot := 0x200001, kvdt := 0x80000, kvalid := 1, winLo := t.winLo.set 0 4, winHi := t.winHi.set 0 0x10000000 }
  let s := withMem s 0x200000 (toLe 8 0x201001)
  let s := withMem s 0x201000 (toLe 8 0x202001)
  let s := withMem s 0x202000 (toLe 8 0x200009E)
  let s := withMem s (at_ 0x80000) ((toLe 8 (1 + 2 * 2 ^ 16 + 64 * 2 ^ 32)) ++ toLe 8 128 ++ toLe 8 0x90000 ++ toLe 8 0x91000 ++
    toLe 8 0xA0000 ++ toLe 8 0x92000 ++ toLe 8 4 ++ toLe 8 0x93000 ++ toLe 8 0x94000 ++ toLe 8 1 ++ toLe 8 3)
  let s := withMem s (at_ 0x90000) (toLe 4 0x1000001 ++ toLe 4 0x1000002)
  let s := withMem s (at_ 0x92000) (toLe 8 1 ++ toLe 8 0 ++ toLe 8 1 ++ toLe 8 0 ++ toLe 8 1)
  withMem s (at_ 0xA1000) [0x11, 0x22, 0x33, 0x44]

/-- Task 1 of cohort 7, on core 0. -/
def tk1 : Task :=
  { id := 1, cohort := 7, rank := 0, wid := 0, where_ := .on 0, ctxid := 5, area := none, place := some 0, pairs := 0 }

/-- Cohort 7 with its two tasks, of which the second runs on core 8. -/
def coh (s : State) : State := s.upd fun d =>
  { d with
    cohorts := [{ id := 7, launch := 3, order := 0, size := 2, frame := 0, state := .resident, admitted := true, asked := false,
                  frameDone := none }]
    tasks := [tk1, { tk1 with id := 2, rank := 1, where_ := .on 8, place := some 8 }] }

/-- The state after an instruction, the reset state if it stops. -/
def after (i : Instr) (s : State) : State := match exec i s with
  | .next t => t
  | _ => State.reset

/-- The cursor's number changed. -/
def nAt (n : Nat) (s : State) : State := s.upd fun d => { d with cur := { d.cur with n := n } }

/-- Core 0 at supervisor level. -/
def sup : State := usr.modMe fun k => { k with sv := { k.sv with priv := true } }

/-- A result in flight. -/
def oneFlight : Flight := usr.due 2 (.s 9 false) true 9

/-- Latch 0 stale. -/
def stl : State := usr.modMe fun k => { k with latch := k.latch.set 0 { val := 5, stale := true } }

/-- s5 awaits the token of operation 9. -/
def pnd : State := usr.modMe fun k => k.modCtx fun c =>
  { c with toks := [{ op := 9, slot := 0, reg := 5, bank := false, pend := true, value := 0 }] }

/-- Sixty-four results in flight. -/
def f64 : State := usr.modMe fun k => { k with flights := List.replicate 64 oneFlight }

/-- s5 addresses vault memory, s7 a hole, s8 the local store. -/
def vlt : State := withS (withS (withS usr 5 (w64 (Config.vaultBase + 64))) 7 0xFFF0000000000000) 8 (w64 (Config.lsBase + 0x400))

/-- s5 addresses paged memory. -/
def pag : State := withS pgd 5 0x80000

/-- A loop level that ends at 0x1_0020. -/
def lvl (n : Nat) : LoopLevel := { start := 0x10008, stop := 0x10020, trip := 3, idx := n }

/-- Core 0 with two loop levels active; a bundle ends at 0x1_0024. -/
def lps : State := (withMem usr (imemAddr 0 0 0x24) [0, 0, 0, 0x80]).modMe fun k => k.modCtx fun c => { c with loops := [lvl 0, lvl 2] }

/-- A level that ends at 0x1_0024. -/
def lvb : LoopLevel := { start := 0x10008, stop := 0x10024, trip := 3, idx := 1 }
/-- The same as `lps` with that level innermost. -/
def lpb : State := lps.modMe fun k => k.modCtx fun c => { c with loops := [lvl 0, lvb] }

/-- Six loop levels active. -/
def six : State := usr.modMe fun k => k.modCtx fun c => { c with loops := List.replicate 6 (lvl 0) }

/-- Core 0 at the end bundle of its loops. -/
def endb : Core := { lps.me with bun := { lps.me.bun with base := 0x10020 } }

/-- A pause of which five clocks are left. -/
def pau : State := usr.modMe fun k =>
  { k with waiting := { k.waiting with pause := some 5 }, bun := { k.bun with hold := some .pause } }

/-- The same when none is left. -/
def pau0 : State := pau.modMe fun k => { k with waiting := { k.waiting with pause := some 0 } }

/-- Image 0 has a second segment. -/
def seg2 : State := usr.modTenant 0 fun x => { x with images := [{ id := 0, segs := [(0x10000, 0x1000), (0x20000, 0x100)], micro := 0 }] }

/-- A table of relative position biases at offset 0x400, and its parameters in v9. -/
def rpb : State := (withMem vec (lsAddr 0 0x400) [0, 0, 0x80, 0x3F, 0, 0, 0, 0x40]).modMe fun k => k.modCtx fun c =>
  { c with v := c.v.set 9 (BitVec.ofNat 1024 (1000 + 900 * 2 ^ 32 + 0x412 * 2 ^ 64)) }

/-- Slot 2 of `stm`, slot 3 of `stm`. -/
def slot2 : StreamSlot := stm.me.ctx.streams.get 2
/-- Slot 3 of `stm`, a write stream. -/
def slot3 : StreamSlot := stm.me.ctx.streams.get 3

/-- A tile file that another context owns. -/
def own0 : State := rtn.modMe fun k => { k with sv := { k.sv with town := 0 } }

/-- A command of a matrix syllable. -/
def cm (i : Instr) : MCmd := { instr := i, a := 0, b := 0, v := 0, issue := 0, micro := false, peer := none }

/-- A full queue of matrix commands. -/
def ful : State := rtn.modMe fun k => k.modMat fun m => { m with queue := List.replicate 8 (cm (.tcfgOff x0 1)) }

/-- No tile configured. -/
def unc : State := rtn.modMe fun k => k.modMat fun m => { m with tcfg := .replicate 8 0 }

/-- An `mmap` of tile 2. -/
def mm : Instr := .mmap x0 2 1 0 0 0 12 false
/-- Its half. -/
def half : Posted := { cmd := { cm mm with a := 0x7F7F7F7F00400300 }, waited := 0, lost := false }
/-- Core 0 has posted its half. -/
def pst : State := rtn.modMe fun k => k.modMat fun m => { m with posted := some half }
/-- What the partner sends. -/
def per : Peer := { core := 8, instr := mm, a := 0x7F7F7F7F00400300, ring := 0, latch := [] }
/-- The pair has issued. -/
def iss : State := pst.modMe fun k => k.modMat fun m => { m with pairEnd := some (.issue per) }
/-- The pair has aborted. -/
def abt : State := pst.modMe fun k => k.modMat fun m => { m with pairEnd := some .abort }
/-- Cores 0 and 8 have posted halves of one cohort; `f` changes the second half's command. -/
def two (f : MCmd → MCmd) : State := (coh pst).modCore 8 fun _ =>
  { pst.me with task := some 2, mat := { pst.me.mat with posted := some { half with cmd := f half.cmd } } }
/-- Halves that disagree. -/
def twoB : State := two fun m => { m with instr := .mmap x0 2 1 0 1 0 12 false }
/-- Halves that agree. -/
def twoA : State := two id
/-- The second core's half. -/
def halfB : Posted := { half with cmd := { half.cmd with instr := .mmap x0 2 1 0 1 0 12 false } }
/-- The partner's half has not come in 4,096 clocks. -/
def lat : State := (twoA.modCore 8 fun k => k.modMat fun m => { m with posted := none }).modMe fun k =>
  k.modMat fun m => { m with posted := some { half with waited := 4096 } }

/-- A matrix command that may start, with another behind it. -/
def mst : State := rtn.modMe fun k =>
  { k with
    clk := { k.clk with unf := 3 }
    mat := { k.mat with queue := [cm (.tzero x0 2 5 1), cm (.tcfgOff x0 1)] } }

/-- A routine runs at step 2, whose word is `tzero` of rows 5 and 6 of tile 2. -/
def mcr : State := (withMem rtn (microAddr 0 16) (toLe 8 ((Instr.tzero x0 2 5 1).syl.getD 0))).modMe fun k =>
  { k with ctx := { k.ctx with mp := k.ctx.mp.set 7 0x8000000200000000 } }
/-- The same of tile 4, which is not configured. -/
def mcb : State := withMem mcr (microAddr 0 16) (toLe 8 ((Instr.tzero x0 4 5 1).syl.getD 0))

/-- Registers for a `copy`, and for a descriptor that is not aligned. -/
def cp0 : State := coh (withS pgd 5 0x200)
/-- A copy has been issued. -/
def cp1 : State := after (.copy x0 4 5 false false false 0) cp0
/-- Its operation. -/
def cpo : EngOp := cp1.dev.eng.headD (cp0.newEng .copy 0 0)

/-- A list of two requests at offset 0x300, good and bad. -/
def lst (b : Byte) : State := withMem (withS (withS pgd 5 0x300) 6 2) (lsAddr 0 0x300) [1, 0, 2, 0, 0, 0, 0, 0, 5, b, 3, 0, 0, 0, 0, 0]

/-- A pattern at offset 0x400, s5 and s6 there and between. -/
def pat0 : State := withS (withMem (withS stm 5 0x400) (lsAddr 0 0x400) (toLe 64 (pat (Config.lsBase + 0x1000) 8).toNat)) 6 0x408

/-- Slot 2 gathers. -/
def gth : State := stm.modMe fun k => k.modStream 2 fun st => { st with pat := st.pat ||| (0x10 <<< 64), gq := [4, 5] }
/-- The cursor names slot 2, whose pattern begins at `base`. -/
def fch (base : Nat) : State := nAt 2 (stm.modMe fun k => k.modStream 2 fun st => { st with pat := pat base 8 })

/-- An entry of slot 3 that has landed. -/
def ent (va : Nat) : WEnt := { slot := 3, place := 0, seq := 0, va := va, len := 128, val := some 0x123456, own := of1 }
/-- The cursor names slot 3 with that entry. -/
def drn (va : Nat) : State := nAt 3 (stm.modMe fun k => { k with wents := [ent va] })

/-- Queue 9, of tenant 0 and depth 4, holds `n` tokens; s5 holds a token. -/
def hqs (n : Nat) : State := (withS usr 5 0x100003200000007).modHq 9 fun _ =>
  { owner := some 0, dw0 := 1 + 4 * 256, dw1 := 0x101, toks := (List.range n).map fun i => BitVec.ofNat 64 (i + 50), resv := 0
    getters := [], putters := [] }

/-- Done ring 3 is tenant 0's, with eight records written. -/
def ring3 (s : State) : State := s.modDn 3 fun r => { r with owner := some 0, dw0 := 1 + 4 * 65536, pcnt := 8 }

/-- A `kld` of two rows of KV space. -/
def kl0 : State := after (.kld x0 4 5 6 false false 3) (withS (withS (coh pgd) 5 0) 6 (w64 (2 + 128 * 2 ^ 32)))
/-- Its operation. -/
def klo : EngOp := kl0.dev.eng.headD (kl0.newEng .kld 0 0)
/-- The cursor names it. -/
def kl1 : State := nAt klo.id kl0

/-- The operation of a state that stands first. -/
def op1 (s : State) : EngOp := s.dev.eng.headD cpo
/-- The copy has checked its one unit. -/
def cp2 : State := (cp1.engineTurn cpo.id).flush
/-- No granule. -/
def noGrain : Grain := { id := 0, src := [], skip := 0, dst := 0, len := 0, place := 0, put := false }
/-- Its first granule. -/
def cpg : Grain := (op1 cp2).grains.headD noGrain
/-- What that reads. -/
def cps : Part := cpg.src.headD { va := 0, len := 0, pa := none, sc := false }
/-- The first granule has been read. -/
def cp3 : State := (cp2.copyMove (op1 cp2) (.read cpg 0)).flush
/-- The granule then. -/
def cpg3 : Grain := (op1 cp3).grains.headD noGrain
/-- It has been written. -/
def cp3w : State := (cp3.copyMove (op1 cp3) (.put cpg3)).flush
/-- The second granule has been read. -/
def cp3r : State := (cp3w.copyMove (op1 cp3w) (.read ((op1 cp3w).grains.headD noGrain) 0)).flush
/-- It has been written, too. -/
def cp4 : State := (cp3r.copyMove (op1 cp3r) (.put ((op1 cp3r).grains.headD noGrain))).flush
/-- The cursor names the copy, which has its token. -/
def cpw : State := nAt cpo.id (cp4.engineTurn cpo.id).flush
/-- The copy, with its token. -/
def cpp : EngOp := op1 cpw
/-- The copy has completed. -/
def cpd : State := (after .copyCompletion cpw).modMe fun k =>
  { k with flights := [], ctx := { k.ctx with toks := k.ctx.toks.map fun t => { t with pend := true } } }
/-- The copy that has completed. -/
def cpq : EngOp := cpd.dev.eng.headD cpo

/-- Results due in an empty clock. -/
def lnd : State := usr.modMe fun k =>
  { k with clk := { k.clk with gap := 1 }, flights := [usr.due 0 (.s 4 false) true 9, usr.due 1 (.s 5 false) true 9] }

/-- `addi` with a guard, IX 1 and the low ten bits 0x3E8: 5 + (0x3E8 − 2^10) + 2^10 (R107, R128). -/
def rAddi : AluOut := { x := xg, u := Uses.none.s (.s 5), d := d4, lat := 1, val := 1005 }
/-- `mulh` into the latch alone. -/
def rMulh : AluOut := { x := xh, u := (Uses.none.s (.y 0)).s (.s 63), d := dn, lat := 3, val := 0 }
/-- `bfi` that fills the top of its register. -/
def rBfi : AluOut := { x := x0, u := (Uses.none.s (.s 5)).r 4, d := d4, lat := 1, val := 0x5000000000000004 }
/-- `add`. -/
def rAdd : AluOut := { x := x0, u := (Uses.none.s (.s 5)).s (.s 6), d := d4, lat := 1, val := 11 }
/-- An atomic sum of 8 bytes in the local store. -/
def amo8 : Instr := .amo x0 1 0 0 0 1 4 5
/-- What it does. -/
def rAmo : AtomicRow := (atomicRow lsw amo8).get (by rfl)

/-- An instruction and what it does: a vector sum of FP32. -/
def iVadd : Instr := .vadd x0 .w512 false 0 { n := false, r := 7 } (.v 5) (.v 6)
/-- Its row. -/
def rVadd : VecOut := (vecRow iVadd).get (by rfl)
/-- A lent byte that names the types BF16 or i16. -/
def xi : Lent := { guard := none, ix := 1 }
/-- A wrapping sum of i16 lanes. -/
def iVaddI : Instr := .vadd xi .w512 false 1 { n := false, r := 7 } (.v 5) (.v 6)
/-- Its row. -/
def rVaddI : VecOut := (vecRow iVaddI).get (by rfl)
/-- A sum into the write stream of slot 3, from the read stream of slot 2. -/
def iVaddS : Instr := .vadd x0 .w1024 false 0 { n := false, r := 26 } (.v 6) (.v 25)
/-- Its row. -/
def rVaddS : VecOut := (vecRow iVaddS).get (by rfl)
/-- What a row of a tile reads at issue. -/
def rTzero : MatOut := { x := x0, u := Uses.none, owned := true, a := 0, b := 0, v := 0 }
/-- A masked vector store, 32 bytes after s8. -/
def iVst : Instr := .vst x0 .w256 (.v 3) 8 true 2 1
/-- `vec` with s8 in the local store; `vev`: in vault memory. -/
def vel : State := withS vec 8 (w64 (Config.lsBase + 0x400))
/-- s8 addresses vault memory. -/
def vev : State := withS vec 8 (w64 (Config.vaultBase + 0x400))
/-- What the masked store does at `vel` and at `vev`. -/
def wVel : Lent × Uses × List (Nat × Nat) × (State → List (Nat × Byte)) := (vstoreRow vel iVst).get (by rfl)
/-- What it does at `vev`. -/
def wVev : Lent × Uses × List (Nat × Nat) × (State → List (Nat × Byte)) := (vstoreRow vev iVst).get (by rfl)
/-- A row of sums, of one chain that met a NaN. -/
def oneSum : List Chain := [.nan]
/-- The half after 4,096 clocks. -/
def halfL : Posted := { half with waited := 4096 }
/-- An entry of a FIFO. -/
def fe0 : FifoEnt := { idx := 0, val := 0x1234, fault := none }
/-- What a `copy` issues. -/
def rCopy : EngineOut :=
  { x := x0, u := Uses.none.r 5, d := 4, kind := .copy, a := 0x200, b := 0, ord := false, acq := false, rel := false, scope := 0
    fault := none }
/-- Vector destinations. -/
def v7 : VDst := { n := false, r := 7 }
/-- The same, of v10. -/
def v10 : VDst := { n := false, r := 10 }
/-- The word of the step of `mcr`. -/
def wMcr : W64 := w64 ((Instr.tzero x0 2 5 1).syl.getD 0)
/-- The token place of the copy of `cpd`. -/
def cpt : Tok := cpd.me.ctx.toks.headD { op := 0, slot := 0, reg := 0, bank := false, pend := false, value := 0 }
/-- A system engine operation whose token is due. -/
def sy0 : SysOp := { op := 0, reg := 52, token := 77, todo := none, seq := 0, waits := [] }
/-- The core at supervisor level that issued it. -/
def syt : State := sup.modMe fun k => { k with sysop := some sy0 }

/-- An instruction with a walk to make: a load of four bytes of paged memory. -/
def ld1 : State := after (.ld x0 2 1 true 4 5 0) (withS pgd 5 0x1000)
/-- Its walk. -/
def wk0 : Walk := ld1.dev.walks.headD { id := 0, tenant := 0, page := 0, cores := [] }
/-- The cursor names the walk. -/
def wlk : State := nAt wk0.id ld1
/-- The leaf that it finds. -/
def wle : TlbEntry := { tenant := 0, page := 0, size := 0x2000000, pte := 0x200009E }
/-- The load as an operation of its core. -/
def ldo : MemOp := (after .pageWalk wlk).me.ops.headD { id := 0, seq := 0, since := 0, kind := .load 4 true, parts := [], scope := 0, rel := false, dreg := none, own := of1 }
/-- The load after its walk; the cursor names it. -/
def ldv : State := nAt ldo.id (after .pageWalk wlk)
/-- Its one part. -/
def ldp : Part := ldo.parts.headD { va := 0, len := 0, pa := none, sc := false }
/-- The same 30 µs later. -/
def ldl : State := ldv.modBoard fun b => { b with dtime := 30000 }

/-- A store to paged memory has its walk to make. -/
def st0 : State := after (.st x0 3 6 5 0) (withS pgd 5 0x1000)
/-- The store after its walk. -/
def st1 : State := after .pageWalk (nAt ((st0.dev.walks.map (·.id)).headD 0) st0)
/-- No write. -/
def noWrite : PendingWrite :=
  { id := 0, seq := 0, core := 0, tenant := 0, since := 0, va := 0, pa := none, data := [], lvl := 0, sc := false, hold := none, op := none
    stream := none, acc := 0, unit := 0, err := none, own := of1 }
/-- The store as a write, before it has moved. -/
def stw : PendingWrite := st1.dev.writes.headD noWrite
/-- The cursor names it. -/
def stv : State := nAt stw.id st1
/-- The same when it has come to its fabric port. -/
def stx : State := after .writePerforms (after .writePerforms stv)
/-- The write there. -/
def stz : PendingWrite := stx.dev.writes.headD noWrite

/-- Core 0 has no code in its instruction memory. -/
def ovm : State :=
  pgd.modMe fun k => { k with imem := Reset.imem, ctx := { k.ctx with pc := 0x10040 } }

/-- Barrier 5 of cohort 7, two expected. -/
def bar (f : Barrier → Barrier) : State := (coh usr).modHb 5 fun b =>
  f { b with owner := some 0, en := true, cohort := some 7, expect := 2, members := 3, phase := 4, last := [(0, 3)] }
/-- No arrival. -/
def bar0 : State := bar id
/-- One arrival. -/
def bar1 : State := bar fun b => { b with count := 1, arrived := [1] }
/-- The acting task has arrived in the open phase. -/
def bar4 : State := bar fun b => { b with count := 1, arrived := [0], last := [(0, 4)] }
/-- A broken barrier. -/
def barX : State := bar fun b => { b with broken := true }
/-- Operands of a `barset` in s5 and s6. -/
def barS : State := withMem (withS (withS bar0 5 2) 6 0x800) (lsAddr 0 0x800) [3]
/-- A `barset` whose members are not all of the cohort. -/
def barT : State := withMem (withS (withS bar0 5 2) 6 0x800) (lsAddr 0 0x800) [4]
/-- Cohort 7. -/
def coh7 : Cohort := { id := 7, launch := 3, order := 0, size := 2, frame := 0, state := .resident, admitted := true, asked := false,
                       frameDone := none }

/-- A member of a step group. -/
def mb (t i r : Nat) (a l : Bool) : Member := { task := t, index := i, rank := r, arrived := a, leaving := l }
/-- The acting task's member. -/
def mb1 : Member := mb 1 0 0 false false
/-- The other one's. -/
def mb2 : Member := mb 2 8 1 false false
/-- Step group 6 with these members. -/
def grp (ms : List Member) : State := (coh usr).modSg 6 fun g =>
  { g with owner := some 0, en := true, cohort := some 7, members := ms, steps := 9 }
/-- No member. -/
def sgn : State := grp []
/-- Two members, none arrived. -/
def sg0 : State := grp [mb1, mb2]
/-- Two members, one arrived, and a zone that both have written. -/
def sgz : State := withMem ((grp [mb1, mb 2 8 1 true false]).modPz 3 fun _ =>
  { owner := some 0, dw0 := w64 (1 + 6 * 256), dw1 := w64 (Config.vaultBase + 0x8000), dw2 := 0x1000
    plane := [{ task := 1, core := 0, seq := 0, word := Config.vaultBase + 0x8004, val := 0x3F800000 },
      { task := 2, core := 8, seq := 0, word := Config.vaultBase + 0x8004, val := 0x40000000 }, { task := 2, core := 8, seq := 0, word := Config.vaultBase + 0x8008, val := 7 }] })
  (vaultPlace (Config.vaultBase + 0x8004)) [1, 2, 3, 4]
/-- Parameters of `vrpb` whose table lies past the local store. -/
def rpx : State := rpb.modMe fun k => k.modCtx fun c => { c with v := c.v.set 9 (BitVec.ofNat 1024 (1000 + 900 * 2 ^ 32 + 0x100000 * 2 ^ 64)) }
/-- `rpb` with the streams of `stm`. -/
def rps : State := rpb.modMe fun k => k.modCtx fun c => { c with streams := stm.me.ctx.streams }
/-- The destination v26. -/
def v26 : VDst := { n := false, r := 26 }
/-- A result for place 9 of slot 3. -/
def fWr : Flight := usr.due 0 (.wr 3 9) false 7
/-- A command waits in the queue. -/
def rtq : State := rtn.modMe fun k => k.syncSh.modMat fun m => { m with queue := [cm (.tzero x0 2 5 1)] }
/-- A step of a reserved major. -/
def mcx : State := withMem mcr (microAddr 0 16) [0, 0, 0, 0x68]
/-- Another context owns the tile file while the routine runs. -/
def mco : State := mcr.modMe fun k => { k with sv := { k.sv with town := 0 } }
/-- The word of the step of `mcb`. -/
def wMcb : W64 := w64 ((Instr.tzero x0 4 5 1).syl.getD 0)
/-- The word of a step with a result. -/
def wMcf : W64 := w64 ((Instr.trowrd x0 2 5 0 7).syl.getD 0)
/-- A step with a result while 64 are in flight. -/
def mcf : State := (withMem mcr (microAddr 0 16) (toLe 8 wMcf.toNat)).modMe fun k => { k with flights := List.replicate 64 oneFlight }
/-- A descriptor that is not aligned. -/
def cpy : State := withS cp0 5 0x208
/-- What its `copy` does. -/
def rCop6 : EngineOut := { rCopy with a := 0x208, fault := some 6 }
/-- Operands of a `logit` of row 0 of tile 2. -/
def lgt : State := withS (withS (coh (eng 0 0)) 5 2) 6 0
/-- What it issues. -/
def rLgt : EngineOut :=
  { x := x0, u := (Uses.none.r 5).r 6, d := 4, kind := .logit, a := 2, b := 0, ord := false, acq := false, rel := false, scope := 0
    fault := none }

/-- A matrix command of `i` may start; its operands are `a` and `b`. -/
def msi (i : Instr) (a b : W64) : State := rtn.modMe fun k =>
  { k with clk := { k.clk with unf := 3 }, mat := { k.mat with queue := [{ cm i with a := a, b := b }] } }
/-- That command. -/
def cmi (i : Instr) (a b : W64) : MCmd := { cm i with a := a, b := b }
/-- The micro-routine of `mcr` on a core under the freeze line. -/
def mcz : State := mcr.modMe fun k => { k with bun := { k.bun with hold := some .partner } }
/-- A table of `bsel` in the local store whose entries are not aligned; s8 addresses it. -/
def bse : State := withMem (withS usr 8 (w64 (Config.lsBase + 0x400))) (lsAddr 0 0x400) ((List.range 8).flatMap fun _ => toLe 8 0x20002)
/-- `vel` with 64 results in flight. -/
def f6v : State := (withS vel 5 (w64 (Config.lsBase + 0xFF0))).modMe fun k => { k with flights := List.replicate 64 oneFlight }
/-- The same with the table parameters of `rpb`. -/
def f6r : State := f6v.modMe fun k => { k with ctx := rpb.me.ctx }
/-- Queue 9 takes nothing from cores and gives them nothing. -/
def hqn : State := (hqs 2).modHq 9 fun h => { h with dw1 := 0 }
/-- A bundle waits for queue 9, which has been taken away. -/
def hqw : State := ((hqs 2).modHq 9 fun h => { h with owner := none }).modMe fun k => { k with waiting := { k.waiting with queue := some 9 } }
/-- A `copyc` that has its token; done ring 3 lies in vault 0. -/
def ccw : State :=
  ((cpw.modDn 3 fun r => { r with owner := some 0, dw0 := 1 + 4 * 65536, dw1 := w64 (Config.vaultBase + 0x40000), seq := 8, pcnt := 8 }).setEng
    { cpp with kind := .copyc })
/-- The operation. -/
def ccp : EngOp := op1 ccw
/-- A `kld` that has taken its ring word. -/
def kl2 : State := after .kldRow kl1
/-- The same without an arena. -/
def kl3 : State := kl2.modTenant 0 fun t => { t with kvdt := 0 }
/-- The task of the copy has ended. -/
def cpe : State := cpd.modTask 1 fun t => { t with where_ := .ended false }
/-- Queue 0 of tenant 0 awaits a token in c4. -/
def cqt : State := nAt 9 ((cpd.upd fun d => { d with eng := [{ cpq with id := 9, owner := .queue 0 0 }] }).modCq 0 0 fun c => { c with awaits := [(4, 9)] })
/-- Its operation. -/
def cqo : EngOp := op1 cqt
/-- The load of `ldl` is the supervisor's. -/
def ldu : State := ldl.modMe fun k => { k with ops := k.ops.map fun o => { o with own := { sv := true, task := some 1 } } }
/-- The load. -/
def ldu1 : MemOp := ldu.me.ops.headD ldo
/-- The load of `ldl` goes to host memory. -/
def ldx : State := ldl.modMe fun k => { k with ops := k.ops.map fun o => { o with parts := [{ ldp with pa := some (Config.hostAt + 0x1000) }] } }
/-- The load. -/
def ldx1 : MemOp := ldx.me.ops.headD ldo
/-- A store under way for 30 µs. -/
def stl1 : State := (after .writePerforms stv).modBoard fun b => { b with dtime := 30000 }
/-- The store. -/
def stw1 : PendingWrite := stl1.dev.writes.headD noWrite

/-- Core 0 has posted its half, and tasks 1 and 2 of cohort 7 are on cores 0 and 8. -/
def twoC : State := (twoA.modTask 1 fun t => { t with where_ := .on 0 }).modMe fun k => { k with task := some 1 }
/-- The partner stops at an error of its own: DATA_ALIGN. -/
def stpD : StopRec := { chk := 7, epc := 0x10000, scause := 0x06, sfaddr := 1, sfinfo := 0 }
/-- A broken step group of the acting task and another. -/
def sgb : State := (grp [mb1, mb2]).modSg 6 fun g => { g with broken := true }
/-- What a `kld` reads for its next row. -/
def kldGot : List Byte × EngOp := match kldRead kl2 (op1 kl2) with
  | .ok r => r
  | .error _ => ([], op1 kl2)
/-- The store of `stl1` is the supervisor's. -/
def stu : State := stl1.upd fun d => { d with writes := d.writes.map fun w => { w with own := { sv := true, task := some 1 } } }
/-- The store. -/
def stu1 : PendingWrite := stu.dev.writes.headD noWrite
/-- A store at its fabric port, bound for host memory. -/
def sth : State := stx.upd fun d => { d with writes := d.writes.map fun w => { w with pa := some (Config.hostAt + 0x1000) } }
/-- The store. -/
def sth1 : PendingWrite := sth.dev.writes.headD noWrite

/-- Core 0 at supervisor level with its context areas in vault 0, in a bundle of one syllable; a result and a held syllable are in the
snapshot. -/
def svc : State := (coh sup).modMe fun k =>
  { k with
    sv := { k.sv with
      sepc := 0x10040, stvec := 0x20000, ssave := w64 (Config.vaultBase + 0x1D0000), stsave := w64 (Config.vaultBase + 0x100000),
      slsave := w64 Config.vaultBase, lsmask := 0, ctxid := 5 }
    bun := { k.bun with single := true }
    ctx := { k.ctx with loops := [lvl 1], v := vec.me.ctx.v, p := 0x5A, wid := 77 }
    snap := [{ oneFlight with rem := 1 }]
    heldSnap := .replicate 2 (some { word := 0x30104146, ext := 0 }) }
/-- The same in a bundle of more syllables. -/
def svm : State := svc.modBun fun b => { b with single := false }
/-- A system engine operation is in flight. -/
def svo : State := svc.modMe fun k => { k with sysop := some sy0 }
/-- Another context, CTXID 6, owns the tile file; its tile area lies in vault 0. -/
def svt : State := svc.modMe fun k => { k with sv := { k.sv with town := 0x100000006, towna := w64 (Config.vaultBase + 0x300000) } }
/-- The context of the core owns it. -/
def svw : State := svc.modMe fun k => { k with
  sv := { k.sv with town := 0x100000005, towna := w64 (Config.vaultBase + 0x100000) }
  mat := { k.mat with tcfg := k.mat.tcfg.set 2 0x3F001 } }
/-- What a `crest` has to do. -/
def wkC : SysWork := .crest
/-- What a `tlbinv.page` of s5 has to do. -/
def wkP : SysWork := .inv 0 (svc.sreg 5)

/-- A `tlbinv` of `kind` with operand `a`, whose token is pending in s52 and comes next; TLBs hold a leaf of tenant 0. -/
def tlo (kind : BitVec 2) (a : W64) : SysOp := { op := 9, reg := 52, token := 0, todo := some (.inv kind a), seq := 0, waits := [] }
/-- The state with that operation. -/
def tls (kind : BitVec 2) (a : W64) : State :=
  (nAt 9 (svc.modMe fun k => { k with sysop := some (tlo kind a), utlb := [wle] })).upd fun d => { d with lltlb := [wle, { wle with tenant := 1 }] }
/-- The context of the core owns the tile file, has changed latches, and its TOWNA names another area. -/
def svk : State := svw.modMe fun k => { k with sv := { k.sv with town := 0x3100000005, towna := w64 (Config.vaultBase + 0x300000) } }
/-- Queue 0 of tenant 0 runs commands; cN = 3N but c5, an address in vault 0, and c6. -/
def cqr : State := (withMem pgd (vaultPlace (Config.vaultBase + 0x40)) [1, 2, 3, 4, 5, 6, 7, 8]).modCq 0 0 fun c =>
  { c with
    en := true, state := 1, cpc := 0x10000
    c := ((Vector.ofFn fun i => BitVec.ofNat 64 (i.val * 3)).set 5 (w64 (Config.vaultBase + 0x40))).set 6 0x77 }
/-- The same with register `r` changed. -/
def withC (s : State) (r : Fin 16) (w : W64) : State := s.modCq 0 0 fun c => { c with c := c.c.set r w }
/-- c0 is 0. -/
def cqz : State := withC cqr 0 0
/-- Eight calls are active. -/
def cq8 : State := cqr.modCq 0 0 fun c => { c with stack := List.replicate 8 0x20000 }
/-- c5 awaits a token. -/
def cqa : State := cqr.modCq 0 0 fun c => { c with awaits := [(5, 77)] }
/-- c5 is not aligned. -/
def cqm : State := withC cqr 5 0x1001
/-- The place of `cqr`'s c5. -/
def c5At : Nat := vaultPlace (Config.vaultBase + 0x40)

/-- Hardware queue 9 and stream 5 are tenant 0's, the queue disabled, the stream enabled with rung 2 of at most 4; c5 names the queue's
doubleword `dw`. -/
def rsq (dw : Nat) : State :=
  ((withC cqr 5 (rsa 1 9 dw)).modHq 9 fun h => { h with owner := some 0 }).modStream 5 fun r =>
    { owner := some 0, dw := r.dw.set 0 (1 + 4 * 4 + 2 * 256) }
/-- Hardware queue 9 is enabled. -/
def rse : State := (rsq 1).modHq 9 fun h => { h with dw0 := 1 + 4 * 256 }
/-- c5 names queue 8, which has no owner. -/
def rsn : State := withC (rsq 1) 5 (rsa 1 8 1)
/-- c5 names no resource. -/
def rsx : State := withC (rsq 1) 5 (rsa 9 0 1)
/-- c5 names stream 5, c6 a rung. -/
def rst (n : Nat) : State := withC (withC (rsq 0) 5 5) 6 (w64 n)

/-- A start vector of one task, with entry 0x1_0000, of tenant `ten`. -/
def vec0 (ten : Nat) : List W64 := [w64 (ten * 2 ^ 55), 0, 0, 0x100000001, 0x100000001, 0x100000001, 0, 0]
/-- Its launch by `cqr`'s queue. -/
def lch (ten : Nat) : Launch :=
  { id := 0, tenant := 0, queue := 0
    hdr := Vector.ofFn fun i => (vec0 ten).getD i.val 0
    entries := 0x10000 :: List.replicate 127 0, doneWord := 0, arrival := 0, due := 50000000, killed := false }
/-- c5 addresses that start vector, c6 is 0; tenant 0 has context areas. -/
def lns (ten : Nat) : State :=
  ((withC (withC cqr 5 (w64 (Config.vaultBase + 0x80000))) 6 0).modTenant 0 fun t => { t with svcb := 1, svBase := 0x200000, svNctx := 4 }) |>
    fun s => withMem s (vaultPlace (Config.vaultBase + 0x80000)) ((vec0 ten ++ [0x10000]).flatMap fun (w : W64) => toLe 8 w.toNat)
/-- The same with 256 launches whose tasks have not ended. -/
def lnf : State := (lns 0).upd fun d =>
  { d with
    launches := (List.range 256).map fun n => { lch 0 with id := n }
    cohorts := (List.range 256).map fun n => { coh7 with id := n, launch := n, state := .ready }
    tasks := (List.range 256).map fun n => { tk1 with id := n, cohort := n, where_ := .fresh } }
/-- c5 addresses a segment table that installs image 3 with two segments, or removes image 0. -/
def sgt (id n : Nat) : State :=
  withMem (withC cqr 5 (w64 (Config.vaultBase + 0x80000))) (vaultPlace (Config.vaultBase + 0x80000))
    (toLe 4 id ++ toLe 4 n ++ toLe 8 0 ++ toLe 8 0x20000 ++ toLe 8 64 ++ toLe 8 0x30000 ++ toLe 8 128)
/-- The bytes of its two segments. -/
def segs2 : List Byte := toLe 8 0x20000 ++ toLe 8 64 ++ toLe 8 0x30000 ++ toLe 8 128
/-- c5 addresses a copy descriptor with done ring 3. -/
def cqd : State :=
  (withMem (withC cqr 5 (w64 (Config.vaultBase + 0x80000))) (vaultPlace (Config.vaultBase + 0x80000))
    (descr (Config.vaultBase + 0x1000) (Config.vaultBase + 0x2000) 16 3)).modDn 3 fun r => { r with owner := some 0, dw0 := 1 + 4 * 65536 }
/-- Its descriptor. -/
def cqn : Nat := leNat (descr (Config.vaultBase + 0x1000) (Config.vaultBase + 0x2000) 16 3)
/-- The queue has a copy under way. -/
def cqc : State := after (.ccopy 4 5) cqd
/-- Queue 0 of tenant 0 is idle with one submission waiting, of command 0x1_0000 with operand 0x77. -/
def sbm : State :=
  (withMem pgd (vaultPlace (Config.vaultBase + 0x400)) (toLe 8 0x10000 ++ toLe 8 0x77)).modCq 0 0 fun c =>
    { c with en := true, base := w64 (Config.vaultBase + 0x400), wp := 1 }
/-- The entry's bytes. -/
def sbe : List Byte := toLe 8 0x10000 ++ toLe 8 0x77
/-- The device is hot: 106 °C is at TRIP. -/
def hot : State := dev0.modBoard fun b => { b with tripped := true }
/-- A grant of hardware queues 3 and 4, of stream 9, with a DSCTL. -/
def gr0 : Grant :=
  { troot := 1, kvdt := 2, wins := [], dsctl := 0x1001234, hq := 0x18, dn := 1, hb := 2, sg := 4, pz := 8, fring := 16, streams := 0x200
    maps := [] }
/-- Bring-up without a failed stage, two ports training, one of them bifurcated. -/
def boot0 : Boot := { fail := 0, memfail := 0, ports := 3, split := 1 }
/-- A supervisor control block at offset 0x1000 of vault 0. -/
def scb : State :=
  withMem pgd (vaultPlace (Config.vaultBase + 0x1000)) (toLe 8 0x20000 ++ toLe 8 0x400000 ++ toLe 8 9 ++ zeros 40)
/-- Its bytes. -/
def scbs : List Byte := toLe 8 0x20000 ++ toLe 8 0x400000 ++ toLe 8 9 ++ zeros 40
/-- Its address, with EN. -/
def scba : W64 := w64 (Config.vaultBase + 0x1000) &&& 0xFFFFFFFFFF000 ||| 1
/-- Tenant 0 has a task. -/
def bsy : State := (coh scb).upd fun d => { d with launches := [{ lch 0 with id := 3 }] }
/-- A virtual function does not work: bring-up stopped at stage 3. -/
def dev3 : State := dev0.modBoard fun b => { b with bootstat := 3 }
/-- The device is off. -/
def offd : State := dev0.modBoard fun b => { b with off := true }
/-- A checkpoint runs. -/
def ckp (back : Bool) : State := dev0.modBoard fun b => { b with ckptJob := some { target := 0x1000, restore := back } }
/-- Bytes in the near tier. -/
def b2 : State := withMem pgd 0x100 [1, 2, 3, 4, 5, 6, 7, 8]
/-- Tenant 0 has page tables, whose bytes at 0x80000 it may read; the others of the device are as in `b2`. -/
def b3 : State := withMem b2 0x2080000 [9, 8, 7, 6]
/-- Bring-up has not come to its second stage. -/
def dev1 : State := dev0.modBoard fun b => { b with bootstat := 1 }
/-- The record of sequence 0 of tenant 0. -/
def recAt : Nat := Config.vaultBase + 0x100000
/-- A round's program: the logits go to w1, and w1 is the output. -/
def prg : List (BitVec 32) := [BitVec.ofNat 32 ((Instr.pld 1).pip.getD 0), BitVec.ofNat 32 ((Instr.pend 1).pip.getD 0)]
/-- DW0 of a header: Pip runs if `pip`, K is 4, mailbox 7. -/
def hd0 (pip : Bool) : Nat := (if pip then 8 else 0) + 4 * 256 + 7 * 2 ^ 32
/-- The bytes of a record up to 0x200: VOCAB 100, EOS 99, no grammar. -/
def rcb (d0 d7 : Nat) : List Byte :=
  toLe 8 d0 ++ toLe 16 0 ++ toLe 8 (100 + 99 * 2 ^ 32) ++ toLe 24 0 ++ toLe 8 d7 ++ zeros 192 ++ prg.flatMap fun w => toLe 4 w.toNat
/-- Such a record's first 0x200 bytes. -/
def rcw (d0 d7 : Nat) : List Byte := rcb d0 d7 ++ zeros 248
/-- Tenant 0's arena 0 has its records in vault 0; the record of slot 0 has DW0 `d0` and DW7 `d7`. -/
def rcd (d0 d7 : Nat) : State := withMem (withMem (coh pgd) 0x2080040 (toLe 8 recAt)) (vaultPlace recAt) (rcb d0 d7)
/-- Sequence 0. -/
def sq0 : SeqKey := seqKey 0 0x10000
/-- A `logit` of core 0 with three logits from token 10 on, the last of its round. -/
def lgo : EngOp :=
  { cpo with
    id := 9, kind := .logit, owner := .task 1 0, tenant := 0, kvslot := 0x10000, a := w64 (10 * 2 ^ 32), b := 1, stage := 1, token := none
    list := [0x3F800000, 0x40000000, 0xBF800000], ord := false, acq := false, rel := false }
/-- A round of sequence 0. -/
def rnd (pip : Bool) : Round :=
  { key := sq0, smp := 0, recBase := recAt
    hdr := [w64 (hd0 pip), 0, 0, w64 (100 + 99 * 2 ^ 32), 0, 0, 0, 1, 0, 0, 0, 0, 0, 0, 0, 0]
    param := List.replicate 16 0, prog := prg ++ List.replicate 62 0, mx := 0xFF800000, sum := 0, cands := [], tree := false, index := 0
    snaps := [], auto := { state := 0, top := 0, depth := 0, dead := false } }
/-- The `logit` waits for sampler 0. -/
def lgs (d0 d7 : Nat) : State := nAt 9 ((rcd d0 d7).upd fun d => { d with eng := [lgo] })
/-- A round of the sequence is open. -/
def lgr (pip : Bool) : State := (lgs (hd0 pip) 1).modSampler 0 fun x => { x with rounds := [rnd pip] }
/-- The same `logit`, not the last. -/
def lgp : EngOp := { lgo with b := 0 }
/-- That one waits, and the open round has no Pip program. -/
def lgn : State := (lgr false).upd fun d => { d with eng := [lgp] }
/-- What the round holds after the chunk. -/
def rndN : Round := ((rnd false).selects [(10, 0x3F800000), (11, 0x40000000), (12, 0xBF800000)]).getD (rnd false)

/-- The sampler at work on the chunk: w0 holds 2, 5, −1; two more logits wait; h0 is 1. -/
def jb0 (rest : List (Nat × BitVec 32)) (last : Bool) : Job :=
  { op := 9, core := 0, key := sq0, last := last, rest := rest, lanes := [(10, 0x3F800000), (11, 0x40000000), (120, 0xFF800000)]
    w := (Vector.replicate 8 [0, 0, 0]).set 0 [0x40000000, 0x40A00000, 0xBF800000], h := .replicate 8 0x3F800000, pip := 0 }
/-- Its round, with an earlier candidate. -/
def rnd1 : Round := { rnd true with cands := [], mx := 0xFF800000 }
/-- The state. -/
def jbs (rest : List (Nat × BitVec 32)) (last : Bool) : State := (rcd (hd0 true) 1).modSampler 0 fun x => { x with rounds := [rnd1], job := some (jb0 rest last) }
/-- The job in hand. -/
def jb1 : Job := jb0 [(12, 0x3F800000)] false
/-- Outputs of the two active lanes. -/
def out2 : List (Nat × BitVec 32) := [(10, 0x40000000), (11, 0x40A00000)]
/-- The round that has taken them. -/
def rnd2 : Round := (rnd1.selects out2).getD rnd1
/-- One of the outputs is a NaN. -/
def jbn : Job := { jb1 with w := jb1.w.set 0 [0x40000000, 0x7FC00000, 0] }
/-- The state with it. -/
def jns : State := (jbs [] false).modSampler 0 fun x => { x with job := some jbn }
/-- The open round has a grammar at its GBASE. -/
def rndG : Round := { rnd1 with hdr := rnd1.hdr.set 4 (w64 (Config.vaultBase + 0x200000)) }
/-- The state after the closing round's chunk, before the completion's writes. -/
def jcu : State := (((jbs [] true).setRound 0 rnd2).modSampler 0 fun y => { y with job := none }).smLose rnd1.as (recAt + 56) 0 4 0

/-- A `verify` of core 0, of a tree of `n` nodes at offset 0x400 of its local store. -/
def vfo (n : Nat) : EngOp := { lgo with kind := .verify, a := 0x400, b := w64 n, stage := 0, list := [], seq := 0 }
/-- Its bytes: a root, token 5, and a child of it, token 6; or a second node whose parent is itself. -/
def vfb (par : Nat) : List Byte := toLe 4 5 ++ toLe 4 0x7F ++ toLe 4 6 ++ toLe 4 par
/-- The state with the `verify`. -/
def vfs (d0 par : Nat) : State := withMem (nAt 9 ((rcd d0 0).upd fun d => { d with eng := [vfo 2] })) (lsAddr 0 0x400) (vfb par)
/-- Frame ring 8 of tenant 0: two slots of 4 KiB from offset 0x40000 of vault 0, frames of 3 × 2 pixels, decoder 1, encoder 2, queues 20, 21
and 22, chunks to queue 23. -/
def fr8 : FrameRing :=
  { owner := some 0
    dw := ((((((Vector.replicate 8 0).set 0 (1 + 2 * 256 + 2 ^ 16 + 2 * 2 ^ 20)).set 1 (w64 (Config.vaultBase + 0x40000))).set 2 2).set 3
      (20 + 21 * 256 + 22 * 2 ^ 16)).set 4 (3 + 2 * 2 ^ 16)).set 6 (w64 (Config.vaultBase + 0x50000)) |>.set 7 23
    slots := [.render, .empty], refs := [] }
/-- The token of its slot 0, frame 120. -/
def ftk : W64 := 120 + 8 * 2 ^ 36 + 2 ^ 56
/-- The decoder or encoder holds it. -/
def fjb (last : Bool) : FrameJob := { ring := 8, tok := ftk, last := last, coded := 0 }
/-- The device with the ring and its queues; queue `q` holds the token. -/
def frs (q : BitVec 8) : State :=
  nAt 8 ([20, 21, 22, 23].foldl (fun s n => s.modHq n fun h =>
    { h with owner := some 0, dw0 := 1 + 4 * 256, dw1 := 0x1F1F, toks := if n = q then [ftk] else [] }) (usr.modFring 8 fun _ => fr8))
/-- Decoder 0 has the frame. -/
def frd : State := (frs 20).upd fun d => { d with cur := { d.cur with n := 0 }, decs := d.decs.set 0 (some (fjb false)) }
/-- Encoder 2 has the frame; `last`: its last chunk has been put. -/
def fre (last : Bool) : State := (frs 23).upd fun d => { d with cur := { d.cur with n := 2 }, encs := d.encs.set 2 (some (fjb last)) }
/-- What the decoder reads. -/
def fdi : DecodeIn := match frd.decodeIn fr8 ftk with
  | .ok x => x
  | .error _ => { ring := fr8, half := false, lw := 0, lat := #[], proj := #[] }

/-- A post to mailbox 7. -/
def pst7 : Post := { mbox := 7, kind := 0x80, val := 0x1234 }
/-- It waits in the outbox of sequence 0. -/
def obx : State := nAt 0 (dev0.upd fun d => { d with outbox := [(sq0, pst7), (sq0, pst7)] })
/-- Mailbox 7 holds 16 posts. -/
def obf : State := obx.modTenant 0 fun t => { t with mail := List.replicate 16 pst7 }
/-- Channel 7 of tenant 0: token frames, a ring of 64 bytes at host address 0x5000. -/
def eg7 : Egress := { Reset.egress with base := 0x5000, ctl := 1 + 6 * 8, wp := 48, rp := 40 }
/-- Mailbox 7 holds a post. -/
def egs : State := dev0.modTenant 0 fun t => { t with mail := [pst7], egress := t.egress.set 7 eg7 }

/-- Launch 3 of tenant 0's queue 0: eight tasks, PLACE `p`. -/
def lc3 (p : Nat) : Launch :=
  { lch 0 with
    id := 3
    hdr := ((lch 0).hdr.set 0 (w64 (3 + p * 2 ^ 39))).set 3 0x100000008
    entries := (List.range 128).map fun n => w64 (0x10000 + 4 * n) }
/-- A task of its one cohort. -/
def tkc (n : Nat) : Task :=
  { id := 100 + n, cohort := 7, rank := n, wid := w64 n, where_ := .fresh, ctxid := 0, area := none, place := none, pairs := 0 }
/-- Tenant 0 has clusters 0 to 3, whose cores are free, and 16 context areas from 0x400000 on. -/
def dv4 : State :=
  { dev0 with part := dev0.part.set 0 0x1000F }.modTenant 0 fun t => { t with svcb := 1, svEntry := 0x20000, svBase := 0x400000, svNctx := 16 }
/-- The launch's cohort is in state `st`, with tasks of `f`. -/
def dsp (p : Nat) (st : CohortState) (f : Nat → Task → Task) : State :=
  nAt 7 (dv4.upd fun d =>
    { d with
      launches := [lc3 p], cohorts := [{ coh7 with size := 8, state := st }], tasks := (List.range 8).map fun n => f n (tkc n)
      board := { d.board with dtime := 9000000 } })
/-- It is ready. -/
def dsr (p : Nat) : State := dsp p .ready fun _ t => t
/-- The head of the ready list. -/
def rk0 (p : Nat) : Ranked := { launch := lc3 p, cohort := { coh7 with size := 8, state := .ready }, slack := 41000000 }
/-- Task 100 may start on core 3. -/
def tks : State := nAt 100 (dsp 0 .resident fun n t => if n = 0 then { t with place := some 3 } else t)
/-- Task 100 may resume on core 3. -/
def tkr : State := nAt 100 (dsp 0 .resident fun n t => if n = 0 then { t with place := some 3, where_ := .saved, ctxid := 2, area := some 0x7D0000 } else t)
/-- The task. -/
def tkc3 : Task := { tkc 0 with place := some 3 }
/-- The saved task. -/
def tkc4 : Task := { tkc 0 with place := some 3, where_ := .saved, ctxid := 2, area := some 0x7D0000 }

/-- A stop on its way: a `syscall` of number 77. -/
def srec : StopRec := { chk := 0, epc := 0x10008, scause := 0x400, sfaddr := 0x10000, sfinfo := 77 }
/-- Core 0 is stopping, with two results in flight. -/
def stp : State := usr.modMe fun k =>
  { k with run := .stopping srec, flights := [oneFlight], sv := { k.sv with stvec := 0x20000 }
           held := k.held.set 0 (some { word := 0x30104146, ext := 0 }) }
/-- The same with a load that has not performed. -/
def stq : State := stp.modMe fun k => { k with ops := [ldo] }

/-- The cohort is being pre-empted, task 100 on core 3. -/
def pre : State := ((dsp 0 .preempting fun n t => if n = 0 then { t with where_ := .on 3 } else t).modCore 3 fun k =>
  { k with run := .running, task := some 100, sv := { k.sv with priv := false } })
/-- Its tasks are saved. -/
def prc : State := dsp 0 .preempting fun _ t => { t with where_ := .saved }
/-- The queue of the launch is watched, its cohort in state `st`; `wd`: the first expiry has been. -/
def wds (st : CohortState) (wd : Bool) : State := (dsp 0 st fun _ t => t).modCq 0 0 fun c =>
  { c with en := true, wd1 := 1000, wd2 := 500, wdPre := wd, preAt := if wd then some 0 else none }
/-- The cohort being pre-empted. -/
def cohP : Cohort := { coh7 with size := 8, state := .preempting }
/-- The jobs of the checkpoints. -/
def ckj (back : Bool) : CkptJob := { target := 0x1000, restore := back }
/-- The `logit` with its token. -/
def lgt1 : State := (lgr true).setEng { lgo with token := some 0x10000000000000C }
/-- The same for the other round. -/
def lgt2 : State := lgn.setEng { lgp with token := some 0x10000000000000C }
/-- The event's agents. -/
def evw : Who := { dev0.dev.cur with n := 0 }
/-- The word of `mcx`'s step. -/
def wMcx : W64 := 0x68000000
/-- Done ring 3. -/
def dn3 : BitVec 8 := 3
/-- No register. -/
def noRegs : List (BitVec 4) := []

/-- The pixels of that frame. -/
def fpx : List Byte := match (fre false).pixels fr8 ftk with
  | .ok x => x
  | .error _ => []
/-- A queue whose watchdog is disabled after its first expiry. -/
def wd0 : State := (wds .preempting true).modCq 0 0 fun c => { c with wd1 := 0 }
/-- A word of four bytes. -/
def wd4 (n : Nat) : List Byte := toLe 4 n
/-- Turns come from the tape `ts`. -/
def onTape (ts : List Turn) (s : State) : State := s.upd fun d => { d with turns := ts }
/-- `cadd` of c4, c5 and c6, as a word. -/
def cmw : Nat := ((Instr.cadd 4 5 6).cmd).getD 0
/-- Queue 0 is to run it. -/
def sq1 : State := onTape [.queue 0 0] (withMem (withC cqr 5 5) 0x2010000 (wd4 cmw))
/-- Queue 0's tenant has no slot. -/
def sq2 : State := sq1.modBoard fun b => { b with used := .replicate 7 0 }
/-- Sampler 0 is to run the first word of its round. -/
def sp1 : State := onTape [.sampler 0] (jbs [] false)
/-- An event: the link of port 0 drops. -/
def se1 : State := onTape [.event .linkDrops { dev0.dev.cur with n := 0 }] dev0
/-- `addi` of s4, s5 and 3, with the stop bit. -/
def adw : BitVec 32 := BitVec.ofNat 32 (((Instr.addi x0 d4 (.s 5) 3).syl).getD 0 + 2 ^ 31)
/-- `halt`, with the stop bit. -/
def haw : BitVec 32 := BitVec.ofNat 32 (((Instr.halt x0).syl).getD 0 + 2 ^ 31)
/-- The header of a bundle that holds nothing else, with the stop bit. -/
def npw : BitVec 32 := 0xF8000000
/-- Core 0 is to fetch a bundle of the word `w`. -/
def sc1 (w : BitVec 32) : State := onTape [.core 0] (withMem (usr.modMe fun k => { k with bun := Reset.bundle }) (imemAddr 0 0 0) (toLe 4 w.toNat))
/-- The same at supervisor level. -/
def scs (w : BitVec 32) : State := (sc1 w).modMe fun k => { k with sv := { k.sv with priv := true } }
/-- The state of its turn. -/
def scu (w : BitVec 32) : State := turnOf (sc1 w) [] { (sc1 w).dev.cur with core := 0 }
/-- After what has landed. -/
def sct (w : BitVec 32) : State := clockOf (scu w) 0
/-- The same at supervisor level. -/
def scv (w : BitVec 32) : State := turnOf (scs w) [] { (scs w).dev.cur with core := 0 }
/-- After what has landed there. -/
def scw (w : BitVec 32) : State := clockOf (scv w) 0
/-- The state in which the `addi` executes, and the one that it gives. -/
def sce : State := ((opens (sct adw) 0x10000).readTable [loneSyl 0x10000 adw (.addi x0 d4 (.s 5) 3)]).enter (loneSyl 0x10000 adw (.addi x0 d4 (.s 5) 3))
/-- After it. -/
def scr : State := after (.addi x0 d4 (.s 5) 3) sce
/-- The state in which the `halt` executes. -/
def she : State := ((opens (scw haw) 0x10000).readTable [loneSyl 0x10000 haw (.halt x0)]).enter (loneSyl 0x10000 haw (.halt x0))
/-- After it. -/
def shr : State := after (.halt x0) she
/-- After the header. -/
def snr : State := after (.nop false 0 0 0) (opens (sct npw) 0x10000)
/-- The clock of `scr` has been counted. -/
def scx : State := (scr.retire (opens (sct adw) 0x10000).me [] []).tick 0 false
/-- A device that is off. -/
def sof (t : Turn) : State := onTape [t] offd

/-- Does a computation answer `y`? -/
def okIs {ε α : Type} [DecidableEq α] (x : Except ε α) (y : α) : Bool := match x with
  | .ok a => decide (a = y)
  | .error _ => false
/-- Does a computation fail with `y`? -/
def errIs {ε α : Type} [DecidableEq ε] (x : Except ε α) (y : ε) : Bool := match x with
  | .ok _ => false
  | .error a => decide (a = y)
theorem ok_of {ε α : Type} [DecidableEq α] {x : Except ε α} {y : α} (h : okIs x y = true) : x = .ok y := by
  cases x with
  | ok a => exact congrArg _ (of_decide_eq_true h)
  | error e => cases h
theorem err_of {ε α : Type} [DecidableEq ε] {x : Except ε α} {y : ε} (h : errIs x y = true) : x = .error y := by
  cases x with
  | ok a => cases h
  | error e => exact congrArg _ (of_decide_eq_true h)
/-- A read whose answer is `y`, and which changes nothing. -/
theorem reads_ok {α : Type} [DecidableEq α] {m : Kv α} {s : State} {y : α} (hm : Reads m) (h : okIs (m.run s).1 y = true) :
    m.run s = (.ok y, s) := by
  have h1 := ok_of h
  rcases e : m.run s with ⟨r, t⟩
  rw [e] at h1
  subst h1
  rw [hm s y t e]
/-- Does an instruction give a next state? -/
def goesOn (i : Instr) (s : State) : Bool := match exec i s with
  | .next _ => true
  | _ => false
theorem exec_after {i : Instr} {s : State} (h : goesOn i s = true) : exec i s = .next (after i s) := by
  unfold goesOn at h
  unfold after
  split at h
  · rename_i t e
    rw [e]
  · cases h
/-- The grammar of `rndG`: token 11 has class 1, the others class 0; class 0 goes on, class 1 is not allowed. -/
def jbg : State :=
  let a := Config.vaultBase + 0x200000
  (withMem (withMem (withMem (jbs [] false) (vaultPlace a) (toLe 4 1 ++ toLe 4 2 ++ toLe 8 (a + 0x1000) ++ toLe 8 (a + 0x2000)))
    (vaultPlace (a + 0x1000 + 22)) (toLe 2 1)) (vaultPlace (a + 0x2008)) (toLe 8 0xFFFFFF)).modSampler 0 fun x => { x with rounds := [rndG] }
/-- Lookups that answer as `f` says. -/
theorem looks_ok {s : State} {j : Job} {r : Round} {α : Type} [DecidableEq α] {look : Nat → Kv α} {f : Nat → α} (hm : ∀ v, Reads (look v))
    (h : ∀ l ∈ j.lanes, l.1 < r.vocab → okIs ((look l.1).run s).1 (f l.1) = true) : Looks s j r look f :=
  fun l hl hv => reads_ok (hm _) (h l hl hv)
/-! ## Ill-formed terms that a check refuses (R105, R107) -/

/-- The plain lent byte: an operation without an immediate takes no IX bits (R107). -/
theorem test_wf_plain : (Instr.add { guard := none, ix := 1 } d4 (.s 5) (.s 6)).wf = false := by decide
/-- A guarded lent byte has two IX bits (R107). -/
theorem test_wf_guarded_ix : (Instr.addi { guard := some { neg := false, p := 1 }, ix := 4 } d4 (.s 5) 0).wf = false := by decide
/-- `sext` has three widths (R133). -/
theorem test_wf_extend_width : (Instr.sext x0 d4 (.s 5) 3).wf = false := by decide
/-- `pop` with a copy takes no second predicate (R136). -/
theorem test_wf_pop : (Instr.pop x0 3 1 false 2 false 3).wf = false := by decide
/-- A bit field ends inside its register (R133). -/
theorem test_wf_field : (Instr.bfx x0 d4 (.s 5) 60 4).wf = false := by decide
/-- A load of 8 bytes is not sign-extended (R142). -/
theorem test_wf_load : (Instr.ld x0 3 0 true 4 5 0).wf = false := by decide
/-- Scopes are 0 to 4 (R79). -/
theorem test_wf_scope : (Instr.fenceAr x0 5 0).wf = false := by decide
/-- A 16-byte `amo` swaps or adds on an even register (R144). -/
theorem test_wf_amo : (Instr.amo x0 2 0 0 0 2 4 5).wf = false ∧ (Instr.amo x0 2 0 0 0 0 5 6).wf = false := by decide
/-- `cas` takes a register pair, `cas16` four registers from a multiple of 4 (R144). -/
theorem test_wf_cas : (Instr.cas x0 0 0 0 0 63 5).wf = false ∧ (Instr.cas16 x0 0 0 0 6 5).wf = false := by decide
/-- A loop does not end at its own bundle; `loopx` has three trip sources (R151). -/
theorem test_wf_loop : (Instr.loop x0 (.imm 3) 0).wf = false ∧ (Instr.loopx x0 3 5).wf = false := by decide
/-- IX[6] is 0 in a vector syllable (R159). -/
theorem test_wf_vec : (Instr.vadd { guard := none, ix := 64 } .w512 false 0 { n := false, r := 4 } (.v 5) (.v 6)).wf = false := by decide
/-- `vand` takes integer types alone, `vdot4` INT8 types (R162, R164). -/
theorem test_wf_vec_type : (Instr.vand x0 .w512 false 0 { n := false, r := 4 } (.v 5) (.v 6)).wf = false ∧
    (Instr.vdot4 x0 .w512 false 1 { n := false, r := 4 } (.v 5) (.v 6)).wf = false := by decide
/-- Rounding is accepted where a step rounds, saturation where it is defined (R159, R171). -/
theorem test_wf_cvt : (Instr.vcvt { guard := none, ix := 8 } .w512 false { n := false, r := 4 } (.v 5) 0 1).wf = false ∧
    (Instr.vcvt { guard := none, ix := 32 } .w512 false { n := false, r := 4 } (.v 5) 0 1).wf = false ∧
    (Instr.vcvt x0 .w512 false { n := false, r := 4 } (.v 5) 6 0).wf = false := by decide
/-- Quantisation has four targets and three sources (R175). -/
theorem test_wf_quant : (Instr.vcvtq x0 .w512 false { n := false, r := 4 } (.v 5) 9 0).wf = false := by decide
/-- An index names a lane of the width (R169). -/
theorem test_wf_lane : (Instr.vins x0 .w256 false 0 { n := false, r := 4 } 5 8).wf = false := by decide
/-- An unmasked `vst` names no mask; a `vmsk` of one source no second one (R167, R179). -/
theorem test_wf_mask : (Instr.vst x0 .w512 (.v 3) 5 false 2 0).wf = false ∧ (Instr.vmsk x0 .w512 4 1 2 3).wf = false := by decide
/-- Five matrix formats; INT8 is drained to no quantised row; `mpload` ends at mp7 (R187, R201, R208). -/
theorem test_wf_matrix : (Instr.mlatch x0 1 5 4).wf = false ∧ (Instr.mdrain x0 1 3 0 4).wf = false ∧ (Instr.mpload x0 5 3 4).wf = false := by
  decide
/-- A transfer without ACQ and REL has SCOPE 0 (R210). -/
theorem test_wf_flags : (Instr.copy x0 4 5 false false false 1).wf = false := by decide
/-- Special registers have numbers, and a system operation a token register (R292, R313). -/
theorem test_wf_system : (Instr.mfsr x0 4 0x0A).wf = false ∧ (Instr.csave x0 0).wf = false := by decide
/-- `cbr` has three modes, `cwait` three conditions (R350). -/
theorem test_wf_command : (Instr.cbr 3 4 0).wf = false ∧ (Instr.cbr 0 4 0).wf = false ∧ (Instr.cwait 1 2 3).wf = false := by decide
/-- `pcmp` has six conditions; a skip skips a word at least (R269). -/
theorem test_wf_pip : (Instr.pcmp 0 1 2 false 6).wf = false ∧ (Instr.pskip 0).wf = false := by decide

/-! ## Words written out from the encodings -/

/-- R120, R121: RRI with a guard and an IX bit: OP | D | A | I14. -/
theorem test_decode_addi : decodeSyllable 0x080813E8 0x89 =
    .ok (.addi { guard := some { neg := false, p := 2 }, ix := 1 } { n := false, r := 4 } (.s 4) 0x3E8) := by decide +kernel
/-- R123: a load of 8 bytes of class vault at offset 3 × 8 from s8. -/
theorem test_decode_ld : decodeSyllable 0xA0108D03 0 = .ok (.ld x0 3 1 false 4 8 3) := by decide +kernel
/-- R122: a branch 16 syllables back. -/
theorem test_decode_br : decodeSyllable 0xA87FFFF0 0 = .ok (.br x0 0x7FFFF0) := by decide +kernel
/-- R124: a vector sum of 512 bits of FP32. -/
theorem test_decode_vadd : decodeSyllable 0x30104146 0 = .ok (.vadd x0 .w512 false 0 { n := false, r := 4 } (.v 5) (.v 6)) := by
  decide +kernel
/-- R124: block scale and quantisation of FP32 to E2M1. -/
theorem test_decode_quant : decodeSyllable 0xB9C28850 0 = .ok (.vmaxe x0 .w1024 false { n := false, r := 10 } (.v 8) 5 0) ∧
    decodeSyllable 0xBA424850 0 = .ok (.vcvtq x0 .w1024 false { n := false, r := 9 } (.v 8) 5 0) := by decide +kernel
/-- R193: a pass, a latch load and a row read. -/
theorem test_decode_matrix : decodeSyllable 0xCAA400C0 0 = .ok (.mma x0 2 1 0 0 0 12 false) ∧
    (decodeSyllable 0xCBA0A000 0).isOk = true ∧ (decodeSyllable 0xC9A12140 0).isOk = true := by decide +kernel
/-- R211: `step`, `barw.a`, `qget` and `qput`. -/
theorem test_decode_transfer : decodeSyllable 0xDB060000 0 = .ok (.step x0 3) ∧ decodeSyllable 0xDA458000 0 = .ok (.barwA x0 5) ∧
    decodeSyllable 0xD9030400 0 = .ok (.qget x0 12 4) ∧ decodeSyllable 0xD8C34700 0 = .ok (.qput x0 13 7) := by decide +kernel
/-- R313: `eret`, `mfsr s4, SCAUSE` and `tlbinv.page s52, s53`. -/
theorem test_decode_system : decodeSyllable 0xE0800000 0 = .ok (.eret x0) ∧ decodeSyllable 0xE1044300 0 = .ok (.mfsr x0 4 0x43) ∧
    decodeSyllable 0xE3E9A800 0 = .ok (.tlbinvPage x0 52 53) := by decide +kernel
/-- R349: `claunch c4, c5, c6`. -/
theorem test_decode_command : decodeCommand 0x79158000 = .ok (.claunch 4 5 6) := by decide +kernel
/-- R269: `pld w0`, `pcnt w1`, `pimm h0`, `ppen w0, w0, w1, h0` and `pend w0`. -/
theorem test_decode_pip : decodePip 0 = .ok (.pld 0) ∧ decodePip 0x09000000 = .ok (.pcnt 1) ∧ decodePip 0x78010000 = .ok (.pimm 0 0x10000) ∧
    decodePip 0x50040000 = .ok (.ppen 0 0 1 0) ∧ decodePip 0x98000000 = .ok (.pend 0) := by decide +kernel
/-- R106: a header that lends nothing. -/
theorem test_decode_header : decodeHeader 0xF8000000 = .ok (.nop false 0 0 0) ∧ decodeSyllable 0xF8000000 0 = .error .header := by
  decide +kernel
/-- R100, R105: reserved majors and field values are refused by name. -/
theorem test_decode_refused : decodeSyllable 0x68000000 0 = .error .reservedMajor ∧ decodeSyllable 0x30104146 0x40 = .error .badField ∧
    decodeCommand 0xB8000000 = .error .undefinedCode ∧ decodePip 0xA0000000 = .error .undefinedCode := by decide +kernel
/-- The host's words run where the next step fetches them (log 9). -/
theorem test_decode_table_word : decodeTableWord 32 0x79158000 = some (.claunch 4 5 6) ∧ decodeTableWord 32 0xE0800000 = some (.eret x0) := by
  decide +kernel

/-! ## The algorithms that the spec names (R261, R391, R392) -/

/-- R392: SHA-384 of "abc", from FIPS 180-4's example. -/
theorem test_sha384 : (sha384 [0x61, 0x62, 0x63]).take 4 = [0xCB, 0x00, 0x75, 0x3F] := by decide +kernel
/-- R261: AES-256 of FIPS 197's example vector. -/
theorem test_aes256 : (aes256 ((List.range 32).map (BitVec.ofNat 8 ·)) ((List.range 16).map (BitVec.ofNat 8 <| 17 * ·))).take 4 =
    [0x8E, 0xA2, 0xB7, 0xCA] := by decide +kernel
/-- R392: the base point of brainpoolP384r1 lies on the curve (RFC 5639). -/
theorem test_curve : (ecG.map ecOn) = some true := by decide +kernel

/-! ## Witnesses: states and operands that meet the hypotheses of the statements, clause by clause -/

/-- The hypotheses of `RegisterReadAfterWrite`, `SupervisorBank` and `LandingKeepsTheLatest`: register numbers. -/
theorem witness_RegisterFiles : (0 : BitVec 6) = 0 ∧ (0 : BitVec 4) = 0 ∧ 48 ≤ (48 : BitVec 6).toNat ∧ 12 ≤ (12 : BitVec 4).toNat ∧
    (47 : BitVec 6).toNat < 48 ∧ (11 : BitVec 4).toNat < 12 ∧ (4 : BitVec 6) ≠ 0 ∧ (usr.me.priv = false ∧ sup.me.priv = true) := by
  decide +kernel
/-- The hypotheses of `LoopBackEvaluation`: the innermost level ends here and is over, the next one loops back. -/
theorem witness_LoopBackEvaluation : endb.bun.pushed = false ∧
    LoopEval endb.bun.base endb.ctx.loops.reverse [{ lvl 0 with idx := 1 }] (some 0x10008) :=
  ⟨by decide +kernel, .pop (lvl 2) _ _ _ (by decide +kernel) (by decide) (.back (lvl 0) [] (by decide +kernel) (by decide))⟩
/-- The hypotheses of `UnmappedAccessTraps`: a load and a store of a hole. -/
theorem witness_UnmappedAccessTraps : storeRow vlt (.st x0 3 6 7 0) = some (x0, (Uses.none.r 6).r 7, 0xFFF0000000000000, [6, 0, 0, 0, 0, 0, 0, 0]) ∧
    loadRow vlt (.ld x0 3 1 false 4 7 0) = some (x0, 7, 8, false, 1, 4, 0xFFF0000000000000) ∧ (Instr.st x0 3 6 7 0).wf = true ∧
    (Instr.ld x0 3 1 false 4 7 0).wf = true ∧ vlt.dev.wbuf = [] ∧ vlt.Ready x0 ((Uses.none.r 6).r 7) ∧ vlt.Ready x0 (Uses.none.r 7) ∧
    rowSpan 0xFFF0000000000000 8 = .hole := by
  and_intros <;> first | decide +kernel | rfl
/-- The hypotheses of `AllocationListRead`: a good list and one with a reserved bit. -/
theorem witness_AllocationListRead : (Instr.kalloc x0 4 5 6 false false 0).wf = true ∧ (lst 0).dev.wbuf = [] ∧
    (lst 0).Ready x0 ((Uses.none.r 5).r 6) ∧ Quiet (lst 0) ∧ (lst 0).sreg 5 = 0x300 ∧ (lst 0).sreg 6 = 2 ∧ (lst 0).arenaUndef 0x300 = false ∧
    kallocReqs (lst 0) 0x300 2 = [0x20001, 0x30005] ∧ (lst 16).dev.wbuf = [] ∧ (lst 16).Ready x0 ((Uses.none.r 5).r 6) ∧ Quiet (lst 16) ∧
    (lst 16).sreg 5 = 0x300 ∧ (lst 16).sreg 6 = 2 ∧ (lst 16).arenaUndef 0x300 = false ∧ kallocReqs (lst 16) 0x300 2 = [0x20001, 0x31005] ∧
    field 0x20001 16 8 ≠ 0 ∧ field 0x20001 12 4 = 0 ∧ field 0x30005 16 8 ≠ 0 ∧ field 0x30005 12 4 = 0 ∧ field 0x31005 12 4 ≠ 0 := by
  decide +kernel
/-- The hypotheses of `OverlayFills`: a bundle whose segment is in no half, and a copy that has begun. -/
theorem witness_OverlayFills : ovm.dev.wbuf = [] ∧ ovm.me.run = .running ∧ ovm.me.clk.gap = 0 ∧
    ovm.fetchBundle ovm.dev.cur.core ovm.me.ctx.pc.toNat = .wait 0x10040 ∧ ovm.me.imem.waiting ≠ some (0x10040 / 64) ∧
    ovm.me.imem.copy = none ∧ ovm.fetchWord ovm.dev.cur.core 0x10040 = .miss ∧
    ovm.me.imem.find (ovm.coreImages ovm.dev.cur.core) 0x10040 = none ∧
    findSeg (ovm.coreImages ovm.dev.cur.core) 0x10040 = some (0, 0, 0x10000, 0x1000) ∧ ovm.me.imem.lastHalf = none ∧
    (after .overlayMiss ovm).dev.wbuf = [] ∧ (after .overlayMiss ovm).mem.wf = true ∧ (after .overlayMiss ovm).me.imem.refetch = none ∧
    (after .overlayMiss ovm).me.imem.copy = some { half := 0, line := 1, left := 64 } ∧
    (after .overlayMiss ovm).me.imem.halves.get 0 = some { image := 0, seg := 0, addr := 0x10000, len := 0x1000, have_ := 0, bad := 0 } := by
  decide +kernel

/-- The hypotheses of `ScalarOperationResults`, clause by clause. -/
theorem witness_ScalarOperationResults :
    ((Instr.addi xg d4 (SSrc.s 5) 1000).wf = true ∧ scalarRow usr (Instr.addi xg d4 (SSrc.s 5) 1000) = some rAddi ∧
    usr.dev.wbuf = [] ∧ usr.Ready rAddi.x rAddi.u ∧ usr.Room ∧ (Instr.mulh xh dn (SSrc.y 0) (SSrc.s 63)).wf = true) ∧
    (scalarRow usr (Instr.mulh xh dn (SSrc.y 0) (SSrc.s 63)) = some rMulh ∧ usr.Ready rMulh.x rMulh.u) := by
  exact ⟨by decide +kernel, by decide +kernel⟩
/-- The hypotheses of `DivisionResult`, clause by clause. -/
theorem witness_DivisionResult :
    divRow usr (Instr.rem x0 d4 (SSrc.s 5) (SSrc.s 0)) = some (x0, d4, SSrc.s 5, SSrc.s 0, 5) ∧ usr.dev.wbuf = [] ∧
    usr.Ready x0 ((Uses.none.s (SSrc.s 5)).s (SSrc.s 0)) ∧ (dividerFreed usr).Room := by
  decide +kernel
/-- The hypotheses of `FieldPredicateAndKvaResult`, clause by clause. -/
theorem witness_FieldPredicateAndKvaResult :
    (Instr.bfi x0 d4 (SSrc.s 5) 60 3).wf = true ∧ scalarRow2 usr (Instr.bfi x0 d4 (SSrc.s 5) 60 3) = some rBfi ∧ usr.dev.wbuf = [] ∧
    usr.Ready rBfi.x rBfi.u ∧ usr.Room := by
  decide +kernel
/-- The hypotheses of `PredicateResult`, clause by clause. -/
theorem witness_PredicateResult :
    (Instr.cmpi x0 2 7 (SSrc.s 5) 6).wf = true ∧
    predRow usr (Instr.cmpi x0 2 7 (SSrc.s 5) 6) = some (x0, Uses.none.s (SSrc.s 5), 7, true) ∧ usr.dev.wbuf = [] ∧
    usr.Ready x0 (Uses.none.s (SSrc.s 5)) ∧ usr.Room := by
  decide +kernel
/-- The hypotheses of `PredicateFileAndGeneratorWrites`, clause by clause. -/
theorem witness_PredicateFileAndGeneratorWrites :
    usr.dev.wbuf = [] ∧ usr.me.run = Run.running ∧ usr.Ready x0 (Uses.none.s (SSrc.s 7)) ∧ RoomFor usr 15 ∧
    usr.Ready x0 ((Uses.none.s (SSrc.s 7)).s (SSrc.s 8)) := by
  decide +kernel
/-- The hypotheses of `FalseGuardDoesNothing`, clause by clause. -/
theorem witness_FalseGuardDoesNothing :
    (Instr.addi xf d4 (SSrc.s 5) 7).syl.isSome = true ∧ usr.dev.wbuf = [] ∧
    (∀ n ∈ namedLatches (Instr.addi xf d4 (SSrc.s 5) 7), (usr.me.latch.get n).stale = false) ∧
    usr.me.guard (Instr.addi xf d4 (SSrc.s 5) 7).lent = false := by
  decide +kernel
/-- The hypotheses of `StaleLatchTraps`, clause by clause. -/
theorem witness_StaleLatchTraps :
    scalarUses stl (Instr.add x0 d4 (SSrc.y 0) (SSrc.s 6)) = some (x0, (Uses.none.s (SSrc.y 0)).s (SSrc.s 6)) ∧ stl.dev.wbuf = [] ∧
    stl.me.stale ((Uses.none.s (SSrc.y 0)).s (SSrc.s 6)) = true := by
  decide +kernel
/-- The hypotheses of `PendingTokenHolds`, clause by clause. -/
theorem witness_PendingTokenHolds :
    scalarUses pnd (Instr.add x0 d4 (SSrc.s 5) (SSrc.s 6)) = some (x0, (Uses.none.s (SSrc.s 5)).s (SSrc.s 6)) ∧ pnd.dev.wbuf = [] ∧
    pnd.me.stale ((Uses.none.s (SSrc.s 5)).s (SSrc.s 6)) = false ∧ pnd.me.guard x0 = true ∧
    List.findSome? pnd.me.pendingOn ((Uses.none.s (SSrc.s 5)).s (SSrc.s 6)).regs = some 9 := by
  decide +kernel
/-- The hypotheses of `SixtyFifthResultTraps`, clause by clause. -/
theorem witness_SixtyFifthResultTraps :
    (Instr.add x0 d4 (SSrc.s 5) (SSrc.s 6)).wf = true ∧
    (scalarRow f64 (Instr.add x0 d4 (SSrc.s 5) (SSrc.s 6)) = some rAdd ∨ scalarRow2 f64 (Instr.add x0 d4 (SSrc.s 5) (SSrc.s 6)) =
      some rAdd) ∧
    f64.dev.wbuf = [] ∧ f64.Ready rAdd.x rAdd.u ∧ f64.me.priv = false ∧ 64 ≤ f64.me.inFlight := by
  decide +kernel
/-- The hypotheses of `LocalScalarLoad`, clause by clause. -/
theorem witness_LocalScalarLoad :
    ((Instr.ld x0 3 0 false 4 5 1).wf = true ∧ lsw.dev.wbuf = [] ∧ lsw.Ready x0 (Uses.none.r 5) ∧ lsw.Room ∧ Quiet lsw ∧
    lsw.me.ecc = false) ∧ (lsw.live = true ∧ rowSpan (Config.lsBase + 4088) 8 = Row.ls) ∧
    loadRow lsw (Instr.ld x0 3 0 false 4 5 1) = some (x0, 5, 8, false, 0, 4, Config.lsBase + 4088) := by
  exact ⟨by decide +kernel, by decide +kernel, by trivial⟩
/-- The hypotheses of `LoadIssues`, clause by clause. -/
theorem witness_LoadIssues :
    ((Instr.ld x0 3 1 false 4 5 1).wf = true ∧ vlt.dev.wbuf = [] ∧ vlt.Ready x0 (Uses.none.r 5) ∧ vlt.Room ∧ vlt.me.ecc = false ∧
    vlt.live = true) ∧ (LateRoom vlt ∧ NoEntryAhead vlt 0 (Config.vaultBase + 72) 8 ∧
    vlt.dataFault Acc.read true (Config.vaultBase + 72) 8 = none) ∧
    loadRow vlt (Instr.ld x0 3 1 false 4 5 1) = some (x0, 5, 8, false, 1, 4, Config.vaultBase + 72) := by
  exact ⟨by decide +kernel, by decide +kernel, by trivial⟩
/-- The hypotheses of `LocalScalarStore`, clause by clause. -/
theorem witness_LocalScalarStore :
    (storeRow lsw (Instr.st x0 2 6 5 1) = some (x0, (Uses.none.r 6).r 5, Config.lsBase + 4084, [6, 0, 0, 0]) ∧
    (Instr.st x0 2 6 5 1).wf = true ∧ lsw.dev.wbuf = [] ∧ lsw.mem.wf = true ∧ lsw.Ready x0 ((Uses.none.r 6).r 5) ∧ Quiet lsw) ∧
    (lsw.zoneAt (Config.lsBase + 4084) [6, 0, 0, 0].length = none ∧ rowSpan (Config.lsBase + 4084) [6, 0, 0, 0].length = Row.ls) := by
  exact ⟨by decide +kernel, by decide +kernel⟩
/-- The hypotheses of `ScalarStoreFrame`, clause by clause. -/
theorem witness_ScalarStoreFrame :
    (storeRow vlt (Instr.st x0 2 6 5 1) = some (x0, (Uses.none.r 6).r 5, Config.vaultBase + 68, [6, 0, 0, 0]) ∧
    (Instr.st x0 2 6 5 1).wf = true ∧ vlt.dev.wbuf = [] ∧ vlt.mem.wf = true ∧ vlt.Ready x0 ((Uses.none.r 6).r 5) ∧ LateRoom vlt) ∧
    (NoEntryAhead vlt 3 (Config.vaultBase + 68) [6, 0, 0, 0].length ∧
    vlt.storeFault (Config.vaultBase + 68) [6, 0, 0, 0].length = none) := by
  exact ⟨by decide +kernel, by decide +kernel⟩
/-- The hypotheses of `LocalAtomicEffect`, clause by clause. -/
theorem witness_LocalAtomicEffect :
    (amo8.wf = true ∧ lsw.dev.wbuf = [] ∧ lsw.mem.wf = true ∧ lsw.Ready rAmo.x rAmo.u ∧ RoomFor lsw 2 ∧ Quiet lsw) ∧
    (lsw.me.ecc = false ∧ lsw.live = true ∧ rowSpan rAmo.ea rAmo.size = Row.ls) ∧ atomicRow lsw amo8 = some rAmo := by
  exact ⟨by decide +kernel, by decide +kernel, by trivial⟩
/-- The hypotheses of `PrefetchTranslatesOnly`, clause by clause. -/
theorem witness_PrefetchTranslatesOnly :
    (x0.ok = true ∧ vlt.dev.wbuf = [] ∧ vlt.Ready x0 (Uses.none.r 5) ∧
    rowOf (eaOf vlt x0 (5 : BitVec 6) (1 : BitVec 7) 64) ≠ Row.paged ∧ pag.dev.wbuf = [] ∧ pag.Ready x0 (Uses.none.r 5)) ∧
    rowOf (eaOf pag x0 (5 : BitVec 6) (1 : BitVec 7) 64) = Row.paged := by
  exact ⟨by decide +kernel, by decide +kernel⟩
/-- The hypotheses of `FenceIssuesLanding`, clause by clause. -/
theorem witness_FenceIssuesLanding :
    fenceRow (Instr.fenceAr x0 3 1) = some (x0, 1) ∧ usr.dev.wbuf = [] ∧ usr.Ready x0 Uses.none := by
  decide +kernel
/-- The hypotheses of `JumpsToAlignedTargets`, clause by clause. -/
theorem witness_JumpsToAlignedTargets :
    (jumpRow usr (Instr.call x0 4) = some (x0, Uses.none, 65552, 2, true) ∧ (Instr.call x0 4).wf = true ∧ usr.dev.wbuf = [] ∧
    usr.Ready x0 Uses.none ∧ usr.live = true ∧ (true = true → usr.Room)) ∧ BitVec.toNat (65552 : W64) % 4 = (0 : ℕ) := by
  exact ⟨by decide +kernel, by decide +kernel⟩
/-- The hypotheses of `MisalignedTargetTraps`, clause by clause. -/
theorem witness_MisalignedTargetTraps :
    (jumpRow usr (Instr.bri x0 (SSrc.s 5)) = some (x0, Uses.none.s (SSrc.s 5), 5, 3, false) ∧ (Instr.bri x0 (SSrc.s 5)).wf = true ∧
    usr.dev.wbuf = []) ∧ (usr.Ready x0 (Uses.none.s (SSrc.s 5)) ∧ BitVec.toNat (5 : W64) % 4 ≠ (0 : ℕ) ∧
    jumpRow usr (Instr.calli x0 (SSrc.s 5)) = some (x0, Uses.none.s (SSrc.s 5), 5, 3, true)) ∧
    ((Instr.calli x0 (SSrc.s 5)).wf = true ∧ usr.live = true ∧ usr.Room) ∧ (bse.dev.wbuf = [] ∧
    bse.Ready x0 (Uses.none.s (SSrc.s 8)) ∧ Config.lsBase + 1024 = BitVec.toNat (bse.src (SSrc.s 8)) / 8 * 8) ∧
    (Config.lsBase + 1024 = Config.lsBase + 1024 + 8 * bucket (BitVec.toNat bse.me.ctx.occ) (BitVec.toNat bse.me.ctx.draft) ∧
    rowSpan (Config.lsBase + 1024) 512 = Row.ls ∧ (bse.me.bun.entry = some 131074 ∨ bse.me.bun.entry = none ∧ Quiet bse ∧
    131074 = w64 (memNat bse (lsPlace bse (Config.lsBase + 1024)) 8))) ∧ BitVec.toNat (131074 : W64) % 4 ≠ (0 : ℕ) := by
  exact ⟨by decide +kernel, by decide +kernel, by decide +kernel, by decide +kernel, by decide +kernel, by decide +kernel⟩
/-- The hypotheses of `ConditionalBranch`, clause by clause. -/
theorem witness_ConditionalBranch :
    (x0.ok = true ∧ usr.dev.wbuf = [] ∧ usr.Ready x0 Uses.none ∧ (usr.me.pred 3 ^^ true) = true ∧
    BitVec.toNat (relative usr x0 (4 : BitVec 18)) % 4 = (0 : ℕ) ∧ (usr.me.pred 3 ^^ false) = false) ∧ (xf.ok = true ∧
    usr.me.guard xf = false) := by
  exact ⟨by decide +kernel, by decide +kernel⟩
/-- The hypotheses of `LoopPushed`, clause by clause. -/
theorem witness_LoopPushed :
    (loopRow usr (Instr.loop x0 (LoopCount.imm 3) 4) = some (x0, Uses.none, 3, 65552) ∧
    (Instr.loop x0 (LoopCount.imm 3) 4).wf = true ∧ usr.dev.wbuf = [] ∧ usr.Ready x0 Uses.none ∧ usr.me.priv = false ∧
    usr.me.ctx.loops.length < 6) ∧ 3 ≠ (0 : ℕ) := by
  exact ⟨by decide +kernel, by decide +kernel⟩
/-- The hypotheses of `LoopSkippedOrBroken`, clause by clause. -/
theorem witness_LoopSkippedOrBroken :
    (loopRow lps (Instr.loop x0 (LoopCount.imm 0) 9) = some (x0, Uses.none, 0, 65572) ∧
    (Instr.loop x0 (LoopCount.imm 0) 9).wf = true ∧ lps.dev.wbuf = [] ∧ lps.Ready x0 Uses.none ∧ lps.me.priv = false ∧
    lps.me.ctx.loops.length < 6) ∧
    (lps.fetchBundle lps.dev.cur.core (BitVec.toNat (65572 : W64)) = Bundle.words [(2147483648 : BitVec 32)] ∧
    stopped [2147483648] = true ∧ BitVec.toNat (65572 : W64) % 4 = (0 : ℕ) ∧ lpb.dev.wbuf = [] ∧ lpb.Ready x0 Uses.none ∧
    lpb.me.priv = false) ∧ (lpb.me.ctx.loops = [lvl 0] ++ [lvb] ∧
    lpb.fetchBundle lpb.dev.cur.core (BitVec.toNat lvb.stop) = Bundle.words [2147483648] ∧ BitVec.toNat lvb.stop % 4 = 0) := by
  exact ⟨by decide +kernel, by decide +kernel, by decide +kernel⟩
/-- The hypotheses of `IllegalLoopUse`, clause by clause. -/
theorem witness_IllegalLoopUse :
    (loopRow six (Instr.loop x0 (LoopCount.imm 3) 4) = some (x0, Uses.none, 3, 65552) ∧
    (Instr.loop x0 (LoopCount.imm 3) 4).wf = true ∧ six.dev.wbuf = [] ∧ six.Ready x0 Uses.none ∧
    (six.me.priv = true ∨ 6 ≤ six.me.ctx.loops.length) ∧ usr.dev.wbuf = []) ∧ (usr.Ready x0 Uses.none ∧
    (usr.me.priv = true ∨ usr.me.ctx.loops = []) ∧ sup.dev.wbuf = [] ∧ sup.Ready x0 Uses.none ∧ sup.me.priv = true) := by
  exact ⟨by decide +kernel, by decide +kernel⟩
/-- The hypotheses of `ScheduleSelected`, clause by clause. -/
theorem witness_ScheduleSelected :
    (vlt.dev.wbuf = [] ∧ vlt.Ready x0 (Uses.none.s (SSrc.s 8)) ∧ Config.lsBase + 1024 = BitVec.toNat (vlt.src (SSrc.s 8)) / 8 * 8 ∧
    Config.lsBase + 1024 = Config.lsBase + 1024 + 8 * bucket (BitVec.toNat vlt.me.ctx.occ) (BitVec.toNat vlt.me.ctx.draft) ∧
    rowSpan (Config.lsBase + 1024) 512 = Row.ls ∧ (vlt.me.bun.entry = some 0 ∨ vlt.me.bun.entry = none ∧ Quiet vlt ∧
    0 = w64 (memNat vlt (lsPlace vlt (Config.lsBase + 1024)) 8))) ∧ (BitVec.toNat (0 : W64) % 4 = (0 : ℕ) ∧
    vlt.Ready x0 (Uses.none.s (SSrc.s 5)) ∧ Config.vaultBase + 64 = BitVec.toNat (vlt.src (SSrc.s 5)) / 8 * 8 ∧
    Config.vaultBase + 64 = Config.vaultBase + 64 + 8 * bucket (BitVec.toNat vlt.me.ctx.occ) (BitVec.toNat vlt.me.ctx.draft) ∧
    rowSpan (Config.vaultBase + 64) 512 ≠ Row.ls) := by
  exact ⟨by decide +kernel, by decide +kernel⟩
/-- The hypotheses of `PauseExitAndHeader`, clause by clause. -/
theorem witness_PauseExitAndHeader :
    ((Instr.pause x0 (PauseCount.imm 0)).wf = true ∧ usr.dev.wbuf = [] ∧ usr.Ready x0 (pauseUses (PauseCount.imm 0)) ∧
    usr.me.waiting.pause.getD (pauseCount usr x0 (PauseCount.imm 0)) = 0 ∧ (Instr.pause x0 (PauseCount.imm 5)).wf = true ∧
    usr.Ready x0 (pauseUses (PauseCount.imm 5))) ∧ (usr.me.waiting.pause.getD (pauseCount usr x0 (PauseCount.imm 5)) = 4 + 1 ∧
    pau0.dev.wbuf = [] ∧ pau0.me.waiting.pause = some 0 ∧ pau0.me.bun.hold = some Hold.pause ∧ pau.dev.wbuf = [] ∧
    (pau.me.waiting.pause ≠ some 0 ∨ pau.me.bun.hold ≠ some Hold.pause)) ∧ (usr.Ready x0 Uses.none ∧ usr.me.priv = false ∧
    ovm.dev.wbuf = [] ∧ ovm.me.imem.find (ovm.coreImages ovm.dev.cur.core) (BitVec.toNat ovm.me.bun.base) = none ∧
    seg2.dev.wbuf = [] ∧ seg2.me.imem.find (seg2.coreImages seg2.dev.cur.core) (BitVec.toNat seg2.me.bun.base) = some (0, half0)) ∧
    ((none = (List.find? (fun i ↦ i.id == half0.image) (seg2.coreImages seg2.dev.cur.core)).bind fun i ↦
      i.segs[BitVec.toNat (9 : BitVec 8)]?) ∧
    (some (65536, (4096 : ℕ)) = (List.find? (fun i ↦ i.id == half0.image) (seg2.coreImages seg2.dev.cur.core)).bind fun i ↦
      i.segs[BitVec.toNat (0 : BitVec 8)]?) ∧
    (some (131072, (256 : ℕ)) = (List.find? (fun i ↦ i.id == half0.image) (seg2.coreImages seg2.dev.cur.core)).bind fun i ↦
      i.segs[BitVec.toNat (1 : BitVec 8)]?) ∧
    seg2.me.imem.copy = none ∧
    (∀ (g : Fin 2) (y : Half), seg2.me.imem.halves.get g = some y → y.image = half0.image → y.seg ≠ BitVec.toNat (1 : BitVec 8))) ∧
    (seg2.me.imem.copy.isSome = true ∨ ∃ g y, seg2.me.imem.halves.get g = some y ∧ y.image = half0.image ∧
    y.seg = BitVec.toNat (0 : BitVec 8)) := by
  exact ⟨by decide +kernel, by decide +kernel, by decide +kernel, by decide +kernel, by trivial⟩

/-- The hypotheses of `VectorResult`, clause by clause. -/
theorem witness_VectorResult :
    (iVadd.wf = true ∧ vec.dev.wbuf = [] ∧ vec.Ready rVadd.x rVadd.u ∧ vec.Room ∧
    (rVadd.d.n = true ∨ vec.me.boundSlot rVadd.d.r = none)) ∧ vecRow iVadd = some rVadd := by
  exact ⟨by decide +kernel, by trivial⟩
/-- The hypotheses of `IntegerLanes`, clause by clause. -/
theorem witness_IntegerLanes :
    (laneArgs iVaddI = some (xi, Width.w512, 1, VSrc.v 5, VSrc.v 6) ∧ isI (xi.ty 1) = true ∧ xi.sat = false ∧
    31 < lanes Width.w512 (tyBits (xi.ty 1))) ∧ vecRow iVaddI = some rVaddI := by
  exact ⟨by decide +kernel, by trivial⟩
/-- The hypotheses of `MaskScalarAndScaleResults`, clause by clause. -/
theorem witness_MaskScalarAndScaleResults :
    (vec.dev.wbuf = [] ∧ vec.Ready x0 ((Uses.none.v (VSrc.v 5)).v (VSrc.v 6)) ∧ vec.Room ∧ 32 = tyBits (x0.ty (0 : BitVec 1)) ∧
    vec.Ready x0 Uses.none ∧ vec.Ready x0 (Uses.none.v (VSrc.v 5))) ∧
    ((Instr.vext x0 Width.w512 false 0 4 (VSrc.v 5) 15).wf = true ∧ vec.Ready x0 ((Uses.none.v (VSrc.v 8)).d v10) ∧ RoomFor vec 2 ∧
    vec.live = true ∧ (v10.n = true ∨ vec.me.boundSlot v10.r = none) ∧
    blockScale 5 (List.map ((fmtOf 0).decodeFz (popped vec ((Uses.none.v (VSrc.v 8)).d v10)).me.ctx.fz) (elems (tyBits 0)
      (lanes Width.w1024 (tyBits 0)) ((popped vec ((Uses.none.v (VSrc.v 8)).d v10)).me.vsrc (VSrc.v 8)))) =
      scaleOf (popped vec ((Uses.none.v (VSrc.v 8)).d v10)) Width.w1024 (VSrc.v 8) 5 0) := by
  exact ⟨by decide +kernel, by decide +kernel⟩
/-- The hypotheses of `ReadStreamPops`, clause by clause. -/
theorem witness_ReadStreamPops :
    stm.me.boundSlot 25 = some (2, slot2) ∧ slot2.dir = false ∧ slot2.fifo = fifo2.getD 0 fe0 :: List.drop 1 fifo2 ∧
    25 ∈ ((Uses.none.v (VSrc.v 25)).v (VSrc.v 25)).vs ∧ stm.me.bun.pops = [] := by
  decide +kernel
/-- The hypotheses of `LocalVectorLoad`, clause by clause. -/
theorem witness_LocalVectorLoad :
    ((Instr.vld x0 Width.w256 0 7 8 1).wf = true ∧ vel.dev.wbuf = [] ∧ vel.Ready x0 ((Uses.none.r 8).d v7) ∧ vel.Room ∧ Quiet vel ∧
    vel.me.ecc = false) ∧ (vel.live = true ∧ vel.me.boundSlot 7 = none ∧
    (∀ e ∈ [(Config.lsBase + 1056, 32)], rowSpan e.1 e.2 = Row.ls)) ∧
    vloadRow vel (Instr.vld x0 Width.w256 0 7 8 1) = some (x0, (Uses.none.r 8).d v7, Width.w256, 0, 7, [(Config.lsBase + 1056, 32)]) := by
  exact ⟨by decide +kernel, by decide +kernel, by trivial⟩
/-- The hypotheses of `VectorLoadIssues`, clause by clause. -/
theorem witness_VectorLoadIssues :
    ((Instr.vld x0 Width.w256 1 7 8 1).wf = true ∧ vev.dev.wbuf = [] ∧ vev.Ready x0 ((Uses.none.r 8).d v7) ∧ vev.Room ∧
    vev.live = true ∧ vev.me.ecc = false) ∧ (NewNumbers vev ∧
    (∀ e ∈ [(Config.vaultBase + 1056, 32)], vev.dataFault Acc.read true e.1 e.2 = none ∧ NoEntryAhead vev 0 e.1 e.2) ∧
    TlbsServe vev Acc.read [(Config.vaultBase + 1056, 32)]) ∧
    vloadRow vev (Instr.vld x0 Width.w256 1 7 8 1) = some (x0, (Uses.none.r 8).d v7, Width.w256, 1, 7, [(Config.vaultBase + 1056, 32)]) := by
  exact ⟨by decide +kernel, by decide +kernel, by trivial⟩
/-- The hypotheses of `LocalVectorStore`, clause by clause. -/
theorem witness_LocalVectorStore :
    (iVst.wf = true ∧ vel.dev.wbuf = [] ∧ vel.mem.wf = true ∧ vel.Ready wVel.1 wVel.2.1 ∧ Quiet vel ∧
    (∀ e ∈ wVel.2.2.1, rowSpan e.1 e.2 = Row.ls ∧ vel.zoneAt e.1 e.2 = none)) ∧
    vstoreRow vel iVst = some (wVel.1, wVel.2.1, wVel.2.2.1, wVel.2.2.2) := by
  exact ⟨by decide +kernel, by trivial⟩
/-- The hypotheses of `VectorStoreFrame`, clause by clause. -/
theorem witness_VectorStoreFrame :
    (iVst.wf = true ∧ vev.dev.wbuf = [] ∧ vev.mem.wf = true ∧ vev.Ready wVev.1 wVev.2.1 ∧ NewNumbers vev ∧
    (∀ e ∈ wVev.2.2.1, vev.storeFault e.1 e.2 = none ∧ NoEntryAhead vev 3 e.1 e.2)) ∧ TlbsServe vev Acc.write wVev.2.2.1 ∧
    vstoreRow vev iVst = some (wVev.1, wVev.2.1, wVev.2.2.1, wVev.2.2.2) := by
  exact ⟨by decide +kernel, by decide +kernel, by trivial⟩
/-- The hypotheses of `MatrixCommandQueued`, clause by clause. -/
theorem witness_MatrixCommandQueued :
    (matRow rtn (Instr.tzero x0 2 5 1) = some rTzero ∧ (Instr.tzero x0 2 5 1).wf = true ∧ rtn.dev.wbuf = [] ∧
    rtn.Ready rTzero.x rTzero.u ∧ rtn.Room ∧ rtn.live = true) ∧ ((rTzero.owned = true → rtn.me.ownsTiles = true) ∧
    rtn.me.matPending < 8 ∧ rtn.me.routineActive = false ∧
    (synced rtn).me.matFault (Instr.tzero x0 2 5 1) rTzero.a rTzero.b = none) ∧ routineThere rtn (Instr.tzero x0 2 5 1) := by
  exact ⟨by decide +kernel, by decide +kernel, by trivial⟩
/-- The hypotheses of `MatrixChecksInOrder`, clause by clause. -/
theorem witness_MatrixChecksInOrder :
    (matRow own0 (Instr.tzero x0 2 5 1) = some rTzero ∧ (Instr.tzero x0 2 5 1).wf = true ∧ own0.dev.wbuf = [] ∧
    own0.Ready rTzero.x rTzero.u ∧ rTzero.owned = true ∧ own0.me.ownsTiles = false) ∧
    (matRow ful (Instr.tzero x0 2 5 1) = some rTzero ∧ ful.dev.wbuf = [] ∧ ful.Ready rTzero.x rTzero.u ∧
    (rTzero.owned = true → ful.me.ownsTiles = true) ∧ (8 ≤ ful.me.matPending ∨ ful.me.routineActive = true) ∧
    matRow rtn (Instr.tzero x0 4 5 1) = some rTzero) ∧ ((Instr.tzero x0 4 5 1).wf = true ∧ rtn.dev.wbuf = [] ∧
    rtn.Ready rTzero.x rTzero.u ∧ (rTzero.owned = true → rtn.me.ownsTiles = true) ∧ rtn.me.matPending < 8 ∧
    rtn.me.routineActive = false) ∧ (namedTile (Instr.tzero x0 4 5 1) = some 4 ∧ tcOn ((synced rtn).me.shTile 4) = false ∧
    matRow rtn (Instr.tzero x0 2 127 1) = some rTzero ∧ (Instr.tzero x0 2 127 1).wf = true ∧
    (synced rtn).me.matFault (Instr.tzero x0 2 127 1) rTzero.a rTzero.b = some 10) ∧
    (∀ (x : Lent) (n : BitVec 6), Instr.tzero x0 2 127 1 ≠ Instr.mcall x n) := by
  exact ⟨by decide +kernel, by decide +kernel, by decide +kernel, by decide +kernel, fun _ _ => nofun⟩
/-- The hypotheses of `PairEvents`, clause by clause. -/
theorem witness_PairEvents :
    (twoA.dev.wbuf = [] ∧ twoA.dev.cur.core = 0 ∧ (8 : CoreId) = partnerOf (0 : CoreId) ∧ (twoA.core 0).waitingHalf = some half ∧
    (twoA.core 8).waitingHalf = some half ∧ twoA.pairable 0 8 = true) ∧ (half.cmd.agrees half.cmd = true ∧ half.waited < 4096 ∧
    half.lost = false ∧ twoB.dev.wbuf = [] ∧ twoB.dev.cur.core = 0 ∧ (twoB.core 0).waitingHalf = some half) ∧
    ((twoB.core 8).waitingHalf = some halfB ∧ twoB.pairable 0 8 = true ∧ half.cmd.agrees halfB.cmd = false ∧ lat.dev.wbuf = [] ∧
    lat.dev.cur.core = 0 ∧ (lat.core 0).waitingHalf = some halfL) ∧ ((4096 ≤ halfL.waited ∨ halfL.lost = true) ∧
    twoC.dev.wbuf = [] ∧ twoC.dev.cur.core = 0 ∧ (twoC.core 0).waitingHalf = some half ∧ twoC.taskOf 0 = some tk1 ∧
    twoC.taskOf 8 = some { tk1 with id := 2, rank := 1, where_ := TaskAt.on 8, place := some 8 }) ∧
    ({ tk1 with id := 2, rank := 1, where_ := TaskAt.on 8, place := some 8 }.cohort = tk1.cohort ∧
    BitVec.getLsbD stpD.scause 8 = false ∧ BitVec.setWidth 8 stpD.scause ≠ 19) := by
  exact ⟨by decide +kernel, by decide +kernel, by decide +kernel, by decide +kernel, by decide +kernel⟩
/-- The hypotheses of `MatrixCommandStarts`, clause by clause. -/
theorem witness_MatrixCommandStarts :
    (mst.dev.wbuf = [] ∧ mst.mem.wf = true ∧ mst.me.run = Run.running ∧ mst.me.frozen = false ∧
    mst.me.mat.queue = [cm (Instr.tzero x0 2 5 1), cm (Instr.tcfgOff x0 1)] ∧
    mst.me.mat.canStart (cm (Instr.tzero x0 2 5 1)) mst.me.clk.unf = true) ∧
    ((∀ r ∈ mst.me.mat.running, r.popsAt mst.me.clk.unf = false) ∧ (msi (Instr.tcfg x0 4 5 6 true) 0 0).dev.wbuf = [] ∧
    (msi (Instr.tcfg x0 4 5 6 true) 0 0).mem.wf = true ∧ (msi (Instr.tcfg x0 4 5 6 true) 0 0).me.run = Run.running ∧
    (msi (Instr.tcfg x0 4 5 6 true) 0 0).me.frozen = false ∧
    (msi (Instr.tcfg x0 4 5 6 true) 0 0).me.mat.queue = [cmi (Instr.tcfg x0 4 5 6 true) 0 0]) ∧
    ((msi (Instr.tcfg x0 4 5 6 true) 0 0).me.mat.canStart (cmi (Instr.tcfg x0 4 5 6 true) 0 0) (msi
      (Instr.tcfg x0 4 5 6 true) 0 0).me.clk.unf = true ∧
    (∀ r ∈ (msi (Instr.tcfg x0 4 5 6 true) 0 0).me.mat.running, r.popsAt (msi (Instr.tcfg x0 4 5 6 true) 0 0).me.clk.unf = false) ∧
    (cmi (Instr.tcfg x0 4 5 6 true) 0 0).instr = Instr.tcfg x0 4 5 6 true ∧ (msi (Instr.tzero x0 2 5 1) 0 0).dev.wbuf = [] ∧
    (msi (Instr.tzero x0 2 5 1) 0 0).mem.wf = true ∧ (msi (Instr.tzero x0 2 5 1) 0 0).me.run = Run.running) ∧
    ((msi (Instr.tzero x0 2 5 1) 0 0).me.frozen = false ∧
    (msi (Instr.tzero x0 2 5 1) 0 0).me.mat.queue = [cmi (Instr.tzero x0 2 5 1) 0 0] ∧
    (msi (Instr.tzero x0 2 5 1) 0 0).me.mat.canStart (cmi (Instr.tzero x0 2 5 1) 0 0) (msi
      (Instr.tzero x0 2 5 1) 0 0).me.clk.unf = true ∧
    (∀ r ∈ (msi (Instr.tzero x0 2 5 1) 0 0).me.mat.running, r.popsAt (msi (Instr.tzero x0 2 5 1) 0 0).me.clk.unf = false) ∧
    (cmi (Instr.tzero x0 2 5 1) 0 0).instr = Instr.tzero x0 2 5 1 ∧ (msi (Instr.mscl x0 2 5) 7 0).dev.wbuf = []) ∧
    ((msi (Instr.mscl x0 2 5) 7 0).mem.wf = true ∧ (msi (Instr.mscl x0 2 5) 7 0).me.run = Run.running ∧
    (msi (Instr.mscl x0 2 5) 7 0).me.frozen = false ∧ (msi (Instr.mscl x0 2 5) 7 0).me.mat.queue = [cmi (Instr.mscl x0 2 5) 7 0] ∧
    (msi (Instr.mscl x0 2 5) 7 0).me.mat.canStart (cmi (Instr.mscl x0 2 5) 7 0) (msi (Instr.mscl x0 2 5) 7 0).me.clk.unf = true ∧
    (∀ r ∈ (msi (Instr.mscl x0 2 5) 7 0).me.mat.running, r.popsAt (msi (Instr.mscl x0 2 5) 7 0).me.clk.unf = false)) ∧
    ((cmi (Instr.mscl x0 2 5) 7 0).instr = Instr.mscl x0 2 5 ∧ (msi (Instr.mpset x0 6 5) 7 0).dev.wbuf = [] ∧
    (msi (Instr.mpset x0 6 5) 7 0).mem.wf = true ∧ (msi (Instr.mpset x0 6 5) 7 0).me.run = Run.running ∧
    (msi (Instr.mpset x0 6 5) 7 0).me.frozen = false ∧
    (msi (Instr.mpset x0 6 5) 7 0).me.mat.queue = [cmi (Instr.mpset x0 6 5) 7 0]) ∧
    ((msi (Instr.mpset x0 6 5) 7 0).me.mat.canStart (cmi (Instr.mpset x0 6 5) 7 0) (msi (Instr.mpset x0 6 5) 7 0).me.clk.unf = true ∧
    (∀ r ∈ (msi (Instr.mpset x0 6 5) 7 0).me.mat.running, r.popsAt (msi (Instr.mpset x0 6 5) 7 0).me.clk.unf = false) ∧
    (cmi (Instr.mpset x0 6 5) 7 0).instr = Instr.mpset x0 6 5 ∧ (6 : BitVec 3) ≠ (7 : BitVec 3) ∧
    (msi (Instr.tcfgOff x0 2) 0 0).dev.wbuf = [] ∧ (msi (Instr.tcfgOff x0 2) 0 0).mem.wf = true) ∧
    ((msi (Instr.tcfgOff x0 2) 0 0).me.run = Run.running ∧ (msi (Instr.tcfgOff x0 2) 0 0).me.frozen = false ∧
    (msi (Instr.tcfgOff x0 2) 0 0).me.mat.queue = [cmi (Instr.tcfgOff x0 2) 0 0] ∧
    (msi (Instr.tcfgOff x0 2) 0 0).me.mat.canStart (cmi (Instr.tcfgOff x0 2) 0 0) (msi (Instr.tcfgOff x0 2) 0 0).me.clk.unf = true ∧
    (∀ r ∈ (msi (Instr.tcfgOff x0 2) 0 0).me.mat.running, r.popsAt (msi (Instr.tcfgOff x0 2) 0 0).me.clk.unf = false) ∧
    (cmi (Instr.tcfgOff x0 2) 0 0).instr = Instr.tcfgOff x0 2) ∧
    ((msi (Instr.mlatch x0 1 4 12) 9187201948300870400 0).dev.wbuf = [] ∧
    (msi (Instr.mlatch x0 1 4 12) 9187201948300870400 0).mem.wf = true ∧
    (msi (Instr.mlatch x0 1 4 12) 9187201948300870400 0).me.run = Run.running ∧
    (msi (Instr.mlatch x0 1 4 12) 9187201948300870400 0).me.frozen = false ∧
    (msi (Instr.mlatch x0 1 4 12) 9187201948300870400 0).me.mat.queue = [cmi (Instr.mlatch x0 1 4 12) 9187201948300870400 0] ∧
    (msi (Instr.mlatch x0 1 4 12) 9187201948300870400 0).me.mat.canStart (cmi (Instr.mlatch x0 1 4 12) 9187201948300870400 0)
      (msi (Instr.mlatch x0 1 4 12) 9187201948300870400 0).me.clk.unf = true) ∧
    ((∀ r ∈ (msi (Instr.mlatch x0 1 4 12) 9187201948300870400 0).me.mat.running,
      r.popsAt (msi (Instr.mlatch x0 1 4 12) 9187201948300870400 0).me.clk.unf = false) ∧
    (cmi (Instr.mlatch x0 1 4 12) 9187201948300870400 0).instr = Instr.mlatch x0 1 4 12 ∧
    (msi (Instr.ringcfg x0 0 15 16) 2048 0).dev.wbuf = [] ∧ (msi (Instr.ringcfg x0 0 15 16) 2048 0).mem.wf = true ∧
    (msi (Instr.ringcfg x0 0 15 16) 2048 0).me.run = Run.running ∧ (msi (Instr.ringcfg x0 0 15 16) 2048 0).me.frozen = false) ∧
    ((msi (Instr.ringcfg x0 0 15 16) 2048 0).me.mat.queue = [cmi (Instr.ringcfg x0 0 15 16) 2048 0] ∧
    (msi (Instr.ringcfg x0 0 15 16) 2048 0).me.mat.canStart (cmi (Instr.ringcfg x0 0 15 16) 2048 0) (msi
      (Instr.ringcfg x0 0 15 16) 2048 0).me.clk.unf = true ∧
    (∀ r ∈ (msi (Instr.ringcfg x0 0 15 16) 2048 0).me.mat.running, r.popsAt (msi (Instr.ringcfg x0 0 15 16) 2048 0).me.clk.unf =
      false) ∧
    (cmi (Instr.ringcfg x0 0 15 16) 2048 0).instr = Instr.ringcfg x0 0 15 16 ∧
    fieldNat (cmi (Instr.ringcfg x0 0 15 16) 2048 0).b 0 12 = 0 ∧ (msi (Instr.ringcfg x0 0 15 16) 2048 64).dev.wbuf = []) ∧
    ((msi (Instr.ringcfg x0 0 15 16) 2048 64).mem.wf = true ∧ (msi (Instr.ringcfg x0 0 15 16) 2048 64).me.run = Run.running ∧
    (msi (Instr.ringcfg x0 0 15 16) 2048 64).me.frozen = false ∧
    (msi (Instr.ringcfg x0 0 15 16) 2048 64).me.mat.queue = [cmi (Instr.ringcfg x0 0 15 16) 2048 64] ∧
    (msi (Instr.ringcfg x0 0 15 16) 2048 64).me.mat.canStart (cmi (Instr.ringcfg x0 0 15 16) 2048 64) (msi
      (Instr.ringcfg x0 0 15 16) 2048 64).me.clk.unf = true ∧
    (∀ r ∈ (msi (Instr.ringcfg x0 0 15 16) 2048 64).me.mat.running,
      r.popsAt (msi (Instr.ringcfg x0 0 15 16) 2048 64).me.clk.unf = false)) ∧
    ((cmi (Instr.ringcfg x0 0 15 16) 2048 64).instr = Instr.ringcfg x0 0 15 16 ∧
    fieldNat (cmi (Instr.ringcfg x0 0 15 16) 2048 64).b 0 12 ≠ 0) := by
  exact ⟨by decide +kernel, by decide +kernel, by decide +kernel, by decide +kernel, by decide +kernel, by decide +kernel,
    by decide +kernel, by decide +kernel, by decide +kernel, by decide +kernel, by decide +kernel, by decide +kernel,
    by decide +kernel⟩
/-- The hypotheses of `PassRowLands`, clause by clause. -/
theorem witness_PassRowLands :
    usr.dev.wbuf = [] ∧ oneSum.length ≤ 128 ∧ oneSum[0]? = some Chain.nan := by
  decide +kernel
/-- The hypotheses of `EngineSyllables`, clause by clause. -/
theorem witness_EngineSyllables :
    (engineRow cp0 (Instr.copy x0 4 5 false false false 0) = some rCopy ∧ (Instr.copy x0 4 5 false false false 0).wf = true ∧
    cp0.dev.wbuf = [] ∧ cp0.Ready rCopy.x rCopy.u ∧ rCopy.fault = none ∧
    engineRow cpy (Instr.copy x0 4 5 false false false 0) = some rCop6) ∧ (cpy.dev.wbuf = [] ∧ cpy.Ready rCop6.x rCop6.u ∧
    rCop6.fault = some 6 ∧ engineRowM lgt (Instr.logit x0 4 5 6) = some rLgt ∧ (Instr.logit x0 4 5 6).wf = true ∧
    lgt.dev.wbuf = []) ∧ (lgt.Ready rLgt.x rLgt.u ∧ rLgt.fault = none) := by
  exact ⟨by decide +kernel, by decide +kernel, by decide +kernel⟩
/-- The hypotheses of `StreamSyllables`, clause by clause. -/
theorem witness_StreamSyllables :
    (pat0.dev.wbuf = [] ∧ pat0.Ready x0 (Uses.none.r 6) ∧ pat0.dev.writes = [] ∧ 1032 = field (pat0.sreg (6 : BitVec 6)) 0 20 ∧
    NoEntryOver pat0 0 (Config.lsBase + 1032) 64 ∧ 1032 % 64 ≠ 0) ∧ (pat0.Ready x0 (Uses.none.r 5) ∧
    1024 = field (pat0.sreg (5 : BitVec 6)) 0 20 ∧ NoEntryOver pat0 0 (Config.lsBase + 1024) 64 ∧
    pat (Config.lsBase + 4096) 8 = BitVec.ofNat 512 (memNat pat0 (lsPlace pat0 (Config.lsBase + 1024)) 64) ∧ 1024 % 64 = 0 ∧
    badPattern true (pat (Config.lsBase + 4096) 8) = false) ∧ ((slotOf pat0 4).bound = false ∧ stm.dev.wbuf = [] ∧
    stm.Ready x0 Uses.none ∧ gth.dev.wbuf = [] ∧ gth.Ready x0 (Uses.none.r 5) ∧ (slotOf gth 2).bound = true) ∧
    ((slotOf gth 2).dir = false ∧ (slotOf gth (2 : BitVec 3)).pat.getLsbD 68 = true ∧ (slotOf gth 2).gq.length < 64 ∧
    stm.Ready x0 (Uses.none.r 5) ∧ slot2 = slotOf stm 2) ∧
    (badPattern true (pat (Config.lsBase + 4096) 8) = true ∨ (slotOf pat0 2).bound = true ∨ ∃ n, (slotOf pat0 n).bound = true ∧
    (slotOf pat0 n).vr = 5) ∧ (∀ (n : BitVec 3), (slotOf pat0 n).bound = true → (slotOf pat0 n).vr ≠ 4) := by
  exact ⟨by decide +kernel, by decide +kernel, by decide +kernel, by decide +kernel, .inr (.inl (by decide +kernel)),
    by decide +kernel⟩
/-- The hypotheses of `RelativePositionBias`, clause by clause. -/
theorem witness_RelativePositionBias :
    (rpb.dev.wbuf = [] ∧ rpb.Ready x0 (((Uses.none.v (VSrc.v 5)).v (VSrc.v 9)).d v7) ∧
    1042 = nth (elems 32 3 ((popped rpb (((Uses.none.v (VSrc.v (5 : BitVec 5))).v (VSrc.v (9 : BitVec 5))).d v7)).me.vsrc
      (VSrc.v (9 : BitVec 5)))) 2 0 ∧
    rpb.Room ∧ Quiet rpb ∧ (v7.n = true ∨ rpb.me.boundSlot v7.r = none)) ∧ (1042 < 2 ^ 20 ∧ rpx.dev.wbuf = [] ∧
    rpx.Ready x0 (((Uses.none.v (VSrc.v 5)).v (VSrc.v 9)).d v7) ∧
    1048576 = nth (elems 32 3 ((popped rpx (((Uses.none.v (VSrc.v (5 : BitVec 5))).v (VSrc.v (9 : BitVec 5))).d v7)).me.vsrc
      (VSrc.v (9 : BitVec 5)))) 2 0 ∧
    2 ^ 20 ≤ 1048576) := by
  exact ⟨by decide +kernel, by decide +kernel⟩
/-- The hypotheses of `SelectAndPermuteLanes`, clause by clause. -/
theorem witness_SelectAndPermuteLanes :
    31 < Width.w256.bits / 8 ∧ 0 < 64 ∧ 64 * 16 ≤ 1024 ∧ 15 < 16 := by
  decide +kernel
/-- The hypotheses of `WriteStreamReserves`, clause by clause. -/
theorem witness_WriteStreamReserves :
    (iVaddS.wf = true ∧ stm.dev.wbuf = [] ∧ stm.Ready rVaddS.x rVaddS.u ∧ stm.Room ∧ rVaddS.d.n = false ∧
    stm.me.boundSlot rVaddS.d.r = some (3, slot3)) ∧ (slot3.dir = true ∧ stm.Ready x0 ((Uses.none.v (VSrc.v 8)).d v26) ∧
    RoomFor stm 2 ∧ stm.live = true ∧ v26.n = false ∧ stm.me.boundSlot v26.r = some (3, slot3)) ∧ (rps.dev.wbuf = [] ∧
    rps.Ready x0 (((Uses.none.v (VSrc.v 5)).v (VSrc.v 9)).d v26) ∧ rps.Room ∧ Quiet rps ∧ rps.me.boundSlot v26.r = some (3, slot3) ∧
    nth (elems 32 3 ((popped rps (((Uses.none.v (VSrc.v 5)).v (VSrc.v 9)).d v26)).me.vsrc (VSrc.v 9))) 2 0 < 2 ^ 20) ∧
    vecRow iVaddS = some rVaddS := by
  exact ⟨by decide +kernel, by decide +kernel, by decide +kernel, by trivial⟩
/-- The hypotheses of `WriteStreamFills`, clause by clause. -/
theorem witness_WriteStreamFills :
    fWr.dest = FDest.wr 3 9 := by
  decide +kernel
/-- The hypotheses of `PairedPass`, clause by clause. -/
theorem witness_PairedPass :
    ((Instr.mmap x0 2 1 0 0 0 12 false).wf = true ∧ rtq.dev.wbuf = [] ∧ rtq.Ready x0 (Uses.none.r 12) ∧ rtq.Room ∧ rtq.live = true ∧
    rtq.me.ownsTiles = true) ∧ (rtq.me.matPending < 8 ∧ rtq.me.routineActive = false ∧
    (synced rtq).me.matFault (Instr.mmap x0 2 1 0 0 0 12 false) (rtq.sreg 12) 0 = none ∧ rtq.me.mat.pairEnd = none ∧
    rtq.me.mat.posted = none ∧ (rtq.me.mat.queue ≠ [] ∨ ∃ r ∈ rtq.me.mat.running, rtq.me.clk.unf < r.finish)) ∧ (rtn.dev.wbuf = [] ∧
    rtn.Ready x0 (Uses.none.r 12) ∧ rtn.Room ∧ rtn.live = true ∧ rtn.me.ownsTiles = true ∧ rtn.me.matPending < 8) ∧
    (rtn.me.routineActive = false ∧ (synced rtn).me.matFault (Instr.mmap x0 2 1 0 0 0 12 false) (rtn.sreg 12) 0 = none ∧
    rtn.me.mat.pairEnd = none ∧ rtn.me.mat.posted = none ∧ rtn.me.mat.queue = [] ∧
    (∀ r ∈ rtn.me.mat.running, r.finish ≤ rtn.me.clk.unf)) ∧ (iss.dev.wbuf = [] ∧ iss.Ready x0 (Uses.none.r 12) ∧ iss.Room ∧
    iss.live = true ∧ iss.me.ownsTiles = true ∧ iss.me.matPending < 8) ∧ (iss.me.routineActive = false ∧
    (synced iss).me.matFault (Instr.mmap x0 2 1 0 0 0 12 false) (iss.sreg 12) 0 = none ∧
    iss.me.mat.pairEnd = some (PairEnd.issue per) ∧ abt.dev.wbuf = [] ∧ abt.Ready x0 (Uses.none.r 12) ∧ abt.Room) ∧
    (abt.live = true ∧ abt.me.ownsTiles = true ∧ abt.me.matPending < 8 ∧ abt.me.routineActive = false ∧
    (synced abt).me.matFault (Instr.mmap x0 2 1 0 0 0 12 false) (abt.sreg 12) 0 = none ∧ abt.me.mat.pairEnd = some PairEnd.abort) := by
  exact ⟨by decide +kernel, by decide +kernel, by decide +kernel, by decide +kernel, by decide +kernel, by decide +kernel,
    by decide +kernel⟩
/-- The hypotheses of `MicroStepFed`, clause by clause. -/
theorem witness_MicroStepFed :
    (mcz.dev.wbuf = [] ∧ (mcz.me.frozen = true ∨ mcz.me.mat.settled mcz.me.clk.unf = false) ∧ mcx.dev.wbuf = [] ∧
    mcx.me.frozen = false ∧ mcx.me.mat.settled mcx.me.clk.unf = true ∧ mcx.me.syncSh.canFeed = true) ∧
    (mcx.me.ctx.lates.length < 32 ∧
    wMcx = w64 (mcx.peekNat (microAddr mcx.dev.cur.core (8 * fieldNat (mcx.me.syncSh.ctx.mp.get 7) 32 10)) 8) ∧ mco.dev.wbuf = [] ∧
    mco.me.frozen = false ∧ mco.me.mat.settled mco.me.clk.unf = true ∧ mco.me.syncSh.canFeed = true) ∧
    (mco.me.ctx.lates.length < 32 ∧
    wMcr = w64 (mco.peekNat (microAddr mco.dev.cur.core (8 * fieldNat (mco.me.syncSh.ctx.mp.get 7) 32 10)) 8) ∧
    stepOwned (Instr.tzero x0 2 5 1) = true ∧ mco.me.syncSh.ownsTiles = false ∧ mcb.dev.wbuf = [] ∧ mcb.me.frozen = false) ∧
    (mcb.me.mat.settled mcb.me.clk.unf = true ∧ mcb.me.syncSh.canFeed = true ∧ mcb.me.ctx.lates.length < 32 ∧
    wMcb = w64 (mcb.peekNat (microAddr mcb.dev.cur.core (8 * fieldNat (mcb.me.syncSh.ctx.mp.get 7) 32 10)) 8) ∧
    (stepOwned (Instr.tzero x0 4 5 1) = true → mcb.me.syncSh.ownsTiles = true) ∧
    mcb.me.syncSh.matFault (Instr.tzero x0 4 5 1) (mcb.me.syncSh.mpVal (microFields (Instr.tzero x0 4 5 1)).1)
      (mcb.me.syncSh.mpVal (microFields (Instr.tzero x0 4 5 1)).2) = some 10) ∧
    (mcf.dev.wbuf = [] ∧ mcf.me.frozen = false ∧ mcf.me.mat.settled mcf.me.clk.unf = true ∧ mcf.me.syncSh.canFeed = true ∧
    mcf.me.ctx.lates.length < 32 ∧
    wMcf = w64 (mcf.peekNat (microAddr mcf.dev.cur.core (8 * fieldNat (mcf.me.syncSh.ctx.mp.get 7) 32 10)) 8)) ∧
    ((stepOwned (Instr.trowrd x0 2 5 0 7) = true → mcf.me.syncSh.ownsTiles = true) ∧
    mcf.me.syncSh.matFault (Instr.trowrd x0 2 5 0 7) (mcf.me.syncSh.mpVal (microFields (Instr.trowrd x0 2 5 0 7)).1)
      (mcf.me.syncSh.mpVal (microFields (Instr.trowrd x0 2 5 0 7)).2) = none ∧
    stepResult (Instr.trowrd x0 2 5 0 7) = true ∧ 64 ≤ mcf.me.syncSh.inFlight ∧ mcr.dev.wbuf = [] ∧ mcr.me.frozen = false) ∧
    (mcr.me.mat.settled mcr.me.clk.unf = true ∧ mcr.me.syncSh.canFeed = true ∧ mcr.me.ctx.lates.length < 32 ∧
    wMcr = w64 (mcr.peekNat (microAddr mcr.dev.cur.core (8 * fieldNat (mcr.me.syncSh.ctx.mp.get 7) 32 10)) 8) ∧
    (stepOwned (Instr.tzero x0 2 5 1) = true → mcr.me.syncSh.ownsTiles = true) ∧
    mcr.me.syncSh.matFault (Instr.tzero x0 2 5 1) (mcr.me.syncSh.mpVal (microFields (Instr.tzero x0 2 5 1)).1)
      (mcr.me.syncSh.mpVal (microFields (Instr.tzero x0 2 5 1)).2) = none) ∧
    (stepResult (Instr.tzero x0 2 5 1) = true → mcr.me.syncSh.inFlight < 64) ∧
    decodeSyllable (BitVec.setWidth 32 wMcx) 0 = Except.error Reject.reservedMajor ∧
    decodeSyllable (BitVec.setWidth 32 wMcr) 0 = Except.ok (Instr.tzero x0 2 5 1) ∧
    decodeSyllable (BitVec.setWidth 32 wMcb) 0 = Except.ok (Instr.tzero x0 4 5 1) ∧
    decodeSyllable (BitVec.setWidth 32 wMcf) 0 = Except.ok (Instr.trowrd x0 2 5 0 7) := by
  exact ⟨by decide +kernel, by decide +kernel, by decide +kernel, by decide +kernel, by decide +kernel, by decide +kernel,
    by decide +kernel, by decide +kernel, err_of (by decide +kernel), ok_of (by decide +kernel), ok_of (by decide +kernel),
    ok_of (by decide +kernel)⟩
/-- The hypotheses of `ChainSumExact`, clause by clause. -/
theorem witness_ChainSumExact :
    (∀ p ∈ [FVal.fin false 3 (-1), FVal.fin true 5 2], isFinite p) := by
  simp [isFinite]

/-- The hypotheses of `StreamEntryFetched`, clause by clause. -/
theorem witness_StreamEntryFetched :
    ((fch (Config.lsBase + 4096)).dev.wbuf = [] ∧ (fch (Config.lsBase + 4096)).me.run = Run.running ∧
    (fch (Config.lsBase + 4096)).me.priv = false ∧ (2 : BitVec 3) = BitVec.ofNat 3 (fch (Config.lsBase + 4096)).dev.cur.n ∧
    (slotOf (fch (Config.lsBase + 4096)) 2).nextFetch = some 2 ∧
    Config.lsBase + 4352 = (slotOf (fch (Config.lsBase + 4096)) 2).entryVa 2) ∧
    (128 = (slotOf (fch (Config.lsBase + 4096)) (2 : BitVec 3)).entryBytes ∧ (fch (Config.lsBase + 4096)).fetchWaits 2 = false ∧
    rowSpan (Config.lsBase + 4352) 128 = Row.ls ∧ (fch (Config.lsBase + 4096)).dev.writes = [] ∧
    (∀ e ∈ (fch (Config.lsBase + 4096)).me.wents,
      e.ahead (fch (Config.lsBase + 4096)).dev.cur.core (2 ^ 64) (Config.lsBase + 4352) 128 = false) ∧
    (fch (Config.lsBase - 4096)).dev.wbuf = []) ∧ ((fch (Config.lsBase - 4096)).me.run = Run.running ∧
    (fch (Config.lsBase - 4096)).me.priv = false ∧ (2 : BitVec 3) = BitVec.ofNat 3 (fch (Config.lsBase - 4096)).dev.cur.n ∧
    (slotOf (fch (Config.lsBase - 4096)) 2).nextFetch = some 2 ∧
    Config.lsBase - 3840 = (slotOf (fch (Config.lsBase - 4096)) 2).entryVa 2 ∧
    128 = (slotOf (fch (Config.lsBase - 4096)) (2 : BitVec 3)).entryBytes) ∧ ((fch (Config.lsBase - 4096)).fetchWaits 2 = false ∧
    (fch (Config.lsBase - 4096)).dataFault Acc.read true (Config.lsBase - 3840) 128 = some (6, Config.lsBase - 3840)) := by
  exact ⟨by decide +kernel, by decide +kernel, by decide +kernel, by decide +kernel⟩
/-- The hypotheses of `StreamEntryDrained`, clause by clause. -/
theorem witness_StreamEntryDrained :
    ((drn (Config.lsBase + 32768)).dev.wbuf = [] ∧ (drn (Config.lsBase + 32768)).mem.wf = true ∧
    (3 : BitVec 3) = BitVec.ofNat 3 (drn (Config.lsBase + 32768)).dev.cur.n ∧
    (drn (Config.lsBase + 32768)).me.toDrain 3 = some (ent (Config.lsBase + 32768)) ∧
    (ent (Config.lsBase + 32768)).val = some 1193046 ∧ 0 < (ent (Config.lsBase + 32768)).len) ∧
    (rowSpan (ent (Config.lsBase + 32768)).va (ent (Config.lsBase + 32768)).len = Row.ls ∧
    (drn (Config.lsBase + 32768)).zoneAt (ent (Config.lsBase + 32768)).va (ent (Config.lsBase + 32768)).len = none ∧
    (drn (Config.lsBase + 32768)).me.ops = [] ∧ (drn (Config.lsBase + 32768)).dev.writes = [] ∧
    (∀ x ∈ (drn (Config.lsBase + 32768)).me.wents, x.place ≠ (ent (Config.lsBase + 32768)).place →
      x.ahead (drn (Config.lsBase + 32768)).dev.cur.core (ent (Config.lsBase + 32768)).seq (ent (Config.lsBase + 32768)).va (ent
      (Config.lsBase + 32768)).len = false) ∧
    (drn (Config.lsBase - 256)).dev.wbuf = []) ∧ ((drn (Config.lsBase - 256)).mem.wf = true ∧
    (3 : BitVec 3) = BitVec.ofNat 3 (drn (Config.lsBase - 256)).dev.cur.n ∧
    (drn (Config.lsBase - 256)).me.toDrain 3 = some (ent (Config.lsBase - 256)) ∧ (ent (Config.lsBase - 256)).val = some 1193046 ∧
    0 < (ent (Config.lsBase - 256)).len ∧
    (drn (Config.lsBase - 256)).storeFault (ent (Config.lsBase - 256)).va (ent (Config.lsBase - 256)).len = some (6,
      Config.lsBase - 256)) ∧
    ((ent (Config.lsBase - 256)).own.sv = false ∧
    (Option.all (fun k ↦ k.where_ == TaskAt.on (drn (Config.lsBase - 256)).dev.cur.core) ((ent
      (Config.lsBase - 256)).own.task.bind (drn (Config.lsBase - 256)).taskById) = true) ∧
    (drn (Config.lsBase - 256)).me.ctx.lates.length < 32) := by
  exact ⟨by decide +kernel, by decide +kernel, by decide +kernel, by decide +kernel⟩
/-- The hypotheses of `TokenLands`, clause by clause. -/
theorem witness_TokenLands :
    (cpd.dev.wbuf = [] ∧ cpd.engOp cpd.dev.cur.n = some cpq ∧ cpd.tokenReady cpq = true ∧ cpq.token = some 72057594037927952 ∧
    cpq.owner = EngOwner.task 1 0 ∧ cpd.taskById 1 = some tk1) ∧ (tk1.where_ = TaskAt.on 0 ∧
    (List.find? (fun t ↦ t.op == cpq.id) (cpd.core 0).ctx.toks = some cpt) ∧ syt.dev.wbuf = [] ∧ syt.engOp syt.dev.cur.n = none ∧
    syt.me.sysop = some sy0 ∧ sy0.op = syt.dev.cur.n) ∧ (sy0.todo = none ∧ sy0.waits = [] ∧ cpe.dev.wbuf = [] ∧
    cpe.engOp cpe.dev.cur.n = some cpq ∧ cpe.tokenReady cpq = true ∧ cqt.dev.wbuf = []) ∧ (cqt.engOp cqt.dev.cur.n = some cqo ∧
    cqt.tokenReady cqo = true ∧ cqo.token = some 72057594037927952 ∧ cqo.owner = EngOwner.queue 0 0 ∧
    (List.find? (fun x ↦ x.2 == cqo.id) (cqt.cq 0 0).awaits = some (4, 9))) ∧
    (∀ f ∈ syt.me.flights, ∀ (r : BitVec 6) (b : Bool), f.dest ≠ FDest.pend r b sy0.op) ∧
    (∀ (k : Machine.Task), cpe.taskById 1 = some k → ∃ x, k.where_ = TaskAt.ended x) := by
  exact ⟨by decide +kernel, by decide +kernel, by decide +kernel, by decide +kernel,
    (fun f hf => absurd ((show syt.me.flights = [] by decide +kernel) ▸ hf) List.not_mem_nil),
    (fun k h => ⟨false, by
      have e : (cpe.taskById 1).map (·.where_) = some (.ended false) := by decide +kernel
      rw [h] at e
      exact Option.some.inj e⟩)⟩
/-- The hypotheses of `DueResultsLand`, clause by clause. -/
theorem witness_DueResultsLand :
    lnd.dev.wbuf = [] ∧ lnd.me.run = Run.running ∧ lnd.me.clk.gap ≠ 0 ∧ lnd.me.lateLoad = false ∧
    (∀ f ∈ lnd.me.flights, f.rem = 0 → f.wait = none) := by
  decide +kernel
/-- The hypotheses of `WalkReturns`, clause by clause. -/
theorem witness_WalkReturns :
    (wlk.dev.wbuf = [] ∧ (List.find? (fun x ↦ x.id == wlk.dev.cur.n) (List.take 64 wlk.dev.walks) = some wk0) ∧ wk0.turn = none ∧
    ((List.map (fun x ↦ x.id) wlk.dev.writes).Nodup) ∧ NoRelease wlk ∧ wlk.heldPage (tid wk0.tenant) (wk0.page * 65536) = false) ∧
    (∀ y ∈ wlk.dev.writes, y.err = none) ∧ wlk.walk (tid wk0.tenant) Acc.walk (wk0.page * 65536) = Except.ok wle := by
  exact ⟨by decide +kernel, by decide +kernel, ok_of (by decide +kernel)⟩
/-- The hypotheses of `BarrierArrival`, clause by clause. -/
theorem witness_BarrierArrival :
    (bar0.dev.wbuf = [] ∧ bar0.Ready x0 Uses.none ∧ MemberOf bar0 5 tk1 ∧ Released bar0 ∧ (bar0.hb 5).broken = false ∧
    barX.dev.wbuf = []) ∧ (barX.Ready x0 Uses.none ∧ MemberOf barX 5 tk1 ∧ Released barX ∧ (barX.hb 5).broken = true) := by
  exact ⟨by decide +kernel, by decide +kernel⟩
/-- The hypotheses of `BarrierWait`, clause by clause. -/
theorem witness_BarrierWait :
    (barX.dev.wbuf = [] ∧ barX.Ready x0 Uses.none ∧ barX.Room ∧ MemberOf barX 5 tk1 ∧ (∀ w ∈ (barX.hb 5).waits, w.1 ≠ tk1.id) ∧
    barX.arriving 5 tk1.id = false) ∧ ((barX.hb 5).broken = true ∧ bar0.dev.wbuf = [] ∧ bar0.Ready x0 Uses.none ∧ bar0.Room ∧
    MemberOf bar0 5 tk1 ∧ (∀ w ∈ (bar0.hb 5).waits, w.1 ≠ tk1.id)) ∧ (bar0.arriving 5 tk1.id = false ∧ (bar0.hb 5).broken = false ∧
    (List.find? (fun l ↦ l.1 == tk1.rank) (bar0.hb 5).last = some (tk1.rank, 3)) ∧ (3 < (bar0.hb 5).phase ∨ 3 ∈ (bar0.hb 5).bad) ∧
    bar4.dev.wbuf = [] ∧ bar4.Ready x0 Uses.none) ∧ (bar4.Room ∧ MemberOf bar4 5 tk1 ∧ (∀ w ∈ (bar4.hb 5).waits, w.1 ≠ tk1.id) ∧
    bar4.arriving 5 tk1.id = false ∧ (bar4.hb 5).broken = false ∧
    (List.find? (fun l ↦ l.1 == tk1.rank) (bar4.hb 5).last = some (tk1.rank, 4))) ∧ ((bar4.hb 5).phase ≤ 4 ∧ 4 ∉ (bar4.hb 5).bad ∧
    bar1.dev.wbuf = [] ∧ bar1.Ready x0 Uses.none ∧ bar1.Room ∧ MemberOf bar1 5 tk1) ∧ ((∀ w ∈ (bar1.hb 5).waits, w.1 ≠ tk1.id) ∧
    bar1.arriving 5 tk1.id = false ∧ (bar1.hb 5).broken = false ∧ (bar1.hb 5).phase ∉ (bar1.hb 5).bad ∧ Released bar1 ∧
    bar1.arrivingHeld 5 tk1.id = false) ∧ ((bar1.hb 5).expect ≤ (bar1.hb 5).count + 1 ∧ (bar0.hb 5).phase ∉ (bar0.hb 5).bad ∧
    Released bar0 ∧ bar0.arrivingHeld 5 tk1.id = false ∧ (bar0.hb 5).count + 1 < (bar0.hb 5).expect) := by
  exact ⟨by decide +kernel, by decide +kernel, by decide +kernel, by decide +kernel, by decide +kernel, by decide +kernel,
    by decide +kernel⟩
/-- The hypotheses of `BarrierBound`, clause by clause. -/
theorem witness_BarrierBound :
    (barS.dev.wbuf = [] ∧ barS.Ready x0 ((Uses.none.r 5).r 6) ∧ barS.dev.writes = [] ∧
    NoEntryOver barS 0 (Config.lsBase + BitVec.toNat (barS.sreg 6)) 16 ∧
    (barS.mine (barS.hb 4).owner = false ∨ (barS.hb 4).en = false) ∧ (withS barS 5 0).dev.wbuf = []) ∧
    ((withS barS 5 0).Ready x0 ((Uses.none.r 5).r 6) ∧ (withS barS 5 0).dev.writes = [] ∧
    NoEntryOver (withS barS 5 0) 0 (Config.lsBase + BitVec.toNat ((withS barS 5 0).sreg 6)) 16 ∧
    (withS barS 5 0).mine ((withS barS 5 0).hb 5).owner = true ∧ ((withS barS 5 0).hb 5).en = true ∧
    ((withS barS 5 0).sreg 5 = 0 ∨ 256 ≤ BitVec.toNat ((withS barS 5 0).sreg 5) ∨ 2 ^ 20 ≤ BitVec.toNat ((withS barS 5 0).sreg 6))) ∧
    ((withS barS 6 1048568).dev.wbuf = [] ∧ (withS barS 6 1048568).Ready x0 ((Uses.none.r 5).r 6) ∧
    (withS barS 6 1048568).dev.writes = [] ∧
    NoEntryOver (withS barS 6 1048568) 0 (Config.lsBase + BitVec.toNat ((withS barS 6 1048568).sreg 6)) 16 ∧
    (withS barS 6 1048568).mine ((withS barS 6 1048568).hb 5).owner = true ∧ ((withS barS 6 1048568).hb 5).en = true) ∧
    ((withS barS 6 1048568).sreg 5 ≠ 0 ∧ BitVec.toNat ((withS barS 6 1048568).sreg 5) < 256 ∧
    BitVec.toNat ((withS barS 6 1048568).sreg 6) < 2 ^ 20 ∧ 2 ^ 20 < BitVec.toNat ((withS barS 6 1048568).sreg 6) + 16 ∧
    barS.mine (barS.hb 5).owner = true ∧ (barS.hb 5).en = true) ∧ (barS.me.task = some tk1.id ∧ barS.taskById tk1.id = some tk1 ∧
    barS.cohortById tk1.cohort = some coh7 ∧ barS.sreg 5 ≠ 0 ∧ BitVec.toNat (barS.sreg 5) < 256 ∧
    BitVec.toNat (barS.sreg 6) + 16 ≤ 2 ^ 20) ∧
    ((3 : BitVec 128) = BitVec.ofNat 128 (memNat barS (lsPlace barS (Config.lsBase + BitVec.toNat (barS.sreg (6 : BitVec 6)))) 16) ∧
    BitVec.toNat (3 : BitVec 128) < (2 : ℕ) ^ coh7.size ∧ barT.dev.wbuf = [] ∧ barT.Ready x0 ((Uses.none.r 5).r 6) ∧
    barT.dev.writes = [] ∧ NoEntryOver barT 0 (Config.lsBase + BitVec.toNat (barT.sreg 6)) 16) ∧
    (barT.mine (barT.hb 5).owner = true ∧ (barT.hb 5).en = true ∧ barT.me.task = some tk1.id ∧ barT.taskById tk1.id = some tk1 ∧
    barT.cohortById tk1.cohort = some coh7 ∧ barT.sreg 5 ≠ 0) ∧ (BitVec.toNat (barT.sreg 5) < 256 ∧
    BitVec.toNat (barT.sreg 6) + 16 ≤ 2 ^ 20 ∧
    (4 : BitVec 128) = BitVec.ofNat 128 (memNat barT (lsPlace barT (Config.lsBase + BitVec.toNat (barT.sreg (6 : BitVec 6)))) 16) ∧
    2 ^ coh7.size ≤ BitVec.toNat (4 : BitVec 128)) := by
  exact ⟨by decide +kernel, by decide +kernel, by decide +kernel, by decide +kernel, by decide +kernel, by decide +kernel,
    by decide +kernel, by decide +kernel⟩
/-- The hypotheses of `StepMembership`, clause by clause. -/
theorem witness_StepMembership :
    (Tests.sgn.dev.wbuf = [] ∧ Tests.sgn.Ready x0 Uses.none ∧ Tests.sgn.mine (Tests.sgn.sg 6).owner = true ∧
    (Tests.sgn.sg 6).en = true ∧ Tests.sgn.me.task = some tk1.id ∧ Tests.sgn.taskById tk1.id = some tk1) ∧
    ((Tests.sgn.sg 6).member tk1.id = none ∧ ((Tests.sgn.sg 6).cohort = none ∨ (Tests.sgn.sg 6).cohort = some tk1.cohort) ∧
    (Tests.sgn.sg 6).members.length < 128 ∧ sg0.dev.wbuf = [] ∧ sg0.Ready x0 Uses.none ∧ InGroup sg0 6 1 mb1) ∧
    (sg0.leavingSoon 6 1 = false ∧ sg0.me.defer = [] ∧ sg0.zoneDone sg0.dev.cur.core 6 1 (sg0.me.seq 1) sg0.dev.nextId = true ∧
    (sg0.sg 6).broken = false ∧ mb2 ∈ (sg0.sg 6).members ∧ mb2.task ≠ 1) ∧ (mb2.arrived = false ∧ sgb.dev.wbuf = [] ∧
    sgb.Ready x0 Uses.none ∧ InGroup sgb 6 1 mb1 ∧ sgb.leavingSoon 6 1 = false ∧ sgb.me.defer = []) ∧ (sgb.sg 6).broken = true := by
  exact ⟨by decide +kernel, by decide +kernel, by decide +kernel, by decide +kernel, by decide +kernel⟩
/-- The hypotheses of `StepCommits`, clause by clause. -/
theorem witness_StepCommits :
    (sgb.dev.wbuf = [] ∧ sgb.Ready x0 Uses.none ∧ sgb.Room ∧ InGroup sgb 6 1 mb1 ∧ (∀ w ∈ (sgb.sg 6).waits, w.1 ≠ 1) ∧
    (sgb.sg 6).owed = []) ∧ ((sgb.sg 6).broken = true ∧ sgb.me.defer = [] ∧ sgb.stepSoon 6 1 false = false ∧ sgz.dev.wbuf = [] ∧
    sgz.mem.wf = true ∧ sgz.Ready x0 Uses.none) ∧ (sgz.Room ∧ InGroup sgz 6 1 mb1 ∧ FreshStep (sgz.sg 6) 1 ∧ sgz.me.defer = [] ∧
    sgz.stepSoon 6 1 false = false ∧ sgz.zoneDone sgz.dev.cur.core 6 1 (sgz.me.seq 1) sgz.dev.nextId = true) ∧
    ((∀ y ∈ (sgz.sg 6).members, y.task ≠ 1 → y.arrived = true) ∧
    (∀ a ∈ sgz.groupZones 6, ∀ b ∈ sgz.groupZones 6, a ≠ b → ∀ p ∈ (sgz.zone a).plane, ∀ q ∈ (sgz.zone b).plane, p.word ≠ q.word) ∧
    (∀ w ∈ openWords sgz 6, rowOf w = Row.vault ∧ w % 4 = 0) ∧
    ((∀ y ∈ (sgz.sg 6).members, y.leaving = false) ∨ ∀ z ∈ sgz.groupZones 6, (sgz.zone z).rule ≠ 3) ∧ sg0.dev.wbuf = [] ∧
    sg0.mem.wf = true) ∧ (sg0.Ready x0 Uses.none ∧ sg0.Room ∧ InGroup sg0 6 1 mb1 ∧ FreshStep (sg0.sg 6) 1 ∧ sg0.me.defer = [] ∧
    sg0.stepSoon 6 1 false = false) ∧ (sg0.zoneDone sg0.dev.cur.core 6 1 (sg0.me.seq 1) sg0.dev.nextId = true ∧
    (∃ y ∈ (sg0.sg 6).members, y.task ≠ 1 ∧ y.arrived = false)) := by
  exact ⟨by decide +kernel, by decide +kernel, by decide +kernel, by decide +kernel, by decide +kernel, by decide +kernel⟩
/-- The hypotheses of `QueueTransfer`, clause by clause. -/
theorem witness_QueueTransfer :
    (usr.dev.wbuf = [] ∧ usr.Ready x0 (Uses.none.r 5) ∧ ¬QueueOpen usr 9 ∧ usr.me.waiting.queue ≠ some 9 ∧ hqw.dev.wbuf = [] ∧
    hqw.Ready x0 Uses.none) ∧ (¬QueueOpen hqw 9 ∧ hqw.me.waiting.queue = some 9 ∧ hqn.dev.wbuf = [] ∧ QueueOpen hqn 9 ∧
    hqn.Ready x0 (Uses.none.r 5) ∧ hqn.putRefused 9 (hqn.sreg 5) = true) ∧ (hqn.Ready x0 Uses.none ∧ hqn.getRefused 9 = true ∧
    (hqs 3).dev.wbuf = [] ∧ (hqs 3).Ready x0 (Uses.none.r 5) ∧ QueueOpen (hqs 3) 9 ∧ (0 : CoreId) = (hqs 3).dev.cur.core) ∧
    ((hqs 3).putRefused 9 ((hqs 3).sreg 5) = false ∧ ((hqs 3).hq 9).toks.length + ((hqs 3).hq 9).resv < ((hqs 3).hq 9).depth ∧
    firstIn (Putter.core 0) ((hqs 3).hq 9).putters = true ∧ (hqs 4).dev.wbuf = [] ∧ (hqs 4).Ready x0 (Uses.none.r 5) ∧
    QueueOpen (hqs 4) 9) ∧ ((0 : CoreId) = (hqs 4).dev.cur.core ∧ (hqs 4).putRefused 9 ((hqs 4).sreg 5) = false ∧
    (((hqs 4).hq 9).depth ≤ ((hqs 4).hq 9).toks.length + ((hqs 4).hq 9).resv ∨ firstIn (Putter.core 0) ((hqs 4).hq 9).putters = false) ∧
    (hqs 2).dev.wbuf = [] ∧ (hqs 2).Ready x0 Uses.none ∧ (hqs 2).Room) ∧ (QueueOpen (hqs 2) 9 ∧
    (0 : CoreId) = (hqs 2).dev.cur.core ∧ (hqs 2).getRefused 9 = false ∧ ((hqs 2).hq 9).toks = [50, 51] ∧
    firstIn 0 ((hqs 2).hq 9).getters = true ∧ (hqs 0).dev.wbuf = []) ∧ ((hqs 0).Ready x0 Uses.none ∧ (hqs 0).Room ∧
    QueueOpen (hqs 0) 9 ∧ (0 : CoreId) = (hqs 0).dev.cur.core ∧ (hqs 0).getRefused 9 = false ∧
    (((hqs 0).hq 9).toks = [] ∨ firstIn 0 ((hqs 0).hq 9).getters = false)) ∧ ((∃ a, Instr.qput x0 9 5 = Instr.qput x0 9 a ∧
    Uses.none.r 5 = Uses.none.r a) ∨ ∃ d, Instr.qput x0 9 5 = Instr.qget x0 9 d ∧ Uses.none.r 5 = Uses.none) ∧
    ((∃ a, Instr.qget x0 9 4 = Instr.qput x0 9 a ∧ Uses.none = Uses.none.r a) ∨ ∃ d, Instr.qget x0 9 4 = Instr.qget x0 9 d ∧
    Uses.none = Uses.none) := by
  exact ⟨by decide +kernel, by decide +kernel, by decide +kernel, by decide +kernel, by decide +kernel, by decide +kernel,
    by decide +kernel, .inl ⟨_, rfl, rfl⟩, .inr ⟨_, rfl, rfl⟩⟩
/-- The hypotheses of `RecordWait`, clause by clause. -/
theorem witness_RecordWait :
    (usr.dev.wbuf = [] ∧ usr.Ready x0 (Uses.none.r 5) ∧ usr.Room ∧ 0 = (usr.dev.dns.get (BitVec.toFin (3 : BitVec 8))).pcnt ∧
    usr.dnOwned 3 (usr.coreTenant usr.dev.cur.core) = false ∧ (ring3 usr).dev.wbuf = []) ∧ ((ring3 usr).Ready x0 (Uses.none.r 5) ∧
    (ring3 usr).Room ∧ 8 = ((ring3 usr).dev.dns.get (BitVec.toFin (3 : BitVec 8))).pcnt ∧
    (ring3 usr).dnOwned 3 ((ring3 usr).coreTenant (ring3 usr).dev.cur.core) = true ∧ BitVec.toNat ((ring3 usr).sreg 5) < 8 ∧
    (ring3 usr).Ready x0 (Uses.none.r 9)) ∧ 8 ≤ BitVec.toNat ((ring3 usr).sreg 9) := by
  exact ⟨by decide +kernel, by decide +kernel, by decide +kernel⟩
/-- The hypotheses of `CopyMovesBytes`, clause by clause. -/
theorem witness_CopyMovesBytes :
    (cp1.engOp cpo.id = some cpo ∧ cpo.kind = EngKind.copy ∧ cpo.pos = 0 ∧ cpo.token = none ∧ cpo.grains = [] ∧ cpo.fail = none) ∧
    (cp1.engStart cpo = true ∧ cp1.engCore cpo = some 0 ∧ copyFn cpo.desc = 0 ∧ copyNdm1 cpo.desc = 0 ∧
    16 = min 4096 (copyCnt cpo.desc 0) ∧ Config.lsBase + 4080 = descNat cpo.desc 0 8) ∧
    (Config.lsBase + 8192 = descNat cpo.desc 8 8 ∧ rowSpan (Config.lsBase + 4080) 16 = Row.ls ∧
    rowSpan (Config.lsBase + 8192) 16 = Row.ls ∧ cp2.engOp (op1 cp2).id = some (op1 cp2) ∧ cp2.engCore (op1 cp2) = some 0 ∧
    cpg ∈ (op1 cp2).grains) ∧ (cpg.src[0]? = some cps ∧ rowSpan cps.va cps.len = Row.ls ∧ cp2.dev.writes = [] ∧
    cp3.engOp (op1 cp3).id = some (op1 cp3) ∧ cp3.engCore (op1 cp3) = some 0 ∧ copyFn (op1 cp3).desc = 0) ∧
    (cpg3 ∈ (op1 cp3).grains ∧ cpg3.skip = 0 ∧ cpg3.got.length = cpg3.len ∧ 0 < cpg3.len ∧ rowSpan cpg3.dst cpg3.len = Row.ls ∧
    cp4.engOp (op1 cp4).id = some (op1 cp4)) ∧ ((op1 cp4).isCopy = true ∧ (op1 cp4).pos = copyTotal (op1 cp4).desc ∧
    (op1 cp4).pos ≠ 0 ∧ (op1 cp4).token = none ∧ (op1 cp4).grains = [] ∧ (op1 cp4).fail = none) ∧ copyFn (op1 cp4).desc ≠ 1 := by
  exact ⟨by decide +kernel, by decide +kernel, by decide +kernel, by decide +kernel, by decide +kernel, by decide +kernel,
    by decide +kernel⟩
/-- The hypotheses of `CopyCompletes`, clause by clause. -/
theorem witness_CopyCompletes :
    (cpw.dev.wbuf = [] ∧ cpw.mem.wf = true ∧ cpw.dev.probe = none ∧ cpw.engOp cpw.dev.cur.n = some cpp ∧
    cpp.token = some 72057594037927952 ∧ cpp.stage = 0) ∧ (cpw.engWritesDone cpp = true ∧ cpp.kind = EngKind.copy ∧
    ccw.dev.wbuf = [] ∧ ccw.mem.wf = true ∧ ccw.dev.probe = none ∧ ccw.engOp ccw.dev.cur.n = some ccp) ∧
    (ccp.token = some 72057594037927952 ∧ ccp.stage = 0 ∧ ccw.engWritesDone ccp = true ∧ ccp.kind = EngKind.copyc ∧
    ccp.owner = EngOwner.task 1 0 ∧ dn3 = BitVec.ofNat 8 (descNat ccp.desc 17 1)) ∧ (ccw.dev.dns.get 3 = ccw.dev.dns.get dn3.toFin ∧
    ccw.dnOwned dn3 (tid ccp.tenant) = true ∧
    Config.vaultBase + 262144 + 64 + 64 * 8 =
      (ccw.dev.dns.get 3).base + 64 + 64 * ((ccw.dev.dns.get 3).seq % 2 ^ field (ccw.dev.dns.get 3).dw0 16 5) ∧
    rowSpan (Config.vaultBase + 262144 + 64 + 64 * 8) 64 = Row.vault ∧ rowSpan (ccw.dev.dns.get 3).base 64 = Row.vault ∧
    ccw.ownsVault (tid ccp.tenant) (vaultOf (Config.vaultBase + 262144 + 64 + 64 * 8)) = true) ∧
    (ccw.ownsVault (tid ccp.tenant) (vaultOf (ccw.dev.dns.get 3).base) = true ∧
    ccw.zoneAt (Config.vaultBase + 262144 + 64 + 64 * 8) 64 = none ∧ ccw.zoneAt (ccw.dev.dns.get 3).base 64 = none) := by
  exact ⟨by decide +kernel, by decide +kernel, by decide +kernel, by decide +kernel, by decide +kernel⟩
/-- The hypotheses of `KldRowLands`, case 1. -/
theorem witness_KldRowLands_1 :
    (kl1.dev.wbuf = [] ∧ kl1.mem.wf = true ∧ kl1.engOp kl1.dev.cur.n = some klo ∧ klo.kind = EngKind.kld ∧ klo.token = none ∧
    klo.task = some 1) ∧ (kl1.taskById 1 = some tk1 ∧ tk1.where_ = TaskAt.on 0 ∧ kl1.dev.probe = none ∧
    kl1.me.ctx.rings.get 0 = (kl1.core 0).ctx.rings.get (BitVec.extractLsb' 12 2 klo.b).toFin ∧ klo.stage = 0 ∧
    kl1.engStart klo = true) ∧ (kl1.kldBefore klo = false ∧ (kl1.core 0).ringBusy klo = false) := by
  exact ⟨by decide +kernel, by decide +kernel, by decide +kernel⟩
/-- The hypotheses of `KldRowLands`, case 2. -/
theorem witness_KldRowLands_2 :
    (kl2.dev.wbuf = [] ∧ kl2.mem.wf = true ∧ kl2.engOp kl2.dev.cur.n = some (op1 kl2) ∧ (op1 kl2).kind = EngKind.kld ∧
    (op1 kl2).token = none ∧ (op1 kl2).task = some 1) ∧ (kl2.taskById 1 = some tk1 ∧ tk1.where_ = TaskAt.on 0 ∧
    kl2.dev.probe = none ∧ kl2.me.ctx.rings.get 0 = (kl2.core 0).ctx.rings.get (BitVec.extractLsb' 12 2 (op1 kl2).b).toFin ∧
    (op1 kl2).stage = 1 ∧ kldDetached (op1 kl2) (kl2.me.ctx.rings.get 0) = false) ∧
    rCount (kl2.me.ctx.rings.get 0) ≠ rSize (kl2.me.ctx.rings.get 0) ∧ kldRead kl2 (op1 kl2) = Except.ok (kldGot.1, kldGot.2) := by
  exact ⟨by decide +kernel, by decide +kernel, by decide +kernel, ok_of (by decide +kernel)⟩
/-- The hypotheses of `KldRowLands`, case 3. -/
theorem witness_KldRowLands_3 :
    (kl3.dev.wbuf = [] ∧ kl3.mem.wf = true ∧ kl3.engOp kl3.dev.cur.n = some (op1 kl3) ∧ (op1 kl3).kind = EngKind.kld ∧
    (op1 kl3).token = none ∧ (op1 kl3).task = some 1) ∧ (kl3.taskById 1 = some tk1 ∧ tk1.where_ = TaskAt.on 0 ∧
    kl3.dev.probe = none ∧ kl3.me.ctx.rings.get 0 = (kl3.core 0).ctx.rings.get (BitVec.extractLsb' 12 2 (op1 kl3).b).toFin ∧
    (op1 kl3).stage = 1 ∧ kldDetached (op1 kl3) (kl3.me.ctx.rings.get 0) = false) ∧
    (rCount (kl3.me.ctx.rings.get 0) ≠ rSize (kl3.me.ctx.rings.get 0) ∧ kl3.engineLogs (16, 0).1 (16, 0).2 = false) ∧
    kldRead kl3 (op1 kl3) = Except.error (16, 0) := by
  exact ⟨by decide +kernel, by decide +kernel, by decide +kernel, err_of (by decide +kernel)⟩
/-- The hypotheses of `LoadDataArrives`, clause by clause. -/
theorem witness_LoadDataArrives :
    (ldv.dev.wbuf = [] ∧ ldv.me.op ldv.dev.cur.n = some ldo ∧ ldv.opReady ldv.dev.cur.core ldo = true ∧
    ldo.kind = MemKind.load 4 true ∧ ldo.parts = [ldp] ∧ ldp.pa = some (keyedAt 0 0 33558528)) ∧ (ldp.len = 4 ∧
    rowOf ldp.va ≠ Row.vlat ∧ ldv.dev.writes = [] ∧ (∀ e ∈ ldv.me.wents, ldo.seq ≤ e.seq ∨ e.overlaps ldp.va 4 = false) ∧
    NoRelease ldv ∧ ldo.dreg = some 4) ∧ (ldo.onVault = true → Config.freeByte ldv.dev.free ≠ 1) := by
  exact ⟨by decide +kernel, by decide +kernel, by decide +kernel⟩
/-- The hypotheses of `AccessEndsLate`, clause by clause. -/
theorem witness_AccessEndsLate :
    (ldl.dev.wbuf = [] ∧ ldl.me.op ldl.dev.cur.n = some ldo ∧ ldo.isAccess = true ∧ ldo.rel = false ∧ NoRelease ldl ∧
    (Instr.responseTimeout = Instr.responseTimeout ∧ true = true ∧
    ldo.since + 20000 ≤ ldl.dev.board.dtime ∨ Instr.responseTimeout = Instr.lateErrorResponse ∧ true = false ∧
    ldo.external = true)) ∧ (UserLate ldl ldo.own ∧ ldu.dev.wbuf = [] ∧ ldu.me.op ldu.dev.cur.n = some ldu1 ∧ ldu1.isAccess = true ∧
    ldu1.rel = false ∧ NoRelease ldu) ∧ ((Instr.responseTimeout = Instr.responseTimeout ∧ true = true ∧
    ldu1.since + 20000 ≤ ldu.dev.board.dtime ∨ Instr.responseTimeout = Instr.lateErrorResponse ∧ true = false ∧
    ldu1.external = true) ∧ ldu1.own.sv = true ∧ ldx.dev.wbuf = [] ∧ ldx.me.op ldx.dev.cur.n = some ldx1 ∧ ldx1.isAccess = true ∧
    ldx1.rel = false) ∧ (NoRelease ldx ∧ (Instr.lateErrorResponse = Instr.responseTimeout ∧ false = true ∧
    ldx1.since + 20000 ≤ ldx.dev.board.dtime ∨ Instr.lateErrorResponse = Instr.lateErrorResponse ∧ false = false ∧
    ldx1.external = true) ∧ UserLate ldx ldx1.own ∧ stl1.dev.wbuf = [] ∧ stl1.me.op stl1.dev.cur.n = none ∧
    stl1.coreWrite stl1.dev.cur.core stl1.dev.cur.n = some stw1) ∧ (NoRelease stl1 ∧
    (Instr.responseTimeout = Instr.responseTimeout ∧ true = true ∧ 1 ≤ stw1.lvl ∧
    stw1.since + 20000 ≤ stl1.dev.board.dtime ∨ Instr.responseTimeout = Instr.lateErrorResponse ∧ true = false ∧ stw1.lvl = 2 ∧
    stw1.external = true) ∧ UserLate stl1 stw1.own ∧ stu.dev.wbuf = [] ∧ stu.me.op stu.dev.cur.n = none ∧
    stu.coreWrite stu.dev.cur.core stu.dev.cur.n = some stu1) ∧ (NoRelease stu ∧ (Instr.responseTimeout = Instr.responseTimeout ∧
    true = true ∧ 1 ≤ stu1.lvl ∧ stu1.since + 20000 ≤ stu.dev.board.dtime ∨ Instr.responseTimeout = Instr.lateErrorResponse ∧
    true = false ∧ stu1.lvl = 2 ∧ stu1.external = true) ∧ stu1.own.sv = true ∧ sth.dev.wbuf = [] ∧ sth.me.op sth.dev.cur.n = none ∧
    sth.coreWrite sth.dev.cur.core sth.dev.cur.n = some sth1) ∧ (NoRelease sth ∧ (Instr.lateErrorResponse = Instr.responseTimeout ∧
    false = true ∧ 1 ≤ sth1.lvl ∧ sth1.since + 20000 ≤ sth.dev.board.dtime ∨ Instr.lateErrorResponse = Instr.lateErrorResponse ∧
    false = false ∧ sth1.lvl = 2 ∧ sth1.external = true) ∧ UserLate sth sth1.own) := by
  exact ⟨by decide +kernel, by decide +kernel, by decide +kernel, by decide +kernel, by decide +kernel, by decide +kernel,
    by decide +kernel⟩
/-- The hypotheses of `WriteAdvances`, clause by clause. -/
theorem witness_WriteAdvances :
    (stv.dev.wbuf = [] ∧ stv.mem.wf = true ∧ (List.find? (fun x ↦ x.id == stv.dev.cur.n) stv.dev.writes = some stw) ∧
    stv.writeReady stw = true ∧ stw.pa = some (keyedAt 0 0 33558528) ∧ stw.lvl < 3) ∧ (NoRelease stv ∧
    (false = isLocalByte (stv.upd fun d ↦ { d with cur := { d.cur with core := stw.core } }) stw.va) ∧ (stw.lvl = 0 ∧
    rowOf stw.va ≠ Row.vlat ∧ (false = false ∨ stw.op ≠ none) ∨ stw.lvl = 1 ∧ targetOf (keyedAt 0 0 33558528) ≠ 18 ∧
    16 ≤ targetOf (keyedAt 0 0 33558528)) ∧ stx.dev.wbuf = [] ∧ stx.mem.wf = true ∧
    (List.find? (fun x ↦ x.id == stx.dev.cur.n) stx.dev.writes = some stz)) ∧ (stx.writeReady stz = true ∧
    stz.pa = some (keyedAt 0 0 33558528) ∧ stz.lvl < 3 ∧ NoRelease stx ∧
    (false = isLocalByte (stx.upd fun d ↦ { d with cur := { d.cur with core := stz.core } }) stz.va) ∧ (stz.lvl = 0 ∧ false = true ∧
    stz.op = none ∨ stz.lvl = 1 ∧ (targetOf (keyedAt 0 0 33558528) < 16 ∨ targetOf (keyedAt 0 0 33558528) = 18) ∨ stz.lvl = 2)) := by
  exact ⟨by decide +kernel, by decide +kernel, by decide +kernel⟩

/-- The hypotheses of `SpecialRegisters`, clause by clause. -/
theorem witness_SpecialRegisters :
    ((Instr.mfsr x0 4 6).wf = true ∧ usr.dev.wbuf = [] ∧ usr.Ready x0 Uses.none ∧
    (usr.me.priv = true ∨ BitVec.toNat (6 : BitVec 8) < (64 : ℕ)) ∧ usr.Room ∧ (Instr.mfsr x0 4 64).wf = true) ∧
    (usr.me.priv = false ∧ 64 ≤ BitVec.toNat (64 : BitVec 8) ∧ (Instr.mtsr x0 (SSrc.s 5) 6).wf = true ∧
    usr.Ready x0 (Uses.none.s (SSrc.s 5)) ∧ writable usr.me.priv 6 ∧ (Instr.mtsr x0 (SSrc.s 5) 66).wf = true) ∧
    (¬writable usr.me.priv 66 ∧ (effectDue svc (FDest.spr 70) 20480).dest = FDest.spr 70 ∧ writable true 70) := by
  exact ⟨by decide +kernel, by decide +kernel, by decide +kernel⟩
/-- The hypotheses of `SequenceBound`, clause by clause. -/
theorem witness_SequenceBound :
    ((withS usr 5 131072).dev.wbuf = [] ∧ (withS usr 5 131072).Ready x0 (Uses.none.r 5) ∧
    (131072 : W64) = (withS usr (5 : BitVec 6) (131072 : W64)).sreg (5 : BitVec 6) ∧
    (0 : W64) = BitVec.ofNat 64 (field (131072 : W64) 12 4 * 2 ^ 60 + field (131072 : W64) 0 12 * 2 ^ 48) ∧
    2 ^ 17 ≤ BitVec.toNat (131072 : W64) ∧ (withS pgd 5 77829).dev.wbuf = []) ∧ ((withS pgd 5 77829).Ready x0 (Uses.none.r 5) ∧
    (77829 : W64) = (withS pgd (5 : BitVec 6) (77829 : W64)).sreg (5 : BitVec 6) ∧
    (3460171888704094208 : W64) = BitVec.ofNat 64 (field (77829 : W64) 12 4 * 2 ^ 60 + field (77829 : W64) 0 12 * 2 ^ 48) ∧
    BitVec.toNat (77829 : W64) < (2 : ℕ) ^ 17 ∧ BitVec.getLsbD (77829 : W64) 16 = true ∧
    (withS pgd 5 77829).kvaFault 3460171888704094208 = true) ∧ ((withS pgd 5 65536).dev.wbuf = [] ∧
    (withS pgd 5 65536).Ready x0 (Uses.none.r 5) ∧ (65536 : W64) = (withS pgd (5 : BitVec 6) (65536 : W64)).sreg (5 : BitVec 6) ∧
    (0 : W64) = BitVec.ofNat 64 (field (65536 : W64) 12 4 * 2 ^ 60 + field (65536 : W64) 0 12 * 2 ^ 48) ∧
    BitVec.toNat (65536 : W64) < (2 : ℕ) ^ 17 ∧
    (BitVec.getLsbD (65536 : W64) 16 = false ∨ (withS pgd (5 : BitVec 6) (65536 : W64)).kvaFault (0 : W64) = false)) ∧
    (effectDue usr (FDest.spr 5) 77829).dest = FDest.spr 5 := by
  exact ⟨by decide +kernel, by decide +kernel, by decide +kernel, by decide +kernel⟩
/-- The hypotheses of `LevelChanges`, clause by clause. -/
theorem witness_LevelChanges :
    (privRow (Instr.crest x0 4) = some (x0, Uses.none) ∧ usr.dev.wbuf = [] ∧ usr.Ready x0 Uses.none ∧ usr.me.priv = false ∧
    svm.dev.wbuf = [] ∧ svm.Ready x0 Uses.none) ∧ (svm.me.priv = true ∧ svm.me.bun.single = false ∧ svc.dev.wbuf = [] ∧
    svc.Ready x0 Uses.none ∧ svc.me.priv = true ∧ svc.me.bun.single = true) := by
  exact ⟨by decide +kernel, by decide +kernel⟩
/-- The hypotheses of `SystemOperationBegins`, clause by clause. -/
theorem witness_SystemOperationBegins :
    (sysRow (Instr.csave x0 52) = some (x0, Uses.none, 52) ∧ svo.dev.wbuf = [] ∧ svo.Ready x0 Uses.none ∧ svo.me.priv = true ∧
    svo.me.sysop ≠ none ∧ sysRow (Instr.crest x0 52) = some (x0, Uses.none, 52)) ∧ (svc.dev.wbuf = [] ∧ svc.Ready x0 Uses.none ∧
    svc.me.priv = true ∧ svc.me.sysop = none ∧ workOf svc (Instr.crest x0 52) = some wkC ∧
    sysRow (Instr.tlbinvPage x0 52 5) = some (x0, Uses.none.r 5, 52)) ∧ (svc.Ready x0 (Uses.none.r 5) ∧
    workOf svc (Instr.tlbinvPage x0 52 5) = some wkP ∧ sysRow (Instr.tsave x0 52) = some (x0, Uses.none, 52) ∧ svk.dev.wbuf = [] ∧
    svk.Ready x0 Uses.none ∧ svk.me.priv = true) ∧ (svk.me.sysop = none ∧ svk.me.ownsTiles = true ∧
    BitVec.getLsbD svc.me.sv.town 32 = false ∧ OwnSpan svc (BitVec.toNat svc.me.sv.stsave + 819200) 4096 ∧
    memNat svc (vaultPlace (BitVec.toNat svc.me.sv.stsave + 819264)) 8 % 2 = 0 ∧
    sysRow (Instr.tsaveOut x0 52) = some (x0, Uses.none, 52)) ∧ (svw.dev.wbuf = [] ∧ svw.Ready x0 Uses.none ∧ svw.me.priv = true ∧
    svw.me.sysop = none ∧ BitVec.getLsbD svw.me.sv.town 32 = true ∧ (∀ (n : Fin 8), (svw.me.mat.tcfg.get n).getLsbD 19 = false)) ∧
    ((∀ (n : ℕ), 36 ≤ n → n < 40 → BitVec.getLsbD svw.me.sv.town n = false) ∧ svw.mem.wf = true ∧
    OwnSpan svw (BitVec.toNat svw.me.sv.towna + 819200) 4096 ∧ svt.dev.wbuf = [] ∧ svt.Ready x0 Uses.none ∧ svt.me.priv = true) ∧
    (svt.me.sysop = none ∧ BitVec.getLsbD svt.me.sv.town 32 = true ∧ (∀ (n : Fin 8), (svt.me.mat.tcfg.get n).getLsbD 19 = false) ∧
    (∀ (n : ℕ), 36 ≤ n → n < 40 → BitVec.getLsbD svt.me.sv.town n = false) ∧ svt.mem.wf = true ∧
    OwnSpan svt (BitVec.toNat svt.me.sv.towna + 819200) 4096) := by
  exact ⟨by decide +kernel, by decide +kernel, by decide +kernel, by decide +kernel, by decide +kernel, by decide +kernel,
    by decide +kernel⟩
/-- The hypotheses of `ContextSaved`, clause by clause. -/
theorem witness_ContextSaved :
    (svc.dev.wbuf = [] ∧ svc.mem.wf = true ∧ svc.Ready x0 Uses.none ∧ svc.me.priv = true ∧ svc.me.sysop = none ∧
    svc.me.sv.lsmask = 0) ∧ (OwnSpan svc (BitVec.toNat svc.me.sv.ssave) 24576 ∧ LoadedTask svc tk1 ∧ svc.me.snap.length ≤ 64 ∧
    svc.me.ctx.loops.length ≤ 6) := by
  exact ⟨by decide +kernel, by decide +kernel⟩
/-- The hypotheses of `TranslationsRemoved`, clause by clause. -/
theorem witness_TranslationsRemoved :
    ((tls 2 0).dev.wbuf = [] ∧ (0 : CoreId) = (tls (2 : BitVec 2) (0 : W64)).dev.cur.core ∧
    (tls 2 0).engOp (tls 2 0).dev.cur.n = none ∧ (tls 2 0).me.sysop = some (tlo 2 0) ∧ (tlo 2 0).op = (tls 2 0).dev.cur.n ∧
    (tlo 2 0).todo = some (SysWork.inv 2 0)) ∧ ((tlo 2 0).reg ≠ 0 ∧ (tls 2 0).me.flights = [] ∧
    (tls 2 0).accessesDone 0 (tlo 2 0).seq 3 false = true ∧ (tls 2 0).dev.writes = [] ∧
    (∀ (d : CoreId), ((tls 2 0).core d).ops = []) ∧ (∀ e ∈ (tls 2 0).dev.eng, e.grains = [])) ∧ ((tls 1 0).dev.wbuf = [] ∧
    (0 : CoreId) = (tls (1 : BitVec 2) (0 : W64)).dev.cur.core ∧ (tls 1 0).engOp (tls 1 0).dev.cur.n = none ∧
    (tls 1 0).me.sysop = some (tlo 1 0) ∧ (tlo 1 0).op = (tls 1 0).dev.cur.n ∧ (tlo 1 0).todo = some (SysWork.inv 1 0)) ∧
    ((tlo 1 0).reg ≠ 0 ∧ (tls 1 0).me.flights = [] ∧ (tls 1 0).accessesDone 0 (tlo 1 0).seq 3 false = true ∧
    (tls 1 0).dev.writes = [] ∧ (∀ (d : CoreId), ((tls 1 0).core d).ops = []) ∧ (∀ e ∈ (tls 1 0).dev.eng, e.grains = [])) ∧
    (field 0 0 4 = ↑((tls 1 0).coreTenant 0) ∧ (tls 1 1).dev.wbuf = [] ∧
    (0 : CoreId) = (tls (1 : BitVec 2) (1 : W64)).dev.cur.core ∧ (tls 1 1).engOp (tls 1 1).dev.cur.n = none ∧
    (tls 1 1).me.sysop = some (tlo 1 1) ∧ (tlo 1 1).op = (tls 1 1).dev.cur.n) ∧ ((tlo 1 1).todo = some (SysWork.inv 1 1) ∧
    (tlo 1 1).reg ≠ 0 ∧ (tls 1 1).me.flights = [] ∧ (tls 1 1).accessesDone 0 (tlo 1 1).seq 3 false = true ∧
    (tls 1 1).dev.writes = [] ∧ (∀ (d : CoreId), ((tls 1 1).core d).ops = [])) ∧ ((∀ e ∈ (tls 1 1).dev.eng, e.grains = []) ∧
    field 1 0 4 ≠ ↑((tls 1 1).coreTenant 0)) := by
  exact ⟨by decide +kernel, by decide +kernel, by decide +kernel, by decide +kernel, by decide +kernel, by decide +kernel,
    by decide +kernel⟩

/-- The hypotheses of `RegisterCommands`, clause by clause. -/
theorem witness_RegisterCommands :
    valueRow cqr (Instr.cadd 4 5 6) = some (4, [5, 6], 4, w64 (Config.vaultBase + 64) + 119) ∧ cqr.dev.wbuf = [] ∧
    QueueRuns cqr [5, 6] := by
  decide +kernel
/-- The hypotheses of `ControlCommands`, clause by clause. -/
theorem witness_ControlCommands :
    (cqr.dev.wbuf = [] ∧ QueueRuns cqr [] ∧ cqz.dev.wbuf = [] ∧
    ((1 : BitVec 2) = (1 : BitVec 2) ∨ (1 : BitVec 2) = (2 : BitVec 2)) ∧ QueueRuns cqz [0] ∧ QueueRuns cqr [6]) ∧
    (QueueRuns cqr noRegs ∧ cqr.myCq.stack.length < 8 ∧ cq8.dev.wbuf = [] ∧ QueueRuns cq8 [6] ∧ 8 ≤ cq8.myCq.stack.length ∧
    QueueRuns cq8 []) ∧ (cq8.myCq.stack = 131072 :: List.replicate 7 131072 ∧ cqr.myCq.stack = [] ∧ cqa.dev.wbuf = [] ∧
    valueRow cqa (Instr.cmov 4 5) = some (4, [5], 4, w64 (Config.vaultBase + 64)) ∧ 5 ∈ [5] ∧ (∃ a ∈ cqa.myCq.awaits, a.1 = 5)) ∧
    ((∃ disp, Instr.ccall (5 : BitVec 14) = Instr.ccall disp ∧ (65556 : W64) = branchTo cqr disp ∧
    noRegs = []) ∨ ∃ a, Instr.ccall (5 : BitVec 14) = Instr.ccallIndirect a ∧ (65556 : W64) = creg cqr a ∧ noRegs = [a]) ∧
    ((∃ disp, Instr.ccallIndirect (6 : BitVec 4) = Instr.ccall disp ∧ (119 : W64) = branchTo cq8 disp ∧
    [(6 : BitVec 4)] = []) ∨ ∃ a, Instr.ccallIndirect (6 : BitVec 4) = Instr.ccallIndirect a ∧ (119 : W64) = creg cq8 a ∧
    [(6 : BitVec 4)] = [a]) := by
  exact ⟨by decide +kernel, by decide +kernel, by decide +kernel, .inl ⟨_, rfl, by decide +kernel, rfl⟩,
    .inr ⟨_, rfl, by decide +kernel, rfl⟩⟩
/-- The hypotheses of `MemoryCommands`, case 1. -/
theorem witness_MemoryCommands_1 :
    (cqr.dev.wbuf = [] ∧ cqr.mem.wf = true ∧ QueueRuns cqr [5]) ∧
    Reaches cqr Acc.read (creg cqr (5 : BitVec 4) + BitVec.signExtend 64 (0 : BitVec 13) * (8 : W64)) c5At := by
  exact ⟨by decide +kernel, ⟨by decide +kernel, by decide +kernel, ok_of (by decide +kernel), by decide +kernel⟩⟩
/-- The hypotheses of `MemoryCommands`, case 2. -/
theorem witness_MemoryCommands_2 :
    (cqr.dev.wbuf = [] ∧ cqr.mem.wf = true ∧ QueueRuns cqr [5, 6]) ∧
    Reaches cqr Acc.write (creg cqr (5 : BitVec 4) + BitVec.signExtend 64 (0 : BitVec 13) * (8 : W64)) c5At := by
  exact ⟨by decide +kernel, ⟨by decide +kernel, by decide +kernel, ok_of (by decide +kernel), by decide +kernel⟩⟩
/-- The hypotheses of `MemoryCommands`, case 3. -/
theorem witness_MemoryCommands_3 :
    (cqr.dev.wbuf = [] ∧ cqr.mem.wf = true ∧ (Instr.csigAdd 5 6 = Instr.csigSet 5 6 ∧
    578437695752307320 = creg cqr 6 ∨ Instr.csigAdd 5 6 = Instr.csigAdd 5 6 ∧
    578437695752307320 = BitVec.ofNat 64 (shownNat cqr c5At 8) + creg cqr 6) ∧ QueueRuns cqr [5, 6]) ∧
    (∀ (acc : Machine.Acc), acc = Acc.read ∨ acc = Acc.write ∨ acc = Acc.rmw → Reaches cqr acc (creg cqr 5) c5At) := by
  exact ⟨by decide +kernel,
    by rintro _ (rfl | rfl | rfl) <;> exact ⟨by decide +kernel, by decide +kernel, ok_of (by decide +kernel), by decide +kernel⟩⟩
/-- The hypotheses of `MemoryCommands`, case 4. -/
theorem witness_MemoryCommands_4 :
    (cqr.dev.wbuf = [] ∧ cqr.mem.wf = true ∧ (Instr.cwait 5 6 2).wf = true ∧ QueueRuns cqr [5, 6] ∧
    (578437695752307201 : W64) = BitVec.ofNat 64 (shownNat cqr c5At 8)) ∧ Reaches cqr Acc.read (creg cqr 5) c5At := by
  exact ⟨by decide +kernel, ⟨by decide +kernel, by decide +kernel, ok_of (by decide +kernel), by decide +kernel⟩⟩
/-- The hypotheses of `MemoryCommands`, case 5. -/
theorem witness_MemoryCommands_5 :
    (cqm.dev.wbuf = [] ∧ cqm.mem.wf = true ∧ QueueRuns cqm [5]) ∧ ((∃ d a off, Instr.cld 4 5 0 = Instr.cld d a off ∧
    Acc.read = Acc.read ∧ 4097 = creg cqm a + BitVec.signExtend 64 off * 8 ∧
    [5] = [a]) ∨ (∃ d a off, Instr.cld 4 5 0 = Instr.cst d a off ∧ Acc.read = Acc.write ∧
    4097 = creg cqm a + BitVec.signExtend 64 off * 8 ∧
    [5] = [a, d]) ∨ (∃ a b, (Instr.cld 4 5 0 = Instr.csigSet a b ∨ Instr.cld 4 5 0 = Instr.csigAdd a b) ∧ Acc.read = Acc.rmw ∧
    4097 = creg cqm a ∧ [5] = [a, b]) ∨ ∃ a b cond, Instr.cld 4 5 0 = Instr.cwait a b cond ∧ Acc.read = Acc.read ∧
    4097 = creg cqm a ∧ [5] = [a, b]) ∧ (BitVec.toNat (4097 : W64) % 8 ≠ (0 : ℕ) ∧
    6 = (6 : ℕ) ∨ BitVec.toNat (4097 : W64) % 8 = (0 : ℕ) ∧ rowSpan (BitVec.toNat (4097 : W64)) 8 ≠ Row.hole ∧
    cqm.zoneAt (BitVec.toNat (4097 : W64)) 8 = none ∧
    cqm.engPlace cqm.dev.cur.t none Acc.read (BitVec.toNat (4097 : W64)) = Except.error 6) := by
  exact ⟨by decide +kernel, .inl ⟨_, _, _, rfl, rfl, by decide +kernel, rfl⟩, .inl ⟨by decide +kernel, rfl⟩⟩
/-- The hypotheses of `MemoryCommands`, case 6. -/
theorem witness_MemoryCommands_6 :
    ((withC cqr 5 50331648).dev.wbuf = [] ∧ (withC cqr 5 50331648).mem.wf = true ∧ QueueRuns (withC cqr 5 50331648) [5, 6]) ∧
    ((∃ d a off, Instr.cwait 5 6 0 = Instr.cld d a off ∧ Acc.read = Acc.read ∧
    50331648 = creg (withC cqr 5 50331648) a + BitVec.signExtend 64 off * 8 ∧
    [5, 6] = [a]) ∨ (∃ d a off, Instr.cwait 5 6 0 = Instr.cst d a off ∧ Acc.read = Acc.write ∧
    50331648 = creg (withC cqr 5 50331648) a + BitVec.signExtend 64 off * 8 ∧
    [5, 6] = [a, d]) ∨ (∃ a b, (Instr.cwait 5 6 0 = Instr.csigSet a b ∨ Instr.cwait 5 6 0 = Instr.csigAdd a b) ∧
    Acc.read = Acc.rmw ∧ 50331648 = creg (withC cqr 5 50331648) a ∧
    [5, 6] = [a, b]) ∨ ∃ a b cond, Instr.cwait 5 6 0 = Instr.cwait a b cond ∧ Acc.read = Acc.read ∧
    50331648 = creg (withC cqr 5 50331648) a ∧ [5, 6] = [a, b]) ∧ (BitVec.toNat (50331648 : W64) % 8 ≠ (0 : ℕ) ∧
    6 = (6 : ℕ) ∨ BitVec.toNat (50331648 : W64) % 8 = (0 : ℕ) ∧ rowSpan (BitVec.toNat (50331648 : W64)) 8 ≠ Row.hole ∧
    (withC cqr (5 : Fin 16) (50331648 : W64)).zoneAt (BitVec.toNat (50331648 : W64)) 8 = none ∧
    (withC cqr (5 : Fin 16) (50331648 : W64)).engPlace (withC cqr (5 : Fin 16) (50331648 : W64)).dev.cur.t none Acc.read
      (BitVec.toNat (50331648 : W64)) = Except.error 6) := by
  exact ⟨by decide +kernel, .inr (.inr (.inr ⟨_, _, _, rfl, rfl, by decide +kernel, rfl⟩)),
    .inr ⟨by decide +kernel, by decide +kernel, by decide +kernel, err_of (by decide +kernel)⟩⟩
/-- The hypotheses of `ResourceCommands`, clause by clause. -/
theorem witness_ResourceCommands :
    ((rsq 1).dev.wbuf = [] ∧ QueueRuns (rsq 1) [5, 6] ∧
    creg (rsq 1) (5 : BitVec 4) + BitVec.signExtend 64 (0 : BitVec 13) * (8 : W64) = rsa 1 9 1 ∧ OwnRecord (rsq 1) 1 9 1 ∧
    (rsq 2).dev.wbuf = [] ∧ QueueRuns (rsq 2) [5, 6]) ∧
    (creg (rsq 2) (5 : BitVec 4) + BitVec.signExtend 64 (0 : BitVec 13) * (8 : W64) = rsa 1 9 2 ∧ OwnRecord (rsq 2) 1 9 2 ∧
    (withC (rsq 1) 6 257).dev.wbuf = [] ∧ QueueRuns (withC (rsq 1) 6 257) [5, 6] ∧
    creg (withC (rsq 1) (6 : Fin 16) (257 : W64)) (5 : BitVec 4) + BitVec.signExtend 64 (0 : BitVec 13) * (8 : W64) = rsa 1 9 1 ∧
    OwnRecord (withC (rsq 1) 6 257) 1 9 1) ∧ (1 ≠ (7 : ℕ) ∧ BitVec.getLsbD ((withC (rsq 1) 6 257).resRead 1 9 0) 0 = false ∧
    (1 = (0 : ℕ) → BitVec.getLsbD (creg (withC (rsq 1) (6 : Fin 16) (257 : W64)) (6 : BitVec 4)) 0 = false) ∧
    resRange 1 1 (creg (withC (rsq 1) 6 257) 6 &&& resMask 1 1) = true ∧ ¬(1 = 1 ∧ 1 = 2) ∧ rse.dev.wbuf = []) ∧
    (QueueRuns rse [5, 6] ∧ creg rse (5 : BitVec 4) + BitVec.signExtend 64 (0 : BitVec 13) * (8 : W64) = rsa 1 9 1 ∧
    OwnRecord rse 1 9 1 ∧ BitVec.getLsbD (rse.resRead 1 9 0) 0 = true ∧ 1 ≠ (0 : ℕ) ∧ rsn.dev.wbuf = []) ∧ (QueueRuns rsn [5, 6] ∧
    creg rsn (5 : BitVec 4) + BitVec.signExtend 64 (0 : BitVec 13) * (8 : W64) = rsa 1 8 1 ∧ 1 ≤ 1 ∧ 1 ≤ 7 ∧ 8 < resCount 1 ∧
    1 < 32) ∧ (rsn.resOwner 1 8 ≠ some (BitVec.ofNat 4 ↑rsn.dev.cur.t) ∧ rsx.dev.wbuf = [] ∧ QueueRuns rsx [5, 6] ∧
    creg rsx (5 : BitVec 4) + BitVec.signExtend 64 (0 : BitVec 13) * (8 : W64) = rsa 9 0 1 ∧ 9 < 16 ∧ 0 < 256) ∧
    (9 = (0 : ℕ) ∨ 7 < (9 : ℕ) ∨ resCount 9 ≤ (0 : ℕ)) := by
  exact ⟨by decide +kernel, by decide +kernel, by decide +kernel, by decide +kernel, by decide +kernel, by decide +kernel,
    by decide +kernel⟩
/-- The hypotheses of `LaunchAndCopyCommands`, case 1. -/
theorem witness_LaunchAndCopyCommands_1 :
    lnf.dev.wbuf = [] ∧ QueueRuns lnf [5, 6] ∧ lnf.launchListFull lnf.dev.cur.t = true := by
  decide +kernel
/-- The hypotheses of `LaunchAndCopyCommands`, case 2. -/
theorem witness_LaunchAndCopyCommands_2 :
    (withC (lns 0) 5 8).dev.wbuf = [] ∧ QueueRuns (withC (lns 0) 5 8) [5, 6] ∧
    (withC (lns 0) 5 8).launchListFull (withC (lns 0) 5 8).dev.cur.t = false ∧
    (withC (lns 0) 5 8).readLaunch (withC (lns 0) 5 8).dev.cur.t (withC (lns 0) 5 8).dev.cur.q (BitVec.toNat (creg (withC
      (lns 0) 5 8) 5)) (creg (withC (lns 0) 5 8) 6) = none := by
  decide +kernel
/-- The hypotheses of `LaunchAndCopyCommands`, case 3. -/
theorem witness_LaunchAndCopyCommands_3 :
    (lns 1).dev.wbuf = [] ∧ QueueRuns (lns 1) [5, 6] ∧ (lns 1).launchListFull (lns 1).dev.cur.t = false ∧
    (lns 1).readLaunch (lns 1).dev.cur.t (lns 1).dev.cur.q (BitVec.toNat (creg (lns 1) 5)) (creg (lns 1) 6) = some (lch 1) ∧
    (lns 1).rejection (lch 1) ≠ 0 := by
  decide +kernel
/-- The hypotheses of `LaunchAndCopyCommands`, case 4. -/
theorem witness_LaunchAndCopyCommands_4 :
    (lns 0).dev.wbuf = [] ∧ QueueRuns (lns 0) [5, 6] ∧ (lns 0).launchListFull (lns 0).dev.cur.t = false ∧
    (lns 0).readLaunch (lns 0).dev.cur.t (lns 0).dev.cur.q (BitVec.toNat (creg (lns 0) 5)) (creg (lns 0) 6) = some (lch 0) ∧
    (lns 0).rejection (lch 0) = 0 := by
  decide +kernel
/-- The hypotheses of `LaunchAndCopyCommands`, case 5. -/
theorem witness_LaunchAndCopyCommands_5 :
    ((sgt 3 2).dev.wbuf = [] ∧ QueueRuns (sgt 3 2) [5] ∧ BitVec.toNat (creg (sgt 3 2) 5) % 64 = 0 ∧ 2 = (8589934595 : ℕ) / 2 ^ 32 ∧
    (∀ l ∈ (sgt 3 2).dev.launches, l.tenant = (sgt 3 2).dev.cur.t → l.image = 8589934595#32 → (sgt 3 2).launchAlive l.id = false) ∧
    1 ≤ 2) ∧ (2 ≤ 256 ∧ (∀ k < 2, leNat (List.take 8 (List.drop (16 * k) segs2)) % 2 ^ 16 = 0 ∧
    leNat (List.take 8 (List.drop (16 * k) segs2)) < Config.vaultBase ∧ 4 ≤ leNat (List.take 8 (List.drop (16 * k + 8) segs2)) ∧
    leNat (List.take 8 (List.drop (16 * k + 8) segs2)) ≤ 131072 ∧ leNat (List.take 8 (List.drop (16 * k + 8) segs2)) % 4 = 0) ∧
    (((sgt 3 2).tenant (sgt 3 2).dev.cur.t).images.length < 8 ∨ ∃ i ∈ ((sgt 3 2).tenant (sgt 3 2).dev.cur.t).images, i.id =
      8589934595#32)) ∧
    (sgt 3 2).devNat (sgt 3 2).dev.cur.t (BitVec.toNat (creg (sgt 3 2) 5)) 8 = Except.ok 8589934595 ∧
    (sgt 3 2).devNat (sgt 3 2).dev.cur.t (BitVec.toNat (creg (sgt 3 2) 5) + 8) 8 = Except.ok 0 ∧
    (sgt 3 2).devRead (sgt 3 2).dev.cur.t (BitVec.toNat (creg (sgt 3 2) 5) + 16) (16 * 2) = Except.ok segs2 ∧
    (0 = (0 : ℕ) ∨ ∃ ms, (sgt 3 2).devRead (sgt 3 2).dev.cur.t 0 8704 = Except.ok ms ∧ sectionOk ms = true) := by
  exact ⟨by decide +kernel, by decide +kernel, ok_of (by decide +kernel), ok_of (by decide +kernel),
    ok_of (by decide +kernel), .inl rfl⟩
/-- The hypotheses of `LaunchAndCopyCommands`, case 6. -/
theorem witness_LaunchAndCopyCommands_6 :
    ((sgt 0 0).dev.wbuf = [] ∧ QueueRuns (sgt 0 0) [5] ∧ BitVec.toNat (creg (sgt 0 0) 5) % 64 = 0 ∧ 0 = (0 : ℕ) / 2 ^ 32 ∧
    (∀ l ∈ (sgt 0 0).dev.launches, l.tenant = (sgt 0 0).dev.cur.t → l.image = 0#32 → (sgt 0 0).launchAlive l.id = false) ∧
    (∃ i ∈ ((sgt 0 0).tenant (sgt 0 0).dev.cur.t).images, i.id = 0#32)) ∧
    (sgt 0 0).devNat (sgt 0 0).dev.cur.t (BitVec.toNat (creg (sgt 0 0) 5)) 8 = Except.ok 0 ∧
    (sgt 0 0).devNat (sgt 0 0).dev.cur.t (BitVec.toNat (creg (sgt 0 0) 5) + 8) 8 = Except.ok 0 := by
  exact ⟨by decide +kernel, ok_of (by decide +kernel), ok_of (by decide +kernel)⟩
/-- The hypotheses of `LaunchAndCopyCommands`, case 7. -/
theorem witness_LaunchAndCopyCommands_7 :
    (cqd.dev.wbuf = [] ∧ (Instr.ccopyC 4 5 = Instr.ccopy 4 5 ∧ true = false ∨ Instr.ccopyC 4 5 = Instr.ccopyC 4 5 ∧ true = true) ∧
    QueueRuns cqd [5] ∧ BitVec.toNat (creg cqd 5) % 64 = 0 ∧ cqd.descFault true cqd.dev.cur.t (BitVec.ofNat 1024 cqn) = none ∧
    (cqd.queueCopies cqd.dev.cur.t cqd.dev.cur.q).length < 64) ∧
    cqd.devNat cqd.dev.cur.t (BitVec.toNat (creg cqd 5)) 128 = Except.ok cqn := by
  exact ⟨by decide +kernel, ok_of (by decide +kernel)⟩
/-- The hypotheses of `LaunchAndCopyCommands`, case 8. -/
theorem witness_LaunchAndCopyCommands_8 :
    (cqr.dev.wbuf = [] ∧ cmdFenceRow Instr.cfenceAll = some (true, true) ∧ QueueRuns cqr []) ∧ FenceOver cqr true true := by
  exact ⟨by decide +kernel, ⟨fun _ => by decide +kernel, fun _ => by decide +kernel⟩⟩
/-- The hypotheses of `LaunchAndCopyCommands`, case 9. -/
theorem witness_LaunchAndCopyCommands_9 :
    (cqc.dev.wbuf = [] ∧ cmdFenceRow Instr.cfenceCopy = some (true, false) ∧ QueueRuns cqc []) ∧ ¬FenceOver cqc true false := by
  exact ⟨by decide +kernel, fun h => absurd (h.1 rfl) (by decide +kernel)⟩
/-- The hypotheses of `LaunchAndCopyCommands`, case 10. -/
theorem witness_LaunchAndCopyCommands_10 :
    (rst 3).dev.wbuf = [] ∧ QueueRuns (rst 3) [5] ∧ OwnStream (rst 3) (creg (rst 3) 5) := by
  decide +kernel
/-- The hypotheses of `LaunchAndCopyCommands`, case 11. -/
theorem witness_LaunchAndCopyCommands_11 :
    (rst 3).dev.wbuf = [] ∧ QueueRuns (rst 3) [6] ∧ ¬OwnStream (rst 3) (creg (rst 3) 6) := by
  decide +kernel
/-- The hypotheses of `LaunchAndCopyCommands`, case 12. -/
theorem witness_LaunchAndCopyCommands_12 :
    (rst 3).dev.wbuf = [] ∧ QueueRuns (rst 3) [5, 6] ∧ (5 : BitVec 8) = BitVec.setWidth 8 (creg (rst 3) (5 : BitVec 4)) ∧
    OwnStream (rst 3) (creg (rst 3) 5) ∧ field (creg (rst 3) 6) 0 3 ≤ field (((rst 3).strm 5).word 0) 2 3 := by
  decide +kernel
/-- The hypotheses of `LaunchAndCopyCommands`, case 13. -/
theorem witness_LaunchAndCopyCommands_13 :
    (rst 5).dev.wbuf = [] ∧ QueueRuns (rst 5) [5, 6] ∧ (5 : BitVec 8) = BitVec.setWidth 8 (creg (rst 5) (5 : BitVec 4)) ∧
    OwnStream (rst 5) (creg (rst 5) 5) ∧ field (((rst 5).strm 5).word 0) 2 3 < field (creg (rst 5) 6) 0 3 := by
  decide +kernel
/-- The hypotheses of `LaunchAndCopyCommands`, case 14. -/
theorem witness_LaunchAndCopyCommands_14 :
    cqr.dev.wbuf = [] ∧ QueueRuns cqr [] ∧ (3 : BitVec 5) ≠ (31 : BitVec 5) := by
  decide +kernel
/-- The hypotheses of `LaunchAndCopyCommands`, case 15. -/
theorem witness_LaunchAndCopyCommands_15 :
    cqr.dev.wbuf = [] ∧ QueueRuns cqr [] := by
  decide +kernel

/-- The hypotheses of `QueueRegisters`, clause by clause. -/
theorem witness_QueueRegisters :
    (sbm.dev.wbuf = [] ∧ sbm.myCq.en = true ∧ sbm.myCq.state = 0 ∧ sbm.myCq.wp ≠ sbm.myCq.rp ∧ sbm.dev.board.recovery = false ∧
    FunctionUp sbm sbm.dev.cur.t) ∧ (dev3.dev.wbuf = [] ∧ ¬FunctionUp dev3 dev3.dev.cur.t ∧ FunctionUp sbm 0 ∧ ¬FunctionUp sbm 1) ∧
    sbm.devRead sbm.dev.cur.t (BitVec.toNat sbm.myCq.base + 16 * (sbm.myCq.rp.toNat % 2 ^ sbm.myCq.log2n)) 16 = Except.ok sbe := by
  exact ⟨by decide +kernel, by decide +kernel, ok_of (by decide +kernel)⟩
/-- The hypotheses of `BoardEvents`, clause by clause. -/
theorem witness_BoardEvents :
    (dev1.dev.wbuf = [] ∧ dev1.dev.board.hazelUp = false ∧ dev0.dev.wbuf = [] ∧ dev0.dev.board.hazelUp = true ∧
    dev0.dev.cur.n % 8 = ↑0 ∧
    (Instr.thermalTrip 106 = Instr.thermalTrip 106 ∨ Instr.thermalTrip 106 = Instr.thermalTripExit 106 ∨ Instr.thermalTrip 106 =
      Instr.thermalShutdown 106)) ∧
    (BitVec.toNat (106 : BitVec 8) < (125 : ℕ) ∧ hot.dev.wbuf = [] ∧
    (Instr.thermalTripExit 106 = Instr.thermalTrip 106 ∨ Instr.thermalTripExit 106 = Instr.thermalTripExit 106 ∨
      Instr.thermalTripExit 106 = Instr.thermalShutdown 106) ∧
    (Instr.thermalTripExit 100 = Instr.thermalTrip 100 ∨ Instr.thermalTripExit 100 = Instr.thermalTripExit 100 ∨
      Instr.thermalTripExit 100 = Instr.thermalShutdown 100) ∧
    BitVec.toNat (100 : BitVec 8) < (125 : ℕ) ∧
    (Instr.thermalTrip 101 = Instr.thermalTrip 101 ∨ Instr.thermalTrip 101 = Instr.thermalTripExit 101 ∨ Instr.thermalTrip 101 =
      Instr.thermalShutdown 101)) ∧
    (BitVec.toNat (101 : BitVec 8) < (125 : ℕ) ∧
    (Instr.thermalShutdown 124 = Instr.thermalTrip 124 ∨ Instr.thermalShutdown 124 = Instr.thermalTripExit 124 ∨
      Instr.thermalShutdown 124 = Instr.thermalShutdown 124) ∧
    BitVec.toNat (124 : BitVec 8) < (125 : ℕ) ∧
    (Instr.thermalShutdown 125 = Instr.thermalTrip 125 ∨ Instr.thermalShutdown 125 = Instr.thermalTripExit 125 ∨
      Instr.thermalShutdown 125 = Instr.thermalShutdown 125) ∧
    125 ≤ BitVec.toNat (125 : BitVec 8) ∧ hot.mem.wf = true) ∧ BitVec.toNat (3 : BitVec 5) < (24 : ℕ) := by
  exact ⟨by decide +kernel, by decide +kernel, by decide +kernel, by decide +kernel⟩
/-- The hypotheses of `PartitionRegisters`, clause by clause. -/
theorem witness_PartitionRegisters :
    (dev0.dev.wbuf = [] ∧ dev0.dev.board.ready = true ∧ BitVec.getLsbD (65538 : W64) 16 = true ∧
    BitVec.setWidth 16 (65538 : W64) ≠ (0 : BitVec 16) ∧ BitVec.getLsbD (dev0.part.get 1) 16 = false ∧ dev0.tenantBusy 1 = false) ∧
    ((∀ (u : TenantId), u ≠ (1 : TenantId) → clustersOf (dev0.part.get u) &&& BitVec.setWidth 16 (65538 : W64) = (0 : BitVec 16)) ∧
    dev0.mem.wf = true ∧ BitVec.getLsbD (65539 : W64) 16 = true ∧ BitVec.setWidth 16 (65539 : W64) ≠ (0 : BitVec 16) ∧
    dev0.dev.board.hazelUp = true ∧ BitVec.getLsbD (0 : W64) 16 = false) ∧ (BitVec.getLsbD (dev0.part.get 0) 16 = true ∧
    (dev0.tenantBusy (0 : TenantId) = false ∨ BitVec.setWidth 16 (0 : W64) = BitVec.setWidth 16 (dev0.part.get (0 : TenantId))) ∧
    FunctionUp dev0 0 ∧ scb.dev.wbuf = [] ∧ FunctionUp scb 0 ∧ scb.tenantBusy 0 = false) ∧ (BitVec.getLsbD scba 0 = true ∧
    ControlBlock scbs 131072 4194304 9 ∧ BitVec.getLsbD (0 : W64) 0 = false ∧ bsy.dev.wbuf = [] ∧ FunctionUp bsy 0) ∧
    (∃ u, u ≠ (1 : TenantId) ∧ clustersOf (dev0.part.get u) &&& BitVec.setWidth 16 (65539 : W64) ≠ (0 : BitVec 16)) ∧
    scb.devRead 0 (BitVec.toNat (scba &&& 4503599627366400)) 64 = Except.ok scbs := by
  exact ⟨by decide +kernel, by decide +kernel, by decide +kernel, by decide +kernel, by trivial, ok_of (by decide +kernel)⟩
/-- The hypotheses of `HostAccesses`, clause by clause. -/
theorem witness_HostAccesses :
    (dev0.dev.wbuf = [] ∧ (Instr.checkpoint 4611686018427392000 = Instr.checkpoint 4611686018427392000 ∧
    false = false ∨ Instr.checkpoint 4611686018427392000 = Instr.restore 4611686018427392000 ∧ false = true) ∧
    dev0.dev.board.hazelUp = true ∧ dev0.dev.board.ckptJob = none ∧ BitVec.getLsbD (4611686018427392000 : W64) 62 = true ∧
    BitVec.getLsbD (4611686018427392000 : W64) 61 = false) ∧
    ((Instr.restore 6917529027641085952 = Instr.checkpoint 6917529027641085952 ∧
    true = false ∨ Instr.restore 6917529027641085952 = Instr.restore 6917529027641085952 ∧ true = true) ∧
    BitVec.getLsbD (6917529027641085952 : W64) 62 = true ∧ BitVec.getLsbD (6917529027641085952 : W64) 61 = true ∧
    (ckp false).dev.wbuf = [] ∧ (ckp false).dev.board.ckptJob = some (ckj false) ∧
    (∀ c ∈ (ckp false).dev.cohorts, c.state ≠ CohortState.resident ∧ c.state ≠ CohortState.preempting)) ∧
    ((ckp false).dev.eng = [] ∧ (ckj false).target < 2 ^ 52 ∧ (ckp false).mem.wf = true ∧ (ckp true).dev.wbuf = [] ∧
    (ckp true).dev.board.ckptJob = some (ckj true) ∧ (∀ c ∈ (ckp true).dev.cohorts, c.state ≠ CohortState.resident ∧
    c.state ≠ CohortState.preempting)) ∧ ((ckp true).dev.eng = [] ∧ (ckj true).target < 2 ^ 52 ∧ (ckp true).mem.wf = true ∧
    ((0 : BitVec 5) = (0 : BitVec 5) ∨ dev0.dev.board.vfUp = true ∧ 1 ≤ BitVec.toNat (0 : BitVec 5) ∧
    BitVec.toNat (0 : BitVec 5) ≤ (16 : ℕ)) ∧ ((3 : BitVec 5) = (0 : BitVec 5) ∨ dev0.dev.board.vfUp = true ∧
    1 ≤ BitVec.toNat (3 : BitVec 5) ∧ BitVec.toNat (3 : BitVec 5) ≤ (16 : ℕ)) ∧ b2.dev.wbuf = []) ∧
    (1 ≤ BitVec.toNat (4 : BitVec 4) ∧ BitVec.toNat (4 : BitVec 4) ≤ (8 : ℕ) ∧ b2.dev.board.vfUp = true ∧ b2.mem.wf = true ∧
    b2.dev.board.bootstat ≠ 0 ∧ (BitVec.toNat (256 : BitVec 41) + BitVec.toNat (4 : BitVec 4) ≤ Config.nearBytes ∧
    256 = Config.nearAt + BitVec.toNat (256 : BitVec 41) ∨ Config.nearBytes ≤ BitVec.toNat (256 : BitVec 41) ∧
    BitVec.toNat (256 : BitVec 41) + BitVec.toNat (4 : BitVec 4) ≤ Config.nearBytes + Config.farBytes ∧
    256 = Config.farAt + (BitVec.toNat (256 : BitVec 41) - Config.nearBytes))) ∧
    (((BitVec.ofNat 41 (Config.nearBytes - 4)).toNat + BitVec.toNat (4 : BitVec 4) ≤ Config.nearBytes ∧
    Config.nearAt + Config.nearBytes - 4 = Config.nearAt + (BitVec.ofNat 41 (Config.nearBytes - 4)).toNat ∨ Config.nearBytes ≤
      (BitVec.ofNat 41 (Config.nearBytes - 4)).toNat ∧
    (BitVec.ofNat 41 (Config.nearBytes - 4)).toNat + BitVec.toNat (4 : BitVec 4) ≤ Config.nearBytes + Config.farBytes ∧
    Config.nearAt + Config.nearBytes - 4 = Config.farAt + ((BitVec.ofNat 41 (Config.nearBytes - 4)).toNat - Config.nearBytes)) ∧
    1 ≤ BitVec.toNat (8 : BitVec 4) ∧ BitVec.toNat (8 : BitVec 4) ≤ (8 : ℕ) ∧
    ((BitVec.ofNat 41 (Config.nearBytes + Config.farBytes - 8)).toNat + BitVec.toNat (8 : BitVec 4) ≤ Config.nearBytes ∧
    Config.farAt + Config.farBytes - 8 = Config.nearAt + (BitVec.ofNat 41 (Config.nearBytes + Config.farBytes - 8)).toNat ∨
      Config.nearBytes ≤ (BitVec.ofNat 41 (Config.nearBytes + Config.farBytes - 8)).toNat ∧
    (BitVec.ofNat 41 (Config.nearBytes + Config.farBytes - 8)).toNat + BitVec.toNat (8 : BitVec 4) ≤
      Config.nearBytes + Config.farBytes ∧
    Config.farAt + Config.farBytes - 8 =
      Config.farAt + ((BitVec.ofNat 41 (Config.nearBytes + Config.farBytes - 8)).toNat - Config.nearBytes)) ∧
    b3.dev.wbuf = [] ∧ b3.dev.board.vfUp = true) ∧ (b3.mem.wf = true ∧ b3.dev.board.bootstat ≠ 0 ∧
    BitVec.getLsbD (b3.part.get 0) 16 = true ∧ dev0.dev.board.bootstat ≠ 0 ∧ BitVec.toNat (2048 : BitVec 20) % 8 = (0 : ℕ) ∧
    dev0.hostRead (1 : BitVec 5) (BitVec.toNat (2048 : BitVec 20)) = none) ∧ (FunctionUp dev0 0 ∧ dev0.dev.board.stage ≠ 2 ∧
    BitVec.toNat (2049 : BitVec 20) % 8 ≠ (0 : ℕ)) ∧ (∃ n, (ckp false).dev.board.links.get n = true) ∧
    (∃ n, (ckp true).dev.board.links.get n = true) ∧
    b3.devNat (0 : TenantId) (BitVec.toNat (524288 : BitVec 41)) (BitVec.toNat (4 : BitVec 4)) = Except.ok 101124105 := by
  exact ⟨by decide +kernel, by decide +kernel, by decide +kernel, by decide +kernel, by decide +kernel, by decide +kernel,
    by decide +kernel, by decide +kernel, by trivial, by trivial, ok_of (by decide +kernel)⟩

/-- The hypotheses of `PipInstructions`, case 1. -/
theorem witness_PipInstructions_1 :
    (jbs [] false).dev.wbuf = [] ∧ Working (jbs [] false) (jb0 [] false) rnd1 ∧
    pipRow (jb0 [] false) (Instr.padd 2 0 0 true) = some (2, [1077936128, 1086324736, 0]) ∧ (Instr.padd 2 0 0 true).wf = true := by
  decide +kernel
/-- The hypotheses of `PipInstructions`, case 2. -/
theorem witness_PipInstructions_2 :
    (jbs [] false).dev.wbuf = [] ∧ Working (jbs [] false) (jb0 [] false) rnd1 ∧
    skipRow (jb0 [] false) rnd1 (Instr.pskipNz 0 3) = some (true, 3) := by
  decide +kernel
/-- The hypotheses of `PipInstructions`, case 3. -/
theorem witness_PipInstructions_3 :
    (jbs [] false).dev.wbuf = [] ∧ Working (jbs [] false) (jb0 [] false) rnd1 := by
  decide +kernel
/-- The hypotheses of `PipInstructions`, case 4. -/
theorem witness_PipInstructions_4 :
    ((jbs [] false).dev.wbuf = [] ∧ Working (jbs [] false) (jb0 [] false) rnd1) ∧
    (Looks (jbs [] false) (jb0 [] false) rnd1 (countOf rnd1) fun _ ↦ 0) := by
  exact ⟨by decide +kernel, looks_ok (fun _ => countOf_reads _ _) (by decide +kernel)⟩
/-- The hypotheses of `PipInstructions`, case 5. -/
theorem witness_PipInstructions_5 :
    ((jbs [] false).dev.wbuf = [] ∧ Working (jbs [] false) (jb0 [] false) rnd1) ∧
    (Looks (jbs [] false) (jb0 [] false) rnd1 (biasOf rnd1) fun _ ↦ 0) := by
  exact ⟨by decide +kernel, looks_ok (fun _ => biasOf_reads _ _) (by decide +kernel)⟩
/-- The hypotheses of `PipInstructions`, case 6. -/
theorem witness_PipInstructions_6 :
    (jbs [] false).dev.wbuf = [] ∧ Working (jbs [] false) (jb0 [] false) rnd1 ∧ rnd1.gbase = 0 := by
  decide +kernel
/-- The hypotheses of `PipInstructions`, case 7. -/
theorem witness_PipInstructions_7 :
    (jbg.dev.wbuf = [] ∧ Working jbg (jb0 [] false) rndG ∧ rndG.gbase ≠ 0) ∧
    (Looks jbg (jb0 [] false) rndG (pipAllowed rndG) fun v ↦ v != 11) := by
  exact ⟨by decide +kernel, looks_ok (fun _ => pipAllowed_reads _ _) (by decide +kernel)⟩
/-- The hypotheses of `PipInstructions`, case 8. -/
theorem witness_PipInstructions_8 :
    (jbs [] false).dev.wbuf = [] ∧ Working (jbs [] false) (jb0 [] false) rnd1 ∧ 10 < 2 ^ 24 ∧ (jbs [] false).dev.writes = [] ∧
    VaultSpan (jbs [] false) rnd1.tenant rnd1.recBase 131072 ∧ rnd1.recBase % 8 = 0 := by
  decide +kernel
/-- The hypotheses of `GroupEnds`, case 1. -/
theorem witness_GroupEnds_1 :
    (jbs [(12, 1065353216)] false).dev.wbuf = [] ∧ Working (jbs [(12, 1065353216)] false) jb1 rnd1 ∧
    (0 : SamplerId) = (jbs [(12, (1065353216 : BitVec 32))] false).dev.cur.k ∧
    (out2 = List.filter (fun x ↦ decide (x.1 < rnd1.vocab)) (List.zipWith (fun l x ↦ (l.1,
      x)) jb1.lanes (jb1.w.get (BitVec.toFin (0 : BitVec 3))))) ∧
    rnd1.selects out2 = some rnd2 ∧ jb1.rest ≠ [] := by
  decide +kernel
/-- The hypotheses of `GroupEnds`, case 2. -/
theorem witness_GroupEnds_2 :
    ((jbs [] false).dev.wbuf = [] ∧ Working (jbs [] false) (jb0 [] false) rnd1 ∧ (0 : SamplerId) = (jbs [] false).dev.cur.k ∧
    (out2 = List.filter (fun x ↦ decide (x.1 < rnd1.vocab)) (List.zipWith (fun l x ↦ (l.1,
      x)) (jb0 [] false).lanes ((jb0 [] false).w.get (BitVec.toFin (0 : BitVec 3))))) ∧
    rnd1.selects out2 = some rnd2 ∧ (jb0 [] false).rest = []) ∧ (jb0 [] false).last = false := by
  exact ⟨by decide +kernel, by decide +kernel⟩
/-- The hypotheses of `GroupEnds`, case 3. -/
theorem witness_GroupEnds_3 :
    jns.dev.wbuf = [] ∧ Working jns jbn rnd1 ∧ (0 : SamplerId) = jns.dev.cur.k ∧
    ([(10, (1073741824 : BitVec 32)), (11, (2143289344 : BitVec 32))] = List.filter (fun x ↦
      decide (x.1 < rnd1.vocab)) (List.zipWith (fun l x ↦ (l.1, x)) jbn.lanes (jbn.w.get (BitVec.toFin (0 : BitVec 3))))) ∧
    rnd1.selects [(10, 1073741824), (11, 2143289344)] = none := by
  decide +kernel
/-- The hypotheses of `GroupEnds`, case 4. -/
theorem witness_GroupEnds_4 :
    ((jbs [] true).dev.wbuf = [] ∧ Working (jbs [] true) (jb0 [] true) rnd1 ∧ (0 : SamplerId) = (jbs [] true).dev.cur.k ∧
    (out2 = List.filter (fun x ↦ decide (x.1 < rnd1.vocab)) (List.zipWith (fun l x ↦ (l.1,
      x)) (jb0 [] true).lanes ((jb0 [] true).w.get (BitVec.toFin (0 : BitVec 3))))) ∧
    rnd1.selects out2 = some rnd2 ∧ (jb0 [] true).rest = []) ∧ ((jb0 [] true).last = true ∧ rnd2.mode = 0 ∧
    rnd2.cands = [(1084227584, 11), (1073741824, 10)] ∧ (jbs [] true).treeOf (jb0 [] true).key = none ∧
    (jbs [] true).outboxOf (jb0 [] true).key = [] ∧
    ((List.filter (fun p ↦ p.mbox == mailboxOf rnd1.hdr) ((jbs [] true).tenant (tid (jb0 [] true).key.tenant)).mail).length < 16)) ∧
    (11 ≠ rnd1.eos ∧ rnd1.key = (jb0 [] true).key) ∧
    (jcu = (((jbs [] true).setRound 0 rnd2).modSampler 0 fun y ↦ { y with job := none }).smLose rnd1.as (rnd1.recBase + 56) 0 4 0) ∧
    (ExceptT.run (commitWrites rnd2 (committed rnd1.hdr) { rnd2 with toks := [(11, rnd2.logp 1084227584)], acc := 0 }) jcu).1 =
      Except.ok () := by
  exact ⟨by decide +kernel, by decide +kernel, by decide +kernel, rfl, ok_of (by decide +kernel)⟩
/-- The hypotheses of `ChunkTaken`, case 1. -/
theorem witness_ChunkTaken_1 :
    (lgs (hd0 true + 4) 0).dev.wbuf = [] ∧ ChunkReady (lgs (hd0 true + 4) 0) lgo 0 1 ∧
    RecordAt (lgs (hd0 true + 4) 0) lgo recAt (hd0 true + 4) 0 ∧ (0 : SamplerId) = (lgs (hd0 true + 4) 0).dev.cur.k ∧
    sq0 = seqKey lgo.tenant lgo.kvslot ∧ (hd0 true + 4) / 4 % 2 = 1 := by
  decide +kernel
/-- The hypotheses of `ChunkTaken`, case 2. -/
theorem witness_ChunkTaken_2 :
    ((lgs (hd0 true) 3).dev.wbuf = [] ∧ ChunkReady (lgs (hd0 true) 3) lgo 0 1 ∧ RecordAt (lgs (hd0 true) 3) lgo recAt (hd0 true) 3 ∧
    (0 : SamplerId) = (lgs (hd0 true) 3).dev.cur.k ∧ sq0 = seqKey lgo.tenant lgo.kvslot ∧ hd0 true / 4 % 2 = 0) ∧ (3 % 16 ≠ 0 ∧
    3 % 16 ≠ ↑0 + 1) := by
  exact ⟨by decide +kernel, by decide +kernel⟩
/-- The hypotheses of `ChunkTaken`, case 3. -/
theorem witness_ChunkTaken_3 :
    ((lgr true).dev.wbuf = [] ∧ ChunkReady (lgr true) lgo 0 1 ∧ RecordAt (lgr true) lgo recAt (hd0 true) 1 ∧
    (0 : SamplerId) = (lgr true).dev.cur.k ∧ sq0 = seqKey lgo.tenant lgo.kvslot ∧ hd0 true / 4 % 2 = 0) ∧
    ((1 % 16 = 0 ∨ 1 % 16 = ↑0 + 1) ∧ (lgr true).roundOf 0 sq0 = some (rnd true) ∧ (rnd true).pipon = true) ∧
    lgt1 = (lgr true).setEng { lgo with token := some (BitVec.ofNat 64 (2 ^ 56 + 4 * lgo.list.length % 2 ^ 48)) } := by
  exact ⟨by decide +kernel, by decide +kernel, rfl⟩
/-- The hypotheses of `ChunkTaken`, case 4. -/
theorem witness_ChunkTaken_4 :
    (lgn.dev.wbuf = [] ∧ ChunkReady lgn lgp 0 1 ∧ RecordAt lgn lgp recAt (hd0 false) 1 ∧ (0 : SamplerId) = lgn.dev.cur.k ∧
    sq0 = seqKey lgp.tenant lgp.kvslot ∧ hd0 false / 4 % 2 = 0) ∧ ((1 % 16 = 0 ∨ 1 % 16 = ↑0 + 1) ∧
    lgn.roundOf 0 sq0 = some (rnd false) ∧ (rnd false).pipon = false ∧ BitVec.getLsbD lgp.b 0 = false ∧
    ((rnd false).selects (List.filter (fun x ↦ decide (x.1 < (rnd false).vocab)) (List.map (fun x ↦ (fieldNat lgp.a 32 32 + x.2,
      BitVec.ofNat 32 x.1)) lgp.list.zipIdx)) = some rndN)) ∧
    lgt2 = lgn.setEng { lgp with token := some (BitVec.ofNat 64 (2 ^ 56 + 4 * lgp.list.length % 2 ^ 48)) } := by
  exact ⟨by decide +kernel, by decide +kernel, rfl⟩
/-- The hypotheses of `ChunkTaken`, case 5. -/
theorem witness_ChunkTaken_5 :
    ((lgs (hd0 true) 0).dev.wbuf = [] ∧ ChunkReady (lgs (hd0 true) 0) lgo 0 1 ∧ RecordAt (lgs (hd0 true) 0) lgo recAt (hd0 true) 0 ∧
    (0 : SamplerId) = (lgs (hd0 true) 0).dev.cur.k ∧ sq0 = seqKey lgo.tenant lgo.kvslot ∧ hd0 true / 4 % 2 = 0) ∧ (0 % 16 = 0 ∧
    (lgs (hd0 true) 0).roundOf 0 sq0 = none ∧ (lgs (hd0 true) 0).outboxOf sq0 = [] ∧
    ((lgs (hd0 true) 0).dev.samplers.get 0).rounds.length < 64 ∧ hd0 true / 8 % 2 = 1 ∧
    (headerBad (List.map (fun i ↦
      BitVec.ofNat 64 (leNat (List.take 8 (List.drop (8 * i) (rcw (hd0 true) 0))))) (List.range 16)) = false)) ∧
    ((pipValid (List.map (fun i ↦
      BitVec.ofNat 32 (leNat (List.take 4 (List.drop (256 + 4 * i) (rcw (hd0 true) 0))))) (List.range 64)) 0 0 = true) ∧
    VaultSpan (lgs (hd0 true) 0) (tid lgo.tenant) recAt 1536 ∧ recAt % 64 = 0 ∧ (lgs (hd0 true) 0).mem.wf = true) ∧
    (lgs (hd0 true) 0).readAs (View.pair ↑0) (tid lgo.tenant) recAt (if ((lgs (hd0 true) 0).treeOf sq0).isSome =
      true then 1536 else 512) = Except.ok (rcw (hd0 true) 0) := by
  exact ⟨by decide +kernel, by decide +kernel, by decide +kernel, ok_of (by decide +kernel)⟩
/-- The hypotheses of `DraftTreeTaken`, clause by clause. -/
theorem witness_DraftTreeTaken :
    ((vfs (hd0 true + 4) 0).dev.wbuf = [] ∧ (0 : SamplerId) = (vfs (hd0 true + 4) 0).dev.cur.k ∧
    (vfs (hd0 true + 4) 0).engOp (vfs (hd0 true + 4) 0).dev.cur.n = some (vfo 2) ∧ (vfo 2).owner = EngOwner.task 1 0 ∧
    (vfo 2).kind = EngKind.verify ∧ (vfo 2).token = none) ∧ (samplerOf 0 = 0 ∧ (vfs (hd0 true + 4) 0).engStart (vfo 2) = true ∧
    2 = fieldNat (vfo 2).b 0 7 ∧ leNat (List.take 8 (List.take 128 (rcb (hd0 true + 4) 0))) / 4 % 2 = 1 ∧
    (vfs (hd0 true) 1).dev.wbuf = [] ∧ (0 : SamplerId) = (vfs (hd0 true) 1).dev.cur.k) ∧
    ((vfs (hd0 true) 1).engOp (vfs (hd0 true) 1).dev.cur.n = some (vfo 2) ∧ (vfs (hd0 true) 1).engStart (vfo 2) = true ∧
    leNat (List.take 8 (List.take 128 (rcb (hd0 true) 0))) / 4 % 2 = 0 ∧
    (vfs (hd0 true) 1).treeOf (seqKey (vfo 2).tenant (vfo 2).kvslot) = none ∧
    treeBad (leNat (List.take 4 (List.drop 24 (List.take 128 (rcb (hd0 true) 0))))) (treeNodes (vfb 1)) = true ∧
    (vfs (hd0 true) 0).dev.wbuf = []) ∧ ((0 : SamplerId) = (vfs (hd0 true) 0).dev.cur.k ∧
    (vfs (hd0 true) 0).engOp (vfs (hd0 true) 0).dev.cur.n = some (vfo 2) ∧ (vfs (hd0 true) 0).engStart (vfo 2) = true ∧
    (vfs (hd0 true) 0).treeOf (seqKey (vfo 2).tenant (vfo 2).kvslot) = none ∧
    treeBad (leNat (List.take 4 (List.drop 24 (List.take 128 (rcb (hd0 true) 0))))) (treeNodes (vfb 0)) = false ∧
    leNat (List.take 8 (List.drop 32 (List.take 128 (rcb (hd0 true) 0)))) = 0) ∧ (1 ≤ 2 ∧ 2 ≤ 64 ∧
    VaultSpan (vfs (hd0 true) 0) (tid (vfo 2).tenant) recAt 1536 ∧ recAt % 64 = 0 ∧ (vfs (hd0 true) 0).mem.wf = true) ∧
    (vfs (hd0 true + 4) 0).recordVa 0 (seqKey (vfo 2).tenant (vfo 2).kvslot) = Except.ok recAt ∧
    (vfs (hd0 true + 4) 0).readAs (View.pair ↑0) (tid (vfo 2).tenant) recAt 128 = Except.ok (List.take 128 (rcb (hd0 true + 4) 0)) ∧
    (vfs (hd0 true + 4) 0).engBytes (vfo 2) (Config.lsBase + fieldNat (vfo 2).a 0 20) (8 * 2) = Except.ok (vfb 0) ∧
    (vfs (hd0 true) 1).recordVa 0 (seqKey (vfo 2).tenant (vfo 2).kvslot) = Except.ok recAt ∧
    (vfs (hd0 true) 1).readAs (View.pair ↑0) (tid (vfo 2).tenant) recAt 128 = Except.ok (List.take 128 (rcb (hd0 true) 0)) ∧
    (vfs (hd0 true) 1).engBytes (vfo 2) (Config.lsBase + fieldNat (vfo 2).a 0 20) (8 * 2) = Except.ok (vfb 1) ∧
    (vfs (hd0 true) 0).recordVa 0 (seqKey (vfo 2).tenant (vfo 2).kvslot) = Except.ok recAt ∧
    (vfs (hd0 true) 0).readAs (View.pair ↑0) (tid (vfo 2).tenant) recAt 128 = Except.ok (List.take 128 (rcb (hd0 true) 0)) ∧
    (vfs (hd0 true) 0).engBytes (vfo 2) (Config.lsBase + fieldNat (vfo 2).a 0 20) (8 * 2) = Except.ok (vfb 0) := by
  exact ⟨by decide +kernel, by decide +kernel, by decide +kernel, by decide +kernel, by decide +kernel,
    ok_of (by decide +kernel), ok_of (by decide +kernel), ok_of (by decide +kernel), ok_of (by decide +kernel),
    ok_of (by decide +kernel), ok_of (by decide +kernel), ok_of (by decide +kernel), ok_of (by decide +kernel),
    ok_of (by decide +kernel)⟩
/-- The hypotheses of `FramePath`, clause by clause. -/
theorem witness_FramePath :
    ((frs 21).dev.wbuf = [] ∧ fr8 = (frs 21).fring (BitVec.ofNat 8 (frs 21).dev.cur.n) ∧ fr8.en = true ∧
    (21 : BitVec 8) = fr8.queue 1 ∧ ((frs 21).hq 21).en = true ∧ ((frs 21).hq 21).toks = [ftk]) ∧ (((frs 21).hq 21).getters = [] ∧
    (frs 21).dev.decs.get fr8.dec = none ∧ ((frs 21).hq 21).mayGet 1 = true ∧ (frs 22).dev.wbuf = [] ∧
    fr8 = (frs 22).fring (BitVec.ofNat 8 (frs 22).dev.cur.n) ∧ (22 : BitVec 8) = fr8.queue 2) ∧ (((frs 22).hq 22).en = true ∧
    ((frs 22).hq 22).toks = [ftk] ∧ ((frs 22).hq 22).getters = [] ∧ (frs 22).dev.encs.get fr8.enc = none ∧
    ((frs 22).hq 22).mayGet 2 = true ∧ frd.dev.wbuf = []) ∧ (frd.mem.wf = true ∧ frd.dev.cur.n % 4 = ↑0 ∧
    frd.dev.decs.get 0 = some (fjb false) ∧ fr8 = frd.fring (fjb false).ring ∧ (frd.hq 22).en = true ∧ (frd.hq 22).room = true) ∧
    (firstIn (Putter.dec 0) (frd.hq 22).putters = true ∧ (frd.hq 22).mayPut 1 = true ∧ SlotUsable frd fr8 (fjb false).tok ∧
    (fre false).dev.wbuf = [] ∧ (fre false).dev.encs.get (BitVec.toFin (2 : BitVec 3)) = some (fjb false) ∧
    (fjb false).last = false) ∧ (fr8 = (fre false).fring (fjb false).ring ∧ (23 : BitVec 8) = fr8.bsq ∧
    ((fre false).hq 23).en = true ∧ ((fre false).hq 23).room = true ∧
    firstIn (Putter.enc (BitVec.toFin (2 : BitVec 3))) ((fre false).hq (23 : BitVec 8)).putters = true ∧
    ((fre false).hq 23).mayPut 2 = true) ∧ ((fre true).dev.wbuf = [] ∧ (fre true).dev.cur.n % 8 = ↑2 ∧
    (fre true).dev.encs.get 2 = some (fjb true) ∧ (fjb true).last = true ∧ fr8 = (fre true).fring (fjb true).ring ∧
    (20 : BitVec 8) = fr8.queue 0) ∧ (((fre true).hq 20).en = true ∧ ((fre true).hq 20).room = true ∧
    firstIn (Putter.enc 2) ((fre true).hq 20).putters = true ∧ ((fre true).hq 20).mayPut 2 = true) ∧
    frd.decodeIn fr8 (fjb false).tok = Except.ok fdi ∧ (fre false).pixels fr8 (fjb false).tok = Except.ok fpx := by
  exact ⟨by decide +kernel, by decide +kernel, by decide +kernel, by decide +kernel, by decide +kernel, by decide +kernel,
    by decide +kernel, by decide +kernel, ok_of (by decide +kernel), ok_of (by decide +kernel)⟩
/-- The hypotheses of `PostsLeave`, clause by clause. -/
theorem witness_PostsLeave :
    (obx.dev.wbuf = [] ∧ obx.dev.outbox[obx.dev.cur.n]? = some (sq0, pst7) ∧
    (∀ y ∈ List.take obx.dev.cur.n obx.dev.outbox, y.1 ≠ sq0) ∧
    ((List.filter (fun x ↦ x.mbox == pst7.mbox) (obx.tenant (tid sq0.tenant)).mail).length < 16) ∧ obf.dev.wbuf = [] ∧
    obf.dev.outbox[obf.dev.cur.n]? = some (sq0, pst7)) ∧ ((∀ y ∈ List.take obf.dev.cur.n obf.dev.outbox, y.1 ≠ sq0) ∧
    (16 ≤ (List.filter (fun x ↦ x.mbox == pst7.mbox) (obf.tenant (tid sq0.tenant)).mail).length) ∧ egs.dev.wbuf = [] ∧
    egs.mem.wf = true ∧ eg7 = (egs.tenant (0 : TenantId)).egress.get (BitVec.toFin (7 : BitVec 6)) ∧
    BitVec.getLsbD eg7.ctl 0 = true) ∧ (field eg7.ctl 1 2 = 0 ∧ (egs.tenant 0).mail = [pst7] ∧ pst7.mbox = 7 ∧
    BitVec.toNat (7 : BitVec 12) % 64 = BitVec.toNat (7 : BitVec 6) ∧ (eg7.wp - eg7.rp).toNat + 24 ≤ 2 ^ field eg7.ctl 3 5) ∧
    (∃ n, egs.dev.board.links.get n = true) := by
  exact ⟨by decide +kernel, by decide +kernel, by decide +kernel, by trivial⟩
/-- The hypotheses of `ReadyOrder`, clause by clause. -/
theorem witness_ReadyOrder :
    (dsr 0).readyHead 0 = some (rk0 0) := by
  decide +kernel
/-- The hypotheses of `CohortMadeResident`, clause by clause. -/
theorem witness_CohortMadeResident :
    ((dsr 0).dev.wbuf = [] ∧ Distinct (dsr 0) ∧ (dsr 0).dev.board.recovery = false ∧ (dsr 0).dev.board.ckptJob = none ∧
    PreemptionsGoOn (dsr 0) ∧ (dsr 0).readyHead (dsr 0).dev.cur.t = some (rk0 0)) ∧ (7 = (rk0 0).cohort.id ∧
    (∀ c ∈ (dsr 0).dev.cohorts, c.state = CohortState.ready → c.id = 7) ∧
    (rk0 0).launch.fits ((dsr 0).aliveTasks 7).length ((dsr 0).freeCores (dsr 0).dev.cur.t) = true ∧
    ((List.filter (fun k ↦ k.ctxid == 0) ((dsr 0).aliveTasks 7)).length ≤ (dsr 0).freeAreas (dsr 0).dev.cur.t) ∧
    (dsr 1).dev.wbuf = [] ∧ Distinct (dsr 1)) ∧ ((dsr 1).dev.board.recovery = false ∧ (dsr 1).dev.board.ckptJob = none ∧
    PreemptionsGoOn (dsr 1) ∧ (dsr 1).readyHead (dsr 1).dev.cur.t = some (rk0 1) ∧ 7 = (rk0 1).cohort.id ∧
    (∀ c ∈ (dsr 1).dev.cohorts, c.state = CohortState.ready → c.id = 7)) ∧
    ((rk0 1).launch.fits ((dsr 1).aliveTasks 7).length ((dsr 1).freeCores (dsr 1).dev.cur.t) = true ∧
    ((List.filter (fun k ↦ k.ctxid == 0) ((dsr 1).aliveTasks 7)).length ≤ (dsr 1).freeAreas (dsr 1).dev.cur.t) ∧
    (dsr 2).dev.wbuf = [] ∧ Distinct (dsr 2) ∧ (dsr 2).dev.board.recovery = false ∧ (dsr 2).dev.board.ckptJob = none) ∧
    (PreemptionsGoOn (dsr 2) ∧ (dsr 2).readyHead (dsr 2).dev.cur.t = some (rk0 2) ∧ 7 = (rk0 2).cohort.id ∧
    (∀ c ∈ (dsr 2).dev.cohorts, c.state = CohortState.ready → c.id = 7) ∧
    (rk0 2).launch.fits ((dsr 2).aliveTasks 7).length ((dsr 2).freeCores (dsr 2).dev.cur.t) = true ∧
    ((List.filter (fun k ↦ k.ctxid == 0) ((dsr 2).aliveTasks 7)).length ≤ (dsr 2).freeAreas (dsr 2).dev.cur.t)) := by
  exact ⟨by decide +kernel, by decide +kernel, by decide +kernel, by decide +kernel, by decide +kernel⟩
/-- The hypotheses of `DecisionsSpareStreams`, clause by clause. -/
theorem witness_DecisionsSpareStreams :
    dv4.dev.wbuf = [] ∧ PreemptionsGoOn dv4 ∧
    (dv4.dev.board.recovery = true ∨ dv4.dev.board.ckptJob ≠ none ∨ dv4.readyHead dv4.dev.cur.t = none) ∧ (dsr 0).dev.wbuf = [] ∧
    Distinct (dsr 0) := by
  decide +kernel
/-- The hypotheses of `TasksStartAndResume`, clause by clause. -/
theorem witness_TasksStartAndResume :
    (tks.dev.wbuf = [] ∧ tks.taskById tks.dev.cur.n = some tkc3 ∧ tks.mayRun tkc3 = some (lc3 0, 3) ∧ tkc3.where_ = TaskAt.fresh ∧
    (∀ b < 0, b ∈ (tks.tenant (lc3 0).tenant).areas) ∧ 0 ∉ (tks.tenant (lc3 0).tenant).areas) ∧ (0 ≤ 4096 ∧ tkr.dev.wbuf = [] ∧
    tkr.taskById tkr.dev.cur.n = some tkc4 ∧ tkr.mayRun tkc4 = some (lc3 0, 3) ∧ tkc4.where_ = TaskAt.saved) := by
  exact ⟨by decide +kernel, by decide +kernel⟩
/-- The hypotheses of `SupervisorEntered`, clause by clause. -/
theorem witness_SupervisorEntered :
    (stq.dev.wbuf = [] ∧ stq.me.run = Run.stopping srec ∧ (∀ (n : Fin 8), (stq.me.ctx.streams.get n).gq.length ≤ 64) ∧
    stq.stopReady stq.dev.cur.core = false ∧ stp.dev.wbuf = [] ∧ stp.me.run = Run.stopping srec) ∧
    ((∀ (n : Fin 8), (stp.me.ctx.streams.get n).gq.length ≤ 64) ∧ stp.stopReady stp.dev.cur.core = true ∧ MatrixIdle stp.me ∧
    stp.me.defer = [] ∧ (∀ f ∈ stp.me.flights, f.counts = true) ∧ (∀ o ∈ stp.dev.eng, o.kind ≠ EngKind.logit)) := by
  exact ⟨by decide +kernel, by decide +kernel⟩
/-- The hypotheses of `PreemptionAndWatchdog`, clause by clause. -/
theorem witness_PreemptionAndWatchdog :
    (pre.dev.wbuf = [] ∧ pre.cohortById pre.dev.cur.n = some cohP ∧ cohP.state = CohortState.preempting ∧ cohP.asked = false ∧
    prc.dev.wbuf = [] ∧ prc.cohortById prc.dev.cur.n = some cohP) ∧
    ((∀ k ∈ prc.dev.tasks, k.cohort = cohP.id → k.alive = true → prc.coreOf k.id = none) ∧
    (∃ k ∈ pre.dev.tasks, k.cohort = cohP.id ∧ k.alive = true ∧ pre.coreOf k.id ≠ none) ∧
    (wds CohortState.ready false).dev.wbuf = [] ∧ (wds CohortState.ready false).dev.board.recovery = false ∧
    (wds CohortState.ready false).watched (wds CohortState.ready false).dev.cur.t (wds CohortState.ready false).dev.cur.q = true ∧
    (wds CohortState.ready false).myCq.wd1 ≠ 0) ∧ (Distinct (wds CohortState.ready false) ∧
    (wds CohortState.ready false).myCq.since + (wds CohortState.ready false).myCq.wd1.toNat * 1000 ≤
      (wds CohortState.ready false).dev.board.dtime ∧
    (wds CohortState.ready false).myCq.wdPre = false ∧
    (∀ c ∈ (wds CohortState.ready false).dev.cohorts,
      ofQueue (wds CohortState.ready false) (wds CohortState.ready false).dev.cur.t (wds CohortState.ready false).dev.cur.q c →
      c.state ≠ CohortState.resident ∧
    c.state ≠ CohortState.preempting) ∧ (wds CohortState.resident false).dev.wbuf = [] ∧
    (wds CohortState.resident false).dev.board.recovery = false) ∧
    ((wds CohortState.resident false).watched (wds CohortState.resident false).dev.cur.t
      (wds CohortState.resident false).dev.cur.q = true ∧
    (wds CohortState.resident false).myCq.wd1 ≠ 0 ∧ Distinct (wds CohortState.resident false) ∧
    (wds CohortState.resident false).myCq.since + (wds CohortState.resident false).myCq.wd1.toNat * 1000 ≤
      (wds CohortState.resident false).dev.board.dtime ∧
    (wds CohortState.resident false).myCq.wdPre = false ∧
    (∃ c ∈ (wds CohortState.resident false).dev.cohorts,
      ofQueue (wds CohortState.resident false) (wds CohortState.resident false).dev.cur.t (wds CohortState.resident false).dev.cur.q c ∧
    (c.state = CohortState.resident ∨ c.state = CohortState.preempting))) ∧ ((wds CohortState.ready true).dev.wbuf = [] ∧
    (wds CohortState.ready true).dev.board.recovery = false ∧
    (wds CohortState.ready true).watched (wds CohortState.ready true).dev.cur.t (wds CohortState.ready true).dev.cur.q = true ∧
    (wds CohortState.ready true).myCq.wd1 ≠ 0 ∧ Distinct (wds CohortState.ready true) ∧
    (wds CohortState.ready true).myCq.since + (wds CohortState.ready true).myCq.wd1.toNat * 1000 ≤
      (wds CohortState.ready true).dev.board.dtime) ∧
    ((wds CohortState.ready true).myCq.wdPre = true ∧ dv4.dev.wbuf = [] ∧
    (dv4.dev.board.dtime < dv4.myCq.since + dv4.myCq.wd1.toNat * 1000 ∨ dv4.myCq.wd1 = 0 ∨ dv4.dev.board.recovery = true) ∧
    wd0.dev.wbuf = [] ∧ wd0.myCq.wd1 = 0 ∧ (wds CohortState.preempting true).dev.wbuf = []) ∧
    ((wds CohortState.preempting true).dev.board.recovery = false ∧ (wds CohortState.preempting true).myCq.wd1 ≠ 0 ∧
    (wds CohortState.preempting true).myCq.preAt = some 0 ∧
    0 + (wds CohortState.preempting true).myCq.wd2.toNat * 1000 ≤ (wds CohortState.preempting true).dev.board.dtime ∧
    Distinct (wds CohortState.preempting true) ∧
    (wds CohortState.preempting true).queuePreempting (wds CohortState.preempting true).dev.cur.t
      (wds CohortState.preempting true).dev.cur.q = true) ∧
    ((wds CohortState.ready true).myCq.preAt = some 0 ∧
    0 + (wds CohortState.ready true).myCq.wd2.toNat * 1000 ≤ (wds CohortState.ready true).dev.board.dtime ∧
    (wds CohortState.ready true).queuePreempting (wds CohortState.ready true).dev.cur.t (wds CohortState.ready true).dev.cur.q = false) := by
  exact ⟨by decide +kernel, by decide +kernel, by decide +kernel, by decide +kernel, by decide +kernel, by decide +kernel,
    by decide +kernel, by decide +kernel⟩

/-- The hypotheses of `StepRunsDecoded` on a command. -/
theorem witness_StepRunsDecoded_command : sq1.dev.turns = [.queue 0 0] ∧ sq1.dev.board.off = false ∧ sq1.contended = false ∧ sq1.served 5 0 = true ∧
    sq1.hasTurn 0 0 = true ∧ (sq1.cq 0 0).cpc.toNat % 4 = 0 ∧
    (∃ w, sq1.devNat 0 (sq1.cq 0 0).cpc.toNat 4 = .ok w ∧ (commandBytes w = 4 → cmw = w) ∧
      (commandBytes w = 12 → sq1.devNat 0 (sq1.cq 0 0).cpc.toNat 12 = .ok cmw ∧ cmw % 2 ^ 32 = w)) ∧
    decodeCommand cmw = .ok (.cadd 4 5 6) :=
  ⟨by decide +kernel, by decide +kernel, by decide +kernel, by decide +kernel, by decide +kernel, by decide +kernel,
    ⟨cmw, ok_of (by decide +kernel), fun _ => rfl, fun h => absurd h (by decide +kernel)⟩, ok_of (by decide +kernel)⟩
/-- The same for a queue without a slot. -/
theorem witness_StepRunsDecoded_noSlot : sq2.dev.turns = [.queue 0 0] ∧ sq2.dev.board.off = false ∧
    (sq2.served 5 0 = false ∨ sq2.hasTurn 0 0 = false) := by
  decide +kernel
/-- The same for a Pip word. -/
theorem witness_StepRunsDecoded_pip : (sp1.dev.turns = [.sampler 0] ∧ sp1.dev.board.off = false ∧ sp1.contended = false ∧
    sp1.scHolds (jb0 [] false).op = false ∧ (sp1.dev.samplers.get 0).job = some (jb0 [] false) ∧ sp1.roundOf 0 (jb0 [] false).key = some rnd1) ∧
    (∀ cls, sp1.pipClass 0 = some cls → sp1.served cls (tid (jb0 [] false).key.tenant) = true) ∧
    decodePip (rnd1.prog.getD (jb0 [] false).pip 0) = .ok (.pld 1) :=
  ⟨by decide +kernel, fun cls h => by
    have e : sp1.pipClass 0 = some 2 := by decide +kernel
    cases e.symm.trans h
    decide +kernel, ok_of (by decide +kernel)⟩
/-- The same for an event. -/
theorem witness_StepRunsDecoded_event : se1.dev.turns = [.event .linkDrops evw] ∧ se1.dev.board.off = false ∧ se1.contended = false ∧
    Instr.linkDrops.isEvent = true := by
  decide +kernel
/-- The same for a syllable. -/
theorem witness_StepRunsDecoded_syllable : Fetches (sc1 adw) (scu adw) (sct adw) [] 0 0x10000 [adw] ∧
    (holdBit adw = true → ∀ f ∈ vsrcFields adw, f ≠ 32 ∧ f ≠ 33) ∧ decodeSyllable adw 0 = .ok (.addi x0 d4 (.s 5) 3) ∧
    sce = ((opens (sct adw) 0x10000).readTable [loneSyl 0x10000 adw (.addi x0 d4 (.s 5) 3)]).enter
      (loneSyl 0x10000 adw (.addi x0 d4 (.s 5) 3)) ∧
    exec (.addi x0 d4 (.s 5) 3) sce = .next scr ∧ (scr.core 0).run = .running ∧ (scr.core 0).bun.hold = none :=
  ⟨⟨by decide +kernel, by decide +kernel, rfl, by decide +kernel, by decide +kernel, by decide +kernel,
    .inl (by decide +kernel), by decide +kernel, rfl, by decide +kernel, by decide +kernel, by decide +kernel, by decide +kernel, by decide +kernel⟩,
    by decide +kernel, ok_of (by decide +kernel), rfl, exec_after (by decide +kernel), by decide +kernel, by decide +kernel⟩
/-- The same for `halt`. -/
theorem witness_StepRunsDecoded_halt : Fetches (scs haw) (scv haw) (scw haw) [] 0 0x10000 [haw] ∧
    (holdBit haw = true → ∀ f ∈ vsrcFields haw, f ≠ 32 ∧ f ≠ 33) ∧ decodeSyllable haw 0 = .ok (.halt x0) ∧
    she = ((opens (scw haw) 0x10000).readTable [loneSyl 0x10000 haw (.halt x0)]).enter (loneSyl 0x10000 haw (.halt x0)) ∧
    exec (.halt x0) she = .next shr ∧ (shr.core 0).run = .halted :=
  ⟨⟨by decide +kernel, by decide +kernel, rfl, by decide +kernel, by decide +kernel, by decide +kernel,
    .inl (by decide +kernel), by decide +kernel, rfl, by decide +kernel, by decide +kernel, by decide +kernel, by decide +kernel, by decide +kernel⟩,
    by decide +kernel, ok_of (by decide +kernel), rfl, exec_after (by decide +kernel), by decide +kernel⟩
/-- The same for a header alone. -/
theorem witness_StepRunsDecoded_header : Fetches (sc1 npw) (scu npw) (sct npw) [] 0 0x10000 [npw] ∧
    decodeHeader npw = .ok (.nop false 0 0 0) ∧ exec (.nop false 0 0 0) (opens (sct npw) 0x10000) = .next snr :=
  ⟨⟨by decide +kernel, by decide +kernel, rfl, by decide +kernel, by decide +kernel, by decide +kernel,
    .inl (by decide +kernel), by decide +kernel, rfl, by decide +kernel, by decide +kernel, by decide +kernel, by decide +kernel, by decide +kernel⟩,
    ok_of (by decide +kernel), exec_after (by decide +kernel)⟩
/-- The end of the clock of `scr`. -/
theorem witness_StepRunsDecoded_clock : scr.dev.cur.core = 0 ∧ (scr.core 0).bun.taken = false ∧ (scr.core 0).bun.exiting = false ∧
    (scr.core 0).ctx.loops = [] ∧ (scr.core 0).bun.pushed = false ∧
    scx = (scr.retire (opens (sct adw) 0x10000).me [] []).tick 0 false :=
  ⟨by decide +kernel, by decide +kernel, by decide +kernel, by decide +kernel, by decide +kernel, rfl⟩
/-- A device that is off, and a turn that stutters there. -/
theorem witness_StepRunsDecoded_off : (sof (.core 0)).dev.turns = [.core 0] ∧ (sof (.core 0)).dev.board.off = true ∧
    (∀ b w, Turn.core 0 ≠ .event (.powerOnReset b) w) ∧ ∀ ns, Turn.core 0 ≠ .time ns :=
  ⟨by decide +kernel, by decide +kernel, nofun, nofun⟩
/-- The same in time. -/
theorem witness_StepRunsDecoded_offTime : (sof (.time 9)).dev.turns = [.time 9] ∧ (sof (.time 9)).dev.board.off = true := by
  decide +kernel
/-- The hypotheses of `DecodeAfterEncode`: of a syllable, of the header, of a command and of a Pip word. -/
theorem witness_DecodeAfterEncode : ((Instr.addi x0 d4 (.s 5) 3).wf = true ∧ (Instr.addi x0 d4 (.s 5) 3).syl = some 0x08081403 ∧
    ∀ o a b c, Instr.addi x0 d4 (.s 5) 3 ≠ .nop o a b c) ∧ (Instr.nop false 0 0 0).syl = some 0x78000000 ∧
    (Instr.claunch 4 5 6).wf = true ∧ (Instr.claunch 4 5 6).cmd = some 0x79158000 ∧ (Instr.pcnt 1).wf = true ∧
    (Instr.pcnt 1).pip = some 0x09000000 :=
  ⟨⟨by decide +kernel, by decide +kernel, fun _ _ _ _ => nofun⟩, by decide +kernel⟩
/-- Does a state step to a next state? -/
def steps (s : State) : Bool := match step s with
  | .next _ => true
  | _ => false
/-- Then there is one. -/
theorem steps_next {s : State} (h : steps s = true) : ∃ t, step s = .next t := by
  unfold steps at h
  split at h
  · exact ⟨_, ‹_›⟩
  · cases h
/-- The hypotheses of `StepKeepsInvariant`: a state with the invariant, and a step of it that goes on. -/
theorem witness_StepKeepsInvariant : sq1.Inv ∧ ∃ t, step sq1 = .next t :=
  ⟨⟨by decide +kernel, by decide +kernel, by unfold State.PartitionsApart; decide +kernel⟩, steps_next (by decide +kernel)⟩

/-- The hypotheses of `DeviceResets`, clause by clause: the flash and the recovery window of `dev0` hold no image. -/
theorem witness_DeviceResets :
    (dev0.dev.wbuf = [] ∧ dev0.mem.wf = true ∧ dev0.dev.board.off = false ∧ offd.dev.wbuf = [] ∧ offd.mem.wf = true ∧
    offd.dev.board.off = true) ∧ (dev3.dev.wbuf = [] ∧ dev3.mem.wf = true ∧
    (17 ≤ (2 : BitVec 5).toNat ∨ ((2 : BitVec 5) ≠ 0 ∧ dev3.dev.board.vfUp = false)) ∧ bsy.dev.wbuf = [] ∧
    bsy.mem.wf = true ∧ bsy.dev.board.vfUp = true) ∧ dev0.imageOk Config.flashAt = false ∧ dev0.imageOk Config.recoveryAt = false := by
  exact ⟨by decide +kernel, by decide +kernel, State.imageOk_unsigned (by decide +kernel), State.imageOk_unsigned (by decide +kernel)⟩
/-- The hypotheses of `HostAccesses` for accesses that get Unsupported Request: of a tenant to a page that its tables do not map, of a
function that does not exist, of function 0 past the tiers, of a function without a partition. -/
theorem witness_HostAccesses_refused :
    (b3.part.get 0).getLsbD 16 = true ∧ b3.devNat 0 0x3000000 4 = .error (6, 0x3000000) ∧
    b3.devWrite 0 0x3000000 (toLe 4 (5 : W64).toNat) = .error (6, 0x3000000) ∧ 17 ≤ (17 : BitVec 5).toNat ∧
    Config.nearBytes + Config.farBytes < (BitVec.ofNat 41 (Config.nearBytes + Config.farBytes - 7)).toNat + (8 : BitVec 4).toNat ∧
    (∃ t : TenantId, (2 : BitVec 5).toNat = t.val + 1 ∧ (b2.part.get t).getLsbD 16 = false) := by
  exact ⟨by decide +kernel, err_of (by decide +kernel), err_of (by decide +kernel), by decide, by decide +kernel, 1, by decide +kernel⟩
/-- The hypotheses of `OtherResultsTrap`, kind by kind, with 64 results in flight. -/
theorem witness_OtherResultsTrap :
    ((Instr.cmpi x0 2 7 (.s 5) 6).wf = true ∧ f64.dev.wbuf = [] ∧ f64.me.priv = false ∧ f64.me.inFlight = 64 ∧
      f64.Ready x0 (Uses.none.s (.s 5)) ∧ f64.me.run = .running) ∧
    (f64.Ready x0 ((Uses.none.s (.s 5)).s (.s 6)) ∧ 64 ≤ (dividerFreed f64).me.inFlight ∧ f6v.me.inFlight = 64 ∧ f6v.dev.wbuf = [] ∧
      f6v.me.priv = false ∧ f6v.live = true) ∧
    (f6v.Ready x0 (Uses.none.r 5) ∧ f6v.dataFault .read true (Config.lsBase + 0xFF8) 8 = none ∧ rowSpan (Config.lsBase + 0xFF0) 8 = .ls ∧
      f6v.Ready x0 ((Uses.none.r 8).d v7) ∧ f6v.dataFault .read true (Config.lsBase + 0x420) 32 = none) ∧
    (f6v.Ready x0 ((Uses.none.v (.v 5)).v (.v 6)) ∧ f6v.Ready x0 Uses.none ∧ f6v.Ready x0 (Uses.none.v (.v 5)) ∧
      f6v.Ready x0 ((Uses.none.v (.v 8)).d v10)) ∧
    (∃ x u p b, predRow f64 (.cmpi x0 2 7 (.s 5) 6) = some (x, u, p, b)) ∧
    (∃ x d a b v, divRow f64 (.rem x0 d4 (.s 5) (.s 6)) = some (x, d, a, b, v)) ∧
    (∃ x a size sx lc d, loadRow f6v (.ld x0 3 0 false 4 5 1) = some (x, a, size, sx, lc, d, Config.lsBase + 0xFF8)) ∧
    (∃ r, atomicRow f6v amo8 = some r ∧ r.ea = Config.lsBase + 0xFF0 ∧ r.size = 8) ∧
    (∃ x u wd lc d, vloadRow f6v (.vld x0 .w256 0 7 8 1) = some (x, u, wd, lc, d, [(Config.lsBase + 0x420, 32)])) ∧
    (∃ r, vecRow iVadd = some r) ∧ (f6r.Ready x0 (((Uses.none.v (.v 5)).v (.v 9)).d v7) ∧ f6r.me.inFlight = 64 ∧
      nth (elems 32 3 ((popped f6r (((Uses.none.v (.v 5)).v (.v 9)).d v7)).me.vsrc (.v 9))) 2 0 < 2 ^ 20) := by
  exact ⟨by decide +kernel, by decide +kernel, by decide +kernel, by decide +kernel, ⟨_, _, _, _, rfl⟩, ⟨_, _, _, _, _, rfl⟩,
    ⟨_, _, _, _, _, _, rfl⟩, ⟨_, rfl, by decide +kernel, by decide +kernel⟩, ⟨_, _, _, _, _, rfl⟩, ⟨_, rfl⟩,
    by decide +kernel⟩

end Sys2Proof.Tests
end

/-! Bytes and lists of addresses: what the model's readings of byte strings have in common. -/

namespace Sys2Proof.Machine

/-- The bytes of a number are as many as were asked for. -/
@[simp] theorem toLe_length (n v : Nat) : (toLe n v).length = n := by
  induction n generalizing v with
  | zero => rfl
  | succ n ih => simp [toLe, ih]

/-- The bytes of a number spell its low bytes (R5). -/
theorem leNat_toLe (n v : Nat) : leNat (toLe n v) = v % 2 ^ (8 * n) := by
  induction n generalizing v with
  | zero => simp [toLe, leNat, Nat.mod_one]
  | succ n ih =>
    rw [toLe, leNat, ih, BitVec.toNat_ofNat, show 8 * (n + 1) = 8 + 8 * n by omega, Nat.pow_add, Nat.mod_mul]

/-- The addresses of a span are a range. -/
theorem addrs_eq_range' (a n : Nat) : addrs a n = List.range' a n := by
  induction n generalizing a with
  | zero => rfl
  | succ n ih => rw [addrs, ih, List.range'_succ]

/-- The addresses of a span, by its bounds. -/
@[simp] theorem mem_addrs {a n c : Nat} : c ∈ addrs a n ↔ a ≤ c ∧ c < a + n := by
  rw [addrs_eq_range', List.mem_range'_1]

/-- Byte `i` of a span of bytes. -/
theorem nth_map_addrs (f : Nat → Byte) {a n i : Nat} (h : i < n) : nth ((addrs a n).map f) i 0 = f (a + i) := by
  simp [nth, addrs_eq_range', h]

/-- A span reads as a list of bytes when each of its bytes does. -/
theorem map_addrs_eq {f : Nat → Byte} {a : Nat} {bs : List Byte} (h : ∀ i, i < bs.length → f (a + i) = nth bs i 0) :
    (addrs a bs.length).map f = bs := by
  refine List.ext_getElem (by simp [addrs_eq_range']) fun i _ hi => ?_
  simpa [addrs_eq_range', nth, hi] using h i hi

/-! ## The length of ciphertext (R391) -/

/-- The shorter of two byte strings bounds their sum. -/
@[simp] theorem xorBytes_length (a b : List Byte) : (xorBytes a b).length = min a.length b.length := List.length_zipWith

/-- A key schedule in the making: at least eight words, each of four bytes. -/
def WordsOk (ws : List (List Byte)) : Prop := 8 ≤ ws.length ∧ ∀ w ∈ ws, w.length = 4

/-- An element that a list has, by its index. -/
theorem nth_mem {α : Type} {l : List α} {k : Nat} (h : k < l.length) (d : α) : nth l k d ∈ l := by
  simp [nth, h]

/-- The next word of a key schedule has four bytes. -/
theorem nextWord_length {ws : List (List Byte)} (h : WordsOk ws) (i : Nat) : (nextWord i ws).length = 4 := by
  have h0 : (nth ws 0 []).length = 4 := h.2 _ (nth_mem (by have := h.1; omega) _)
  have h7 : (nth ws 7 []).length = 4 := h.2 _ (nth_mem (by have := h.1; omega) _)
  unfold nextWord
  simp only [xorBytes_length, h7]
  split
  · simp [h0]
  · split <;> simp [h0]

/-- The words of a key schedule, and how many there are. -/
theorem scheduleWords {ws : List (List Byte)} (h : WordsOk ws) (n : Nat) :
    let r := (List.range n).foldl (fun ws i => nextWord (i + 8) ws :: ws) ws
    r.length = ws.length + n ∧ WordsOk r := by
  induction n with
  | zero => exact ⟨rfl, h⟩
  | succ n ih =>
    obtain ⟨hl, hw⟩ := ih
    simp only [List.range_succ, List.foldl_append, List.foldl_cons, List.foldl_nil]
    refine ⟨by simp [hl]; omega, by simp [hl]; have := h.1; omega, fun w hm => ?_⟩
    cases hm with
    | head => exact nextWord_length hw _
    | tail _ hm => exact hw.2 w hm

/-- A round key has 16 bytes. -/
theorem roundKey_length {k : List Byte} (h : k.length = 32) {r : Nat} (hr : r < 15) : (roundKey (schedule k) r).length = 16 := by
  have hk : WordsOk (keyWords k) := by
    refine ⟨by simp [keyWords], fun w hw => ?_⟩
    simp only [keyWords, List.mem_reverse, List.mem_map, List.mem_range] at hw
    obtain ⟨i, hi, rfl⟩ := hw
    simp [h]
    omega
  obtain ⟨hl, -, hw⟩ := scheduleWords hk 52
  have h4 : ∀ w ∈ ((schedule k).drop (4 * r)).take 4, w.length = 4 := fun w hm =>
    hw w (List.mem_reverse.1 (List.mem_of_mem_drop (List.mem_of_mem_take hm)))
  have hn : (((schedule k).drop (4 * r)).take 4).length = 4 := by
    have : (keyWords k).length = 8 := by simp [keyWords]
    simp [schedule, hl, this]
    omega
  rw [roundKey, List.length_flatten, List.map_eq_replicate_iff.2 h4, List.sum_replicate, hn]
  rfl

/-- AES-256 answers a block of 16 bytes. -/
theorem aes256_length {k : List Byte} (h : k.length = 32) (b : List Byte) : (aes256 k b).length = 16 := by
  simp [aes256, roundKey_length h, shiftRows]

/-- The ciphertext of a data unit has 64 bytes. -/
theorem xtsEncrypt_length (key : BitVec 512) (tier off : Nat) (bs : List Byte) : (xtsEncrypt key tier off bs).length = 64 := by
  have h : ((toLe 64 key.toNat).take 32).length = 32 := by simp
  simp [xtsEncrypt, xtsUnit, tweaks, aes256_length h]

end Sys2Proof.Machine

/-! The bytes of the tiers as they lie there (R391): what writing, sealing and moving them leaves. -/

namespace Sys2Proof.Machine

/-! ## Bytes written in a step -/

/-- A byte written stands at its place, and every other place keeps its byte. -/
@[simp] theorem State.cell_setCell (s : State) (a : Nat) (b : Byte) (c : Nat) :
    (s.setCell a b).cell c = if c = a then b else s.cell c := by
  simp only [State.cell, State.setCell, State.upd, List.find?_cons]
  by_cases h : c = a
  · simp [h]
  · have h' : (a == c) = false := by simpa using Ne.symm h
    simp [h, h']

/-- Bytes written stand at their places, and every other place keeps its byte. -/
theorem State.cell_setCells (s : State) (a : Nat) (bs : List Byte) (c : Nat) :
    (s.setCells a bs).cell c = if a ≤ c ∧ c < a + bs.length then nth bs (c - a) 0 else s.cell c := by
  induction bs generalizing s a with
  | nil => simp [State.setCells]
  | cons b bs ih =>
    rw [State.setCells, ih, State.cell_setCell, List.length_cons]
    by_cases hc : c = a
    · rw [if_neg (by omega), if_pos hc, if_pos (by omega), hc, Nat.sub_self]
      rfl
    · by_cases hr : a + 1 ≤ c ∧ c < a + 1 + bs.length
      · rw [if_pos hr, if_pos (by omega), show c - a = c - (a + 1) + 1 by omega]
        rfl
      · rw [if_neg hr, if_neg hc, if_neg (by omega)]

/-- Only bytes have been written between two states: the write buffer alone differs. -/
def State.BytesSet (s t : State) : Prop := ∃ l, t = s.upd fun d => { d with wbuf := l }

/-- Nothing written. -/
theorem State.BytesSet.refl (s : State) : s.BytesSet s := ⟨s.dev.wbuf, rfl⟩

/-- One after the other. -/
theorem State.BytesSet.trans {s t u : State} (h : s.BytesSet t) (h' : t.BytesSet u) : s.BytesSet u := by
  obtain ⟨l, rfl⟩ := h
  obtain ⟨m, rfl⟩ := h'
  exact ⟨m, rfl⟩

/-- One byte. -/
theorem State.BytesSet.setCell (s : State) (a : Nat) (b : Byte) : s.BytesSet (s.setCell a b) := ⟨_, rfl⟩

/-- Steps that each write bytes alone do so together. -/
theorem State.BytesSet.foldl {α : Type} {f : State → α → State} (h : ∀ (s : State) x, s.BytesSet (f s x)) (l : List α)
    (s : State) : s.BytesSet (l.foldl f s) := by
  induction l generalizing s with
  | nil => exact .refl s
  | cons x l ih => exact (h s x).trans (ih (f s x))

/-- The tags of data units stay. -/
theorem State.BytesSet.tags {s t : State} (h : s.BytesSet t) : t.dev.tags = s.dev.tags := by
  obtain ⟨l, rfl⟩ := h
  rfl

/-- Memory stays until the end of the step. -/
theorem State.BytesSet.mem {s t : State} (h : s.BytesSet t) : t.mem = s.mem := by
  obtain ⟨l, rfl⟩ := h
  rfl

/-! ## Tags of data units -/

/-- The tag of a data unit after one has been set: its own is the new one, and every other is kept. -/
theorem find_setTag (u : Nat) (t : UnitTag) (l : List (Nat × UnitTag)) (v : Nat) :
    ((setTag u t l).find? fun x => x.1 == v).map (·.2) = if v = u then some t else (l.find? fun x => x.1 == v).map (·.2) := by
  induction l with
  | nil =>
    by_cases h : v = u
    · simp [setTag, h]
    · simp [setTag, h, Ne.symm h]
  | cons x xs ih =>
    unfold setTag
    by_cases hx : x.1 = u
    · by_cases h : v = u
      · simp [hx, h]
      · simp [hx, h, Ne.symm h]
    · by_cases hu : u < x.1
      · by_cases h : v = u
        · simp [hx, hu, h]
        · simp [hx, hu, h, Ne.symm h]
      · rw [if_neg hx, if_neg hu, List.find?_cons, List.find?_cons]
        by_cases h : x.1 = v
        · simp [h, show v ≠ u from h ▸ hx]
        · have h' : (x.1 == v) = false := by simpa using h
          simp only [h', ih]

/-- Tags the data unit of a place. -/
def State.tagUnit (s : State) (u : Nat) (t : UnitTag) : State := s.upd fun d => { d with tags := setTag u t d.tags }

/-- The tags after a data unit has been tagged. -/
theorem State.tagOf_tagUnit (s : State) (u : Nat) (t : UnitTag) (a : Nat) :
    (s.tagUnit u t).tagOf a = if a / 64 = u then some t else s.tagOf a := find_setTag u t s.dev.tags (a / 64)

/-- Tags stay with the list of tags. -/
theorem State.tagOf_congr {s t : State} (h : t.dev.tags = s.dev.tags) (a : Nat) : t.tagOf a = s.tagOf a := by
  rw [State.tagOf, State.tagOf, h]

/-- The tag of a place is that of its data unit. -/
theorem State.tagOf_unit (s : State) {a b : Nat} (h : a / 64 = b / 64) : s.tagOf a = s.tagOf b := by
  rw [State.tagOf, State.tagOf, h]

/-! ## Bytes as they lie there -/

/-- All places of a data unit have one place in the tier. -/
theorem unitOff_unit {a b : Nat} (h : a / 64 = b / 64) : unitOff a = unitOff b := by
  have hf : (a < Config.farAt) = (b < Config.farAt) := by simp only [Config.farAt]; exact propext ⟨by omega, by omega⟩
  have hn : (a - Config.nearAt) / 64 = (b - Config.nearAt) / 64 := by simpa [Config.nearAt] using h
  have hr : (a - Config.farAt) / 64 = (b - Config.farAt) / 64 := by simp only [Config.farAt]; omega
  simp only [unitOff, hf, hn, hr]

/-- A data unit lies in its tier with 64 bytes. -/
theorem State.rawUnit_length (s : State) (p : Nat) : (s.rawUnit p).length = 64 := by
  unfold State.rawUnit
  split
  · exact xtsEncrypt_length ..
  · simp [addrs_eq_range']

/-- A data unit's bytes depend on its stored bytes and its tag alone. -/
theorem State.rawUnit_congr {s t : State} {a b : Nat} (h : a / 64 = b / 64) (ht : t.tagOf a = s.tagOf b)
    (hc : ∀ c, c / 64 = b / 64 → t.cell c = s.cell c) : t.rawUnit a = s.rawUnit b := by
  have hm : (addrs (a / 64 * 64) 64).map t.cell = (addrs (b / 64 * 64) 64).map s.cell := by
    rw [h]
    exact List.map_congr_left fun c hm => hc c (by have := mem_addrs.1 hm; omega)
  simp only [State.rawUnit, hm, ht, unitOff_unit h]

/-- A byte that lies in a tier is one of its data unit's. -/
theorem State.peekRaw_eq (s : State) (p : Nat) : s.peekRaw p = nth (s.rawUnit p) (p % 64) 0 := by
  unfold State.peekRaw State.rawUnit
  split
  next => rfl
  next =>
    simp only
    rw [nth_map_addrs _ (Nat.mod_lt _ (by decide)), Nat.div_add_mod']

/-- A data unit that no key has written lies in its tier as it is stored. -/
theorem State.peekRaw_cell {s : State} {p : Nat} (h : ∀ k, s.tagOf p ≠ some (.key k)) : s.peekRaw p = s.cell p := by
  unfold State.peekRaw
  split
  next k hk => exact absurd hk (h k)
  next => rfl

/-- States with the same bytes and tags show the same bytes in the tiers. -/
theorem State.peekRaw_congr {s t : State} (hc : ∀ a, t.cell a = s.cell a) (ht : t.dev.tags = s.dev.tags) (a : Nat) :
    t.peekRaw a = s.peekRaw a := by
  rw [State.peekRaw_eq, State.peekRaw_eq, State.rawUnit_congr rfl (State.tagOf_congr ht a) fun c _ => hc c]

/-- What is in the write buffer reads the same once it is in memory. -/
theorem State.cell_flush {s : State} (h : s.mem.wf = true) (a : Nat) : s.flush.cell a = s.cell a := Memory.read_writes h s.dev.wbuf a

/-- The same of the bytes of the tiers. -/
theorem State.peekRaw_flush {s : State} (h : s.mem.wf = true) (a : Nat) : s.flush.peekRaw a = s.peekRaw a :=
  State.peekRaw_congr (State.cell_flush h) rfl a

/-- `act` answers what `f` leaves, once the write buffer has gone into memory. -/
theorem act_flush {f : State → State} {s t : State} (ht : f s = t) (hm : t.mem = s.mem) (hp : t.part = s.part) :
    act f s = .next t.flush := by
  subst ht
  rw [act_eq, State.flush, hm, ← hp]

/-! ## Writing bytes of a tier as they lie there -/

/-- The data unit of a place is stored as it lies in its tier. -/
def State.bareUnit (s : State) (p : Nat) : State := match s.tagOf p with
  | some .raw => s
  | some (.key _) => (s.setCells (p / 64 * 64) (s.rawUnit p)).tagUnit (p / 64) .raw
  | none => s.tagUnit (p / 64) .raw

/-- A byte of a tier is written into its data unit as that lies there. -/
theorem State.pokeRaw_eq (s : State) (p : Nat) (b : Byte) : s.pokeRaw p b = (s.bareUnit p).setCell p b := by
  rcases h : s.tagOf p with _ | ⟨_ | _⟩ <;> simp only [State.pokeRaw, State.bareUnit, h] <;> rfl

/-- A unit that is bared is raw; every other keeps its tag. -/
theorem State.tagOf_bareUnit (s : State) (p a : Nat) :
    (s.bareUnit p).tagOf a = if a / 64 = p / 64 then some .raw else s.tagOf a := by
  unfold State.bareUnit
  split
  next h =>
    split
    next e => rw [s.tagOf_unit e, h]
    next => rfl
  next =>
    rw [State.tagOf_tagUnit]
    obtain ⟨l, hl⟩ := s.setCells_only (p / 64 * 64) (s.rawUnit p)
    rw [hl]
    rfl
  next => exact State.tagOf_tagUnit ..

/-- A unit that is bared stores what lay there; every other byte stays. -/
theorem State.cell_bareUnit (s : State) (p a : Nat) :
    (s.bareUnit p).cell a = if a / 64 = p / 64 then s.peekRaw a else s.cell a := by
  have raw (h : ∀ k, s.tagOf p ≠ some (.key k)) : s.cell a = if a / 64 = p / 64 then s.peekRaw a else s.cell a := by
    split
    next e => exact (State.peekRaw_cell fun k => s.tagOf_unit e ▸ h k).symm
    next => rfl
  unfold State.bareUnit
  split
  next h => exact raw (by simp [h])
  next =>
    change (s.setCells (p / 64 * 64) (s.rawUnit p)).cell a = _
    rw [State.cell_setCells, State.rawUnit_length, State.peekRaw_eq]
    by_cases e : a / 64 = p / 64
    · rw [if_pos (by omega), if_pos e, State.rawUnit_congr e (s.tagOf_unit e) fun _ _ => rfl, show a % 64 = a - p / 64 * 64 by omega]
    · rw [if_neg (by omega), if_neg e]
  next h => exact raw (by simp [h])

/-- A byte written into a tier lies there, and every other byte lies as before. -/
theorem State.peekRaw_pokeRaw (s : State) (p : Nat) (b : Byte) (a : Nat) :
    (s.pokeRaw p b).peekRaw a = if a = p then b else s.peekRaw a := by
  have ht : (s.pokeRaw p b).tagOf a = if a / 64 = p / 64 then some .raw else s.tagOf a := by
    rw [State.pokeRaw_eq]
    exact s.tagOf_bareUnit p a
  by_cases e : a / 64 = p / 64
  · rw [State.peekRaw_cell (by simp [ht, e]), State.pokeRaw_eq, State.cell_setCell, State.cell_bareUnit, if_pos e]
  · have hc : ∀ c, c / 64 = a / 64 → (s.pokeRaw p b).cell c = s.cell c := fun c hc => by
      rw [State.pokeRaw_eq, State.cell_setCell, State.cell_bareUnit, if_neg (fun h => e (by rw [← hc, h])), if_neg (by omega)]
    rw [State.peekRaw_eq, if_neg (fun h => e (by rw [h])), State.peekRaw_eq, State.rawUnit_congr rfl (by rw [ht, if_neg e]) hc]

/-- Bytes written into a tier lie there, and every other byte lies as before. -/
theorem State.peekRaw_pokeRaws (s : State) (p : Nat) (bs : List Byte) (a : Nat) :
    (s.pokeRaws p bs).peekRaw a = if p ≤ a ∧ a < p + bs.length then nth bs (a - p) 0 else s.peekRaw a := by
  induction bs generalizing s p with
  | nil => simp [State.pokeRaws]
  | cons b bs ih =>
    rw [State.pokeRaws, ih, State.peekRaw_pokeRaw, List.length_cons]
    by_cases hc : a = p
    · rw [if_neg (by omega), if_pos hc, if_pos (by omega), hc, Nat.sub_self]
      rfl
    · by_cases hr : p + 1 ≤ a ∧ a < p + 1 + bs.length
      · rw [if_pos hr, if_pos (by omega), show a - p = a - (p + 1) + 1 by omega]
        rfl
      · rw [if_neg hr, if_neg hc, if_neg (by omega)]

/-- Writing a byte of a tier changes the write buffer and the tags of data units alone. -/
theorem State.pokeRaw_only (s : State) (p : Nat) (b : Byte) :
    ∃ l m, s.pokeRaw p b = s.upd fun d => { d with wbuf := l, tags := m } := by
  rw [State.pokeRaw_eq]
  unfold State.bareUnit
  split
  · exact ⟨_, s.dev.tags, rfl⟩
  · obtain ⟨l, h⟩ := s.setCells_only (p / 64 * 64) (s.rawUnit p)
    exact ⟨(p, b) :: l, _, by rw [h]; rfl⟩
  · exact ⟨_, _, rfl⟩

/-- Writing bytes of a tier changes the write buffer and the tags of data units alone. -/
theorem State.pokeRaws_only (s : State) (p : Nat) (bs : List Byte) :
    ∃ l m, s.pokeRaws p bs = s.upd fun d => { d with wbuf := l, tags := m } := by
  induction bs generalizing s p with
  | nil => exact ⟨s.dev.wbuf, s.dev.tags, rfl⟩
  | cons b bs ih =>
    obtain ⟨l, m, h⟩ := s.pokeRaw_only p b
    obtain ⟨l', m', h'⟩ := ih (s.pokeRaw p b) (p + 1)
    exact ⟨l', m', by rw [State.pokeRaws, h', h]; rfl⟩

end Sys2Proof.Machine

/-! Checkpoint and restore (R399): the tiers sealed, and the parts of the device's memory moved. -/

namespace Sys2Proof.Machine

/-! ## Sealing the tiers -/

/-- Storing some data units of `s` as they lie there: their bytes are those of the tier, and every other stays. -/
theorem State.cell_storeRaw (s : State) (l : List (Nat × UnitTag)) (u : State) (a : Nat) :
    (l.foldl (fun u x => u.setCells (64 * x.1) (s.rawUnit (64 * x.1))) u).cell a =
      if ∃ x ∈ l, x.1 = a / 64 then s.peekRaw a else u.cell a := by
  induction l generalizing u with
  | nil => simp
  | cons x l ih =>
    rw [List.foldl_cons, ih, State.cell_setCells, State.rawUnit_length]
    by_cases hl : ∃ y ∈ l, y.1 = a / 64
    · have : ∃ y ∈ x :: l, y.1 = a / 64 := by
        obtain ⟨y, hy, e⟩ := hl
        exact ⟨y, .tail _ hy, e⟩
      rw [if_pos hl, if_pos this]
    · rw [if_neg hl]
      by_cases hx : x.1 = a / 64
      · have e : 64 * x.1 / 64 = a / 64 := by omega
        rw [if_pos (by omega), if_pos ⟨x, .head _, hx⟩, State.peekRaw_eq,
          State.rawUnit_congr e (s.tagOf_unit e) fun _ _ => rfl, show a - 64 * x.1 = a % 64 by omega]
      · have : ¬ ∃ y ∈ x :: l, y.1 = a / 64 := by
          rintro ⟨y, hy, e⟩
          cases hy with
          | head => exact hx e
          | tail _ hy => exact hl ⟨y, hy, e⟩
        rw [if_neg (by omega), if_neg this]

/-- The tags of data units, without the keys: each is raw. -/
def Bare (tags : List (Nat × UnitTag)) : Prop := ∀ x ∈ tags, x.2 = .raw

/-- Where no data unit has a key, the tiers' bytes lie as they are stored. -/
theorem State.peekRaw_bare {s : State} (h : Bare s.dev.tags) (a : Nat) : s.peekRaw a = s.cell a := by
  refine State.peekRaw_cell fun k hk => ?_
  obtain ⟨x, hx, e⟩ := Option.map_eq_some_iff.1 hk
  exact nomatch (h x (List.mem_of_find?_eq_some hx)).symm.trans e

/-- Setting a raw tag adds no key. -/
theorem Bare.setTag {l : List (Nat × UnitTag)} (h : Bare l) (u : Nat) : Bare (setTag u .raw l) := by
  induction l with
  | nil =>
    intro x hx
    simp only [Machine.setTag, List.mem_singleton] at hx
    rw [hx]
  | cons y l ih =>
    have hl : Bare l := fun x hx => h x (.tail _ hx)
    unfold Machine.setTag
    intro x hx
    split at hx
    · cases hx with
      | head => rfl
      | tail _ hx => exact hl x hx
    · split at hx
      · cases hx with
        | head => rfl
        | tail _ hx => exact h x hx
      · cases hx with
        | head => exact h _ (.head _)
        | tail _ hx => exact ih hl x hx

/-- Sealing stores every byte as it lies in its tier (R391). -/
theorem State.cell_seal (s : State) (a : Nat) : s.seal.cell a = s.peekRaw a := by
  change (s.dev.tags.foldl (fun u x => u.setCells (64 * x.1) (s.rawUnit (64 * x.1))) s).cell a = _
  rw [State.cell_storeRaw]
  split
  next => rfl
  next h =>
    refine (State.peekRaw_cell fun k hk => ?_).symm
    obtain ⟨x, hx, -⟩ := Option.map_eq_some_iff.1 hk
    exact h ⟨x, List.mem_of_find?_eq_some hx, by simpa using List.find?_some hx⟩

/-- Sealing leaves no key. -/
theorem State.bare_seal (s : State) : Bare s.seal.dev.tags := by
  intro x hx
  obtain ⟨y, -, rfl⟩ := List.mem_map.1 hx
  rfl

/-- Sealing changes the write buffer and the tags of data units alone. -/
theorem State.seal_only (s : State) : ∃ l m, s.seal = s.upd fun d => { d with wbuf := l, tags := m } := by
  obtain ⟨l, h⟩ := State.BytesSet.foldl (f := fun u x => u.setCells (64 * x.1) (s.rawUnit (64 * x.1)))
    (fun u (x : Nat × UnitTag) => u.setCells_only (64 * x.1) (s.rawUnit (64 * x.1))) s.dev.tags s
  unfold State.seal
  exact ⟨l, _, by rw [h]; rfl⟩

/-- A restore adds raw tags alone. -/
theorem State.restoreTags_only (s : State) (h : Bare s.dev.tags) :
    ∃ m, Bare m ∧ s.restoreTags = s.upd fun d => { d with tags := m } := by
  unfold State.restoreTags
  generalize (s.mem.writes s.dev.wbuf).cells = l
  induction l generalizing s with
  | nil => exact ⟨s.dev.tags, h, rfl⟩
  | cons c l ih =>
    rw [List.foldl_cons]
    split
    · obtain ⟨m, hm, e⟩ := ih (s.upd fun d => { d with tags := setTag (c.1 / 64) .raw d.tags }) (h.setTag _)
      exact ⟨m, hm, e⟩
    · exact ih s h

/-! ## Moving bytes -/

/-- A byte that no cell lists reads 0. -/
theorem Memory.readCells_unlisted {cs : List Host.Cell} {a : Nat} (h : ∀ c ∈ cs, c.1 ≠ a) : Memory.readCells cs a = 0 := by
  induction cs with
  | nil => rfl
  | cons c cs ih =>
    unfold Memory.readCells
    rw [if_neg (h c (.head _)), ih fun d hd => h d (.tail _ hd), ite_self]

/-- The cells of a canonical list lie above its bound. -/
theorem Memory.lt_of_wfCells {cs : List Host.Cell} {lo : Nat} (h : Memory.wfCells (some lo) cs = true) : ∀ c ∈ cs, lo < c.1 := by
  induction cs generalizing lo with
  | nil => exact nofun
  | cons d cs ih =>
    obtain ⟨h1, -, h3⟩ := (Memory.wfCells_cons ..).1 h
    have hd := h1 lo rfl
    intro c hc
    cases hc with
    | head => exact hd
    | tail _ hc => exact hd.trans (ih h3 c hc)

/-- The zeroes that clear a span of places: each of the listed cells there. -/
theorem State.cell_clear (dst n : Nat) (cs : List Host.Cell) (s : State) (a : Nat) :
    (cs.foldl (fun s c => if dst ≤ c.1 ∧ c.1 < dst + n then s.setCell c.1 0 else s) s).cell a =
      if dst ≤ a ∧ a < dst + n ∧ ∃ c ∈ cs, c.1 = a then 0 else s.cell a := by
  induction cs generalizing s with
  | nil => simp
  | cons c cs ih =>
    rw [List.foldl_cons, ih]
    by_cases hc : c.1 = a
    · subst hc
      by_cases hr : dst ≤ c.1 ∧ c.1 < dst + n
      · simp [hr]
      · rw [if_neg (fun h => hr ⟨h.1, h.2.1⟩), if_neg hr, if_neg fun h => hr ⟨h.1, h.2.1⟩]
    · have : (if dst ≤ c.1 ∧ c.1 < dst + n then s.setCell c.1 0 else s).cell a = s.cell a := by
        split
        · rw [State.cell_setCell, if_neg (Ne.symm hc)]
        · rfl
      rw [this]
      simp [hc]

/-- The cells of a canonical list that a move writes: each at its new place. -/
theorem State.cell_copy (src dst n : Nat) (cs : List Host.Cell) :
    ∀ lo, Memory.wfCells lo cs = true → ∀ (s : State) (a : Nat),
      (cs.foldl (fun s c => if src ≤ c.1 ∧ c.1 < src + n then s.setCell (dst + (c.1 - src)) c.2 else s) s).cell a =
        if dst ≤ a ∧ a < dst + n ∧ ∃ c ∈ cs, c.1 = src + (a - dst) then Memory.readCells cs (src + (a - dst)) else s.cell a := by
  induction cs with
  | nil => simp
  | cons c cs ih =>
    intro lo h s a
    obtain ⟨-, -, h3⟩ := (Memory.wfCells_cons ..).1 h
    rw [List.foldl_cons, ih _ h3]
    by_cases hr : dst ≤ a ∧ a < dst + n
    · by_cases hc : c.1 = src + (a - dst)
      · have hno : ¬ ∃ d ∈ cs, d.1 = src + (a - dst) := fun ⟨d, hd, e⟩ => by
          have := Memory.lt_of_wfCells h3 d hd
          omega
        rw [if_neg fun h => hno h.2.2, if_pos (by omega), State.cell_setCell, if_pos (by omega),
          if_pos ⟨hr.1, hr.2, c, .head _, hc⟩, Memory.readCells, if_pos hc]
      · have hs : (if src ≤ c.1 ∧ c.1 < src + n then s.setCell (dst + (c.1 - src)) c.2 else s).cell a = s.cell a := by
          split
          · rw [State.cell_setCell, if_neg (by omega)]
          · rfl
        by_cases he : ∃ d ∈ cs, d.1 = src + (a - dst)
        · obtain ⟨d, hd, e⟩ := he
          have := Memory.lt_of_wfCells h3 d hd
          rw [if_pos ⟨hr.1, hr.2, d, hd, e⟩, if_pos ⟨hr.1, hr.2, d, .tail _ hd, e⟩]
          conv_rhs => unfold Memory.readCells
          rw [if_neg hc, if_neg (by omega)]
        · have hn : ¬ ∃ d ∈ c :: cs, d.1 = src + (a - dst) := by
            rintro ⟨d, hd, e⟩
            cases hd with
            | head => exact hc e
            | tail _ hd => exact he ⟨d, hd, e⟩
          rw [hs, if_neg fun h => he h.2.2, if_neg fun h => hn h.2.2]
    · have hs : (if src ≤ c.1 ∧ c.1 < src + n then s.setCell (dst + (c.1 - src)) c.2 else s).cell a = s.cell a := by
        split
        · rw [State.cell_setCell, if_neg (by omega)]
        · rfl
      rw [hs, if_neg fun h => hr ⟨h.1, h.2.1⟩, if_neg fun h => hr ⟨h.1, h.2.1⟩]

/-- A move writes bytes alone. -/
theorem State.moveBytes_only (s : State) (src dst n : Nat) : s.BytesSet (s.moveBytes src dst n) := by
  refine (State.BytesSet.foldl (fun t c => ?_) _ s).trans (State.BytesSet.foldl (fun t c => ?_) _ _)
  · split
    · exact .setCell ..
    · exact .refl t
  · split
    · exact .setCell ..
    · exact .refl t

/-- A move puts the bytes of one span into another, and keeps every byte outside that. -/
theorem State.cell_moveBytes {s : State} (h : s.mem.wf = true) (src dst n a : Nat) :
    (s.moveBytes src dst n).cell a = if dst ≤ a ∧ a < dst + n then s.cell (src + (a - dst)) else s.cell a := by
  have hw : (s.mem.writes s.dev.wbuf).wf = true := Memory.writes_wf h _
  have hread (b : Nat) : Memory.readCells (s.mem.writes s.dev.wbuf).cells b = s.cell b := State.cell_flush h b
  unfold State.moveBytes
  rw [State.cell_copy src dst n _ none hw, State.cell_clear, hread]
  by_cases hr : dst ≤ a ∧ a < dst + n
  · rw [if_pos hr]
    split
    next => rfl
    next hsrc =>
      have hz : s.cell (src + (a - dst)) = 0 := by
        rw [← hread]
        exact Memory.readCells_unlisted fun c hc e => hsrc ⟨hr.1, hr.2, c, hc, e⟩
      rw [hz]
      split
      next => rfl
      next hdst =>
        rw [← hread]
        exact Memory.readCells_unlisted fun c hc e => hdst ⟨hr.1, hr.2, c, hc, e⟩
  · rw [if_neg fun h => hr ⟨h.1, h.2.1⟩, if_neg fun h => hr ⟨h.1, h.2.1⟩, if_neg hr]

/-- Moves one after the other: each a source, a destination and a number of bytes. -/
def State.moves (s : State) (l : List (Nat × Nat × Nat)) : State := l.foldl (fun s p => s.moveBytes p.1 p.2.1 p.2.2) s

/-- Two spans lie apart. -/
def Apart (a m b n : Nat) : Prop := a + m ≤ b ∨ b + n ≤ a

/-- Moves write bytes alone. -/
theorem State.moves_only (s : State) (l : List (Nat × Nat × Nat)) : s.BytesSet (s.moves l) :=
  State.BytesSet.foldl (fun _ _ => State.moveBytes_only ..) l s

/-- Moves keep a byte that lies in none of their destinations. -/
theorem State.cell_moves_outside {l : List (Nat × Nat × Nat)} {s : State} {a : Nat} (h : s.mem.wf = true)
    (ha : ∀ p ∈ l, ¬ (p.2.1 ≤ a ∧ a < p.2.1 + p.2.2)) : (s.moves l).cell a = s.cell a := by
  induction l generalizing s with
  | nil => rfl
  | cons p l ih =>
    have hm : (s.moveBytes p.1 p.2.1 p.2.2).mem = s.mem := (State.moveBytes_only ..).mem
    refine (ih (hm ▸ h) fun q hq => ha q (.tail _ hq)).trans ?_
    rw [State.cell_moveBytes h, if_neg (ha p (.head _))]

/-- Where no destination meets a source or another destination, every move has put its source's bytes at its destination. -/
theorem State.cell_moves {l : List (Nat × Nat × Nat)} {s : State} (h : s.mem.wf = true)
    (hd : l.Pairwise fun p q => Apart p.2.1 p.2.2 q.2.1 q.2.2) (hs : ∀ p ∈ l, ∀ q ∈ l, Apart p.1 p.2.2 q.2.1 q.2.2) :
    ∀ p ∈ l, ∀ k, k < p.2.2 → (s.moves l).cell (p.2.1 + k) = s.cell (p.1 + k) := by
  induction l generalizing s with
  | nil => exact nofun
  | cons p l ih =>
    have hm : (s.moveBytes p.1 p.2.1 p.2.2).mem.wf = true := by rw [(State.moveBytes_only ..).mem]; exact h
    obtain ⟨hp, hl⟩ := List.pairwise_cons.1 hd
    intro q hq k hk
    change ((s.moveBytes p.1 p.2.1 p.2.2).moves l).cell _ = _
    cases hq with
    | head =>
      rw [State.cell_moves_outside hm fun r hr e => ?_, State.cell_moveBytes h, if_pos (by omega), Nat.add_sub_cancel_left]
      have := hp r hr
      unfold Apart at this
      omega
    | tail _ hq =>
      rw [ih hm hl (fun r hr r' hr' => hs r (.tail _ hr) r' (.tail _ hr')) q hq k hk, State.cell_moveBytes h, if_neg]
      have := hs q (.tail _ hq) p (.head _)
      unfold Apart at this
      omega

/-! ## The parts of the safe tier (log 33) -/

/-- The device's side of every part lies below the host's memory. -/
theorem safeParts_below : ∀ p ∈ safeParts, p.1 + p.2.2 ≤ Config.hostAt := by
  intro p hp
  simp only [safeParts, List.mem_append, List.mem_map, List.mem_range, List.mem_cons, List.not_mem_nil, or_false] at hp
  obtain ⟨n, hn, rfl⟩ | rfl | rfl := hp <;>
    simp only [vaultAddr, Config.vaultAt, Config.vaultBytes, Config.hostAt, Config.nearAt, Config.nearBytes,
      Config.farAt, Config.farBytes] <;> omega

/-- No two parts of the device's memories meet. -/
theorem safeParts_apart : safeParts.Pairwise fun p q => Apart p.1 p.2.2 q.1 q.2.2 := by
  simp only [safeParts, List.pairwise_append, List.pairwise_map, List.pairwise_cons, List.mem_map, List.mem_range, List.mem_cons,
    List.not_mem_nil, or_false, Apart, vaultAddr, Config.vaultAt, Config.vaultBytes, Config.nearAt, Config.nearBytes, Config.farAt,
    Config.farBytes]
  refine ⟨List.pairwise_lt_range.imp fun h => by omega, ⟨?_, ?_⟩, ?_⟩
  · rintro _ rfl
    dsimp only
    omega
  · exact ⟨nofun, .nil⟩
  · rintro _ ⟨n, hn, rfl⟩ _ (rfl | rfl) <;> dsimp only <;> omega

/-- No two parts of the safe tier meet. -/
theorem safeParts_offsets_apart : safeParts.Pairwise fun p q => Apart p.2.1 p.2.2 q.2.1 q.2.2 := by
  simp only [safeParts, List.pairwise_append, List.pairwise_map, List.pairwise_cons, List.mem_map, List.mem_range, List.mem_cons,
    List.not_mem_nil, or_false, Apart, Config.vaultBytes, Config.nearBytes, Config.farBytes]
  refine ⟨List.pairwise_lt_range.imp fun h => by omega, ⟨?_, ?_⟩, ?_⟩
  · rintro _ rfl
    dsimp only
    omega
  · exact ⟨nofun, .nil⟩
  · rintro _ ⟨n, hn, rfl⟩ _ (rfl | rfl) <;> dsimp only <;> omega

/-- The moves of a checkpoint, or of a restore, whose image begins at a bus address of host memory. -/
def ckptMoves (j : CkptJob) : List (Nat × Nat × Nat) :=
  if j.restore then safeParts.map fun p => (Config.hostAt + j.target + p.2.1, p.1, p.2.2)
  else safeParts.map fun p => (p.1, Config.hostAt + j.target + p.2.1, p.2.2)

/-- A restore puts each part of the safe tier in its place. -/
theorem State.cell_restoreMoves {s : State} (h : s.mem.wf = true) {j : CkptJob} (hj : j.restore = true) {p : Nat × Nat × Nat}
    (hp : p ∈ safeParts) {k : Nat} (hk : k < p.2.2) :
    (s.moves (ckptMoves j)).cell (p.1 + k) = s.cell (Config.hostAt + j.target + p.2.1 + k) := by
  rw [ckptMoves, if_pos hj]
  refine State.cell_moves h (List.pairwise_map.2 safeParts_apart) ?_ _ (List.mem_map_of_mem hp) k hk
  simp only [List.forall_mem_map]
  intro q _ r hr
  have := safeParts_below r hr
  exact .inr (by omega)

/-- A checkpoint puts each part of the device's memories into the safe tier. -/
theorem State.cell_checkpointMoves {s : State} (h : s.mem.wf = true) {j : CkptJob} (hj : j.restore = false) {p : Nat × Nat × Nat}
    (hp : p ∈ safeParts) {k : Nat} (hk : k < p.2.2) :
    (s.moves (ckptMoves j)).cell (Config.hostAt + j.target + p.2.1 + k) = s.cell (p.1 + k) := by
  rw [ckptMoves, if_neg (by simp [hj])]
  have hd : safeParts.Pairwise fun p q =>
      Apart (Config.hostAt + j.target + p.2.1) p.2.2 (Config.hostAt + j.target + q.2.1) q.2.2 :=
    safeParts_offsets_apart.imp fun h => by unfold Apart at *; omega
  refine State.cell_moves h (List.pairwise_map.2 hd) ?_ _ (List.mem_map_of_mem hp) k hk
  simp only [List.forall_mem_map]
  intro q hq r _
  have := safeParts_below q hq
  exact .inl (by omega)

end Sys2Proof.Machine

/-! The registers that the host reaches through a tenant's function: command queues (R346 to R348) and what RESUME and ABANDON do. -/

namespace Sys2Proof.Machine

open Sys2Proof.Claims

/-- The model's test of a tenant's function is the statements' (R383, R384). -/
theorem fnUp_iff (s : State) (t : TenantId) : s.fnUp t = true ↔ FunctionUp s t := by
  simp [State.fnUp, FunctionUp, bitAt]

/-- A function that does not work. -/
theorem fnUp_false {s : State} {t : TenantId} (h : ¬ FunctionUp s t) : s.fnUp t = false :=
  Bool.eq_false_iff.2 fun e => h ((fnUp_iff s t).1 e)

/-- The field of a word, as the model and as the statements have it. -/
theorem fieldNat_eq_field (w : W64) (lo n : Nat) : fieldNat w lo n = field w lo n := by
  simp [fieldNat, field, BitVec.extractLsb'_toNat]

/-- A queue is halted or faulted when its state's high bit is set (R346). -/
theorem stopped_iff (c : CmdQueue) : 2 ≤ c.state.toNat ↔ c.state = 2 ∨ c.state = 3 := by
  generalize c.state = x
  revert x
  decide

/-- RESUME of a queue (R346). -/
theorem resume_eq (c : CmdQueue) : c.resume = resumed c := by
  simp only [CmdQueue.resume, resumed, stopped_iff]

/-- ABANDON of a queue (R346). -/
theorem abandon_eq (c : CmdQueue) : c.abandon = abandoned c := by
  simp only [CmdQueue.abandon, abandoned, stopped_iff]

/-- A write of CQCTL (R346, R348). -/
theorem writeCtl_eq (c : CmdQueue) (v : W64) (w : Fin 6) :
    c.writeCtl v w =
      if c.en then (if v.getLsbD 0 then c else disabledQueue c)
      else if 4 ≤ field v 8 4 then { c with log2n := field v 8 4, en := v.getLsbD 0, worker := if v.getLsbD 0 then w else c.worker }
      else c := by
  simp only [CmdQueue.writeCtl, fieldNat_eq_field, bitAt, CmdQueue.disable, disabledQueue]
  by_cases h : field v 8 4 < 4
  · simp [h, show ¬ 4 ≤ field v 8 4 by omega]
  · simp [h, show 4 ≤ field v 8 4 by omega]

/-- A number that stands at bit `k` of a word. -/
theorem ofNat_mul_two_pow (b k : Nat) : BitVec.ofNat 64 (b * 2 ^ k) = BitVec.ofNat 64 b <<< k := by
  apply BitVec.eq_of_toNat_eq
  simp [Nat.shiftLeft_eq, Nat.mul_mod]

/-- Two fields of a word, the upper one at bit `k`. -/
theorem ofNat_add_field (a b k : Nat) : BitVec.ofNat 64 (a + b * 2 ^ k) = BitVec.ofNat 64 a + BitVec.ofNat 64 b <<< k := by
  rw [← ofNat_mul_two_pow, BitVec.ofNat_add]

/-- The queue registers that the host reads (R346). -/
theorem readReg_of_queueReads {c : CmdQueue} {r : Nat × W64} (h : r ∈ queueReads c) : c.readReg r.1 = some r.2 := by
  simp only [queueReads, List.mem_cons, List.not_mem_nil, or_false] at h
  rcases h with rfl | rfl | rfl | rfl | rfl | rfl | rfl | rfl | rfl
  case inr.inl =>
    refine (congrArg (fun w => some ((if c.en then 1 else 0) + w)) (ofNat_mul_two_pow (c.log2n % 16) 8)).trans ?_
    cases c.en <;> rfl
  case inr.inr.inr.inr.inl => exact congrArg some (by simpa using ofNat_add_field c.state.toNat c.code.toNat 8)
  case inr.inr.inr.inr.inr.inr.inr.inl => exact congrArg some (by simpa using ofNat_add_field c.wd1.toNat c.wd2.toNat 32)
  all_goals rfl

/-- The registers of the queues lie at multiples of 8 below 0x80 (R346). -/
theorem queueReads_offset {c : CmdQueue} {r : Nat × W64} (h : r ∈ queueReads c) : r.1 < 0x80 ∧ r.1 % 8 = 0 := by
  simp only [queueReads, List.mem_cons, List.not_mem_nil, or_false] at h
  rcases h with rfl | rfl | rfl | rfl | rfl | rfl | rfl | rfl | rfl <;> simp

/-- A tenant's function has its number plus 1 (R383). -/
theorem fn_toNat (t : TenantId) : (BitVec.ofNat 5 (t.val + 1)).toNat = t.val + 1 := by
  have := t.isLt
  simp only [BitVec.toNat_ofNat]
  omega

/-- A tenant's function is not function 0. -/
theorem fn_ne_zero (t : TenantId) : BitVec.ofNat 5 (t.val + 1) ≠ 0 := fun h => by
  have := fn_toNat t
  rw [h] at this
  simp at this

/-- The tenant that its function serves (R383). -/
@[simp] theorem fnTenant_ofNat (t : TenantId) : fnTenant (BitVec.ofNat 5 (t.val + 1)) = some t := by
  have h := fn_toNat t
  have := t.isLt
  unfold fnTenant
  rw [dif_pos (by omega)]
  simp [h]

/-- An offset of BAR0, as a number. -/
theorem off_toNat {n : Nat} (h : n < 2 ^ 20) : (BitVec.ofNat 20 n).toNat = n := by
  rw [BitVec.toNat_ofNat, Nat.mod_eq_of_lt h]

/-- What a tenant's working function shows. -/
theorem hostRead_tenant {s : State} {t : TenantId} (h : FunctionUp s t) (off : Nat) :
    s.hostRead (BitVec.ofNat 5 (t.val + 1)) off = s.tenantRead t off := by
  rw [State.hostRead, if_neg (fn_ne_zero t), if_pos h.1, fnTenant_ofNat, Option.bind_some]

/-- A queue's registers lie at 0x80 times its number (R346). -/
theorem tenantRead_queue {s : State} {t : TenantId} (h : FunctionUp s t) (q : QueueId) {off : Nat} (ho : off < 0x80) :
    s.tenantRead t (q.val * 0x80 + off) = (s.cq t q).readReg off := by
  have hq := q.isLt
  have hd : (⟨(q.val * 0x80 + off) / 0x80 % 16, Nat.mod_lt _ (by decide)⟩ : QueueId) = q := Fin.ext (by simp only; omega)
  rw [State.tenantRead, if_neg (by omega), (fnUp_iff s t).2 h, if_neg (by decide), if_pos (by omega), hd,
    show (q.val * 0x80 + off) % 0x80 = off by omega]

/-- `act` answers what `f` leaves where that writes no byte. -/
theorem act_answers {f : State → State} {s t : State} (h : f s = t) (hm : t.mem = s.mem) (hp : t.part = s.part)
    (hw : t.dev.wbuf = []) : act f s = .next t := by
  subst h
  exact act_clean hm hp hw

/-- A meaning behind a tenant's function: what it does where the function works. -/
theorem act_fnUp {f : State → State} {s t : State} {n : State → TenantId} (h : FunctionUp s (n s)) (ht : f s = t)
    (hm : t.mem = s.mem) (hp : t.part = s.part) (hw : t.dev.wbuf = []) : act (fun s => if s.fnUp (n s) then f s else s) s = .next t :=
  act_answers (by rw [if_pos ((fnUp_iff s _).2 h), ht]) hm hp hw

/-- A meaning behind a tenant's function: nothing where it does not work (R384). -/
theorem act_fnDown {f : State → State} {s : State} {n : State → TenantId} (hs : s.dev.wbuf = []) (h : ¬ FunctionUp s (n s)) :
    act (fun s => if s.fnUp (n s) then f s else s) s = .next s :=
  act_same hs (by rw [fnUp_false h, if_neg (by decide)])

/-! ## The host's instructions and their meanings -/

theorem exec_submissionTake (s : State) : exec .submissionTake s = execSubmissionTake s := rfl
theorem exec_resume (s : State) : exec .resume s = execResume s := rfl
theorem exec_abandon (s : State) : exec .abandon s = execAbandon s := rfl
theorem exec_cqwpDoorbell (t : TenantId) (q : QueueId) (wp : BitVec 32) (s : State) :
    exec (.cqwpDoorbell t q wp) s = execCqwpDoorbell t q wp s := rfl
theorem exec_cqctlWrite (t : TenantId) (q : QueueId) (v : W64) (s : State) : exec (.cqctlWrite t q v) s = execCqctlWrite t q v s := rfl
theorem exec_checkpoint (v : W64) (s : State) : exec (.checkpoint v) s = execCheckpoint v s := rfl
theorem exec_restore (v : W64) (s : State) : exec (.restore v) s = execRestore v s := rfl
theorem exec_checkpointDone (s : State) : exec .checkpointDone s = execCheckpointDone s := rfl
theorem exec_attestationReport (fn : BitVec 5) (nonce : BitVec 256) (s : State) :
    exec (.attestationReport fn nonce) s = execAttestationReport fn nonce s := rfl
theorem exec_hostBar2Access (fn : BitVec 5) (off : BitVec 41) (n : BitVec 4) (w : Option W64) (s : State) :
    exec (.hostBar2Access fn off n w) s = execHostBar2Access fn off n w s := rfl
theorem exec_registerWrite (fn : BitVec 5) (off : BitVec 20) (v : W64) (s : State) :
    exec (.registerWrite fn off v) s = execRegisterWrite fn off v s := rfl

/-- The worker takes the entry of an idle queue that has one (R347). -/
theorem submissionTake_next {s : State} {bs : List Byte} (hs : s.dev.wbuf = []) (hen : s.myCq.en = true) (hst : s.myCq.state = 0)
    (hne : s.myCq.wp ≠ s.myCq.rp) (hrec : s.dev.board.recovery = false)
    (hrd : s.devRead s.dev.cur.t (s.myCq.base.toNat + 16 * (s.myCq.rp.toNat % 2 ^ s.myCq.log2n)) 16 = .ok bs) :
    exec .submissionTake s = .next (s.modMyCq fun c => { putC 0 (BitVec.ofNat 64 (leNat (bs.drop 8))) c with
      cpc := BitVec.ofNat 64 (leNat (bs.take 8)), stack := [], state := 1 }) := by
  unfold State.myCq at hen hst hne hrd
  rw [exec_submissionTake, execSubmissionTake]
  refine act_answers ?_ rfl rfl (by exact hs)
  simp only [hen, hst, beq_eq_false_iff_ne.2 hne, hrec, hrd]
  rfl

/-- RESUME through a tenant's function that works (R346). -/
theorem resume_next {s : State} (hs : s.dev.wbuf = []) (h : FunctionUp s s.dev.cur.t) : exec .resume s = .next (s.modMyCq resumed) := by
  rw [exec_resume, execResume]
  exact act_fnUp h (congrArg s.modMyCq (funext resume_eq)) rfl rfl hs

/-- ABANDON through a tenant's function that works (R346). -/
theorem abandon_next {s : State} (hs : s.dev.wbuf = []) (h : FunctionUp s s.dev.cur.t) : exec .abandon s = .next (s.modMyCq abandoned) := by
  rw [exec_abandon, execAbandon]
  exact act_fnUp h (congrArg s.modMyCq (funext abandon_eq)) rfl rfl hs

/-- RESUME and ABANDON through a tenant's function that does not work (R384). -/
theorem resume_abandon_down {s : State} (hs : s.dev.wbuf = []) (h : ¬ FunctionUp s s.dev.cur.t) :
    exec .resume s = .next s ∧ exec .abandon s = .next s := by
  rw [exec_resume, execResume, exec_abandon, execAbandon]
  exact ⟨act_fnDown hs h, act_fnDown hs h⟩

/-- The doorbell of a tenant's function that works (R347). -/
theorem cqwpDoorbell_next {s : State} (hs : s.dev.wbuf = []) {t : TenantId} (h : FunctionUp s t) (q : QueueId) (wp : BitVec 32) :
    exec (.cqwpDoorbell t q wp) s = .next (s.modCq t q fun c => { c with wp := wp }) := by
  rw [exec_cqwpDoorbell, execCqwpDoorbell]
  exact act_fnUp (n := fun _ => t) h rfl rfl rfl hs

/-- The doorbell of a tenant's function that does not work (R384). -/
theorem cqwpDoorbell_down {s : State} (hs : s.dev.wbuf = []) {t : TenantId} (h : ¬ FunctionUp s t) (q : QueueId) (wp : BitVec 32) :
    exec (.cqwpDoorbell t q wp) s = .next s := by
  rw [exec_cqwpDoorbell, execCqwpDoorbell]
  exact act_fnDown (n := fun _ => t) hs h

/-- A write of CQCTL through a tenant's function that works: the worker of a queue that it enables is free (R343, R346, R348). -/
theorem cqctlWrite_next {s : State} (hs : s.dev.wbuf = []) {t : TenantId} (h : FunctionUp s t) (q : QueueId) (v : W64) :
    ∃ w : Fin 6, exec (.cqctlWrite t q v) s =
      .next ((s.upd fun d => { d with free := d.free + 1 }).modCq t q fun c => c.writeCtl v w) := by
  refine ⟨⟨s.drawNat.1 % 6, Nat.mod_lt _ (by decide)⟩, ?_⟩
  rw [exec_cqctlWrite, execCqctlWrite]
  refine act_answers ?_ rfl rfl (by exact hs)
  simp only [(fnUp_iff s t).2 h]
  rfl

/-- A write of CQCTL through a tenant's function that does not work (R384). -/
theorem cqctlWrite_down {s : State} (hs : s.dev.wbuf = []) {t : TenantId} (h : ¬ FunctionUp s t) (q : QueueId) (v : W64) :
    exec (.cqctlWrite t q v) s = .next s := by
  rw [exec_cqctlWrite, execCqctlWrite]
  exact act_same hs (by simp only [fnUp_false h]; rfl)

/-- The host reads a queue's register (R346). -/
theorem regRead_queue {s : State} {t : TenantId} (h : FunctionUp s t) (hb : s.dev.board.bootstat ≠ 0) (q : QueueId) {r : Nat × W64}
    (hr : r ∈ queueReads (s.cq t q)) :
    s.regRead (BitVec.ofNat 5 (t.val + 1)) (BitVec.ofNat 20 (q.val * 0x80 + r.1)) = s.emit (.readData (some r.2)) := by
  obtain ⟨hlt, h8⟩ := queueReads_offset hr
  have hq := q.isLt
  have ho : (BitVec.ofNat 20 (q.val * 0x80 + r.1)).toNat = q.val * 0x80 + r.1 := off_toNat (by omega)
  have hg : ¬ (s.dev.board.bootstat = 0 ∨ (BitVec.ofNat 20 (q.val * 0x80 + r.1)).toNat % 8 ≠ 0) := by
    rintro (e | e)
    · exact hb e
    · exact e (by omega)
  rw [State.regRead, if_neg hg, ho, hostRead_tenant h, tenantRead_queue h q hlt, readReg_of_queueReads hr]

/-- Settles O44: the queue's meanings one by one, each behind its tenant's function. -/
theorem queueRegisters : Obligations.QueueRegisters := by
  unfold Obligations.QueueRegisters
  intro s hs
  refine ⟨fun bs hen hst hne hrec hrd => submissionTake_next hs hen hst hne hrec hrd, fun h => ⟨resume_next hs h, abandon_next hs h⟩,
    resume_abandon_down hs, fun t q h => ⟨cqwpDoorbell_next hs h q, fun v => ?_, fun r hr hb => regRead_queue h hb q hr⟩,
    fun t q h => ⟨cqwpDoorbell_down hs h q, cqctlWrite_down hs h q⟩⟩
  obtain ⟨w, hw⟩ := cqctlWrite_next hs h q v
  refine ⟨w, hw.trans ?_⟩
  simp only [writeCtl_eq]

end Sys2Proof.Machine

/-! Checkpoint and restore begun and ended (R368, R399). -/

namespace Sys2Proof.Machine

open Sys2Proof.Claims

/-- A cohort that is being pre-empted, its cores not yet asked (R378). -/
def Cohort.preempted (c : Cohort) : Cohort := { c with state := .preempting, asked := false }

/-- Pre-empting cohorts pre-empts all that have the number of one of them, and changes nothing else. -/
theorem State.preemptAll (l : List Cohort) (s : State) :
    l.foldl (fun s c => s.preemptCohort c.id) s =
      s.upd fun d => { d with cohorts := d.cohorts.map fun c => if ∃ x ∈ l, x.id = c.id then c.preempted else c } := by
  induction l generalizing s with
  | nil => simp [State.upd]
  | cons x l ih =>
    rw [List.foldl_cons, ih]
    simp only [State.preemptCohort, State.modCohort, State.upd, List.map_map]
    congr 2
    refine List.map_congr_left fun c _ => ?_
    simp only [Function.comp, List.exists_mem_cons_iff]
    by_cases hx : c.id = x.id
    · rw [if_pos hx, if_pos (Or.inl hx.symm)]
      exact ite_self _
    · rw [if_neg hx]
      simp only [Ne.symm hx, false_or]

/-- A checkpoint or restore starts: its job stands, and every resident cohort is pre-empted (R378, R399). -/
theorem State.startCkpt_eq {s : State} {v : W64} {back : Bool} (hz : s.dev.board.hazelUp = true) (hj : s.dev.board.ckptJob = none)
    (h62 : v.getLsbD 62 = true) (h61 : v.getLsbD 61 = back) :
    s.startCkpt v back = s.upd fun d => { d with
      board := { d.board with
        ckpt := v &&& 0x600FFFFFFFFFF000, ckptJob := some { target := field v 12 40 * 4096, restore := back } }
      cohorts := d.cohorts.map fun c => if ∃ x ∈ d.cohorts, x.id = c.id ∧ x.state = .resident then c.preempted else c } := by
  have hgo : (!s.dev.board.hazelUp || s.dev.board.ckptJob.isSome || !bitAt v 62 || bitAt v 61 != back) = false := by
    rw [hz, hj, bitAt, bitAt, h62, h61, bne_self_eq_false]
    rfl
  have hres (c : Cohort) : (∃ x ∈ s.dev.cohorts.filter fun c => c.state == .resident, x.id = c.id) ↔
      ∃ x ∈ s.dev.cohorts, x.id = c.id ∧ x.state = .resident := by
    simp only [List.mem_filter, beq_iff_eq]
    exact exists_congr fun x => ⟨fun h => ⟨h.1.1, h.2, h.1.2⟩, fun h => ⟨⟨h.1, h.2.2⟩, h.2.1⟩⟩
  rw [State.startCkpt, hgo, if_neg (by decide)]
  simp only [State.preemptAll, State.upd, State.modBoard, fieldNat_eq_field, hres]

/-- What both instructions that start a job answer. -/
theorem startCkpt_answers {s : State} {v : W64} {back : Bool} (hs : s.dev.wbuf = []) (hz : s.dev.board.hazelUp = true)
    (hj : s.dev.board.ckptJob = none) (h62 : v.getLsbD 62 = true) (h61 : v.getLsbD 61 = back) :
    act (fun s => s.startCkpt v back) s = .next (s.startCkpt v back) := by
  have h := State.startCkpt_eq hz hj h62 h61
  exact act_answers rfl (by rw [h]; rfl) (by rw [h]; rfl) (by rw [h]; exact hs)

/-- A checkpoint or restore starts (R368, R399). -/
theorem checkpoint_starts {s : State} (hs : s.dev.wbuf = []) (i : Instr) (v : W64) (back : Bool)
    (hi : (i = .checkpoint v ∧ back = false) ∨ (i = .restore v ∧ back = true)) (hz : s.dev.board.hazelUp = true)
    (hj : s.dev.board.ckptJob = none) (h62 : v.getLsbD 62 = true) (h61 : v.getLsbD 61 = back) : Gives i s fun t =>
      t.dev.board.ckptJob = some { target := field v 12 40 * 4096, restore := back } ∧ t.dev.board.ckpt.getLsbD 63 = false ∧
      t.dev.cohorts = s.dev.cohorts.map (fun c => if ∃ d ∈ s.dev.cohorts, d.id = c.id ∧ d.state = .resident then
        { c with state := .preempting, asked := false } else c) ∧ t.mem = s.mem ∧ t.dev.cores = s.dev.cores := by
  have hex : exec i s = .next (s.startCkpt v back) := by
    have h := startCkpt_answers hs hz hj h62 h61
    rcases hi with ⟨rfl, rfl⟩ | ⟨rfl, rfl⟩
    · exact h
    · exact h
  refine ⟨_, hex, ?_⟩
  rw [State.startCkpt_eq hz hj h62 h61]
  refine ⟨rfl, ?_, rfl, rfl, rfl⟩
  change (v &&& 0x600FFFFFFFFFF000).getLsbD 63 = false
  simp

/-- The state after a checkpoint job has moved the memories: before its last register write. -/
def State.ckptMoved (s : State) (j : CkptJob) : State :=
  if j.restore then (s.seal.moves (ckptMoves j)).restoreTags else s.seal.moves (ckptMoves j)

/-- Moving the memories changes the write buffer and the tags of data units alone, and leaves no key (R391). -/
theorem State.ckptMoved_only (s : State) (j : CkptJob) :
    ∃ l m, Bare m ∧ s.ckptMoved j = s.upd fun d => { d with wbuf := l, tags := m } := by
  obtain ⟨l, m, hs⟩ := s.seal_only
  have hb : Bare m := by
    have := s.bare_seal
    rwa [hs] at this
  obtain ⟨l', hm⟩ := s.seal.moves_only (ckptMoves j)
  rw [hs] at hm
  unfold State.ckptMoved
  rw [hs, hm]
  split
  · obtain ⟨m', hb', e⟩ := State.restoreTags_only
      ((s.upd fun d => { d with wbuf := l, tags := m }).upd fun d => { d with wbuf := l' }) hb
    exact ⟨l', m', hb', e⟩
  · exact ⟨l', m, hb, rfl⟩

/-- The bytes after the memories have been moved are those that the moves leave: a restore's tags change none. -/
theorem State.cell_ckptMoved (s : State) (j : CkptJob) (a : Nat) : (s.ckptMoved j).cell a = (s.seal.moves (ckptMoves j)).cell a := by
  unfold State.ckptMoved
  split
  · obtain ⟨m, -, e⟩ := State.restoreTags_only (s.seal.moves (ckptMoves j)) (by rw [(State.moves_only ..).tags]; exact s.bare_seal)
    rw [e]
    rfl
  · rfl

/-- The model's moves of a job, part by part, are those of `ckptMoves`. -/
theorem State.foldl_safeParts (s : State) (j : CkptJob) :
    safeParts.foldl (fun s p =>
      let at_ := Config.hostAt + j.target + p.2.1
      if j.restore then s.moveBytes at_ p.1 p.2.2 else s.moveBytes p.1 at_ p.2.2) s = s.moves (ckptMoves j) := by
  unfold State.moves ckptMoves
  cases j.restore
  · rw [if_neg (by decide), List.foldl_map]
    rfl
  · rw [if_pos rfl, List.foldl_map]
    rfl

/-- Once nothing is under way, a checkpoint or restore has moved the memories, and DONE is set (R399). -/
theorem checkpointDone_next {s : State} {j : CkptJob} (hj : s.dev.board.ckptJob = some j)
    (hc : ∀ c ∈ s.dev.cohorts, c.state ≠ .resident ∧ c.state ≠ .preempting) (he : s.dev.eng = [])
    (hl : ∃ n, s.dev.board.links.get n = true) :
    exec .checkpointDone s =
      .next ((s.ckptMoved j).modBoard fun b => { b with ckptJob := none, ckpt := setBit b.ckpt 63 true }).flush := by
  obtain ⟨l, m, -, e⟩ := s.ckptMoved_only j
  have hgo : (s.dev.cohorts.any (fun c => c.state == .resident || c.state == .preempting) || !s.dev.eng.isEmpty ||
      !s.dev.board.links.toList.any (fun up => up)) = false := by
    obtain ⟨n, hn⟩ := hl
    have ha : s.dev.cohorts.any (fun c => c.state == .resident || c.state == .preempting) = false := by
      simpa using hc
    have hu : s.dev.board.links.toList.any (fun up => up) = true :=
      List.any_eq_true.2 ⟨true, by rw [← hn]; exact Vector.mem_toList_iff.2 (Vector.getElem_mem n.isLt), rfl⟩
    rw [ha, he, hu]
    rfl
  rw [exec_checkpointDone, execCheckpointDone]
  refine act_flush ?_ (by rw [e]; rfl) (by rw [e]; rfl)
  simp only [hj, hgo, State.foldl_safeParts]
  rfl

/-- What lies in the memories once a checkpoint or restore is done (R391, R399). -/
theorem checkpoint_ends {s : State} (j : CkptJob) (hj : s.dev.board.ckptJob = some j)
    (hc : ∀ c ∈ s.dev.cohorts, c.state ≠ .resident ∧ c.state ≠ .preempting) (he : s.dev.eng = [])
    (hl : ∃ n, s.dev.board.links.get n = true) (hw : s.mem.wf = true) : Gives .checkpointDone s fun t =>
      t.dev.board.ckptJob = none ∧ t.dev.board.ckpt.getLsbD 63 = true ∧ t.dev.cores = s.dev.cores ∧
      ∀ p ∈ safeParts, ∀ k, k < p.2.2 →
        if j.restore then t.peekRaw (p.1 + k) = s.peekRaw (Config.hostAt + j.target + p.2.1 + k)
        else t.peekRaw (Config.hostAt + j.target + p.2.1 + k) = s.peekRaw (p.1 + k) := by
  refine ⟨_, checkpointDone_next hj hc he hl, ?_⟩
  obtain ⟨l, m, hm, e⟩ := s.ckptMoved_only j
  have hraw (a : Nat) : ((s.ckptMoved j).modBoard fun b => { b with ckptJob := none, ckpt := setBit b.ckpt 63 true }).flush.peekRaw a =
      (s.seal.moves (ckptMoves j)).cell a := by
    rw [State.peekRaw_flush (by rw [e]; exact hw), State.peekRaw_bare (by rw [e]; exact hm)]
    exact s.cell_ckptMoved j a
  have hseal : s.seal.mem.wf = true := by
    obtain ⟨l, m, h⟩ := s.seal_only
    rw [h]
    exact hw
  refine ⟨rfl, ?_, by rw [e]; rfl, fun p hp k hk => ?_⟩
  · change (setBit (s.ckptMoved j).dev.board.ckpt 63 true).getLsbD 63 = true
    simp [setBit]
  · split
    next hr => rw [hraw, State.cell_restoreMoves hseal hr hp hk, State.cell_seal]
    next hr => rw [hraw, State.cell_checkpointMoves hseal (Bool.eq_false_iff.2 hr) hp hk, State.cell_seal]

end Sys2Proof.Machine

/-! Reports (R393) and accesses through BAR2 (R396). -/

namespace Sys2Proof.Machine

open Sys2Proof.Claims

/-! ## The length of a hash (R392) -/

/-- A round keeps the eight working words. -/
theorem shaRounds_length (l : List (W64 × W64)) (v : List W64) (h : v.length = 8) : (l.foldl shaRound v).length = 8 := by
  induction l generalizing v with
  | nil => exact h
  | cons x l ih => exact ih _ rfl

/-- The blocks of a message keep the eight words of the hash value. -/
theorem shaBlocks_length (l : List (List Byte)) (v : List W64) (h : v.length = 8) : (l.foldl shaBlock v).length = 8 := by
  induction l generalizing v with
  | nil => exact h
  | cons x l ih => exact ih _ (by rw [shaBlock, List.length_zipWith, shaRounds_length _ _ h, h, Nat.min_self])

/-- The bytes of a number, most significant first, are as many as were asked for. -/
@[simp] theorem toBe_length (n v : Nat) : (toBe n v).length = n := by rw [toBe, List.length_reverse, toLe_length]

/-- SHA-384 answers 48 bytes. -/
@[simp] theorem sha384_length (m : List Byte) : (sha384 m).length = 48 := by
  have h := shaBlocks_length ((List.range ((shaPad m).length / 128)).map fun i => ((shaPad m).drop (128 * i)).take 128) shaInit rfl
  rw [List.foldl_map] at h
  simp [sha384, h, List.length_flatMap]

/-! ## Reports (R393) -/

/-- What a report says of a tenant's partition, or its place for function 0. -/
def State.partHash (s : State) (fn : BitVec 5) : List Byte := match fnTenant fn with
  | some t => sha384 (s.partBytes t)
  | none => zeros 48

/-- It has 48 bytes. -/
@[simp] theorem State.partHash_length (s : State) (fn : BitVec 5) : (s.partHash fn).length = 48 := by
  unfold State.partHash
  split
  · exact sha384_length _
  · rfl

/-- For function 0 it is zero (R393). -/
theorem State.partHash_zero (s : State) : s.partHash 0 = zeros 48 := rfl

/-- The parts of a report before its signature. -/
theorem State.reportBody_eq (s : State) (fn : BitVec 5) (nonce : BitVec 256) :
    s.reportBody fn nonce = sha384 (s.peeks Config.flashAt (Config.imageBytes - 96)) ++ (s.partHash fn ++
      (toLe 32 nonce.toNat ++ (toLe 8 s.dev.board.dtime ++ toLe 24 Config.serial.toNat))) := by
  cases h : fnTenant fn <;> simp only [State.reportBody, State.partHash, State.imageAt, h, List.append_assoc]

/-- A part of a byte string, after what stands before it. -/
theorem take_drop_append {α : Type} {a b c : List α} {m n : Nat} (hm : a.length = m) (hn : b.length = n) :
    ((a ++ (b ++ c)).drop m).take n = b := by
  subst hm hn
  simp

/-- A report is given to the host: its parts, and its signature (R392, R393). -/
theorem attestation_reports {s : State} (hs : s.dev.wbuf = []) (fn : BitVec 5) (nonce : BitVec 256)
    (hz : s.dev.board.hazelUp = true) (hf : fn = 0 ∨ (s.dev.board.vfUp = true ∧ 1 ≤ fn.toNat ∧ fn.toNat ≤ 16)) :
    ∃ body : List Byte, body.length = 160 ∧ body.take 48 = sha384 (s.peeks Config.flashAt (Config.imageBytes - 96)) ∧
      (fn = 0 → (body.drop 48).take 48 = zeros 48) ∧ (body.drop 96).take 32 = toLe 32 nonce.toNat ∧
      (body.drop 128).take 8 = toLe 8 s.dev.board.dtime ∧
      exec (.attestationReport fn nonce) s = .next (s.emit (.report (body ++ signatureBytes Config.identityKey body))) := by
  have hgo : (!s.dev.board.hazelUp || (fn ≠ 0 && (fnTenant fn).isNone) || (fn ≠ 0 && !s.dev.board.vfUp)) = false := by
    rcases hf with rfl | ⟨hv, h1, h16⟩
    · simp [hz]
    · simp [hz, hv, fnTenant, h1, h16]
  have hb := s.reportBody_eq fn nonce
  refine ⟨s.reportBody fn nonce, ?_, ?_, fun h0 => ?_, ?_, ?_, ?_⟩
  · rw [hb]
    simp
  · rw [hb]
    exact List.take_left' (sha384_length _)
  · rw [hb, take_drop_append (sha384_length _) (s.partHash_length fn), h0, State.partHash_zero]
  · rw [hb, ← List.append_assoc]
    exact take_drop_append (by simp) (toLe_length ..)
  · rw [hb, ← List.append_assoc, ← List.append_assoc]
    exact take_drop_append (by simp) (toLe_length ..)
  · rw [exec_attestationReport, execAttestationReport]
    refine act_answers ?_ rfl rfl (by exact hs)
    rw [hgo, if_neg (by decide)]
    rfl

/-! ## BAR2 (R396) -/

/-- An access of function 0 within a tier has its bytes there. -/
theorem pfSpan_inside {off n p : Nat} (hn : 1 ≤ n)
    (h : (off + n ≤ Config.nearBytes ∧ p = Config.nearAt + off) ∨
      (Config.nearBytes ≤ off ∧ off + n ≤ Config.nearBytes + Config.farBytes ∧ p = Config.farAt + (off - Config.nearBytes))) :
    pfSpan off n = some p := by
  have hp : ∀ k, k < n → pfPlace (off + k) = some (p + k) := fun k hk => by
    unfold pfPlace
    rcases h with ⟨h1, e⟩ | ⟨h1, h2, e⟩
    · rw [if_pos (by omega)]
      exact congrArg some (by omega)
    · rw [if_neg (by omega), if_pos (by omega)]
      exact congrArg some (by omega)
  have h0 := hp 0 (by omega)
  have h1 := hp (n - 1) (by omega)
  rw [Nat.add_zero, Nat.add_zero] at h0
  simp only [pfSpan, h0, show off + n - 1 = off + (n - 1) by omega, h1]
  rw [if_pos (by omega)]

/-- An access of function 0 that ends past the tiers has none. -/
theorem pfSpan_outside {off n : Nat} (hn : 1 ≤ n) (h : Config.nearBytes + Config.farBytes < off + n) : pfSpan off n = none := by
  have : pfPlace (off + n - 1) = none := by
    unfold pfPlace
    rw [if_neg (by omega), if_neg (by omega)]
  unfold pfSpan
  rw [this]
  split
  next h => cases h
  next => rfl

/-- The conditions that every access through BAR2 has here: a length of 1 to 8 bytes, a device that has begun to come up, and virtual
functions that are enabled. -/
structure Bar2Up (s : State) (n : BitVec 4) : Prop where
  pos : 1 ≤ n.toNat
  le : n.toNat ≤ 8
  boot : s.dev.board.bootstat ≠ 0
  vf : s.dev.board.vfUp = true

/-- The access passes the tests that are common to all functions. -/
theorem Bar2Up.guard {s : State} {n : BitVec 4} (h : Bar2Up s n) : ¬ (n.toNat = 0 ∨ 8 < n.toNat ∨ s.dev.board.bootstat = 0) := by
  rintro (e | e | e)
  · have := h.pos
    omega
  · exact absurd h.le (by omega)
  · exact h.boot e

/-- Unsupported Request without an entry of the fault log. -/
theorem State.unsupported_plain (s : State) (code va : Nat) : s.unsupported none code va = s.emit (.readData none) := rfl

/-- Unsupported Request of an access that leaves no entry in the fault log (R387). -/
theorem State.unsupported_quiet {s : State} {code va : Nat} (h : s.engineLogs code va = false) (t : TenantId) :
    s.unsupported (some t) code va = s.emit (.readData none) := by
  simp [State.unsupported, h]

/-- Unsupported Request: the host's read ends without data. -/
theorem State.unsupported_out (s : State) (t : Option TenantId) (code va : Nat) :
    ∃ l, (s.unsupported t code va).dev.board.out = l ++ [.readData none] := ⟨_, rfl⟩

section
variable {s : State} {n : BitVec 4} (h : Bar2Up s n)
include h

/-- Function 0 reads the bytes of a tier as they lie there (R391, R396). -/
theorem bar2_read (hs : s.dev.wbuf = []) {off : BitVec 41} {p : Nat} (hp : pfSpan off.toNat n.toNat = some p) :
    exec (.hostBar2Access 0 off n none) s = .next (s.emit (.readData (some (BitVec.ofNat 64 (rawNat s p n.toNat))))) := by
  rw [exec_hostBar2Access, execHostBar2Access]
  refine act_answers ?_ rfl rfl (by exact hs)
  simp only [h.guard, if_false, h.vf, Bool.not_true, Bool.false_eq_true, if_true, hp]
  rfl

/-- Function 0 writes the bytes of a tier as they lie there (R391, R396). -/
theorem bar2_write {off : BitVec 41} {p : Nat} (hp : pfSpan off.toNat n.toNat = some p) (w : W64) :
    exec (.hostBar2Access 0 off n (some w)) s = .next (s.pokeRaws p (toLe n.toNat w.toNat)).flush := by
  obtain ⟨l, m, e⟩ := s.pokeRaws_only p (toLe n.toNat w.toNat)
  rw [exec_hostBar2Access, execHostBar2Access]
  refine act_flush ?_ (by rw [e]; rfl) (by rw [e]; rfl)
  simp only [h.guard, if_false, h.vf, Bool.not_true, Bool.false_eq_true, if_true, hp]

/-- What function 0 writes lies in the tier, and nothing else has changed but the tags of data units (R391, R396). -/
theorem bar2_writes (hs : s.dev.wbuf = []) (hw : s.mem.wf = true) {off : BitVec 41} {p : Nat}
    (hp : pfSpan off.toNat n.toNat = some p) (w : W64) :
    Gives (.hostBar2Access 0 off n (some w)) s fun t => rawNat t p n.toNat = w.toNat % 2 ^ (8 * n.toNat) ∧
      (∀ a, a ∉ addrs p n.toNat → t.peekRaw a = s.peekRaw a) ∧ { t.dev with tags := s.dev.tags } = s.dev ∧ t.part = s.part := by
  refine ⟨_, bar2_write h hp w, ?_⟩
  obtain ⟨l, m, e⟩ := s.pokeRaws_only p (toLe n.toNat w.toNat)
  have hraw (a : Nat) : (s.pokeRaws p (toLe n.toNat w.toNat)).flush.peekRaw a =
      if p ≤ a ∧ a < p + n.toNat then nth (toLe n.toNat w.toNat) (a - p) 0 else s.peekRaw a := by
    rw [State.peekRaw_flush (by rw [e]; exact hw), State.peekRaw_pokeRaws, toLe_length]
  refine ⟨?_, fun a ha => ?_, ?_, by rw [e]; rfl⟩
  · have hm := map_addrs_eq (f := (s.pokeRaws p (toLe n.toNat w.toNat)).flush.peekRaw) (a := p) (bs := toLe n.toNat w.toNat)
      fun i hi => by
        rw [toLe_length] at hi
        rw [hraw, if_pos (by omega), Nat.add_sub_cancel_left]
    rw [toLe_length] at hm
    rw [rawNat, hm, leNat_toLe]
  · rw [hraw, if_neg (by simpa using ha)]
  · rw [e]
    change { s.dev with wbuf := [] } = s.dev
    rw [← hs]

/-- A tenant's function reads what its tenant may (R396). -/
theorem bar2_tenantRead (hs : s.dev.wbuf = []) {t : TenantId} (hp : (s.part.get t).getLsbD 16 = true) {off : BitVec 41} {v : Nat}
    (hv : s.devNat t off.toNat n.toNat = .ok v) :
    exec (.hostBar2Access (BitVec.ofNat 5 (t.val + 1)) off n none) s = .next (s.emit (.readData (some (BitVec.ofNat 64 v)))) := by
  rw [exec_hostBar2Access, execHostBar2Access]
  refine act_answers ?_ rfl rfl (by exact hs)
  simp only [h.guard, if_false, h.vf, Bool.not_true, Bool.false_eq_true, fn_ne_zero, fnTenant_ofNat, (fnUp_iff s t).2 ⟨h.vf, hp⟩, hv]

/-- A tenant's function gets Unsupported Request for what its tenant may not read or write (R387, R396). -/
theorem bar2_tenantRefused (hs : s.dev.wbuf = []) {t : TenantId} (hp : (s.part.get t).getLsbD 16 = true)
    {off : BitVec 41} {w : Option W64} {f : Nat × Nat}
    (hf : (w = none ∧ s.devNat t off.toNat n.toNat = .error f) ∨
      (∃ v, w = some v ∧ s.devWrite t off.toNat (toLe n.toNat v.toNat) = .error f)) :
    ∃ r l, exec (.hostBar2Access (BitVec.ofNat 5 (t.val + 1)) off n w) s = .next r ∧ r.dev.board.out = l ++ [.readData none] ∧
      (s.engineLogs f.1 f.2 = false → r = s.emit (.readData none)) := by
  have hex : exec (.hostBar2Access (BitVec.ofNat 5 (t.val + 1)) off n w) s = act (fun s => s.unsupported (some t) f.1 f.2) s := by
    rw [exec_hostBar2Access, execHostBar2Access, act_eq, act_eq]
    have hu := (fnUp_iff s t).2 ⟨h.vf, hp⟩
    rcases hf with ⟨rfl, hv⟩ | ⟨v, rfl, hv⟩ <;>
      simp only [h.guard, if_false, h.vf, Bool.not_true, Bool.false_eq_true, fn_ne_zero, fnTenant_ofNat, hu, hv]
  obtain ⟨l, hl⟩ := s.unsupported_out (some t) f.1 f.2
  refine ⟨_, l, hex.trans (act_eq ..), hl, fun hq => ?_⟩
  have ha : act (fun s => s.unsupported (some t) f.1 f.2) s = .next (s.emit (.readData none)) :=
    act_answers (State.unsupported_quiet hq t) rfl rfl hs
  exact Host.Outcome.next.inj ((act_eq ..).symm.trans ha)

/-- Accesses that get Unsupported Request without an entry: of a function that does not exist, of function 0 past the tiers, and of a
function without a partition (R384, R396). -/
theorem bar2_unsupported (hs : s.dev.wbuf = []) {fn : BitVec 5} {off : BitVec 41} {w : Option W64}
    (hf : 17 ≤ fn.toNat ∨ (fn = 0 ∧ Config.nearBytes + Config.farBytes < off.toNat + n.toNat) ∨
      (∃ t : TenantId, fn.toNat = t.val + 1 ∧ (s.part.get t).getLsbD 16 = false)) :
    exec (.hostBar2Access fn off n w) s = .next (s.emit (.readData none)) := by
  rw [exec_hostBar2Access, execHostBar2Access]
  refine act_answers ?_ rfl rfl (by exact hs)
  simp only [h.guard, if_false, h.vf, Bool.not_true, Bool.false_eq_true]
  rcases hf with h17 | ⟨rfl, ho⟩ | ⟨t, ht, hp⟩
  · have h0 : fn ≠ 0 := by
      rintro rfl
      exact absurd h17 (by decide)
    have hn : fnTenant fn = none := dif_neg (by omega)
    simp only [h0, if_false, hn, State.unsupported_plain]
  · simp only [if_true, pfSpan_outside h.pos ho, State.unsupported_plain]
  · have hfn : fn = BitVec.ofNat 5 (t.val + 1) := BitVec.eq_of_toNat_eq (by rw [ht, fn_toNat])
    have hd : s.fnUp t = false := fnUp_false fun hu => Bool.false_ne_true (hp.symm.trans hu.2)
    subst hfn
    simp only [fn_ne_zero, if_false, fnTenant_ofNat, hd, Bool.not_false, if_true, State.unsupported_plain]

end

end Sys2Proof.Machine

/-! The host's writes of registers without a row of their own (R6, R346, R369, R389, R390, R396, R412). -/

namespace Sys2Proof.Machine

open Sys2Proof.Claims

/-- A write at an offset between registers has no effect. -/
theorem registerWrite_unaligned {s : State} (hs : s.dev.wbuf = []) (fn : BitVec 5) {off : BitVec 20} (v : W64)
    (ho : off.toNat % 8 ≠ 0) : exec (.registerWrite fn off v) s = .next s := by
  rw [exec_registerWrite, execRegisterWrite]
  exact act_same hs (if_pos (.inr ho))

/-- A write at an offset that may hold a register passes the first test. -/
theorem registerWrite_guard {s : State} {off : BitVec 20} (hb : s.dev.board.bootstat ≠ 0) (ho : off.toNat % 8 = 0) :
    ¬ (s.dev.board.bootstat = 0 ∨ off.toNat % 8 ≠ 0) := by
  rintro (e | e)
  · exact hb e
  · exact e ho

/-- A write at an offset without a register gets Unsupported Request (R396). -/
theorem registerWrite_unpopulated {s : State} (hs : s.dev.wbuf = []) (fn : BitVec 5) {off : BitVec 20} (v : W64)
    (hb : s.dev.board.bootstat ≠ 0) (ho : off.toNat % 8 = 0) (hn : s.hostRead fn off.toNat = none) :
    exec (.registerWrite fn off v) s = .next (s.emit (.readData none)) := by
  rw [exec_registerWrite, execRegisterWrite]
  refine act_answers ?_ rfl rfl (by exact hs)
  rw [if_neg (registerWrite_guard hb ho), hn]
  rfl

/-- A write of a register of a tenant's function that works reaches the tenant's registers. -/
theorem registerWrite_tenant {s r : State} (hs : s.dev.wbuf = []) {t : TenantId} (h : FunctionUp s t)
    (hb : s.dev.board.bootstat ≠ 0) {off : Nat} (hlt : off < 2 ^ 20) (ho : off % 8 = 0) {x : W64} (hx : s.tenantRead t off = some x)
    {v : W64} {f : Dev → Dev} (hr : s.tenantReg t off v = r) (hf : r = s.upd f) (hw : (f s.dev).wbuf = s.dev.wbuf) :
    exec (.registerWrite (BitVec.ofNat 5 (t.val + 1)) (BitVec.ofNat 20 off) v) s = .next r := by
  have hoff : (BitVec.ofNat 20 off).toNat = off := off_toNat hlt
  rw [exec_registerWrite, execRegisterWrite]
  refine act_answers ?_ (by rw [hf]; rfl) (by rw [hf]; rfl) (by rw [hf, ← hs, ← hw]; rfl)
  rw [if_neg (registerWrite_guard hb (by rw [hoff]; exact ho)), hoff, hostRead_tenant h, hx, if_neg (by simp),
    if_neg (fn_ne_zero t), fnTenant_ofNat]
  simp only
  rw [if_pos ((fnUp_iff s t).2 h), hr]

/-- A write of a register of a command queue (R346). -/
theorem registerWrite_queue {s : State} (hs : s.dev.wbuf = []) {t : TenantId} (h : FunctionUp s t)
    (hb : s.dev.board.bootstat ≠ 0) (q : QueueId) {off : Nat} (hlt : off < 0x80) (ho : off % 8 = 0) {x : W64}
    (hx : (s.cq t q).readReg off = some x) (v : W64) :
    exec (.registerWrite (BitVec.ofNat 5 (t.val + 1)) (BitVec.ofNat 20 (q.val * 0x80 + off)) v) s =
      .next (s.modCq t q fun c => c.writeReg off v) := by
  have hq := q.isLt
  have hd : (⟨(q.val * 0x80 + off) / 0x80 % 16, Nat.mod_lt _ (by decide)⟩ : QueueId) = q := Fin.ext (by simp only; omega)
  refine registerWrite_tenant hs h hb (by omega) (by omega) ((tenantRead_queue h q hlt).trans hx) ?_ rfl rfl
  rw [State.tenantReg, if_pos (by omega), hd, show (q.val * 0x80 + off) % 0x80 = off by omega]

/-- A tenant's own registers lie from 0x1000 on (R369, R389). -/
theorem tenantRead_own {s : State} {t : TenantId} (h : FunctionUp s t) {off : Nat} (hlo : 0x1000 ≤ off) (hhi : off < 0x3000)
    (hne : off ≠ 0x1008) : s.tenantRead t off = (s.tenant t).readReg off := by
  rw [State.tenantRead, if_neg hne, (fnUp_iff s t).2 h, if_neg (by decide), if_neg (by omega), if_neg (by omega)]

/-- A write of one of a tenant's own registers (R369, R389). -/
theorem registerWrite_own {s : State} (hs : s.dev.wbuf = []) {t : TenantId} (h : FunctionUp s t)
    (hb : s.dev.board.bootstat ≠ 0) {off : Nat} (hlo : 0x1000 ≤ off) (hhi : off < 0x2000) (hne : off ≠ 0x1008) (ho : off % 8 = 0)
    {x : W64} (hx : (s.tenant t).readReg off = some x) (v : W64) :
    exec (.registerWrite (BitVec.ofNat 5 (t.val + 1)) (BitVec.ofNat 20 off) v) s = .next (s.modTenant t fun x => x.writeReg off v) := by
  refine registerWrite_tenant hs h hb (by omega) ho ((tenantRead_own h hlo (by omega) hne).trans hx) ?_ rfl rfl
  rw [State.tenantReg, if_neg (by omega), if_pos ⟨hlo, hhi⟩]

/-! ## Keys (R390) -/

/-- The lowest doubleword of a key, replaced. -/
theorem setDword_zero_toNat (w : BitVec 512) (v : W64) : (setDword w 0 v).toNat = w.toNat - w.toNat % 2 ^ 64 + v.toNat := by
  have h1 := w.isLt
  have h2 := v.isLt
  simp only [setDword, BitVec.toNat_ofNat, Nat.mul_zero, Nat.pow_zero, Nat.div_one, Nat.mul_one]
  omega

/-- It is the value written. -/
theorem setDword_zero_low (w : BitVec 512) (v : W64) : (setDword w 0 v).extractLsb' 0 64 = v := by
  apply BitVec.eq_of_toNat_eq
  have h2 := v.isLt
  rw [BitVec.extractLsb'_toNat, setDword_zero_toNat, Nat.shiftRight_zero]
  omega

/-- The rest of the key stays. -/
theorem setDword_zero_high (w : BitVec 512) (v : W64) : (setDword w 0 v).extractLsb' 64 448 = w.extractLsb' 64 448 := by
  apply BitVec.eq_of_toNat_eq
  have h2 := v.isLt
  rw [BitVec.extractLsb'_toNat, BitVec.extractLsb'_toNat, setDword_zero_toNat, Nat.shiftRight_eq_div_pow, Nat.shiftRight_eq_div_pow]
  congr 1
  omega

/-- A key register shows 0 (R390). -/
theorem readReg_key (x : Tenant) {off : Nat} (hlo : 0x2000 ≤ off) (hhi : off < 0x2420) : x.readReg off = some 0 := by
  unfold Tenant.readReg
  split
  case h_9 => exact if_pos ⟨hlo, hhi⟩
  all_goals omega

/-- A write at the offset of a memory key's first doubleword (R390). -/
theorem writeKey_first (x : Tenant) {off : Nat} {k : Fin 16} (h : off = 0x2000 + 0x40 * k.val) (v : W64) :
    x.writeKey off v = { x with mkeys := x.mkeys.set k.val (setDword (x.mkeys.get k) 0 v) k.isLt } := by
  have hk := k.isLt
  have hd : (off - 0x2000) / 0x40 % 16 = k.val := by omega
  have h0 : off % 0x40 / 8 = 0 := by omega
  have hlt : off < 0x2400 := by omega
  simp only [Tenant.writeKey, hlt, if_true, hd, h0]

/-- A write of the first doubleword of a memory key (R390). -/
theorem registerWrite_key {s : State} (hs : s.dev.wbuf = []) {t : TenantId} (h : FunctionUp s t) (hb : s.dev.board.bootstat ≠ 0)
    (k : Fin 16) (v : W64) :
    exec (.registerWrite (BitVec.ofNat 5 (t.val + 1)) (BitVec.ofNat 20 (0x2000 + 0x40 * k.val)) v) s =
      .next (s.modTenant t fun x => { x with mkeys := x.mkeys.set k.val (setDword (x.mkeys.get k) 0 v) k.isLt }) := by
  have hk := k.isLt
  refine registerWrite_tenant hs h hb (by omega) (by omega)
    ((tenantRead_own h (by omega) (by omega) (by omega)).trans (readReg_key _ (by omega) (by omega))) ?_ rfl rfl
  rw [State.tenantReg, if_neg (by omega), if_neg (by omega), if_pos (by omega)]
  exact congrArg (s.modTenant t) (funext fun x => writeKey_first x rfl v)

/-- The keys after the first doubleword of one has been written (R390). -/
theorem keyWrite {s : State} (hs : s.dev.wbuf = []) {t : TenantId} (h : FunctionUp s t) (hb : s.dev.board.bootstat ≠ 0)
    (k : Fin 16) (v : W64) :
    Gives (.registerWrite (BitVec.ofNat 5 (t.val + 1)) (BitVec.ofNat 20 (0x2000 + 0x40 * k.val)) v) s fun r =>
      ((r.tenant t).mkeys.get k).extractLsb' 0 64 = v ∧
      ((r.tenant t).mkeys.get k).extractLsb' 64 448 = ((s.tenant t).mkeys.get k).extractLsb' 64 448 ∧
      ∀ i, i ≠ k → (r.tenant t).mkeys.get i = (s.tenant t).mkeys.get i := by
  refine ⟨_, registerWrite_key hs h hb k v, ?_⟩
  simp only [State.tenant_modTenant_same, vector_get_set_same]
  exact ⟨setDword_zero_low .., setDword_zero_high .., fun i hi => vector_get_set_ne _ _ hi⟩

/-! ## The trip temperature (R411, R412) -/

/-- TRIPPED of THERMSTAT, replaced: the bits below and above it stay. -/
theorem setField_tripped (w : W64) {n : Nat} (h : n < 2 ^ 32) :
    setField w 8 32 n = (w &&& ~~~(0xFFFFFFFF00 : W64)) ||| BitVec.ofNat 64 n <<< 8 := by
  have hv : w.toNat - w.toNat / 2 ^ 8 % 2 ^ 32 * 2 ^ 8 + n % 2 ^ 32 * 2 ^ 8 =
      2 ^ 40 * (w.toNat / 2 ^ 40) + (2 ^ 8 * n + w.toNat % 2 ^ 8) := by omega
  have hm : (0xFFFFFFFF00 : W64) = (BitVec.allOnes 32).setWidth 64 <<< 8 := by decide
  apply BitVec.eq_of_getLsbD_eq
  intro i hi
  rw [setField, hv, hm, BitVec.getLsbD_ofNat, Nat.testBit_two_pow_mul_add _ (by omega), Nat.testBit_two_pow_mul_add _ (by omega)]
  simp only [BitVec.getLsbD_or, BitVec.getLsbD_and, BitVec.getLsbD_not, BitVec.getLsbD_shiftLeft, BitVec.getLsbD_setWidth,
    BitVec.getLsbD_allOnes, BitVec.getLsbD_ofNat, Nat.testBit_div_two_pow, Nat.testBit_mod_two_pow]
  have hw : w.toNat.testBit i = w[i] := by rw [BitVec.testBit_toNat, BitVec.getLsbD_eq_getElem hi]
  by_cases h8 : i < 8
  · simp [h8, hi, show i < 40 by omega, hw]
  · have h64 : i - 8 < 64 := by omega
    by_cases h40 : i < 40
    · simp [h8, h40, hi, show i - 8 < 32 by omega, h64]
    · have hn : n.testBit (i - 8) = false :=
        Nat.testBit_lt_two_pow (h.trans_le (Nat.pow_le_pow_right (by decide) (by omega)))
      simp [h8, h40, hi, show ¬ i - 8 < 32 by omega, h64, hn, Nat.sub_add_cancel (Nat.le_of_not_lt h40), hw]

/-- What TEMP and TRIP make of the board (R411). -/
theorem judge_eq (b : Board) : b.judge = tripJudged b := by
  have h : min (field b.thermstat 8 32 + 1) 0xFFFFFFFF < 2 ^ 32 := by omega
  simp only [Board.judge, tripJudged, fieldNat_eq_field, setField_tripped _ h]

/-- A write of the trip temperature reaches the board, if it is in range (R411, R412). -/
theorem State.deviceReg_trip {s : State} (h : s.dev.board.stage ≠ 2) (v : W64) :
    s.deviceReg 0x10010 v =
      if 85 ≤ field v 0 8 ∧ field v 0 8 ≤ 115 then s.modBoard fun b => tripJudged { b with thermctl := v &&& 0xFF } else s := by
  rw [State.deviceReg, if_neg h, if_pos rfl]
  simp only [fieldNat_eq_field, judge_eq]
  by_cases hr : 85 ≤ field v 0 8 ∧ field v 0 8 ≤ 115
  · rw [if_neg (by omega), if_pos hr]
  · rw [if_pos (by omega), if_neg hr]

/-- A write of the trip temperature through function 0 (R411, R412). -/
theorem registerWrite_trip {s : State} (hs : s.dev.wbuf = []) (hb : s.dev.board.bootstat ≠ 0) (hst : s.dev.board.stage ≠ 2) (v : W64) :
    exec (.registerWrite 0 0x10010 v) s = .next (
      if 85 ≤ field v 0 8 ∧ field v 0 8 ≤ 115 then s.modBoard fun b => tripJudged { b with thermctl := v &&& 0xFF } else s) := by
  have hread : s.hostRead 0 0x10010 = some s.dev.board.thermctl := by
    simp [State.hostRead, State.deviceRead, hst]
  have hf (x : State) (e : s.deviceReg 0x10010 v = x) (hm : x.mem = s.mem) (hp : x.part = s.part) (hw : x.dev.wbuf = []) :
      exec (.registerWrite 0 0x10010 v) s = .next x := by
    rw [exec_registerWrite, execRegisterWrite]
    refine act_answers ?_ hm hp hw
    rw [if_neg (registerWrite_guard hb (by decide)), show (0x10010 : BitVec 20).toNat = 0x10010 from rfl, hread,
      if_neg (by simp), if_pos rfl, e]
  have hreg := State.deviceReg_trip hst v
  by_cases hr : 85 ≤ field v 0 8 ∧ field v 0 8 ≤ 115
  · rw [if_pos hr] at hreg ⊢
    exact hf _ hreg rfl rfl hs
  · rw [if_neg hr] at hreg ⊢
    exact hf _ hreg rfl rfl hs

/-- Settles O48, clause by clause: the checkpoint by what its moves leave in the tiers, BAR2 by what a byte written there leaves. -/
theorem hostAccesses : Obligations.HostAccesses := by
  unfold Obligations.HostAccesses
  intro s hs
  refine ⟨fun i v back hi hz hj h62 h61 => checkpoint_starts hs i v back hi hz hj h62 h61,
    fun j hj hc he hl _ hw => checkpoint_ends j hj hc he hl hw, fun fn nonce hz hf => attestation_reports hs fn nonce hz hf,
    fun off n p h1 h8 hv hw hb => ?bar2, fun fn off v hb ho hn => registerWrite_unpopulated hs fn v hb ho hn,
    fun t q v h hb => ?registers, fun v hb hst => registerWrite_trip hs hb hst v, fun fn off v ho => registerWrite_unaligned hs fn v ho⟩
  case bar2 =>
    have h : Bar2Up s n := ⟨h1, h8, hb, hv⟩
    refine ⟨fun hin => ?_, fun t v hp hd => bar2_tenantRead h hs hp hd, fun t w f hp hf => bar2_tenantRefused h hs hp hf,
      fun fn w hf => bar2_unsupported h hs hf⟩
    have hp := pfSpan_inside h1 hin
    exact ⟨bar2_read h hs hp, bar2_writes h hs hw hp⟩
  case registers =>
    refine ⟨?_, registerWrite_queue hs h hb q (by decide) rfl rfl v,
      registerWrite_own hs h hb (by decide) (by decide) (by decide) rfl rfl v,
      registerWrite_own hs h hb (by decide) (by decide) (by decide) rfl rfl v, fun k => keyWrite hs h hb k v⟩
    rw [registerWrite_queue hs h hb q (by decide) rfl rfl v]
    simp only [CmdQueue.writeReg, bitAt, abandon_eq, resume_eq]

end Sys2Proof.Machine

/-! The values at reset (R12, R293, R295, R346, R372, R386, R389, R406, R412). -/

namespace Sys2Proof.Machine

/-- Every element of a vector of one value. -/
@[simp] theorem vector_get_replicate {α : Type} {n : Nat} (x : α) (i : Fin n) : (Vector.replicate n x).get i = x :=
  Vector.getElem_replicate i.isLt

/-- Memory at reset reads 0 everywhere (R406, log 3). -/
@[simp] theorem State.reset_read (a : Nat) : State.reset.mem.read a = 0 := rfl

/-- Every core at reset (R295). -/
@[simp] theorem State.reset_core (c : CoreId) : State.reset.core c = Reset.core := vector_get_replicate ..

/-- Every command queue at reset (R346). -/
@[simp] theorem State.reset_cq (t : TenantId) (q : QueueId) : State.reset.cq t q = Reset.queue := vector_get_replicate ..

/-- Every tenant at reset (R322, R369, R389). -/
@[simp] theorem State.reset_tenant (t : TenantId) : State.reset.tenant t = Reset.tenant := vector_get_replicate ..

/-- No tenant has a partition at reset (R383). -/
@[simp] theorem State.reset_part (t : TenantId) : State.reset.part.get t = 0 := vector_get_replicate ..

/-- Partitions without a cluster lie apart. -/
theorem State.partitionsApart_reset : State.reset.PartitionsApart := fun t => by simp [bitAt, partClusters]

/-- The invariant holds at reset. -/
theorem State.inv_reset : State.reset.Inv := ⟨rfl, rfl, State.partitionsApart_reset⟩

/-- Settles O55: each part of the device at reset by what its vector repeats. -/
theorem resetState : Obligations.ResetState := by
  unfold Obligations.ResetState
  refine ⟨State.inv_reset, rfl, State.reset_read, rfl, rfl, rfl, fun n => vector_get_replicate .., fun c => ?_, fun t q => ?_,
    fun t => ?_, fun q => ?_, rfl, rfl⟩
  · rw [State.reset_core]
    exact ⟨rfl, rfl, rfl, rfl, rfl⟩
  · rw [State.reset_cq]
    exact ⟨rfl, rfl, rfl⟩
  · rw [State.reset_tenant]
    exact ⟨rfl, rfl, rfl⟩
  · exact congrArg HwQueue.owner (vector_get_replicate ..)

end Sys2Proof.Machine

/-! Registers after a write, at both levels and at every width (R12, R111, R158, R290). -/

namespace Sys2Proof.Machine

/-- An element of a vector after a write of one. -/
theorem vector_get_set {α : Type} {n : Nat} (v : Vector α n) (i j : Fin n) (x : α) :
    (v.set i.val x i.isLt).get j = if j = i then x else v.get j := by
  split
  · rename_i h
    rw [h, vector_get_set_same]
  · rename_i h
    exact vector_get_set_ne v x h

/-- The number of a bit alone. -/
theorem getLsbD_bitNumber {n i : Nat} (j : Nat) (hi : i < n) : (BitVec.ofNat n (2 ^ i)).getLsbD j = decide (j = i) := by
  rw [BitVec.getLsbD_ofNat, Nat.testBit_two_pow]
  by_cases h : j = i
  · simp [h, hi]
  · simp [h, Ne.symm h]

/-- A bit of a word after a write of one. -/
theorem bitAt_setBit {n : Nat} (w : BitVec n) {i : Nat} (j : Nat) (b : Bool) (hi : i < n) :
    bitAt (setBit w i b) j = if j = i then b else bitAt w j := by
  unfold setBit bitAt
  split
  · rename_i h
    rw [BitVec.getLsbD_or, getLsbD_bitNumber j hi]
    by_cases hj : j = i <;> simp [hj, h]
  · rename_i h
    rw [BitVec.getLsbD_and, BitVec.getLsbD_not, getLsbD_bitNumber j hi]
    by_cases hj : j = i
    · simp [hj, h]
    · simpa [hj] using BitVec.lt_of_getLsbD

/-- Of a register merged from two, the low `n` bits are the new ones (R158). -/
theorem getLsbD_mergeLow {w n : Nat} (old new : BitVec w) {j : Nat} (hj : j < w) :
    (mergeLow n old new).getLsbD j = if j < n then new.getLsbD j else old.getLsbD j := by
  unfold mergeLow
  rw [BitVec.getLsbD_ofNat, Nat.mul_comm, Nat.testBit_two_pow_mul_add _ (Nat.mod_lt _ (Nat.two_pow_pos n))]
  simp only [hj, decide_true, Bool.true_and, Nat.testBit_mod_two_pow, Nat.testBit_div_two_pow]
  split
  · rename_i h
    simp [h, BitVec.getLsbD]
  · rename_i h
    rw [Nat.sub_add_cancel (by omega)]
    rfl

/-! ## Scalar registers (R12, R290) -/

section
variable (k : Core)

/-- A write to s0 is discarded. -/
@[simp] theorem Core.setS_zero (b : Bool) (w : W64) : k.setS 0 b w = k := rfl

/-- s0 belongs to no bank. -/
theorem ne_zero_of_isBanked {b : Bool} {r : BitVec 6} (h : isBanked b r = true) : r ≠ 0 := by
  rintro rfl
  simp [isBanked] at h

/-- A write to s48 to s63 at supervisor level. -/
theorem Core.setS_banked {b : Bool} {r : BitVec 6} (h : isBanked b r = true) (w : W64) : k.setS r b w =
    { k with sv := { k.sv with s := k.sv.s.set ((r.toNat - 48) % 16) w (Nat.mod_lt _ (by decide)) } } := by
  rw [Core.setS, if_neg (ne_zero_of_isBanked h)]
  exact if_pos h

/-- A write to any other scalar register than s0. -/
theorem Core.setS_user {b : Bool} {r : BitVec 6} (h0 : r ≠ 0) (h : isBanked b r = false) (w : W64) :
    k.setS r b w = k.modCtx fun c => { c with s := c.s.set r.toNat w r.isLt } := by
  rw [Core.setS, if_neg h0]
  exact if_neg (by rw [show (b && decide (48 ≤ r.toNat)) = false from h]; decide)

/-- A read of s48 to s63 at supervisor level. -/
theorem Core.sreg_banked {r : BitVec 6} (h : isBanked k.priv r = true) :
    k.sreg r = k.sv.s.get ⟨(r.toNat - 48) % 16, Nat.mod_lt _ (by decide)⟩ := by
  rw [Core.sreg, if_neg (ne_zero_of_isBanked h)]
  exact if_pos h

/-- A read of any other scalar register than s0. -/
theorem Core.sreg_user {r : BitVec 6} (h0 : r ≠ 0) (h : isBanked k.priv r = false) : k.sreg r = k.ctx.s.get r.toFin := by
  rw [Core.sreg, if_neg h0]
  exact if_neg (by rw [show (k.priv && decide (48 ≤ r.toNat)) = false from h]; decide)

/-- A write of a scalar register keeps the level. -/
@[simp] theorem Core.setS_priv (r : BitVec 6) (b : Bool) (w : W64) : (k.setS r b w).priv = k.priv := by
  unfold Core.setS
  split
  · rfl
  · split <;> rfl

/-- A register of the supervisor's bank, by its place there. -/
theorem banked_eq_iff {b c : Bool} {r q : BitVec 6} (hr : isBanked b r = true) (hq : isBanked c q = true) :
    (q.toNat - 48) % 16 = (r.toNat - 48) % 16 ↔ q = r := by
  simp only [isBanked, Bool.and_eq_true, decide_eq_true_eq] at hr hq
  rw [← BitVec.toNat_inj]
  omega

/-- A scalar register as the running level sees it, after a write of one at a level: the same one when it is the same number of the
same bank. -/
theorem Core.sreg_setS (r q : BitVec 6) (b : Bool) (w : W64) : (k.setS r b w).sreg q =
    if q ≠ 0 ∧ q = r ∧ isBanked k.priv q = isBanked b r then w else k.sreg q := by
  by_cases hr : r = 0
  · rw [hr, Core.setS_zero, if_neg (fun h => h.1 h.2.1)]
  by_cases hq : q = 0
  · rw [if_neg (fun h => h.1 hq), hq]
    rfl
  have hp : (k.setS r b w).priv = k.priv := Core.setS_priv ..
  cases hbr : isBanked b r <;> cases hbq : isBanked k.priv q
  · rw [Core.sreg_user _ hq (hp ▸ hbq), Core.sreg_user _ hq hbq, Core.setS_user _ hr hbr]
    refine (vector_get_set k.ctx.s r.toFin q.toFin w).trans ?_
    simp only [ne_eq, hq, not_false_eq_true, true_and, and_true]
    exact if_congr BitVec.toFin_inj rfl rfl
  · rw [Core.sreg_banked _ (hp ▸ hbq), Core.sreg_banked _ hbq, Core.setS_user _ hr hbr, if_neg (by simp)]
    rfl
  · rw [Core.sreg_user _ hq (hp ▸ hbq), Core.sreg_user _ hq hbq, Core.setS_banked _ hbr, if_neg (by simp)]
  · rw [Core.sreg_banked _ (hp ▸ hbq), Core.sreg_banked _ hbq, Core.setS_banked _ hbr]
    refine (vector_get_set k.sv.s ⟨_, Nat.mod_lt _ (by decide)⟩ ⟨_, Nat.mod_lt _ (by decide)⟩ w).trans ?_
    simp only [Fin.mk.injEq, banked_eq_iff hbr hbq, ne_eq, hq, not_false_eq_true, true_and, and_true]

/-! ## Predicates (R12, R290) -/

/-- Is a predicate the supervisor's own copy (R290)? -/
def isBankedP (bank : Bool) (p : BitVec 4) : Bool := bank && 12 ≤ p.toNat

/-- p0 belongs to no bank. -/
theorem ne_zero_of_isBankedP {b : Bool} {p : BitVec 4} (h : isBankedP b p = true) : p ≠ 0 := by
  rintro rfl
  simp [isBankedP] at h

/-- A write to p0 is discarded. -/
@[simp] theorem Core.setP_zero (b v : Bool) : k.setP 0 b v = k := rfl

/-- A write to p12 to p15 at supervisor level. -/
theorem Core.setP_banked {b : Bool} {p : BitVec 4} (h : isBankedP b p = true) (v : Bool) :
    k.setP p b v = { k with sv := { k.sv with p := setBit k.sv.p (p.toNat - 12) v } } := by
  rw [Core.setP, if_neg (ne_zero_of_isBankedP h)]
  exact if_pos h

/-- A write to any other predicate than p0. -/
theorem Core.setP_user {b : Bool} {p : BitVec 4} (h0 : p ≠ 0) (h : isBankedP b p = false) (v : Bool) :
    k.setP p b v = k.modCtx fun c => { c with p := setBit c.p p.toNat v } := by
  rw [Core.setP, if_neg h0]
  exact if_neg (by rw [show (b && decide (12 ≤ p.toNat)) = false from h]; decide)

/-- A read of p12 to p15 at supervisor level. -/
theorem Core.pred_banked {p : BitVec 4} (h : isBankedP k.priv p = true) : k.pred p = bitAt k.sv.p (p.toNat - 12) := by
  rw [Core.pred, if_neg (ne_zero_of_isBankedP h)]
  exact if_pos h

/-- A read of any other predicate than p0. -/
theorem Core.pred_user {p : BitVec 4} (h0 : p ≠ 0) (h : isBankedP k.priv p = false) : k.pred p = bitAt k.ctx.p p.toNat := by
  rw [Core.pred, if_neg h0]
  exact if_neg (by rw [show (k.priv && decide (12 ≤ p.toNat)) = false from h]; decide)

/-- A write of a predicate keeps the level. -/
@[simp] theorem Core.setP_priv (p : BitVec 4) (b v : Bool) : (k.setP p b v).priv = k.priv := by
  unfold Core.setP
  split
  · rfl
  · split <;> rfl

/-- A predicate as the running level sees it, after a write of one at that level. -/
theorem Core.pred_setP (p q : BitVec 4) (v : Bool) :
    (k.setP p k.priv v).pred q = if q = p ∧ p ≠ 0 then v else k.pred q := by
  by_cases hp0 : p = 0
  · rw [hp0, Core.setP_zero, if_neg (fun h => h.2 rfl)]
  by_cases hq : q = 0
  · rw [if_neg (fun h : q = p ∧ p ≠ 0 => hp0 (h.1 ▸ hq)), hq]
    rfl
  have hp : isBankedP (k.setP p k.priv v).priv q = isBankedP k.priv q := by rw [Core.setP_priv]
  have hqp : q.toNat = p.toNat ↔ q = p := BitVec.toNat_inj
  cases hbp : isBankedP k.priv p <;> cases hbq : isBankedP k.priv q
  · rw [Core.pred_user _ hq (hp.trans hbq), Core.pred_user _ hq hbq, Core.setP_user _ hp0 hbp]
    refine (bitAt_setBit k.ctx.p q.toNat v p.isLt).trans ?_
    simp only [hqp, ne_eq, hp0, not_false_eq_true, and_true]
  · rw [Core.pred_banked _ (hp.trans hbq), Core.pred_banked _ hbq, Core.setP_user _ hp0 hbp, if_neg]
    · rfl
    · rintro ⟨rfl, -⟩
      simp [hbp] at hbq
  · rw [Core.pred_user _ hq (hp.trans hbq), Core.pred_user _ hq hbq, Core.setP_banked _ hbp, if_neg]
    rintro ⟨rfl, -⟩
    simp [hbp] at hbq
  · rw [Core.pred_banked _ (hp.trans hbq), Core.pred_banked _ hbq, Core.setP_banked _ hbp]
    simp only [isBankedP, Bool.and_eq_true, decide_eq_true_eq] at hbp hbq
    have hpq : q.toNat - 12 = p.toNat - 12 ↔ q = p := by rw [← hqp]; omega
    refine (bitAt_setBit k.sv.p (q.toNat - 12) v (by have := p.isLt; omega)).trans ?_
    simp only [hpq, ne_eq, hp0, not_false_eq_true, and_true]

/-! ## The three clauses -/

/-- R12, R111, R290: registers read as they were written, and the others as before. -/
theorem registerReadAfterWrite : Claims.RegisterReadAfterWrite := by
  refine ⟨fun k r q w => ?_, fun k r q b => Core.pred_setP k r q b, fun k => ⟨rfl, rfl⟩, fun k r b w h => ?_, fun k p b v h => ?_⟩
  · rw [Core.sreg_setS]
    refine if_congr ⟨?_, ?_⟩ rfl rfl
    · rintro ⟨h0, rfl, -⟩
      exact ⟨rfl, h0⟩
    · rintro ⟨rfl, h0⟩
      exact ⟨h0, rfl, rfl⟩
  · rw [h, Core.setS_zero]
  · rw [h, Core.setP_zero]

/-- R290: whose registers a write at a level changes. -/
theorem supervisorBank : Claims.SupervisorBank := by
  refine ⟨fun k r w h => ?_, fun k p v h => ?_, fun k r b w h => ?_, fun k p b v h => ?_⟩
  · rw [Core.setS_banked k (by simpa [isBanked] using h)]
  · rw [Core.setP_banked k (by simpa [isBankedP] using h)]
  · by_cases h0 : r = 0
    · rw [h0, Core.setS_zero]
    · rw [Core.setS_user k h0 (by simpa [isBanked, imp_iff_not_or] using h), Core.modCtx_sv]
  · by_cases h0 : p = 0
    · rw [h0, Core.setP_zero]
    · rw [Core.setP_user k h0 (by simpa [isBankedP, imp_iff_not_or] using h), Core.modCtx_sv]

/-- R158: what a result of a width leaves of a vector or mask register. -/
theorem partialWidthLanding : Claims.PartialWidthLanding := by
  refine ⟨fun k r wd v n hn => ?_, fun k r q wd v h => ?_, fun k r wd v n hn => ?_⟩
  · rw [show (k.setV r wd v).ctx.v.get r.toFin = _ from vector_get_set_same k.ctx.v r.toFin _]
    exact getLsbD_mergeLow _ _ hn
  · exact vector_get_set_ne k.ctx.v (i := r.toFin) _ (fun e => h (BitVec.toFin_inj.1 e))
  · rw [show (k.setM r wd v).ctx.m.get r.toFin = _ from vector_get_set_same k.ctx.m r.toFin _]
    exact getLsbD_mergeLow _ _ hn

end

/-- Settles O15: the writes one by one, by the bank they go to. -/
theorem registerFiles : Obligations.RegisterFiles := ⟨registerReadAfterWrite, supervisorBank, partialWidthLanding⟩

end Sys2Proof.Machine

/-! What the syllables of the control slot share: their immediates, their trap, and a transfer (R107, R128, R150, R297). -/

namespace Sys2Proof.Machine

open Sys2Proof.Claims

/-! ## Immediates (R107, R128) -/

/-- A number that the low bits of a word spell as a signed field. -/
theorem sgn_toNat {w : Nat} (v : BitVec w) : sgn w v.toNat = v.toInt := by
  have := v.isLt
  rw [sgn, Nat.mod_eq_of_lt this, BitVec.toInt_eq_toNat_cond]
  rcases w with _ | w
  · simp
  · rw [Nat.add_sub_cancel, Nat.pow_succ]
    push_cast
    split <;> split <;> omega

/-- An integer scaled by a power of two, as a word. -/
theorem ofI_mul_pow (n : Int) (k : Nat) : ofI (n * 2 ^ k) = ofI n <<< k := by
  rw [ofI, ofI, BitVec.ofInt_mul, BitVec.shiftLeft_eq_mul_twoPow]
  congr 1
  rw [show (2 : Int) ^ k = ((2 ^ k : Nat) : Int) by push_cast; rfl, BitVec.ofInt_natCast]
  exact BitVec.eq_of_toNat_eq (by simp [BitVec.toNat_twoPow])

/-- A number scaled by a power of two, as a word. -/
theorem w64_mul_pow (n k : Nat) : w64 (n * 2 ^ k) = w64 n <<< k := by
  rw [w64, w64, BitVec.ofNat_mul, BitVec.shiftLeft_eq_mul_twoPow]
  exact congrArg _ (BitVec.eq_of_toNat_eq (by simp [BitVec.toNat_twoPow]))

/-- A signed immediate extended by IX. -/
theorem ofI_immS {w : Nat} (x : Lent) (v : BitVec w) : ofI (immS x v) = extS x v := by
  rw [immS, ofI, BitVec.ofInt_add]
  refine congrArg (v.signExtend 64 + ·) ((ofI_mul_pow _ _).trans (congrArg (fun b : W64 => b <<< w) ?_))
  unfold Lent.ixBits
  split
  · rw [← BitVec.toNat_setWidth, sgn_toNat]
    rfl
  · rw [Nat.mod_eq_of_lt x.ix.isLt, sgn_toNat]
    rfl

/-- An unsigned immediate extended by IX. -/
theorem w64_immU {w : Nat} (x : Lent) (v : BitVec w) : w64 (immU x v) = extU x v := by
  rw [immU, w64, BitVec.ofNat_add]
  refine congrArg₂ (· + ·) (BitVec.ofNat_toNat ..) ((w64_mul_pow _ _).trans (congrArg (fun b : W64 => b <<< w) ?_))
  unfold Lent.ixBits
  split
  · rw [← BitVec.toNat_setWidth]
    exact BitVec.ofNat_toNat ..
  · rw [Nat.mod_eq_of_lt x.ix.isLt]
    exact BitVec.ofNat_toNat ..

/-- The target of a relative transfer (R147). -/
theorem relTarget_immS (s : State) {w : Nat} (x : Lent) (disp : BitVec w) : s.relTarget (immS x disp) = relative s x disp := by
  rw [State.relTarget, relative, ← ofI_immS]
  exact congrArg (s.me.bun.base + ·) (ofI_mul_pow _ 2)

/-! ## Syllables without a vector source -/

/-- The operands of a scalar source name no vector register. -/
@[simp] theorem Uses.s_vs (u : Uses) (a : SSrc) : (u.s a).vs = u.vs := by cases a <;> rfl

/-- The operands of a scalar register name no vector register. -/
@[simp] theorem Uses.r_vs (u : Uses) (r : BitVec 6) : (u.r r).vs = u.vs := rfl

/-- No operand names no vector register. -/
@[simp] theorem Uses.none_vs : Uses.none.vs = [] := rfl

/-- A syllable that passes its checks, names no vector source and writes no byte. -/
theorem act_syl_answers {x : Lent} {u : Uses} {s t : State} {body : State → State} (h : s.Ready x u) (hv : u.vs = [])
    (hb : body s = t) (hm : t.mem = s.mem) (hp : t.part = s.part) (hw : t.dev.wbuf = []) : act (syl x u body) s = .next t :=
  act_answers ((syl_ready h hv body).trans hb) hm hp hw

/-- A syllable that passes its checks, names no vector source and changes the acting core alone. -/
theorem act_syl {x : Lent} {u : Uses} {s : State} {body : State → State} {g : Core → Core} (hs : s.dev.wbuf = [])
    (h : s.Ready x u) (hv : u.vs = []) (hb : body s = s.modMe g) : act (syl x u body) s = .next (s.modMe g) :=
  act_me hs ((syl_ready h hv body).trans hb)

/-- A syllable that passes its checks, names no vector source and changes nothing. -/
theorem act_syl_same {x : Lent} {u : Uses} {s : State} {body : State → State} (hs : s.dev.wbuf = []) (h : s.Ready x u)
    (hv : u.vs = []) (hb : body s = s) : act (syl x u body) s = .next s :=
  act_same hs ((syl_ready h hv body).trans hb)

/-- Changes of the acting core that agree on it are one. -/
theorem State.modMe_congr {s : State} {f g : Core → Core} (h : f s.me = g s.me) : s.modMe f = s.modMe g := by
  have h' : f (s.dev.cores.get s.dev.cur.core) = g (s.dev.cores.get s.dev.cur.core) := h
  simp only [State.modMe, State.modCore, State.upd, h']

/-! ## Traps (R291, R297) -/

/-- What a trap leaves. -/
theorem State.trap_eq (s : State) (chk code : Nat) (a : W64) : s.trap chk code a = trapped s chk code a := by
  unfold State.trap trapped
  refine congrArg s.modMe (funext fun k => ?_)
  unfold Core.trap Core.stop Core.priv
  split <;> rfl

/-- A trap keeps the context. -/
@[simp] theorem trapped_ctx (s : State) (chk code : Nat) (a : W64) : (trapped s chk code a).me.ctx = s.me.ctx := by
  rw [trapped, State.me_modMe]
  cases s.me.priv <;> simp

/-- A trap at user level takes CYCLE's copy. -/
theorem trapped_sv (s : State) (chk code : Nat) (a : W64) :
    (trapped s chk code a).me.sv = if s.me.priv then s.me.sv else { s.me.sv with cycAt := s.me.clk.cycle } := by
  rw [trapped, State.me_modMe]
  cases s.me.priv <;> simp

/-- A trap stops the core before its bundle, or halts it. -/
theorem trapped_run (s : State) (chk code : Nat) (a : W64) : (trapped s chk code a).me.run = if s.me.priv then .halted else
    .stopping { chk := chk, epc := s.me.bun.base, scause := w64 code, sfaddr := a, sfinfo := 0 } := by
  rw [trapped, State.me_modMe]
  cases s.me.priv <;> simp

/-- A trap keeps the accesses on their way. -/
@[simp] theorem trapped_ops (s : State) (chk code : Nat) (a : W64) : (trapped s chk code a).me.ops = s.me.ops := by
  rw [trapped, State.me_modMe]
  cases s.me.priv <;> simp

/-- A syllable traps with no effect beside its bundle's when the state that it traps in has the registers, the accesses and the memory
of the one it began in. -/
theorem traps_of_trapped {i : Instr} {s u : State} {code : Nat} {a : W64} (h : exec i s = .next (trapped u 7 code a))
    (hr : SameRegisters s u) (hbase : u.me.bun.base = s.me.bun.base) (hclk : u.me.clk = s.me.clk) (ho : u.me.ops = s.me.ops)
    (hw : u.dev.writes = s.dev.writes) (hm : u.mem = s.mem) : Traps i s code a := by
  obtain ⟨h1, h2, h3, h4, h5, h6, h7, h8, h9, h10, h11, hsv, hp⟩ := hr
  have hpriv : u.me.priv = s.me.priv := congrArg SvRegs.priv hsv
  refine ⟨_, h, ?_, ?_, (trapped_ops ..).trans ho, hw, hm⟩
  · rw [trapped_run, trapped_run, hpriv, hbase]
  · simp only [SameRegisters, trapped_ctx, trapped_sv, hpriv, hclk, hsv]
    exact ⟨h1, h2, h3, h4, h5, h6, h7, h8, h9, h10, h11, trivial, hp⟩

/-- What ILLEGAL_OPCODE at the syllable's address leaves. -/
theorem State.trapAt_illegal (s : State) : s.trapAt cIllegalOpcode = illegal s := State.trap_eq ..

/-- A syllable that traps once it has passed its checks. -/
theorem act_syl_trap {x : Lent} {u : Uses} {s : State} {body : State → State} {chk code : Nat} {a : W64} (hs : s.dev.wbuf = [])
    (h : s.Ready x u) (hv : u.vs = []) (hb : body s = s.trap chk code a) :
    act (syl x u body) s = .next (trapped s chk code a) :=
  act_syl hs h hv (hb.trans (State.trap_eq ..))

/-! ## Transfers (R16, R114, R117, R150) -/

/-- A transfer to an aligned target. -/
theorem State.transfer_aligned (s : State) {t : W64} (h : t.toNat % 4 = 0) (n : Nat) : s.transfer t n = transferred s t n := by
  rw [State.transfer, if_neg (not_not.2 h)]
  rfl

/-- A transfer to a target that is not aligned. -/
theorem State.transfer_misaligned (s : State) {t : W64} (h : t.toNat % 4 ≠ 0) (n : Nat) :
    s.transfer t n = s.trap 7 cInstrAlign t := by
  rw [State.transfer, if_pos h]

end Sys2Proof.Machine

/-! What a core reads where none of its own writes stands in the way (R75, R80), and bytes of its local store. -/

namespace Sys2Proof.Machine

open Sys2Proof.Claims

/-- With nothing written in the step, a place that no key shows reads as memory has it. -/
theorem State.peek_clean {s : State} (hs : s.dev.wbuf = []) {a : Nat} (h : a < 2 ^ 70) : s.peek a = s.mem.read a := by
  rw [State.peek, if_pos h, State.cell, hs]
  rfl

/-- With nothing written in the step, bytes of places that no key shows read as memory has them. -/
theorem State.peeks_clean {s : State} (hs : s.dev.wbuf = []) {a n : Nat} (h : a + n ≤ 2 ^ 70) :
    s.peeks a n = (addrs a n).map s.mem.read :=
  List.map_congr_left fun c hc => State.peek_clean hs (by have := mem_addrs.1 hc; omega)

/-- A fold that keeps none at each element of a list. -/
theorem foldl_none {α β : Type} {f : Option β → α → Option β} {l : List α} (h : ∀ e ∈ l, f none e = none) :
    l.foldl f none = none := by
  induction l with
  | nil => rfl
  | cons e l ih =>
    rw [List.foldl_cons, h e (by simp)]
    exact ih fun x hx => h x (by simp [hx])

/-- The core sees nothing of its own on its way at an address: no write is on its way, and no entry of a write stream that it pushed
before lies there. -/
theorem State.ownByte_none {s : State} {c : CoreId} {seq va : Nat} (hw : s.dev.writes = [])
    (he : ∀ e ∈ (s.core c).wents, seq ≤ e.seq ∨ ¬ (e.va ≤ va ∧ va < e.va + e.len)) (pa : Nat) : s.ownByte c seq va pa = none := by
  have hn : ∀ e ∈ (s.core c).wents, e.seenAt s seq va = none := fun e hm => by
    unfold WEnt.seenAt WEnt.byteAt
    rcases he e hm with h | h
    · rw [if_neg (fun hc => by omega)]
    · rw [if_neg h, ite_self]
  unfold State.ownByte
  rw [hw]
  simp only [List.foldl_nil]
  rw [foldl_none fun e hm => by rw [hn e hm]]

/-- A core reads what stands at a place where nothing of its own is on its way to it. -/
theorem State.readPart_quiet {s : State} {c : CoreId} {seq pa : Nat} {p : Part} (hp : p.pa = some pa) (hw : s.dev.writes = [])
    (he : ∀ e ∈ (s.core c).wents, seq ≤ e.seq ∨ e.overlaps p.va p.len = false) (hr : rowOf p.va ≠ .vlat) :
    s.readPart c seq p = s.peeks pa p.len := by
  unfold State.readPart
  split
  · contradiction
  · rw [hp]
    simp only
    split
    · rfl
    · refine List.ext_getElem (by simp [State.peeks, addrs_eq_range']) fun i hi _ => ?_
      have hin : i < p.len := by simpa using hi
      have ho : s.ownByte c seq (p.va + i) (pa + i) = none := State.ownByte_none hw (fun e hm => by
        refine (he e hm).imp_right fun h hc => ?_
        simp only [WEnt.overlaps, Bool.and_eq_false_iff, decide_eq_false_iff_not] at h
        omega) _
      simp [State.seen, ho, hw, latestByte, State.peeks, addrs_eq_range']

/-- The places of the local store are places that no key shows. -/
theorem lsPlace_lt (s : State) {a : Nat} (h : a < Config.vaLimit) : lsPlace s a < 2 ^ 60 := by
  have := s.dev.cur.core.isLt
  simp only [lsPlace, lsAddr, Config.lsAt, Config.lsBase, Config.vaLimit] at *
  omega

/-- The rows of the map, in order. -/
theorem rowOf_ls {a : Nat} : rowOf a = .ls ↔ Config.lsBase ≤ a ∧ a < Config.vaLimit := by
  unfold rowOf Config.vaultBase Config.vaultEnd Config.vlatEnd Config.lsBase Config.vaLimit
  split
  · simp; omega
  · split
    · simp; omega
    · split
      · simp; omega
      · split
        · simp; omega
        · split
          · simp; omega
          · simp; omega

/-- A span of the local store. -/
theorem rowSpan_ls {a n : Nat} (hn : 0 < n) : rowSpan a n = .ls ↔ Config.lsBase ≤ a ∧ a + n ≤ Config.vaLimit := by
  have h0 : n ≠ 0 := by omega
  have hl : Config.vaLimit ≤ 2 ^ 64 := by decide
  unfold rowSpan
  rw [if_neg h0]
  constructor
  · intro h
    split at h
    · cases h
    · split at h
      · rename_i he
        have h1 := rowOf_ls.1 h
        have h2 := rowOf_ls.1 (he ▸ h)
        omega
      · cases h
  · rintro ⟨h1, h2⟩
    have ha := rowOf_ls.2 ⟨h1, (by omega : a < Config.vaLimit)⟩
    rw [if_neg (by omega), ha, rowOf_ls.2 ⟨(by omega : Config.lsBase ≤ a + n - 1), by omega⟩, if_pos rfl]

/-- The core reads bytes of its local store as memory has them, where nothing of its own is on its way to them. -/
theorem State.readPart_local {s : State} {seq a n : Nat} {sc : Bool} (hs : s.dev.wbuf = []) (h1 : Config.lsBase ≤ a)
    (h2 : a + n ≤ Config.vaLimit) (hn : 0 < n) (hw : s.dev.writes = [])
    (he : ∀ e ∈ s.me.wents, seq ≤ e.seq ∨ e.overlaps a n = false) :
    s.readPart s.dev.cur.core seq { va := a, len := n, pa := some (lsPlace s a), sc := sc } =
      (addrs (lsPlace s a) n).map s.mem.read := by
  have hr : rowOf a = .ls := rowOf_ls.2 ⟨h1, by omega⟩
  refine (State.readPart_quiet (p := { va := a, len := n, pa := some (lsPlace s a), sc := sc }) rfl hw he (by simp [hr])).trans
    (State.peeks_clean hs ?_)
  have := lsPlace_lt s (a := a) (by omega)
  change lsPlace s a + n ≤ 2 ^ 70
  simp only [Config.lsBase, Config.vaLimit] at h1 h2
  omega

end Sys2Proof.Machine

/-! Branches, calls, returns, loops, `bsel`, `pause`, `exit` and the header (R30 to R32, R106, R119, R147 to R157). -/

namespace Sys2Proof.Machine

open Sys2Proof.Claims

/-! ## The loop stack at the end of a bundle (R31) -/

/-- The model evaluates the levels, innermost first, by the rule. -/
theorem evalLoops_eq {base : W64} {l ls : List LoopLevel} {t : Option W64} (h : LoopEval base l ls t) : evalLoops base l = (ls, t) := by
  induction h with
  | done => rfl
  | other l ls hs => rw [evalLoops, if_pos hs]
  | back l ls hs hi => rw [evalLoops, if_neg (not_not.2 hs), if_pos hi]
  | pop l ls ls' t hs hi _ ih => rw [evalLoops, if_neg (not_not.2 hs), if_neg (by omega), ih]

/-- Settles O9, by induction on the rule. -/
theorem loopBackEvaluation : Obligations.LoopBackEvaluation := by
  unfold Obligations.LoopBackEvaluation
  intro k ls t hp h
  have he := evalLoops_eq h
  unfold Core.advance
  simp only [hp, Bool.false_eq_true, if_false, he]
  cases t <;> simp

/-! ## Jumps (R117, R147, R149, R150) -/

/-- The link of a call, with room for it (R149). -/
theorem State.link_room {s : State} (h : s.Room) : s.link = s.issues (linkDue s) := State.result_room h _

/-- A result that is issued keeps the core live. -/
theorem State.live_issues (s : State) (f : Flight) : (s.issues f).live = s.live := by
  simp [State.live, State.issues]

/-- A result of the syllable keeps its bundle's address. -/
theorem State.result_base (s : State) (f : Flight) : (s.result f).me.bun.base = s.me.bun.base := by
  unfold State.result
  split
  · rw [State.trapAt, State.trap, State.me_modMe]
    rfl
  · rw [State.me_modMe]
    rfl

theorem exec_br (x : Lent) (disp : BitVec 23) (s : State) : exec (.br x disp) s = execBr x disp s := rfl
theorem exec_call (x : Lent) (disp : BitVec 23) (s : State) : exec (.call x disp) s = execCall x disp s := rfl
theorem exec_bri (x : Lent) (a : SSrc) (s : State) : exec (.bri x a) s = execBri x a s := rfl
theorem exec_calli (x : Lent) (a : SSrc) (s : State) : exec (.calli x a) s = execCalli x a s := rfl
theorem exec_ret (x : Lent) (a : SSrc) (s : State) : exec (.ret x a) s = execRet x a s := rfl

/-- What a jump does once it has passed its checks: the link, if it writes one, and the transfer. -/
theorem exec_jump {i : Instr} {s : State} {x : Lent} {u : Uses} {t : W64} {n : Nat} {link : Bool}
    (h : jumpRow s i = some (x, u, t, n, link)) : u.vs = [] ∧ ∃ body, exec i s = act (syl x u body) s ∧
      body s = if link then s.link.andThen fun r => r.transfer t n else s.transfer t n := by
  unfold jumpRow at h
  split at h <;> simp only [Option.some.injEq, Prod.mk.injEq, reduceCtorEq] at h <;> obtain ⟨rfl, rfl, rfl, rfl, rfl⟩ := h
  · exact ⟨rfl, _, exec_br .., by simp only [Bool.false_eq_true, if_false, relTarget_immS]⟩
  · refine ⟨rfl, _, exec_call .., ?_⟩
    have hb : s.link.me.bun.base = s.me.bun.base := State.result_base ..
    have ht : ∀ y : Lent, ∀ d : BitVec 23, relative s.link y d = relative s y d := fun y d => by rw [relative, hb, relative]
    simp only [State.andThen, relTarget_immS, ht, if_true]
  · exact ⟨by simp, _, exec_bri .., rfl⟩
  · exact ⟨by simp, _, exec_ret .., rfl⟩
  · exact ⟨by simp, _, exec_calli .., rfl⟩

/-- R147, R149, R150: a jump to an aligned target. -/
theorem jumpsToAlignedTargets : Claims.JumpsToAlignedTargets := by
  intro i s x u t n link h _ hs hr hl hroom ht
  obtain ⟨hv, body, he, hb⟩ := exec_jump h
  rw [he]
  cases link with
  | false => exact act_syl hs hr hv (hb.trans (State.transfer_aligned s ht n))
  | true =>
    refine act_syl_answers hr hv ?_ rfl rfl hs
    rw [hb, if_pos rfl, if_pos rfl, State.link_room (hroom rfl), State.andThen, if_pos ((State.live_issues ..).trans hl),
      State.transfer_aligned _ ht]

/-- R117: a jump without a link to a target that is not aligned. -/
theorem jump_misaligned {i : Instr} {s : State} {x : Lent} {u : Uses} {t : W64} {n : Nat} (h : jumpRow s i = some (x, u, t, n, false))
    (hs : s.dev.wbuf = []) (hr : s.Ready x u) (ht : t.toNat % 4 ≠ 0) : exec i s = .next (trapped s 7 0x01 t) := by
  obtain ⟨hv, body, he, hb⟩ := exec_jump h
  rw [he]
  exact act_syl_trap hs hr hv (hb.trans (State.transfer_misaligned s ht n))

/-- R117, R149: a call to a target that is not aligned. -/
theorem call_misaligned {i : Instr} {s : State} {x : Lent} {u : Uses} {t : W64} {n : Nat} (h : jumpRow s i = some (x, u, t, n, true))
    (hs : s.dev.wbuf = []) (hr : s.Ready x u) (hl : s.live = true) (hroom : s.Room) (ht : t.toNat % 4 ≠ 0) : Traps i s 0x01 t := by
  obtain ⟨hv, body, he, hb⟩ := exec_jump h
  have hb' : body s = trapped (s.issues (linkDue s)) 7 0x01 t := by
    rw [hb, if_pos rfl, State.link_room hroom, State.andThen, if_pos ((State.live_issues ..).trans hl),
      State.transfer_misaligned _ ht, State.trap_eq]
    rfl
  have hme : (s.issues (linkDue s)).me = s.me.addFlight (linkDue s) := State.me_modMe ..
  refine traps_of_trapped (he.trans (act_syl_answers hr hv hb' rfl rfl hs)) ?_ ?_ ?_ ?_ rfl rfl
  · simp only [SameRegisters, hme, Core.addFlight_ctx, Core.addFlight_sv, true_and]
    rfl
  · rw [hme, Core.addFlight_bun]
  · rw [hme, Core.addFlight_clk]
  · rw [hme, Core.addFlight_ops]

/-! ## `bsel` (R32, R76, R155) -/

theorem exec_bsel (x : Lent) (a : SSrc) (s : State) : exec (.bsel x a) s = execBsel x a s := rfl

/-- The bucket of R32 is one of 64. -/
theorem bucket_lt (occ draft : Nat) : bucket occ draft < 64 := by
  unfold bucket
  split <;> omega

/-- The entry that a `bsel` reads, where nothing is on its way to the local store (R155). -/
theorem State.selEntry_quiet {s : State} (hs : s.dev.wbuf = []) (hq : Quiet s) (a : SSrc) {base : Nat}
    (hbase : base = (s.src a).toNat / 8 * 8) (hrow : rowSpan base 512 = .ls) :
    s.selEntry a = w64 (memNat s (lsPlace s (base + 8 * bucket s.me.ctx.occ.toNat s.me.ctx.draft.toNat)) 8) := by
  obtain ⟨-, hw, hwr⟩ := hq
  obtain ⟨h1, h2⟩ := (rowSpan_ls (by decide)).1 hrow
  have hlt := bucket_lt s.me.ctx.occ.toNat s.me.ctx.draft.toNat
  subst hbase
  refine congrArg (fun l => w64 (leNat l))
    (State.readPart_local (a := (s.src a).toNat / 8 * 8 + 8 * bucket s.me.ctx.occ.toNat s.me.ctx.draft.toNat) hs ?_ ?_ (by decide) hwr
      (by simp [hw]))
  · omega
  · omega

/-- The entry that `bsel` takes: the one that the core keeps, or the one in memory (R76, R155). -/
theorem State.selEntry_getD {s : State} (hs : s.dev.wbuf = []) (a : SSrc) {base at_ : Nat} {t : W64}
    (hbase : base = (s.src a).toNat / 8 * 8) (hat : at_ = base + 8 * bucket s.me.ctx.occ.toNat s.me.ctx.draft.toNat)
    (hrow : rowSpan base 512 = .ls)
    (h : s.me.bun.entry = some t ∨ (s.me.bun.entry = none ∧ Quiet s ∧ t = w64 (memNat s (lsPlace s at_) 8))) :
    s.me.bun.entry.getD (s.selEntry a) = t := by
  rcases h with h | ⟨h, hq, ht⟩
  · rw [h]
    rfl
  · rw [h, ht, hat]
    exact State.selEntry_quiet hs hq a hbase hrow

/-- A `bsel` whose table lies in the local store. -/
theorem exec_bsel_table {s : State} {x : Lent} {a : SSrc} (hr : s.Ready x (Uses.none.s a))
    (hrow : rowSpan ((s.src a).toNat / 8 * 8) 512 = .ls) {t : W64} (ht : s.me.bun.entry.getD (s.selEntry a) = t) {u : State}
    (hu : s.transfer t 6 = u) (hm : u.mem = s.mem) (hp : u.part = s.part) (hw : u.dev.wbuf = []) :
    exec (.bsel x a) s = .next u := by
  rw [exec_bsel, execBsel]
  refine act_syl_answers hr (by simp) ?_ hm hp hw
  rw [← hu, ← ht]
  exact if_neg (not_not.2 hrow)

/-- R117: targets that are not aligned. -/
theorem misalignedTargetTraps : Claims.MisalignedTargetTraps := by
  refine ⟨fun i s x u t n h _ hs hr ht => jump_misaligned h hs hr ht,
    fun i s x u t n h _ hs hr hl hroom ht => call_misaligned h hs hr hl hroom ht,
    fun s x a base at_ t hs hr hbase hat hrow he ht => ?_⟩
  have h := State.selEntry_getD hs a hbase hat hrow he
  subst hbase
  exact exec_bsel_table hr hrow h ((State.transfer_misaligned s ht 6).trans (State.trap_eq ..)) rfl rfl hs

/-- R32, R76, R155: where `bsel` goes. -/
theorem scheduleSelected : Claims.ScheduleSelected := by
  intro s x a base at_ t hs hr hbase hat
  refine ⟨fun hrow he ht => ?_, fun hrow => ?_⟩
  · have h := State.selEntry_getD hs a hbase hat hrow he
    subst hbase
    exact exec_bsel_table hr hrow h (State.transfer_aligned s ht 6) rfl rfl hs
  · subst hbase
    rw [exec_bsel, execBsel]
    refine act_syl_trap hs hr (by simp) ((if_pos hrow).trans ?_)
    rfl

/-- Settles O10, clause by clause: one lemma says what a jump does once it has passed its checks. -/
theorem jumpTaken : Obligations.JumpTaken := ⟨jumpsToAlignedTargets, misalignedTargetTraps, scheduleSelected⟩

/-! ## Loops (R30, R150, R151, R153, R290) -/

/-- What a loop instruction does once it has passed its checks. -/
theorem exec_loopRow {i : Instr} {s : State} {x : Lent} {u : Uses} {trip : Nat} {stop : W64}
    (h : loopRow s i = some (x, u, trip, stop)) : u.vs = [] ∧ ∃ body off, exec i s = act (syl x u body) s ∧
      body s = s.pushLoop trip off ∧ stop = s.me.bun.base + w64 (4 * off) := by
  have hoff : ∀ (x : Lent) (off : BitVec 12), s.me.bun.base + extU x off <<< 2 = s.me.bun.base + w64 (4 * immU x off) := fun x off => by
    rw [← w64_immU, Nat.mul_comm]
    exact congrArg (s.me.bun.base + ·) (w64_mul_pow _ 2).symm
  have htrip : ∀ a : W64, tripOf a = min a.toNat (2 ^ 32 - 1) := fun a => by
    unfold tripOf
    split <;> omega
  unfold loopRow at h
  split at h <;> simp only [Option.some.injEq, Prod.mk.injEq, reduceCtorEq] at h <;> obtain ⟨rfl, rfl, rfl, rfl⟩ := h
  · exact ⟨by simp, _, _, rfl, by simp only [htrip], hoff ..⟩
  · exact ⟨rfl, _, _, rfl, rfl, hoff ..⟩
  · refine ⟨rfl, _, _, rfl, ?_, hoff ..⟩
    rfl

/-- The end bundle of a loop is skipped (R151). -/
theorem State.afterBundle_words {s : State} {va : W64} {ws : List (BitVec 32)} (h : s.fetchBundle s.dev.cur.core va.toNat = .words ws)
    (hst : stopped ws = true) (f : W64 → State) : s.afterBundle va f = f (va + w64 (4 * ws.length)) := by
  unfold State.afterBundle
  rw [h]
  exact if_pos hst

/-- The address after an aligned bundle is aligned. -/
theorem aligned_add {va : W64} (h : va.toNat % 4 = 0) (n : Nat) : (va + w64 (4 * n)).toNat % 4 = 0 := by
  rw [BitVec.toNat_add, BitVec.toNat_ofNat]
  omega

/-- R30, R151: a level is pushed. -/
theorem loopPushed : Claims.LoopPushed := by
  intro i s x u trip stop h _ hs hr hp hl ht
  obtain ⟨hv, body, off, he, hb, rfl⟩ := exec_loopRow h
  rw [he]
  refine act_syl hs hr hv (hb.trans ?_)
  unfold State.pushLoop
  rw [if_neg (by simp [hp]; omega), if_neg ht]

/-- R150, R151, R153: a loop that is skipped, and one that is broken. -/
theorem loopSkippedOrBroken : Claims.LoopSkippedOrBroken := by
  refine ⟨fun i s x u stop ws h _ hs hr hp hl hf hst ha => ?_, fun s x l ls ws hs hr hp hl hf hst ha => ?_⟩
  · obtain ⟨hv, body, off, he, hb, rfl⟩ := exec_loopRow h
    rw [he]
    refine act_syl hs hr hv (hb.trans ?_)
    unfold State.pushLoop
    rw [if_neg (by simp [hp]; omega), if_pos rfl, State.afterBundle_words hf hst, State.transfer_aligned _ (aligned_add ha _)]
    rfl
  · refine act_syl_answers hr rfl ?_ rfl rfl hs
    have hls : s.me.ctx.loops.getLast? = some l := by rw [hl, List.getLast?_concat]
    simp only [hp, hls, Bool.false_eq_true, if_false]
    rw [State.afterBundle_words hf hst, State.transfer_aligned _ (aligned_add ha _)]
    refine congrArg (transferred · _ _) (State.modMe_congr ?_)
    simp only [Core.modCtx, hl, List.dropLast_concat]

/-- R30, R153, R290: uses of loops that raise ILLEGAL_OPCODE. -/
theorem illegalLoopUse : Claims.IllegalLoopUse := by
  refine ⟨fun i s x u trip stop h _ hs hr hp => ?_, fun s x hs hr hp => ?_, fun s x hs hr hp => ?_⟩
  · obtain ⟨hv, body, off, he, hb, rfl⟩ := exec_loopRow h
    rw [he]
    exact act_syl_trap hs hr hv (hb.trans (if_pos (by simpa using hp)))
  · refine act_syl_trap hs hr rfl ?_
    rcases hp with hp | hp
    · exact if_pos hp
    · simp only [hp, List.getLast?_nil, ite_self]
      rfl
  · exact act_syl_trap hs hr rfl (if_pos hp)

/-- Settles O8, clause by clause: one lemma says what a loop instruction does once it has passed its checks. -/
theorem loopInstructions : Obligations.LoopInstructions := ⟨loopPushed, loopSkippedOrBroken, illegalLoopUse⟩

end Sys2Proof.Machine

/-! `pause`, `exit` and the header (R27, R106, R119, R156, R157). -/

namespace Sys2Proof.Machine

open Sys2Proof.Claims

/-! ## `pause` (R156) -/

/-- The clocks that a `pause` names, by the spec's arithmetic. -/
theorem pauseClocks_eq (x : Lent) (cnt : PauseCount) (s : State) : pauseClocks x cnt s = pauseCount s x cnt := by
  cases cnt with
  | reg a => rfl
  | imm n =>
    have h : immU x n < 2 ^ 64 := by
      have := n.isLt
      have := x.ix.isLt
      have hle : x.ix.toNat % 2 ^ Lent.ixBits x ≤ x.ix.toNat := Nat.mod_le ..
      unfold immU
      omega
    rw [pauseCount, ← w64_immU, BitVec.toNat_ofNat, Nat.mod_eq_of_lt h]
    rfl

/-- What a `pause` does once it has passed its checks: it goes on when no clock of its hold is left, else its bundle is held. -/
theorem exec_pause (x : Lent) (cnt : PauseCount) (s : State) : ∃ body, exec (.pause x cnt) s = act (syl x (pauseUses cnt) body) s ∧
    body s = if s.me.waiting.pause.getD (pauseCount s x cnt) = 0 then s else
      (s.modMe fun k => { k with waiting := { k.waiting with pause := some (s.me.waiting.pause.getD (pauseCount s x cnt)) } }).holdOn .pause := by
  rw [← pauseClocks_eq]
  cases cnt with
  | reg a =>
    refine ⟨_, rfl, ?_⟩
    cases s.me.waiting.pause <;> rfl
  | imm n =>
    refine ⟨_, rfl, ?_⟩
    cases s.me.waiting.pause <;> rfl

/-- The operands of a `pause` name no vector register. -/
theorem pauseUses_vs (cnt : PauseCount) : (pauseUses cnt).vs = [] := by cases cnt <;> simp [pauseUses]

/-- A `pause` with no clocks left completes. -/
theorem pause_completes {s : State} {x : Lent} {cnt : PauseCount} (hs : s.dev.wbuf = []) (hr : s.Ready x (pauseUses cnt))
    (h : s.me.waiting.pause.getD (pauseCount s x cnt) = 0) : exec (.pause x cnt) s = .next s := by
  obtain ⟨body, he, hb⟩ := exec_pause x cnt s
  rw [he]
  exact act_syl_same hs hr (pauseUses_vs cnt) (hb.trans (if_pos h))

/-- A `pause` with clocks left holds its bundle. -/
theorem pause_holds {s : State} {x : Lent} {cnt : PauseCount} {n : Nat} (hs : s.dev.wbuf = []) (hr : s.Ready x (pauseUses cnt))
    (h : s.me.waiting.pause.getD (pauseCount s x cnt) = n + 1) :
    exec (.pause x cnt) s = .next (s.modMe fun k =>
      { k with waiting := { k.waiting with pause := some (n + 1) }, bun := { k.bun with hold := some .pause } }) := by
  obtain ⟨body, he, hb⟩ := exec_pause x cnt s
  rw [he]
  refine act_syl hs hr (pauseUses_vs cnt) (hb.trans ?_)
  rw [h, if_neg (by omega), State.holdOn, State.modBun, State.modMe_modMe]
  rfl

/-- The clocks left of a pause at the end of a clock (R17). -/
theorem pause_ticks (s : State) (c : CoreId) (b : Bool) :
    ((s.tick c b).core c).waiting.pause = (s.core c).waiting.pause.map (· - 1) ∧
      ((s.frozenTick c b).core c).waiting.pause = (s.core c).waiting.pause := by
  unfold State.tick State.frozenTick
  simp only [State.core_modCore_same, and_self]

theorem exec_pauseHoldEnds (s : State) : exec .pauseHoldEnds s = execPauseHoldEnds s := rfl

/-! ## The header (R106, R119) -/

theorem exec_nop (ovl : Bool) (e0 e1 e2 : BitVec 8) (s : State) : exec (.nop ovl e0 e1 e2) s = execNop ovl e0 e1 e2 s := rfl

/-- A mark does what an overlay mark of the core that acts does. -/
theorem nop_mark {s t : State} (hs : s.dev.wbuf = []) (e0 e1 e2 : BitVec 8) {g : Core → Core}
    (h : s.overlayMark s.dev.cur.core e2.toNat = s.modMe g) (ht : s.modMe g = t) : exec (.nop true e0 e1 e2) s = .next t := by
  rw [exec_nop, execNop, ← ht]
  exact act_me hs ((if_pos rfl).trans h)

/-- The other one of two halves. -/
theorem otherHalf_eq (h : Fin 2) : otherHalf h = 1 - h := by
  revert h
  decide

/-- Does a half hold a segment of an image? -/
def IMem.holds (m : IMem) (image : BitVec 32) (n : Nat) : Bool :=
  (List.finRange 2).any fun h => match m.half h with
    | some y => y.image == image && y.seg == n
    | none => false

/-- A half that holds a segment. -/
theorem IMem.holds_iff (m : IMem) (image : BitVec 32) (n : Nat) :
    m.holds image n = true ↔ ∃ g y, m.halves.get g = some y ∧ y.image = image ∧ y.seg = n := by
  rw [IMem.holds, List.any_eq_true]
  constructor
  · rintro ⟨g, -, h⟩
    revert h
    cases hg : m.half g with
    | none => simp
    | some y =>
      intro h
      exact ⟨g, y, hg, by simpa using h⟩
  · rintro ⟨g, y, hg, h1, h2⟩
    refine ⟨g, List.mem_finRange g, ?_⟩
    rw [IMem.half, hg]
    simp [h1, h2]

section
variable {s : State} {n : Nat} {h : Fin 2} {x : Half}

/-- A mark of a bundle that lies in no half has no effect. -/
theorem overlayMark_nowhere (hf : s.me.imem.find (s.coreImages s.dev.cur.core) s.me.bun.base.toNat = none) :
    s.overlayMark s.dev.cur.core n = markCounted s := by
  have hf' : s.execHalf s.dev.cur.core = none := hf
  unfold State.overlayMark
  rw [hf']
  rfl

/-- A mark that names no segment of the executing image has no effect. -/
theorem overlayMark_absent (hf : s.me.imem.find (s.coreImages s.dev.cur.core) s.me.bun.base.toNat = some (h, x))
    (hseg : (((s.coreImages s.dev.cur.core).find? fun i => i.id == x.image).bind fun i => i.segs[n]?) = none) :
    s.overlayMark s.dev.cur.core n = markCounted s := by
  have hf' : s.execHalf s.dev.cur.core = some (h, x) := hf
  unfold State.overlayMark
  rw [hf']
  simp only [hseg]
  rfl

/-- A mark that names a segment of the executing image: it is copied into the other half, unless a half has it or a copy is under way. -/
theorem overlayMark_present (hf : s.me.imem.find (s.coreImages s.dev.cur.core) s.me.bun.base.toNat = some (h, x)) {addr len : Nat}
    (hseg : (((s.coreImages s.dev.cur.core).find? fun i => i.id == x.image).bind fun i => i.segs[n]?) = some (addr, len)) :
    s.overlayMark s.dev.cur.core n = if s.me.imem.holds x.image n || s.me.imem.copy.isSome then markCounted s
      else s.modMe fun k => { k with imem := k.imem.startCopy (1 - h) x.image n addr len 0 } := by
  have hf' : s.execHalf s.dev.cur.core = some (h, x) := hf
  unfold State.overlayMark
  rw [hf', ← otherHalf_eq]
  simp only [hseg]
  rfl

end

/-- The marks of R119, by the segment that a mark names. -/
theorem nop_segment {s : State} (hs : s.dev.wbuf = []) (e0 e1 e2 : BitVec 8) {h : Fin 2} {x : Half}
    (hf : s.me.imem.find (s.coreImages s.dev.cur.core) s.me.bun.base.toNat = some (h, x)) (seg : Option (Nat × Nat))
    (hseg : seg = (((s.coreImages s.dev.cur.core).find? fun i => i.id == x.image).bind fun i => i.segs[e2.toNat]?)) :
    (seg = none → exec (.nop true e0 e1 e2) s = .next (markCounted s)) ∧
    (∀ addr len, seg = some (addr, len) →
      (s.me.imem.copy.isSome = true ∨ (∃ g y, s.me.imem.halves.get g = some y ∧ y.image = x.image ∧ y.seg = e2.toNat) →
        exec (.nop true e0 e1 e2) s = .next (markCounted s)) ∧
      (s.me.imem.copy = none → (∀ g y, s.me.imem.halves.get g = some y → y.image = x.image → y.seg ≠ e2.toNat) →
        exec (.nop true e0 e1 e2) s = .next (s.modMe fun k => { k with imem := { k.imem with
          halves := k.imem.halves.set (1 - h).val
            (some { image := x.image, seg := e2.toNat, addr := addr, len := len, have_ := 0, bad := 0 }) (1 - h).isLt
          copy := some { half := 1 - h, line := 0, left := (len + 63) / 64 } } }))) := by
  refine ⟨fun h0 => nop_mark hs e0 e1 e2 (overlayMark_absent hf (hseg ▸ h0)) rfl, fun addr len h0 => ?_⟩
  have hm := overlayMark_present hf (hseg ▸ h0)
  refine ⟨fun hc => ?_, fun hc hn => ?_⟩
  · rw [if_pos] at hm
    · exact nop_mark hs e0 e1 e2 hm rfl
    · rw [Bool.or_eq_true, IMem.holds_iff]
      exact hc.symm
  · rw [if_neg] at hm
    · exact nop_mark hs e0 e1 e2 hm rfl
    · rw [Bool.or_eq_true, IMem.holds_iff, hc]
      rintro (⟨g, y, h1, h2, h3⟩ | h1)
      · exact hn g y h1 h2 h3
      · cases h1

/-- Settles O11, clause by clause. -/
theorem pauseExitAndHeader : Obligations.PauseExitAndHeader := by
  unfold Obligations.PauseExitAndHeader
  refine ⟨fun s x cnt _ hs hr h => pause_completes hs hr h, fun s x cnt n _ hs hr h => pause_holds hs hr h, pause_ticks,
    fun s hs h1 h2 => ?_, fun s hs h => ?_, fun s x hs hr hp => ?_, fun s e0 e1 e2 hs => ?_, fun s e0 e1 e2 hs h => ?_,
    fun s e0 e1 e2 h x seg hs hf hseg => nop_segment hs e0 e1 e2 hf seg hseg⟩
  · rw [exec_pauseHoldEnds, execPauseHoldEnds]
    exact act_me hs (if_pos ⟨h1, h2⟩)
  · rw [exec_pauseHoldEnds, execPauseHoldEnds]
    exact act_same hs (if_neg fun hc => h.elim (· hc.1) (· hc.2))
  · exact act_syl hs hr rfl (if_neg (by simp [hp]))
  · rw [exec_nop, execNop]
    exact act_same hs (if_neg (by decide))
  · exact nop_mark hs e0 e1 e2 (overlayMark_nowhere h) rfl

end Sys2Proof.Machine

/-! Traps and holds of issue (R16, R18, R104, R141, R297, R302). -/

namespace Sys2Proof.Machine

open Sys2Proof.Claims

/-! ## Popping streams (R183) -/

/-- Popping changes stream slots and the bundle's pops alone. -/
theorem Core.popStreams_only (k : Core) (u : Uses) : ∃ st ps, k.popStreams u =
    { k with ctx := { k.ctx with streams := st }, bun := { k.bun with pops := ps } } := by
  unfold Core.popStreams
  induction u.vs generalizing k with
  | nil => exact ⟨k.ctx.streams, k.bun.pops, rfl⟩
  | cons r rs ih =>
    rw [List.foldl_cons]
    cases hb : k.boundSlot r with
    | none => exact ih k
    | some b =>
      obtain ⟨slot, st⟩ := b
      simp only
      split
      · exact ih k
      · cases st.fifo with
        | nil => exact ih k
        | cons e es =>
          obtain ⟨st', ps', h⟩ := ih { (k.modStream slot fun st => { st with fifo := st.fifo.drop 1 }) with
            bun := { k.bun with pops := (slot, e.val) :: k.bun.pops } }
          exact ⟨st', ps', h⟩

/-- A syllable that passes its checks has its effect where the streams that it names have given up their entries. -/
theorem syl_popped {x : Lent} {u : Uses} {s : State} (h : s.Ready x u) (body : State → State) : syl x u body s = body (popped s u) := by
  unfold popped
  split
  · exact syl_ready h (List.isEmpty_iff.1 ‹_›) body
  · exact syl_pops h (fun e => ‹¬ _› (List.isEmpty_iff.2 e)) body

/-- Without a vector source nothing is popped. -/
theorem popped_eq {u : Uses} (h : u.vs = []) (s : State) : popped s u = s := by
  rw [popped, h]
  rfl

/-! ## A syllable under way -/

/-- The syllable that the acting core executes in `s` has got to `u`: it has issued results, popped and reserved entries at most. No
register, no access and no byte is as it was not, and nothing has stopped or held the core. -/
structure UnderWay (s u : State) : Prop where
  regs : SameRegisters s u
  bun : u.me.bun.base = s.me.bun.base ∧ u.me.bun.addr = s.me.bun.addr
  run : u.me.run = s.me.run
  clk : u.me.clk = s.me.clk
  ops : u.me.ops = s.me.ops
  writes : u.dev.writes = s.dev.writes
  mem : u.mem = s.mem
  wbuf : u.dev.wbuf = s.dev.wbuf

namespace UnderWay

/-- At its beginning a syllable has done nothing. -/
theorem refl (s : State) : UnderWay s s :=
  ⟨⟨rfl, rfl, rfl, rfl, rfl, rfl, rfl, rfl, rfl, rfl, rfl, rfl, rfl⟩, ⟨rfl, rfl⟩, rfl, rfl, rfl, rfl, rfl, rfl⟩

/-- The level stays. -/
theorem priv {s u : State} (h : UnderWay s u) : u.me.priv = s.me.priv := congrArg SvRegs.priv h.regs.2.2.2.2.2.2.2.2.2.2.2.1

/-- A change of the acting core that keeps its registers, its bundle's place, its run, clocks and accesses. -/
theorem modMe {s u : State} (h : UnderWay s u) {f : Core → Core} (hc : ∃ st, (f u.me).ctx = { u.me.ctx with streams := st })
    (hsv : (f u.me).sv = u.me.sv) (hb : (f u.me).bun.base = u.me.bun.base ∧ (f u.me).bun.addr = u.me.bun.addr)
    (hr : (f u.me).run = u.me.run) (hk : (f u.me).clk = u.me.clk) (ho : (f u.me).ops = u.me.ops) : UnderWay s (u.modMe f) := by
  obtain ⟨st, hc⟩ := hc
  have hme : (u.modMe f).me = f u.me := State.me_modMe u f
  obtain ⟨h1, h2, h3, h4, h5, h6, h7, h8, h9, h10, h11, h12, h13⟩ := h.regs
  refine ⟨?_, ?_, ?_, ?_, ?_, h.writes, h.mem, h.wbuf⟩ <;> simp only [SameRegisters, hme, hc, hsv, hb.1, hb.2, hr, hk, ho]
  · exact ⟨h1, h2, h3, h4, h5, h6, h7, h8, h9, h10, h11, h12, h13⟩
  · exact h.bun
  · exact h.run
  · exact h.clk
  · exact h.ops

/-- A result issued. -/
theorem issues {s u : State} (h : UnderWay s u) (f : Flight) : UnderWay s (u.issues f) :=
  h.modMe ⟨_, rfl⟩ rfl ⟨rfl, rfl⟩ rfl rfl rfl

/-- A number taken. -/
theorem fresh {s u : State} (h : UnderWay s u) : UnderWay s u.fresh.2 := ⟨h.regs, h.bun, h.run, h.clk, h.ops, h.writes, h.mem, h.wbuf⟩

/-- A free value drawn. -/
theorem drawWord {s u : State} (h : UnderWay s u) : UnderWay s u.drawWord.2 :=
  ⟨h.regs, h.bun, h.run, h.clk, h.ops, h.writes, h.mem, h.wbuf⟩

/-- Entries popped. -/
theorem popped (s : State) (u : Uses) : UnderWay s (Claims.popped s u) := by
  unfold Claims.popped
  split
  · exact refl s
  · obtain ⟨st, ps, h⟩ := s.me.popStreams_only u
    exact (refl s).modMe ⟨st, by rw [h]⟩ (by rw [h]) (by rw [h]; exact ⟨rfl, rfl⟩) (by rw [h]) (by rw [h]) (by rw [h])

/-- An entry of a write stream reserved. -/
theorem reserve {s u : State} (h : UnderWay s u) (slot : BitVec 3) (f : StreamSlot → StreamSlot) (l : List WEnt) :
    UnderWay s (u.modMe fun k => { (k.modStream slot f) with wents := l }) :=
  h.modMe ⟨_, rfl⟩ rfl ⟨rfl, rfl⟩ rfl rfl rfl

/-- A trap now is the syllable's trap, with no effect beside. -/
theorem traps {i : Instr} {s u : State} {f : State → State} (h : UnderWay s u) (hs : s.dev.wbuf = []) (he : exec i s = act f s)
    (hf : f s = u.trapAt cIllegalOpcode) : Traps i s 0x02 s.me.bun.addr := by
  have hf' : f s = trapped u 7 0x02 s.me.bun.addr := by rw [hf, State.trapAt_illegal, illegal, h.bun.2]
  exact traps_of_trapped (he.trans (act_answers hf' h.mem h.regs.2.2.2.2.2.2.2.2.2.2.2.2 (h.wbuf.trans hs))) h.regs h.bun.1 h.clk h.ops
    h.writes h.mem

end UnderWay

/-! ## The 65th result (R302) -/

/-- At user level the 65th result traps. -/
theorem State.result_full {u : State} (hp : u.me.priv = false) {f : Flight} (hf : f.counts = true) (hn : 64 ≤ u.me.inFlight) :
    u.result f = u.trapAt cIllegalOpcode := by
  rw [State.result, if_pos (by simp [hp, hf, hn])]

/-- After a trap nothing of the syllable goes on. -/
theorem State.andThen_trap (u : State) (code : Nat) (f : State → State) : (u.trapAt code).andThen f = u.trapAt code := by
  have : (u.trapAt code).live = false := by
    unfold State.live
    rw [State.trapAt, State.trap_eq, trapped_run]
    cases u.me.priv <;> rfl
  rw [State.andThen, if_neg (by rw [this]; decide)]

/-- One more result that counts. -/
theorem insertFlight_counts (f : Flight) (l : List Flight) :
    ((insertFlight f l).filter (·.counts)).length = (l.filter (·.counts)).length + if f.counts then 1 else 0 := by
  induction l with
  | nil => cases h : f.counts <;> simp [insertFlight, h]
  | cons g l ih =>
    unfold insertFlight
    split
    · cases h : f.counts <;> simp [h]
    · cases h : g.counts <;> simp [h, ih]
      omega

/-- A result issued counts among those in flight. -/
theorem State.inFlight_issues (u : State) {f : Flight} (h : f.counts = true) : (u.issues f).me.inFlight = u.me.inFlight + 1 := by
  rw [State.issues, State.me_modMe]
  exact (insertFlight_counts f u.me.flights).trans (by rw [if_pos h]; rfl)

/-- Popping keeps the results in flight. -/
theorem inFlight_popped (s : State) (u : Uses) : (popped s u).me.inFlight = s.me.inFlight := by
  unfold popped
  split
  · rfl
  · obtain ⟨st, ps, h⟩ := s.me.popStreams_only u
    rw [State.me_modMe, h]
    rfl

/-- A vector result traps when it is the 65th, whatever its destination: an entry that it has reserved goes with the bundle. -/
theorem State.resV_full {u : State} (hp : u.me.priv = false) (hn : 64 ≤ u.me.inFlight) (lat : Nat) (wd : Width) (d : VDst) (v : V1024) :
    ∃ t, UnderWay u t ∧ u.resV lat wd d v = t.trapAt cIllegalOpcode := by
  unfold State.resV
  by_cases hd : d.n = true
  · exact ⟨u, .refl u, by rw [if_pos hd]; exact State.result_full hp rfl hn⟩
  · rw [if_neg hd]
    cases u.me.boundSlot d.r with
    | none => exact ⟨u, .refl u, State.result_full hp rfl hn⟩
    | some b =>
      refine ⟨_, (UnderWay.refl u).fresh.reserve b.1 _ _, State.result_full ?_ rfl ?_⟩
      · rw [State.me_modMe]
        exact hp
      · rw [State.me_modMe]
        exact hn

/-! ## The rows (R129 to R139, R162 to R177) -/

/-- A scalar row is a syllable with one scalar result. -/
theorem exec_scalarRow {i : Instr} {s : State} {r : AluOut} (h : scalarRow s i = some r ∨ scalarRow2 s i = some r) :
    r.u.vs = [] ∧ ∃ body v, exec i s = act (syl r.x r.u body) s ∧ body s = s.resS r.lat r.d v := by
  rcases h with h | h
  · unfold scalarRow row2 row1 at h
    split at h <;> simp only [Option.some.injEq, reduceCtorEq] at h <;> subst h <;> exact ⟨by simp, _, _, rfl, rfl⟩
  · unfold scalarRow2 at h
    split at h <;> simp only [Option.some.injEq, reduceCtorEq] at h <;> subst h <;> exact ⟨by simp, _, _, rfl, rfl⟩

/-- A compare or an operation on predicates is a syllable with one predicate result. -/
theorem exec_predRow {i : Instr} {s : State} {x : Lent} {u : Uses} {p : BitVec 4} {b : Bool} (h : predRow s i = some (x, u, p, b)) :
    u.vs = [] ∧ ∃ body v, exec i s = act (syl x u body) s ∧ body s = s.resP p v := by
  unfold predRow at h
  split at h <;> simp only [Option.some.injEq, Prod.mk.injEq, reduceCtorEq] at h <;> obtain ⟨rfl, rfl, rfl, rfl⟩ := h <;>
    exact ⟨by simp, _, _, rfl, rfl⟩

/-- A division is a syllable whose result is issued once the divider has dropped what it holds. -/
theorem exec_divRow {i : Instr} {s : State} {x : Lent} {d : SDst} {a b : SSrc} {v : W64} (h : divRow s i = some (x, d, a, b, v)) :
    ∃ body f, exec i s = act (syl x ((Uses.none.s a).s b) body) s ∧ body s = (dividerFreed s).result f ∧ f.counts = true := by
  unfold divRow at h
  split at h <;> simp only [Option.some.injEq, Prod.mk.injEq, reduceCtorEq] at h <;> obtain ⟨rfl, rfl, rfl, rfl, rfl⟩ := h <;>
    exact ⟨_, _, rfl, rfl, rfl⟩

/-- A vector row is a syllable with one vector result. -/
theorem exec_vecRow {i : Instr} {s : State} {r : VecOut} (h : vecRow i = some r) :
    ∃ body, exec i s = act (syl r.x r.u body) s ∧ ∀ t, ∃ v, body t = t.resV r.lat r.wd r.d v := by
  unfold vecRow special vec1 vec2 vec3 at h
  split at h <;> simp only [Option.some.injEq, reduceCtorEq] at h <;> subst h <;> exact ⟨_, rfl, fun t => ⟨_, rfl⟩⟩

/-- Every scalar row is a syllable with its lent byte and operands. -/
theorem exec_scalarUses {i : Instr} {s : State} {x : Lent} {u : Uses} (h : scalarUses s i = some (x, u)) :
    ∃ body, exec i s = act (syl x u body) s := by
  unfold scalarUses at h
  split at h <;> simp only [Option.some.injEq, Prod.mk.injEq, reduceCtorEq] at h <;> obtain ⟨rfl, rfl⟩ := h
  · obtain ⟨-, body, v, he, -⟩ := exec_scalarRow (.inl ‹_›)
    exact ⟨body, he⟩
  · obtain ⟨-, body, v, he, -⟩ := exec_scalarRow (.inr ‹_›)
    exact ⟨body, he⟩
  · obtain ⟨body, f, he, -⟩ := exec_divRow ‹_›
    exact ⟨body, he⟩
  · obtain ⟨-, body, v, he, -⟩ := exec_predRow ‹_›
    exact ⟨body, he⟩

end Sys2Proof.Machine

/-! The statement about issue (R16, R18, R104, R141, R297, R302): loads, stores and atomics beside the rows, and each instruction that
issues the 65th result. -/

namespace Sys2Proof.Machine

open Sys2Proof.Claims

/-! ## Addresses and rows of loads, stores and atomics (R140 to R144) -/

/-- The address of a load or store, by the spec's arithmetic. -/
theorem ea_immS (s : State) {w : Nat} (x : Lent) (a : BitVec 6) (off : BitVec w) (size : Nat) :
    s.ea a (immS x off) size = eaOf s x a off size := by
  have h : ofI (immS x off * size) = extS x off * BitVec.ofNat 64 size := by
    rw [ofI, BitVec.ofInt_mul, BitVec.ofInt_natCast]
    exact congrArg (· * BitVec.ofNat 64 size) (ofI_immS x off)
  rw [State.ea, h, eaOf]

/-- An address with its low bits cleared. -/
theorem alignDown_eq (a size : Nat) : alignDown a size = aligned a size := by
  rw [alignDown, aligned, Nat.mul_comm]
  exact Nat.sub_eq_of_eq_add (Nat.div_add_mod a size).symm

/-- A load row is a syllable that loads its span. -/
theorem exec_loadRow {i : Instr} {s : State} {x : Lent} {a : BitVec 6} {size : Nat} {sx : Bool} {lc : BitVec 2} {d : BitVec 6} {ea : Nat}
    (h : loadRow s i = some (x, a, size, sx, lc, d, ea)) :
    ∃ body, exec i s = act (syl x (Uses.none.r a) body) s ∧ body s = s.scalarLoad size sx lc d ea := by
  unfold loadRow at h
  split at h <;> simp only [Option.some.injEq, Prod.mk.injEq, reduceCtorEq] at h <;> obtain ⟨rfl, rfl, rfl, rfl, rfl, rfl, rfl⟩ := h
  · exact ⟨_, rfl, by simp only [ea_immS]⟩
  · exact ⟨_, rfl, by simp only [ea_immS, alignDown_eq]⟩

/-- A store row is a syllable that traps where its span faults. -/
theorem exec_storeRow {i : Instr} {s : State} {x : Lent} {u : Uses} {ea : Nat} {bs : List Byte}
    (h : storeRow s i = some (x, u, ea, bs)) : u.vs = [] ∧ ∃ body, exec i s = act (syl x u body) s ∧
      ∀ f, s.storeFault ea bs.length = some f → body s = s.trapData f := by
  unfold storeRow at h
  split at h <;> simp only [Option.some.injEq, Prod.mk.injEq, reduceCtorEq] at h <;> obtain ⟨rfl, rfl, rfl, rfl⟩ := h
  · refine ⟨rfl, _, rfl, fun f hf => ?_⟩
    rw [toLe_length] at hf
    simp only [ea_immS, hf]
  · refine ⟨rfl, _, rfl, fun f hf => ?_⟩
    rw [toLe_length] at hf
    simp only [ea_immS, alignDown_eq, hf]

/-- The only size code of 16 bytes. -/
theorem amoSize_eq (asz : BitVec 2) : 4 * 2 ^ asz.toNat = 16 ↔ asz = 2 := by
  revert asz
  decide

/-- An atomic row is a syllable that makes its access. -/
theorem exec_atomicRow {i : Instr} {s : State} {r : AtomicRow} (h : atomicRow s i = some r) :
    r.u.vs = [] ∧ ∃ body kind ord scope hostOk, exec i s = act (syl r.x r.u body) s ∧
      body s = s.issueAtomic kind r.size r.lc ord scope r.d r.ea hostOk := by
  unfold atomicRow at h
  split at h <;> simp only [Option.some.injEq, reduceCtorEq] at h <;> subst h
  · rename_i x asz lc ord scope op d a
    simp only [← amoSize_eq, ← alignDown_eq]
    exact ⟨by split <;> rfl, _, _, _, _, _, rfl, rfl⟩
  · simp only [← alignDown_eq]
    exact ⟨rfl, _, _, _, _, _, rfl, rfl⟩
  · simp only [← alignDown_eq]
    exact ⟨rfl, _, _, _, _, _, rfl, rfl⟩

/-- The elements of a vector load fault not: it takes its destination and issues its result. -/
theorem exec_vloadRow {i : Instr} {s : State} {x : Lent} {u : Uses} {wd : Width} {lc : BitVec 2} {d : BitVec 5} {els : List (Nat × Nat)}
    (h : vloadRow s i = some (x, u, wd, lc, d, els)) (hf : ∀ e ∈ els, s.dataFault .read true e.1 e.2 = none) :
    u.vs = [] ∧ ∃ body l, exec i s = act (syl x u body) s ∧
      body s = (s.vloadDest wd d).2.issueLoad .vload l (classLat lc) (s.vloadDest wd d).1 (some (d.setWidth 6)) := by
  unfold vloadRow at h
  split at h <;> simp only [Option.some.injEq, Prod.mk.injEq, reduceCtorEq] at h
  · rename_i x' wd' lc' d' a off
    obtain ⟨rfl, rfl, rfl, rfl, rfl, rfl⟩ := h
    refine ⟨rfl, _, spanPieces (vecEa s a off) (wd'.bits / 8), rfl, ?_⟩
    have hea : s.ea a off.toInt 32 = vecEa s a off := by
      rw [State.ea, ofI, BitVec.ofInt_mul]
      rfl
    have h0 := hf _ (List.mem_singleton.2 rfl)
    simp only [hea, h0]
  · rename_i x' wd' lc' d' a b es
    obtain ⟨rfl, rfl, rfl, rfl, rfl, rfl⟩ := h
    refine ⟨rfl, _, (strided (s.sreg a) (s.sreg b) (lanesOf wd' (8 * 2 ^ es.toNat))).map fun e => (e, 2 ^ es.toNat), rfl, ?_⟩
    have h0 : ((strided (s.sreg a) (s.sreg b) (lanesOf wd' (8 * 2 ^ es.toNat))).map fun e => (e, 2 ^ es.toNat)).findSome?
        (fun e => s.dataFault .read true e.1 e.2) = none := List.findSome?_eq_none_iff.2 hf
    simp only [h0]

/-! ## Unmapped accesses (R141, R297) -/

/-- A span in no one row faults at its first such byte. -/
theorem State.dataFault_hole {s : State} {va len : Nat} (h : rowSpan va len = .hole) (acc : Acc) (hostOk : Bool) :
    s.dataFault acc hostOk va len = some (0x06, holeAt va len) := by
  unfold State.dataFault
  rw [h]
  rfl

/-- A span of the local store faults not. -/
theorem State.dataFault_ls {s : State} {va len : Nat} (h : rowSpan va len = .ls) (acc : Acc) (hostOk : Bool) :
    s.dataFault acc hostOk va len = none := by
  unfold State.dataFault
  rw [h]

/-- What DATA_UNMAPPED leaves. -/
theorem State.trapData_unmapped (s : State) (a : Nat) : s.trapData (0x06, a) = trapped s 7 0x06 (BitVec.ofNat 64 a) := by
  rw [State.trapData, State.trap_eq]
  exact if_neg (show ¬ (0x06 : Nat) = cMemwin by decide)

/-- R141, R297: loads and stores with an unmapped byte. -/
theorem unmappedAccessTraps : Claims.UnmappedAccessTraps := by
  intro i s x u ea size h _ hs hr hrow
  rcases h with ⟨a, sx, lc, d, h, rfl⟩ | ⟨bs, h, rfl⟩
  · obtain ⟨body, he, hb⟩ := exec_loadRow h
    rw [he]
    refine act_syl hs hr rfl (hb.trans ?_)
    rw [State.scalarLoad, State.dataFault_hole hrow]
    exact State.trapData_unmapped ..
  · obtain ⟨hv, body, he, hb⟩ := exec_storeRow h
    rw [he]
    refine act_syl hs hr hv ((hb (0x06, holeAt ea bs.length) ?_).trans (State.trapData_unmapped ..))
    rw [State.storeFault, State.dataFault_hole hrow]

/-! ## Stale latches and pending tokens (R16, R18, R104, R215) -/

/-- R16, R104: a stale latch. -/
theorem staleLatchTraps : Claims.StaleLatchTraps := by
  intro i s x u h hs hst
  obtain ⟨body, he⟩ := exec_scalarUses h
  rw [he]
  exact act_me hs ((syl_stale hst body).trans (State.trap_eq ..))

/-- R18, R104, R215: a pending token. -/
theorem pendingTokenHolds : Claims.PendingTokenHolds := by
  intro i s x u op h hs hst hg hp
  obtain ⟨body, he⟩ := exec_scalarUses h
  rw [he]
  exact act_me hs (syl_waits hst hg (by rw [Core.waits, hp]) body)

/-! ## The 65th result (R302) -/

/-- R302: a scalar result. -/
theorem sixtyFifthResultTraps : Claims.SixtyFifthResultTraps := by
  intro i s r _ h hs hr hp hn
  obtain ⟨hv, body, v, he, hb⟩ := exec_scalarRow h
  rw [he]
  exact act_syl_trap hs hr hv (hb.trans (State.result_full hp rfl hn))

/-- The results in flight after a load's destination was taken. -/
theorem inFlight_vloadDest (s : State) (wd : Width) (d : BitVec 5) : (s.vloadDest wd d).2.me.inFlight = s.me.inFlight := by
  unfold State.vloadDest
  dsimp only [State.fresh]
  cases s.me.boundSlot d with
  | none => rfl
  | some b =>
    obtain ⟨slot, st⟩ := b
    simp only [State.me_modMe]
    rfl

/-- A vector load's destination: at most an entry of a write stream is reserved. -/
theorem UnderWay.vloadDest (s : State) (wd : Width) (d : BitVec 5) : UnderWay s (s.vloadDest wd d).2 := by
  unfold State.vloadDest
  dsimp only
  cases s.me.boundSlot d with
  | none => exact .refl s
  | some b => exact (UnderWay.refl s).fresh.reserve b.1 _ _

/-- What is under way stays so. -/
theorem UnderWay.trans {s t u : State} (h : UnderWay s t) (h' : UnderWay t u) : UnderWay s u := by
  obtain ⟨r1, r2, r3, r4, r5, r6, r7, r8, r9, r10, r11, r12, r13⟩ := h.regs
  obtain ⟨q1, q2, q3, q4, q5, q6, q7, q8, q9, q10, q11, q12, q13⟩ := h'.regs
  exact ⟨⟨q1.trans r1, q2.trans r2, q3.trans r3, q4.trans r4, q5.trans r5, q6.trans r6, q7.trans r7, q8.trans r8, q9.trans r9,
    q10.trans r10, q11.trans r11, q12.trans r12, q13.trans r13⟩, ⟨h'.bun.1.trans h.bun.1, h'.bun.2.trans h.bun.2⟩, h'.run.trans h.run,
    h'.clk.trans h.clk, h'.ops.trans h.ops, h'.writes.trans h.writes, h'.mem.trans h.mem, h'.wbuf.trans h.wbuf⟩

/-- Having got to `t`, the syllable raises ILLEGAL_OPCODE (R302). -/
def Overflows (s u : State) : Prop := ∃ t, UnderWay s t ∧ u = t.trapAt cIllegalOpcode

/-- A syllable that passes the checks of issue and then raises ILLEGAL_OPCODE traps, and has no effect beside. -/
theorem Overflows.traps {i : Instr} {s : State} {x : Lent} {u : Uses} {body : State → State} (hs : s.dev.wbuf = []) (hr : s.Ready x u)
    (he : exec i s = act (syl x u body) s) (h : Overflows (popped s u) (body (popped s u))) : Traps i s 0x02 s.me.bun.addr := by
  obtain ⟨t, ht, hb⟩ := h
  exact ((UnderWay.popped s u).trans ht).traps hs he ((syl_popped hr body).trans hb)

/-- The same where no stream is named. -/
theorem Overflows.traps_novs {i : Instr} {s : State} {x : Lent} {u : Uses} {body : State → State} (hv : u.vs = [])
    (hs : s.dev.wbuf = []) (hr : s.Ready x u) (he : exec i s = act (syl x u body) s) (h : Overflows s (body s)) :
    Traps i s 0x02 s.me.bun.addr :=
  Overflows.traps hs hr he (by rwa [popped_eq hv])

/-- A result that counts, issued from a state that the syllable has got to, overflows when 64 are in flight. -/
theorem UnderWay.overflows {s u : State} (h : UnderWay s u) (hp : s.me.priv = false) {f : Flight} (hf : f.counts = true)
    (hn : 64 ≤ u.me.inFlight) : Overflows s (u.result f) :=
  ⟨u, h, State.result_full (h.priv.trans hp) hf hn⟩

/-- Having overflowed, the syllable does nothing more. -/
theorem Overflows.andThen {s u : State} (h : Overflows s u) (f : State → State) : Overflows s (u.andThen f) := by
  obtain ⟨t, ht, rfl⟩ := h
  exact ⟨t, ht, State.andThen_trap ..⟩

/-- The core goes on as it did. -/
theorem UnderWay.live {s u : State} (h : UnderWay s u) : u.live = s.live := by
  unfold State.live
  rw [h.run]

/-- Going on in a state that has not stopped. -/
theorem State.andThen_live {u : State} (h : u.live = true) (f : State → State) : u.andThen f = f u := if_pos h

/-- A load that would issue the 65th result traps. -/
theorem UnderWay.issueLoad {s u : State} (h : UnderWay s u) (hp : s.me.priv = false) (hn : 64 ≤ u.me.inFlight) (kind : MemKind)
    (els : List (Nat × Nat)) (lat : Nat) (dest : FDest) (dreg : Option (BitVec 6)) :
    Overflows s (u.issueLoad kind els lat dest dreg) := by
  unfold State.issueLoad
  exact (h.fresh.overflows hp rfl hn).andThen _

/-- A free value drawn after the trap. -/
theorem Overflows.drawWord {s u : State} (h : Overflows s u) : Overflows s u.drawWord.2 := by
  obtain ⟨t, ht, rfl⟩ := h
  exact ⟨_, ht.drawWord, rfl⟩

/-- Of two results of the syllable one is the 65th. -/
theorem UnderWay.overflows_two {s u : State} (h : UnderWay s u) (hp : s.me.priv = false) (hl : s.live = true) {f : Flight}
    {g : State → State} (hf : f.counts = true) (hg : ∀ t, UnderWay s t → 64 ≤ t.me.inFlight → Overflows s (g t))
    (hn : 64 < u.me.inFlight + 2) : Overflows s ((u.result f).andThen g) := by
  by_cases h64 : 64 ≤ u.me.inFlight
  · exact (h.overflows hp hf h64).andThen g
  · rw [State.result_room (by omega), State.andThen_live ((h.issues f).live.trans hl)]
    exact hg _ (h.issues f) (by rw [State.inFlight_issues u hf]; omega)

/-- An atomic that would issue the 65th result traps, with its first result or its second. -/
theorem State.issueAtomic_full {s : State} {size ea : Nat} {hostOk : Bool} (hp : s.me.priv = false) (hl : s.live = true)
    (hf : s.dataFault .rmw hostOk ea size = none) (hn : 64 < s.me.inFlight + (if size = 16 then 2 else 1)) (kind : MemKind)
    (lc ord : BitVec 2) (scope : BitVec 3) (d : BitVec 6) :
    Overflows s (s.issueAtomic kind size lc ord scope d ea hostOk) := by
  have h0 : UnderWay s s.fresh.2 := (UnderWay.refl s).fresh
  unfold State.issueAtomic
  rw [hf]
  by_cases hz : size = 16
  · rw [if_pos hz] at hn
    simp only [hz, beq_self_eq_true, if_true]
    refine Overflows.andThen (Overflows.andThen (Overflows.drawWord ?_) _) _
    exact h0.overflows_two hp hl rfl (fun t ht => ht.overflows hp rfl) hn
  · rw [if_neg hz] at hn
    simp only [beq_eq_false_iff_ne.2 hz, Bool.false_eq_true, if_false]
    exact (h0.overflows hp rfl (by show 64 ≤ s.me.inFlight; omega)).andThen _

/-- A vector result overflows when it is the 65th, whatever its destination. -/
theorem UnderWay.resV_overflows {s u : State} (h : UnderWay s u) (hp : s.me.priv = false) (hn : 64 ≤ u.me.inFlight) (lat : Nat)
    (wd : Width) (d : VDst) (v : V1024) : Overflows s (u.resV lat wd d v) := by
  obtain ⟨t, ht, he⟩ := State.resV_full (h.priv.trans hp) hn lat wd d v
  exact ⟨t, h.trans ht, he⟩

/-- One predicate of `pmov pr, a` (R138): nothing after a trap. -/
def pmovStep (v : W64) (i : Nat) (s : State) : State :=
  if s.me.run = .running then s.resP (BitVec.ofNat 4 (i + 1)) (bitAt v (i + 1)) else s

/-- After a trap the rest of the predicates is left. -/
theorem foldl_pmovStep_trap (v : W64) (l : List Nat) (t : State) :
    l.foldl (fun s i => pmovStep v i s) (t.trapAt cIllegalOpcode) = t.trapAt cIllegalOpcode := by
  have hr : (t.trapAt cIllegalOpcode).me.run ≠ .running := by
    rw [State.trapAt, State.trap_eq, trapped_run]
    cases t.me.priv <;> simp
  induction l with
  | nil => rfl
  | cons i l ih => rwa [List.foldl_cons, pmovStep, if_neg hr]

/-- One of the predicates that `pmov pr, a` still has to issue is the 65th result. -/
theorem UnderWay.foldl_pmovStep {s : State} (hp : s.me.priv = false) (hr : s.me.run = .running) (v : W64) (l : List Nat) (u : State)
    (h : UnderWay s u) (hl : 0 < l.length) (hn : 64 < u.me.inFlight + l.length) :
    Overflows s (l.foldl (fun s i => pmovStep v i s) u) := by
  induction l generalizing u with
  | nil => exact absurd hl (Nat.lt_irrefl 0)
  | cons i l ih =>
    rw [List.length_cons] at hn
    rw [List.foldl_cons, pmovStep, if_pos (h.run.trans hr), State.resP]
    by_cases h64 : 64 ≤ u.me.inFlight
    · rw [State.result_full (h.priv.trans hp) rfl h64]
      exact ⟨u, h, foldl_pmovStep_trap ..⟩
    · rw [State.result_room (by omega)]
      exact ih _ (h.issues _) (by omega) (by rw [State.inFlight_issues u rfl]; omega)

/-- `pmov pr, a` issues the predicates 1 to 15 in turn. -/
theorem exec_pmovTo (x : Lent) (a : SSrc) (s : State) : exec (.pmovTo x a) s =
    act (syl x (Uses.none.s a) fun s => (List.range 15).foldl (fun t i => pmovStep (s.src a) i t) s) s := rfl

/-- The divider drops what it holds. -/
theorem underWay_dividerFreed (s : State) : UnderWay s (dividerFreed s) :=
  (UnderWay.refl s).modMe ⟨_, rfl⟩ rfl ⟨rfl, rfl⟩ rfl rfl rfl

/-- R302: the 65th result of every other kind. -/
theorem otherResultsTrap : Claims.OtherResultsTrap := by
  intro i s n _ hs hp hn h
  have popped_full (u : Uses) (hn : 64 ≤ s.me.inFlight) : 64 ≤ (popped s u).me.inFlight := by rwa [inFlight_popped]
  have popped_user (u : Uses) : (popped s u).me.priv = false := (UnderWay.popped s u).priv.trans hp
  subst hn
  rcases h with ⟨x, u, p, b, h, hr, hn⟩ | ⟨x, a, rfl, hrun, hr, hn⟩ | ⟨x, d, a, b, v, h, hr, hn⟩ |
    ⟨x, a, size, sx, lc, d, ea, h, hr, hf, hn⟩ | ⟨r, h, hr, hrow, hl, hn⟩ | ⟨x, u, wd, lc, d, els, h, hr, hf, hn⟩ | ⟨r, h, hr, hn⟩ |
    ⟨x, wd, h, et, c, md, a, b, rfl, hr, hn⟩ | ⟨x, wd, op, md, ma, mb, rfl, hr, hn⟩ | ⟨x, wd, h, et, d, a, idx, rfl, hr, hn⟩ |
    ⟨x, wd, h, d, a, tgt, src, rfl, hr, hl, hn⟩ | ⟨x, wd, h, bidir, d, a, p, rfl, hr, hoff, hn⟩
  · obtain ⟨hv, body, v, he, hb⟩ := exec_predRow h
    exact Overflows.traps_novs hv hs hr he (hb ▸ (UnderWay.refl s).overflows hp rfl hn)
  · exact Overflows.traps_novs (Uses.s_vs ..) hs hr (exec_pmovTo x a s)
      (UnderWay.foldl_pmovStep hp hrun (s.src a) _ s (.refl s) (by decide) hn)
  · obtain ⟨body, f, he, hb, hc⟩ := exec_divRow h
    exact Overflows.traps_novs (by simp) hs hr he (hb ▸ (underWay_dividerFreed s).overflows hp hc hn)
  · obtain ⟨body, he, hb⟩ := exec_loadRow h
    refine Overflows.traps_novs rfl hs hr he ?_
    rw [hb, State.scalarLoad, hf]
    exact (UnderWay.refl s).issueLoad hp hn ..
  · obtain ⟨hv, body, kind, ord, scope, hostOk, he, hb⟩ := exec_atomicRow h
    exact Overflows.traps_novs hv hs hr he (hb ▸ State.issueAtomic_full hp hl (State.dataFault_ls hrow ..) hn ..)
  · obtain ⟨hv, body, l, he, hb⟩ := exec_vloadRow h hf
    exact Overflows.traps_novs hv hs hr he
      (hb ▸ (UnderWay.vloadDest s wd d).issueLoad hp ((inFlight_vloadDest s wd d).symm ▸ hn) ..)
  · obtain ⟨body, he, hb⟩ := exec_vecRow h
    obtain ⟨v, hv⟩ := hb (popped s r.u)
    exact Overflows.traps hs hr he (hv ▸ (UnderWay.refl _).resV_overflows (popped_user _) (popped_full _ hn) ..)
  · exact Overflows.traps hs hr rfl ((UnderWay.refl _).overflows (popped_user _) rfl (popped_full _ hn))
  · exact Overflows.traps hs hr rfl ((UnderWay.refl _).overflows (popped_user _) rfl (popped_full _ hn))
  · exact Overflows.traps hs hr rfl ((UnderWay.refl _).overflows (popped_user _) rfl (popped_full _ hn))
  · refine Overflows.traps hs hr rfl ((UnderWay.refl _).overflows_two (popped_user _) ((UnderWay.popped s _).live.trans hl) rfl
      (fun t ht h64 => ht.resV_overflows (popped_user _) h64 ..) ?_)
    rwa [inFlight_popped]
  · refine Overflows.traps hs hr rfl ?_
    simp only [if_neg (Nat.not_le.2 hoff)]
    exact (UnderWay.refl _).resV_overflows (popped_user _) (popped_full _ hn) ..

/-- Settles O5, clause by clause. -/
theorem issueTraps : Obligations.IssueTraps :=
  ⟨staleLatchTraps, pendingTokenHolds, sixtyFifthResultTraps, unmappedAccessTraps, otherResultsTrap⟩

end Sys2Proof.Machine

/-! Results land, and data of loads arrives (R17, R63, R102, R111, R142). -/

namespace Sys2Proof.Machine

open Sys2Proof.Claims

/-! ## What is due in a clock (R102, R111) -/

/-- Does a result that is due land in scalar register `r` as the running level sees it? -/
def Core.landsIn (k : Core) (r : BitVec 6) (f : Flight) : Bool := !f.err && match f.dest with
  | .s q b => sameScalar k.priv r b q
  | _ => false

/-- The landing of one result. -/
def Core.landOne (k : Core) (f : Flight) : Core := if f.err then k else (k.landDest f).landLatch f

/-- The results due that land in a register. -/
theorem dueFor_eq (k : Core) (r : BitVec 6) : dueFor k r = (k.flights.filter (·.due)).filter (k.landsIn r) := by
  rw [List.filter_filter, dueFor]
  refine List.filter_congr fun f _ => ?_
  rw [Bool.and_assoc]
  exact Bool.and_comm ..

section
variable (k : Core) (f : Flight)

/-- A latch is not a register. -/
theorem Core.landLatch_only : ∃ l, k.landLatch f = { k with latch := l } := by
  unfold Core.landLatch
  cases f.latch with
  | none => exact ⟨_, rfl⟩
  | some l =>
    simp only
    split <;> exact ⟨_, rfl⟩

/-- A special register that software writes is neither a scalar register nor the level. -/
theorem Core.setSpr_frame (n : BitVec 8) (w : W64) : (k.setSpr n w).ctx.s = k.ctx.s ∧ (k.setSpr n w).sv.s = k.sv.s ∧
    (k.setSpr n w).sv.priv = k.sv.priv ∧ (k.setSpr n w).flights = k.flights := by
  unfold Core.setSpr
  split <;> exact ⟨rfl, rfl, rfl, rfl⟩

/-- A read of a scalar register depends on the two banks and the level. -/
theorem Core.sreg_congr {k k' : Core} (h1 : k'.ctx.s = k.ctx.s) (h2 : k'.sv.s = k.sv.s) (h3 : k'.sv.priv = k.sv.priv) (r : BitVec 6) :
    k'.sreg r = k.sreg r := by
  unfold Core.sreg Core.priv
  rw [h1, h2, h3]

/-- A write of a scalar register leaves the results in flight. -/
@[simp] theorem Core.setS_flights (r : BitVec 6) (b : Bool) (w : W64) : (k.setS r b w).flights = k.flights := by
  unfold Core.setS
  split
  · rfl
  · split <;> rfl

/-- A write of a predicate leaves scalar registers, level and results in flight. -/
theorem Core.setP_frame (p : BitVec 4) (b v : Bool) : (k.setP p b v).ctx.s = k.ctx.s ∧ (k.setP p b v).sv.s = k.sv.s ∧
    (k.setP p b v).sv.priv = k.sv.priv ∧ (k.setP p b v).flights = k.flights := by
  unfold Core.setP
  split
  · exact ⟨rfl, rfl, rfl, rfl⟩
  · split <;> exact ⟨rfl, rfl, rfl, rfl⟩

/-- A landing keeps the level. -/
theorem Core.landDest_priv : (k.landDest f).priv = k.priv := by
  unfold Core.landDest
  cases f.dest with
  | s r b => exact Core.setS_priv k r b _
  | p p b => exact (k.setP_frame p b _).2.2.1
  | spr n => exact (k.setSpr_frame n _).2.2.1
  | _ => rfl

/-- A landing keeps the other results in flight. -/
theorem Core.landDest_flights : (k.landDest f).flights = k.flights := by
  unfold Core.landDest
  cases f.dest with
  | s r b => exact Core.setS_flights k r b _
  | p p b => exact (k.setP_frame p b _).2.2.2
  | spr n => exact (k.setSpr_frame n _).2.2.2
  | _ => rfl

/-- A scalar register after a landing: the result's value when it is bound for it. -/
theorem Core.landDest_sreg {r : BitVec 6} (h0 : r ≠ 0) (he : f.err = false) :
    (k.landDest f).sreg r = if k.landsIn r f then f.val.setWidth 64 else k.sreg r := by
  have keeps {k' : Core} (h : k'.ctx.s = k.ctx.s ∧ k'.sv.s = k.sv.s ∧ k'.sv.priv = k.sv.priv ∧ k'.flights = k.flights) :
      k'.sreg r = k.sreg r := Core.sreg_congr h.1 h.2.1 h.2.2.1 r
  unfold Core.landDest Core.landsIn
  rw [he]
  cases f.dest with
  | s q b =>
    refine (Core.sreg_setS k q r b _).trans (if_congr ?_ rfl rfl)
    rw [and_iff_right h0]
    simp [sameScalar]
  | p p b => exact keeps (k.setP_frame p b _)
  | spr n => exact keeps (k.setSpr_frame n _)
  | _ => exact keeps ⟨rfl, rfl, rfl, rfl⟩

/-- One landing keeps the level and the results in flight. -/
theorem Core.landOne_frame : (k.landOne f).priv = k.priv ∧ (k.landOne f).flights = k.flights := by
  unfold Core.landOne
  split
  · exact ⟨rfl, rfl⟩
  · obtain ⟨l, h⟩ := (k.landDest f).landLatch_only f
    rw [h]
    exact ⟨k.landDest_priv f, k.landDest_flights f⟩

/-- A scalar register after one landing. -/
theorem Core.landOne_sreg {r : BitVec 6} (h0 : r ≠ 0) :
    (k.landOne f).sreg r = if k.landsIn r f then f.val.setWidth 64 else k.sreg r := by
  unfold Core.landOne
  cases he : f.err with
  | true => simp [Core.landsIn, he]
  | false =>
    obtain ⟨l, h⟩ := (k.landDest f).landLatch_only f
    rw [if_neg (by decide), h]
    exact k.landDest_sreg f h0 he

end

/-- Which register a result is bound for depends on the level alone. -/
theorem Core.landsIn_congr {k k' : Core} (h : k'.priv = k.priv) (r : BitVec 6) : k'.landsIn r = k.landsIn r := by
  funext f
  unfold Core.landsIn
  rw [h]

/-- Landings keep the level and the results in flight. -/
theorem Core.landAll_frame (k : Core) (l : List Flight) :
    (l.foldl Core.landOne k).priv = k.priv ∧ (l.foldl Core.landOne k).flights = k.flights := by
  induction l generalizing k with
  | nil => exact ⟨rfl, rfl⟩
  | cons f l ih =>
    obtain ⟨h1, h2⟩ := k.landOne_frame f
    obtain ⟨h3, h4⟩ := ih (k.landOne f)
    exact ⟨h3.trans h1, h4.trans h2⟩

/-- After landings in order a scalar register holds the value of the last that is bound for it. -/
theorem Core.landAll_sreg (k : Core) {r : BitVec 6} (h0 : r ≠ 0) (l : List Flight) :
    (l.foldl Core.landOne k).sreg r = (l.filter (k.landsIn r)).getLast?.elim (k.sreg r) fun f => f.val.setWidth 64 := by
  induction l using List.reverseRecOn with
  | nil => rfl
  | append_singleton l f ih =>
    rw [List.foldl_append, List.foldl_cons, List.foldl_nil, Core.landOne_sreg _ f h0, List.filter_append, ih,
      Core.landsIn_congr (k.landAll_frame l).1]
    cases h : k.landsIn r f <;> simp [h]

/-- R102, R111: the last result in issue order stands. -/
theorem landingKeepsTheLatest : Claims.LandingKeepsTheLatest := by
  intro k r h0
  have h := Core.landAll_sreg { k with flights := k.flights.filter (!·.due) } h0 (k.flights.filter (·.due))
  rw [dueFor_eq]
  refine h.trans ?_
  change ((k.flights.filter (·.due)).filter (k.landsIn r)).getLast?.elim (k.sreg r) (fun f => f.val.setWidth 64) = _
  cases ((k.flights.filter (·.due)).filter (k.landsIn r)).getLast? <;> rfl

/-- R17, R102: RESULT_LANDS. -/
theorem dueResultsLand : Claims.DueResultsLand := by
  intro s hs hr hg hl _
  have hme : (s.modMe Core.landDue).me = s.me.landDue := State.me_modMe ..
  refine ⟨s.modMe Core.landDue, act_answers (if_pos ⟨hr, hg, by simp [hl]⟩) rfl rfl hs, ?_, rfl, fun r h0 => ?_⟩
  · rw [hme]
    exact (Core.landAll_frame { s.me with flights := s.me.flights.filter (!·.due) } _).2
  · rw [hme]
    exact landingKeepsTheLatest s.me r h0

/-! ## What goes on when an access has performed (R81, R83, R91) -/

/-- Between two states only waits have ended and operations have gone: no register and no byte of memory changes, and a result that
waits for nothing stays. -/
structure LetsGo (s t : State) : Prop where
  mem : t.mem = s.mem
  regs : SameRegisters s t
  wbuf : t.dev.wbuf = s.dev.wbuf
  writes : t.dev.writes = s.dev.writes
  core : t.dev.cur.core = s.dev.cur.core
  defer : ∀ c, (t.core c).defer = (s.core c).defer
  ops : ∀ o ∈ t.me.ops, ∃ o' ∈ s.me.ops, o'.id = o.id
  flights : ∀ f ∈ s.me.flights, f.wait = none → f ∈ t.me.flights

/-- The registers stand in the context and in the supervisor's registers. -/
theorem sameRegisters_of_eq {s t : State} (hc : t.me.ctx = s.me.ctx) (hv : t.me.sv = s.me.sv) (hp : t.part = s.part) :
    SameRegisters s t := by
  unfold SameRegisters
  rw [hc, hv, hp]
  exact ⟨rfl, rfl, rfl, rfl, rfl, rfl, rfl, rfl, rfl, rfl, rfl, rfl, rfl⟩

/-- Registers kept twice are kept. -/
theorem SameRegisters.trans {s t u : State} (h : SameRegisters s t) (h' : SameRegisters t u) : SameRegisters s u := by
  obtain ⟨r1, r2, r3, r4, r5, r6, r7, r8, r9, r10, r11, r12, r13⟩ := h
  obtain ⟨q1, q2, q3, q4, q5, q6, q7, q8, q9, q10, q11, q12, q13⟩ := h'
  exact ⟨q1.trans r1, q2.trans r2, q3.trans r3, q4.trans r4, q5.trans r5, q6.trans r6, q7.trans r7, q8.trans r8, q9.trans r9,
    q10.trans r10, q11.trans r11, q12.trans r12, q13.trans r13⟩

/-- The partitions are among what is kept. -/
theorem SameRegisters.part {s t : State} (h : SameRegisters s t) : t.part = s.part := h.2.2.2.2.2.2.2.2.2.2.2.2

namespace LetsGo

theorem refl (s : State) : LetsGo s s :=
  ⟨rfl, sameRegisters_of_eq rfl rfl rfl, rfl, rfl, rfl, fun _ => rfl, fun o h => ⟨o, h, rfl⟩,
    fun _ h _ => h⟩

theorem trans {s t u : State} (h : LetsGo s t) (h' : LetsGo t u) : LetsGo s u := by
  refine ⟨h'.mem.trans h.mem, SameRegisters.trans h.regs h'.regs, h'.wbuf.trans h.wbuf, h'.writes.trans h.writes,
    h'.core.trans h.core, fun c => (h'.defer c).trans (h.defer c), fun o ho => ?_, fun f hf hw => h'.flights f (h.flights f hf hw) hw⟩
  obtain ⟨o', ho', e'⟩ := h'.ops o ho
  obtain ⟨o'', ho'', e''⟩ := h.ops o' ho'
  exact ⟨o'', ho'', e''.trans e'⟩

/-- A change of the results in flight and of the operations of one core. -/
theorem modCore (s : State) (c : CoreId) {f : Core → Core} {fl : List Flight} {os : List MemOp}
    (h : f (s.core c) = { s.core c with flights := fl, ops := os }) (ho : ∀ o ∈ os, ∃ o' ∈ (s.core c).ops, o'.id = o.id)
    (hf : ∀ f ∈ (s.core c).flights, f.wait = none → f ∈ fl) : LetsGo s (s.modCore c f) := by
  by_cases hc : s.dev.cur.core = c
  · subst hc
    have hme : (s.modCore s.dev.cur.core f).me = { s.me with flights := fl, ops := os } := (State.me_modMe s f).trans h
    refine ⟨rfl, sameRegisters_of_eq (by rw [hme]) (by rw [hme]) rfl, rfl, rfl, rfl, fun e => ?_, ?_, ?_⟩
    · by_cases he : e = s.dev.cur.core
      · rw [he, State.core_modCore_same, h]
      · rw [State.core_modCore_ne s f he]
    · rw [hme]
      exact ho
    · rw [hme]
      exact hf
  · have hme : (s.modCore c f).me = s.me := State.core_modCore_ne s f hc
    refine ⟨rfl, sameRegisters_of_eq (by rw [hme]) (by rw [hme]) rfl, rfl, rfl, rfl, fun e => ?_, ?_, ?_⟩
    · by_cases he : e = c
      · rw [he, State.core_modCore_same, h]
      · rw [State.core_modCore_ne s f he]
    · rw [hme]
      exact fun o ho => ⟨o, ho, rfl⟩
    · rw [hme]
      exact fun f hf _ => hf

end LetsGo

/-- Arrivals end waits alone. -/
theorem Core.foldl_arrive (l : List Nat) (k : Core) : ∃ fl, l.foldl (fun k id => k.arrive id) k = { k with flights := fl } ∧
    ∀ f ∈ k.flights, f.wait = none → f ∈ fl := by
  induction l generalizing k with
  | nil => exact ⟨k.flights, rfl, fun _ h _ => h⟩
  | cons id l ih =>
    obtain ⟨fl, h, hf⟩ := ih (k.arrive id)
    refine ⟨fl, h, fun f hm hw => hf f (List.mem_map.2 ⟨f, hm, ?_⟩) hw⟩
    rw [if_neg (by simp [hw])]

/-- Fences with the given numbers end. -/
def State.endFences (s : State) (c : CoreId) (done : List Nat) : State := if done.isEmpty then s else s.modCore c fun k =>
  done.foldl (fun k id => k.arrive id) { k with ops := k.ops.filter fun o => !done.contains o.id }

/-- An operation as its release leaves it. -/
def State.opLeaves (s : State) (c : CoreId) (o : MemOp) : MemOp :=
  if o.rel && s.releaseReady c o.seq o.scope then { o with rel := false, since := s.dev.board.dtime } else o

/-- Release atomics leave. -/
def State.leaveAll (s : State) (c : CoreId) : State :=
  if (s.core c).ops.any (·.rel) then s.modCore c fun k => { k with ops := k.ops.map (s.opLeaves c) } else s

/-- An operation keeps its number as it leaves. -/
@[simp] theorem State.opLeaves_id (s : State) (c : CoreId) (o : MemOp) : (s.opLeaves c o).id = o.id := by
  unfold State.opLeaves
  split <;> rfl

/-- The end of fences lets results go. -/
theorem State.endFences_letsGo (s : State) (c : CoreId) (done : List Nat) : LetsGo s (s.endFences c done) := by
  unfold State.endFences
  split
  · exact .refl s
  · obtain ⟨fl, h, hf⟩ := Core.foldl_arrive done { s.core c with ops := (s.core c).ops.filter fun o => !done.contains o.id }
    exact .modCore s c h (fun o ho => ⟨o, List.mem_of_mem_filter ho, rfl⟩) hf

/-- Leaving changes operations alone. -/
theorem State.leaveAll_letsGo (s : State) (c : CoreId) : LetsGo s (s.leaveAll c) := by
  unfold State.leaveAll
  split
  · refine .modCore s c (fl := (s.core c).flights) rfl (fun o ho => ?_) (fun f hf _ => hf)
    obtain ⟨o', ho', rfl⟩ := List.mem_map.1 ho
    exact ⟨o', ho', (s.opLeaves_id c o').symm⟩
  · exact .refl s

/-- With no write on its way, settling a core ends its fences and lets its release atomics leave. -/
theorem State.settle_eq {s : State} (hw : s.dev.writes = []) (c : CoreId) :
    s.settle c = (s.endFences c (((s.core c).ops.filter fun o => s.fenceMet c o).map (·.id))).leaveAll c := by
  have hw' := ((s.endFences_letsGo c (((s.core c).ops.filter fun o => s.fenceMet c o).map (·.id))).trans
    (State.leaveAll_letsGo _ c)).writes.trans hw
  unfold State.settle
  refine if_neg fun h => ?_
  obtain ⟨w, hm, -⟩ := List.any_eq_true.1 h
  exact List.not_mem_nil (hw' ▸ hm)

/-- Settling a core lets its fences and releases go on. -/
theorem State.settle_letsGo {s : State} (hw : s.dev.writes = []) (c : CoreId) : LetsGo s (s.settle c) := by
  rw [State.settle_eq hw]
  exact (s.endFences_letsGo c _).trans (State.leaveAll_letsGo ..)

/-- What of one core may go on goes on. -/
def State.wakeCore (s : State) (c : CoreId) : State :=
  let k := s.core c
  let s := if (k.ops.any fun o => !o.isAccess || o.rel) || (s.dev.writes.any fun w => w.hold.isSome && w.core == c) then s.settle c
    else s
  if k.defer.isEmpty then s else s.runDefers c

/-- With no release waiting, a core lets go on what waited. -/
theorem State.wakeCore_letsGo {s : State} (hw : s.dev.writes = []) (hd : NoRelease s) (c : CoreId) : LetsGo s (s.wakeCore c) := by
  unfold State.wakeCore
  have hk : (s.core c).defer.isEmpty = true := by rw [hd c]; rfl
  simp only [hk, if_true]
  split
  · exact State.settle_letsGo hw c
  · exact .refl s

/-- With no release waiting, all cores let go on what waited. -/
theorem State.wake_letsGo {s : State} (hw : s.dev.writes = []) (hd : NoRelease s) : LetsGo s s.wake := by
  have all (l : List CoreId) (t : State) (ht : LetsGo s t) : LetsGo s (l.foldl State.wakeCore t) := by
    induction l generalizing t with
    | nil => exact ht
    | cons c l ih => exact ih _ (ht.trans (State.wakeCore_letsGo (ht.writes.trans hw) (fun e => (ht.defer e).trans (hd e)) c))
  exact all (List.finRange 128) s (.refl s)

/-! ## A load reads its bytes (R63, R142) -/

/-- Bytes as a number. -/
theorem leNat_lt (l : List Byte) : leNat l < 2 ^ (8 * l.length) := by
  induction l with
  | nil => decide
  | cons b l ih =>
    have := b.isLt
    rw [leNat, List.length_cons, Nat.mul_add, Nat.pow_add]
    omega

/-- A loaded number, extended. -/
theorem extLoad_eq {size n : Nat} (h : n < 2 ^ (8 * size)) (sx : Bool) : extLoad size sx n = extended size sx n := by
  unfold extLoad extended
  split
  · have := sgn_toNat (BitVec.ofNat (8 * size) n)
    rw [BitVec.toNat_ofNat, Nat.mod_eq_of_lt h] at this
    rw [this, ofI]
    rfl
  · rfl

/-- The same state where another free value comes next (log 8). -/
def State.withFree (s : State) (n : Nat) : State := s.upd fun d => { d with free := n }

/-- The value of a load of one part, and no change: what the core reads there. -/
theorem State.performOp_load {s : State} {o : MemOp} {size : Nat} {sx : Bool} {p : Part} {bs : List Byte} (c : CoreId)
    (hk : o.kind = .load size sx) (hp : o.parts = [p]) (hg : p.got = some bs) :
    s.performOp c o = ((extLoad size sx (leNat bs)).setWidth 1024, s) := by
  unfold State.performOp State.readParts
  rw [hk, hp]
  simp [hg]

/-- The part of a load that may be read is read. -/
theorem State.readSome_one {s : State} {c : CoreId} {o : MemOp} {p : Part} (hp : o.parts = [p]) (hr : s.partReady c o p = true) :
    ∃ n, s.readSome c o = ((s.withFree n).readNow c o fun q => q.va == p.va && q.unit == p.unit).endLoad c o.id := by
  refine ⟨s.dev.free + 1, ?_⟩
  unfold State.readSome
  have hl : o.parts.filter (s.partReady c o) = [p] := by rw [hp, List.filter_singleton, hr]; rfl
  simp only [hl, List.length_singleton, Nat.mod_one]
  rfl

/-- An operation that is found by its number is found as it was changed. -/
theorem Core.op_modOp {k : Core} {id : Nat} {o : MemOp} {f : MemOp → MemOp} (h : k.op id = some o) (hf : ∀ x, (f x).id = x.id) :
    (k.modOp id f).op id = some (f o) := by
  have hid : o.id = id := by simpa using List.find?_some h
  unfold Core.op Core.modOp at *
  rw [List.find?_map, show ((fun o : MemOp => o.id == id) ∘ fun x => if x.id = id then f x else x) = fun o => o.id == id from ?_, h]
  · simp [hid]
  · funext x
    by_cases hx : x.id = id
    · simp [hx, hf]
    · simp [hx]

/-- A part as `readNow` leaves it. -/
def State.partRead (s : State) (c : CoreId) (o : MemOp) (sel : Part → Bool) (p : Part) : Part :=
  if sel p && s.partReady c o p then { p with got := some (s.readPart c o.seq p) } else p

/-- The operation of one part with its bytes read. -/
def MemOp.withBytes (o : MemOp) (p : Part) (bs : List Byte) : MemOp := { o with parts := [{ p with got := some bs }] }

/-- A core as the end of a load leaves it, but for what goes on then. -/
def Core.loaded (o : MemOp) (v : V1024) (k : Core) : Core := { (k.deliver o.id o.dreg v) with ops := k.ops.filter fun x => x.id != o.id }

/-- The end of a load whose one part has been read. -/
theorem State.endLoad_one {s : State} {c : CoreId} {o : MemOp} {p : Part} {size : Nat} {sx : Bool} {bs : List Byte}
    (ho : (s.core c).op o.id = some (o.withBytes p bs)) (hk : o.kind = .load size sx) :
    s.endLoad c o.id = (s.modCore c (Core.loaded o ((extLoad size sx (leNat bs)).setWidth 1024))).settle c := by
  have ha : (o.withBytes p bs).isAtomic = false := by
    unfold MemOp.isAtomic MemOp.withBytes
    rw [hk]
  unfold State.endLoad
  rw [ho]
  refine (if_pos (by rw [ha]; rfl)).trans ?_
  unfold State.finishOp
  rw [State.performOp_load c (o := o.withBytes p bs) hk rfl rfl]
  rfl

/-- A load of one part that is read at once ends with the bytes that the core reads. -/
theorem State.readNow_endLoad {s : State} {c : CoreId} {o : MemOp} {p : Part} {size : Nat} {sx : Bool} (ho : (s.core c).op o.id = some o)
    (hk : o.kind = .load size sx) (hp : o.parts = [p]) (hr : s.partReady c o p = true) :
    ∃ f : MemOp → MemOp, (s.readNow c o fun q => q.va == p.va && q.unit == p.unit).endLoad c o.id =
      (s.modCore c fun k => (k.modOp o.id f).loaded o ((extLoad size sx (leNat (s.readPart c o.seq p))).setWidth 1024)).settle c := by
  let f : MemOp → MemOp := fun x => { x with parts := x.parts.map (s.partRead c o fun q => q.va == p.va && q.unit == p.unit) }
  have hf : f o = o.withBytes p (s.readPart c o.seq p) := by simp [f, MemOp.withBytes, State.partRead, hp, hr]
  have ho' : ((s.modCore c fun k => k.modOp o.id f).core c).op o.id = some (o.withBytes p (s.readPart c o.seq p)) := by
    rw [State.core_modCore_same, Core.op_modOp (f := f) ho fun _ => rfl, hf]
  refine ⟨f, (State.endLoad_one ho' hk).trans ?_⟩
  rw [State.modCore_modCore]
  rfl

/-- What a load leaves of a core: its registers, no operation of its number, and its value in each result that waited for it. -/
theorem Core.loaded_modOp {k : Core} {o : MemOp} (f : MemOp → MemOp) (v : V1024) :
    ∃ fl os, (k.modOp o.id f).loaded o v = { k with flights := fl, ops := os } ∧ (∀ x ∈ os, x.id ≠ o.id) ∧
      (∀ x ∈ k.flights, x.wait = some o.id → deliverTo o.dreg v x ∈ fl) := by
  refine ⟨_, _, rfl, fun x hx => by simpa using (List.mem_filter.1 hx).2, fun x hx hw => List.mem_map.2 ⟨x, hx, if_pos hw⟩⟩

/-- A value in the register that its load names. -/
theorem deliverTo_scalar {d : BitVec 6} {b : Bool} {f : Flight} (hf : f.dest = .s d b) (v : W64) :
    deliverTo (some d) (v.setWidth 1024) f = { f with wait := none, val := v.setWidth 1024 } := by
  unfold deliverTo
  rw [hf]
  simp

/-- What the arrival of a load's data does where its vault read meets no error (R394): the load reads and ends, and what waited goes on. -/
theorem exec_loadDataArrives {s : State} {o : MemOp} (ho : s.me.op s.dev.cur.n = some o)
    (hr : s.opReady s.dev.cur.core o = true) (ha : o.isAtomic = false) (hv : o.onVault = true → Config.freeByte s.dev.free ≠ 1) :
    ∃ f n, exec .loadDataArrives s = act f s ∧ f s = ((s.withFree n).readSome s.dev.cur.core o).wake := by
  refine ⟨_, if o.onVault then s.dev.free + 1 else s.dev.free, (rfl : execLoadDataArrives s = act _ s), ?_⟩
  simp only [show (s.core s.dev.cur.core).op s.dev.cur.n = some o from ho, hr, ha]
  by_cases hov : o.onVault = true
  · simp only [hov, if_true, State.drawByte, Bool.not_true, Bool.false_eq_true, if_false]
    exact congrArg (fun t : State => (t.readSome s.dev.cur.core o).wake) (if_neg (hv hov))
  · simp only [hov, Bool.not_true, Bool.false_eq_true, if_false]
    rfl

/-- R63, R142: LOAD_DATA_ARRIVES. -/
theorem loadDataArrives : Claims.LoadDataArrives := by
  intro s o p pa size sx d hs ho hrdy hk hp hpa hlen hrow hw he hd hdr hv
  have ha : o.isAtomic = false := by rw [MemOp.isAtomic, hk]
  have hid : s.me.op o.id = some o := by
    have : o.id = s.dev.cur.n := by simpa using List.find?_some ho
    rw [this, ho]
  have hr : s.partReady s.dev.cur.core o p = true := by simpa [State.opReady, ha, hp, MemOp.isAccess, hk] using hrdy
  obtain ⟨g, n, hx, hg⟩ := exec_loadDataArrives ho hrdy ha hv
  obtain ⟨m, hrs⟩ := State.readSome_one (s := s.withFree n) hp hr
  obtain ⟨f, hend⟩ := State.readNow_endLoad (s := s.withFree m) hid hk hp hr
  have hbs : (s.withFree m).readPart s.dev.cur.core o.seq p = (addrs pa size).map s.peek := by
    rw [← hlen]
    exact State.readPart_quiet hpa hw (hlen ▸ he) hrow
  have hval : extLoad size sx (leNat ((addrs pa size).map s.peek)) = extended size sx (shownNat s pa size) :=
    extLoad_eq (by simpa [addrs_eq_range'] using leNat_lt ((addrs pa size).map s.peek)) sx
  rw [hbs, hval] at hend
  obtain ⟨fl, os, hload, hos, hfl⟩ := Core.loaded_modOp (k := s.me) (o := o) f ((extended size sx (shownNat s pa size)).setWidth 1024)
  obtain ⟨t0, ht0⟩ : ∃ t0, t0 = (s.withFree m).modCore s.dev.cur.core fun k =>
    (k.modOp o.id f).loaded o ((extended size sx (shownNat s pa size)).setWidth 1024) := ⟨_, rfl⟩
  have hme : t0.me = { s.me with flights := fl, ops := os } := ht0 ▸ (State.me_modMe (s.withFree m) _).trans hload
  have hcore : ∀ c, c ≠ s.dev.cur.core → t0.core c = s.core c := fun c hc => ht0 ▸ State.core_modCore_ne (s.withFree m) _ hc
  have hmem : t0.mem = s.mem := ht0 ▸ rfl
  have hpart : t0.part = s.part := ht0 ▸ rfl
  have hwbuf : t0.dev.wbuf = s.dev.wbuf := ht0 ▸ rfl
  have hcur : t0.dev.cur = s.dev.cur := ht0 ▸ rfl
  have hw0 : t0.dev.writes = [] := by
    rw [ht0, State.modCore_writes]
    exact hw
  have hd0 : NoRelease t0 := fun c => by
    by_cases hc : c = s.dev.cur.core
    · have := congrArg Core.defer hme
      rw [State.me, hcur] at this
      rw [hc, this]
      exact hd _
    · rw [hcore c hc]
      exact hd c
  have h1 : LetsGo t0 (t0.settle s.dev.cur.core) := State.settle_letsGo hw0 _
  have hgo : LetsGo t0 (t0.settle s.dev.cur.core).wake :=
    h1.trans (State.wake_letsGo (h1.writes.trans hw0) fun c => (h1.defer c).trans (hd0 c))
  have hregs : SameRegisters s t0 := sameRegisters_of_eq (by rw [hme]) (by rw [hme]) hpart
  have hall := SameRegisters.trans hregs hgo.regs
  refine ⟨(t0.settle s.dev.cur.core).wake, hx.trans (act_answers (hg.trans ?_) (hgo.mem.trans hmem) (SameRegisters.part hall)
    ((hgo.wbuf.trans hwbuf).trans hs)), hgo.mem.trans hmem, hall, fun x hx hxo => ?_, fun x hx hxw b hxd => ?_⟩
  · rw [hrs, ht0]
    exact congrArg State.wake hend
  · obtain ⟨x', hx', e⟩ := hgo.ops x hx
    rw [hme] at hx'
    exact hos x' hx' (e.trans hxo)
  · refine hgo.flights _ ?_ rfl
    rw [hme, ← deliverTo_scalar hxd, ← hdr]
    exact hfl x hx hxw

/-- Settles O32, clause by clause. -/
theorem resultsLand : Obligations.ResultsLand := ⟨landingKeepsTheLatest, dueResultsLand, loadDataArrives⟩

end Sys2Proof.Machine

/-! `halt` on a core that Hazel has taken out of service (R321). -/

namespace Sys2Proof.Machine

open Sys2Proof.Claims

/-- A task that runs on core 0. -/
def runningTask : Task :=
  { id := 1, cohort := 1, rank := 0, wid := 0, where_ := .on 0, ctxid := 1, area := none, place := none, pairs := 0 }

/-- A core at supervisor level that holds a task although Hazel has logged it as halted: no step leads there, but no hypothesis of
the statement excludes it. -/
def reapedState : State :=
  (State.reset.upd fun d => { d with tasks := [runningTask] }).modMe fun k => { k with task := some 1, run := .running, reaped := true }

/-- A core that Hazel has logged is not taken out of service again (R321). -/
theorem State.reapHalted_reaped {s : State} {c : CoreId} (h : (s.core c).reaped = true) : s.reapHalted c = s :=
  if_pos (.inr h)

/-- `halt` on such a core halts it and leaves its task. -/
theorem exec_halt_reaped {s : State} {x : Lent} (hs : s.dev.wbuf = []) (h : s.Ready x Uses.none) (hp : s.me.priv = true)
    (hr : s.me.reaped = true) :
    exec (.halt x) s = .next (s.modMe fun k => { k with run := .halted, bun := { k.bun with taken := true } }) := by
  refine act_syl hs h rfl ((if_neg (by rw [hp]; decide)).trans (State.reapHalted_reaped ?_))
  exact (congrArg Core.reaped (State.me_modMe ..)).trans hr

/-- Refutes O37: `halt` kills the task of its core only where Hazel has not logged the core as halted, and the statement does not ask
for that. -/
theorem not_systemInstructions : ¬ Obligations.SystemInstructions := by
  intro ⟨_, _, _, _, _, h⟩
  have hs : reapedState.dev.wbuf = [] := rfl
  have hr : reapedState.Ready { guard := none, ix := 0 } Uses.none := by decide +kernel
  have hp : reapedState.me.priv = true := by decide +kernel
  have ht : reapedState.me.task = some 1 := by decide +kernel
  obtain ⟨⟨t, he, -, hk⟩, -⟩ := h reapedState { guard := none, ix := 0 } hs hr hp
  rw [exec_halt_reaped hs hr hp (by decide +kernel)] at he
  obtain rfl := Host.Outcome.next.inj he
  obtain ⟨hn, -⟩ := hk runningTask ht (by decide +kernel) rfl
  rw [State.me_modMe] at hn
  exact absurd (ht.symm.trans hn) (by decide)

end Sys2Proof.Machine

/-! Barriers (R14, R34, R36, R91, R125, R241). -/

namespace Sys2Proof.Machine

open Sys2Proof.Claims

/-! ## A field of a word, and TOKSTAT (R14) -/

/-- The number of a word in which a field was replaced. -/
theorem setField_toNat (w : W64) {lo len : Nat} (h : lo + len ≤ 64) (v : Nat) : (setField w lo len v).toNat =
    2 ^ lo * (2 ^ len * (w.toNat / 2 ^ lo / 2 ^ len) + v % 2 ^ len) + w.toNat % 2 ^ lo := by
  have h1 := Nat.div_add_mod w.toNat (2 ^ lo)
  have h2 := Nat.div_add_mod (w.toNat / 2 ^ lo) (2 ^ len)
  have hl := Nat.mod_lt w.toNat (Nat.two_pow_pos lo)
  have hv := Nat.mod_lt v (Nat.two_pow_pos len)
  have hhi : w.toNat / 2 ^ lo / 2 ^ len < 2 ^ (64 - lo - len) := by
    rw [Nat.div_div_eq_div_mul, ← Nat.pow_add]
    refine Nat.div_lt_of_lt_mul ?_
    rw [← Nat.pow_add, show lo + len + (64 - lo - len) = 64 by omega]
    exact w.isLt
  have hq : 2 ^ len * (w.toNat / 2 ^ lo / 2 ^ len) + v % 2 ^ len < 2 ^ (64 - lo) := by
    calc _ < 2 ^ len * (w.toNat / 2 ^ lo / 2 ^ len + 1) := by rw [Nat.mul_add, Nat.mul_one]; omega
      _ ≤ 2 ^ len * 2 ^ (64 - lo - len) := Nat.mul_le_mul_left _ hhi
      _ = 2 ^ (64 - lo) := by rw [← Nat.pow_add]; congr 1; omega
  have hlt : 2 ^ lo * (2 ^ len * (w.toNat / 2 ^ lo / 2 ^ len) + v % 2 ^ len) + w.toNat % 2 ^ lo < 2 ^ 64 := by
    calc _ < 2 ^ lo * (2 ^ len * (w.toNat / 2 ^ lo / 2 ^ len) + v % 2 ^ len + 1) := by rw [Nat.mul_add _ _ 1, Nat.mul_one]; omega
      _ ≤ 2 ^ lo * 2 ^ (64 - lo) := Nat.mul_le_mul_left _ hq
      _ = 2 ^ 64 := by rw [← Nat.pow_add]; congr 1; omega
  rw [setField, w64, BitVec.toNat_ofNat, ← Nat.mod_eq_of_lt hlt]
  congr 1
  rw [Nat.mul_add, Nat.mul_comm (v % 2 ^ len), Nat.mul_comm (w.toNat / 2 ^ lo % 2 ^ len)]
  have h3 : w.toNat = 2 ^ lo * (2 ^ len * (w.toNat / 2 ^ lo / 2 ^ len)) + 2 ^ lo * (w.toNat / 2 ^ lo % 2 ^ len) + w.toNat % 2 ^ lo := by
    rw [← Nat.mul_add, h2, h1]
  omega

/-- A bit of a word in which a field was replaced. -/
theorem getLsbD_setField (w : W64) {lo len : Nat} (h : lo + len ≤ 64) (v i : Nat) :
    (setField w lo len v).getLsbD i = if lo ≤ i ∧ i < lo + len then v.testBit (i - lo) else w.getLsbD i := by
  rw [BitVec.getLsbD, setField_toNat w h, Nat.testBit_two_pow_mul_add _ (Nat.mod_lt _ (Nat.two_pow_pos lo)),
    Nat.testBit_two_pow_mul_add _ (Nat.mod_lt _ (Nat.two_pow_pos len)), Nat.testBit_div_two_pow, Nat.testBit_div_two_pow,
    Nat.testBit_mod_two_pow, Nat.testBit_mod_two_pow, BitVec.getLsbD]
  by_cases h1 : i < lo
  · simp [h1, Nat.not_le.2 h1]
  · by_cases h2 : i - lo < len
    · rw [if_neg h1, if_pos h2, if_pos (by omega)]
      simp [h2]
    · rw [if_neg h1, if_neg h2, if_neg (by omega)]
      congr 1
      omega

/-- The bits of the constants of TOKSTAT's fields. -/
theorem tokstat_bits : ∀ i : Nat, i < 64 → (0x7F00#64).getLsbD i = decide (8 ≤ i ∧ i < 15) ∧
    (0x4000 : W64).getLsbD i = decide (i = 14) ∧ (1 : W64).getLsbD i = decide (i = 0) ∧ (2 : W64).getLsbD i = decide (i = 1) := by
  decide

/-- A field of one bit. -/
theorem getLsbD_setField_one (w : W64) {lo : Nat} (h : lo < 64) (b : Bool) (i : Nat) :
    (setField w lo 1 (if b then 1 else 0)).getLsbD i = if i = lo then b else w.getLsbD i := by
  rw [getLsbD_setField w h]
  by_cases hi : i = lo
  · rw [if_pos (by omega), if_pos hi, hi, Nat.sub_self]
    cases b <;> rfl
  · rw [if_neg (by omega), if_neg hi]

/-- TOKSTAT once an outcome has landed. -/
theorem tokstatAfter_eq (w : W64) (pabort bad : Bool) (res : BitVec 6) (kind : Bool) :
    tokstatAfter w pabort bad res.toNat kind = outcomeWord w pabort bad res kind := by
  refine BitVec.eq_of_getLsbD_eq fun i hi => ?_
  obtain ⟨h1, h2, h3, h4⟩ := tokstat_bits i hi
  have hz : (0 : W64).getLsbD i = false := BitVec.getLsbD_zero
  have hres : 6 ≤ i - 8 → res.getLsbD (i - 8) = false := BitVec.getLsbD_of_ge res (i - 8)
  have hb := getLsbD_setField_one w (lo := if pabort then 1 else 0) (by cases pabort <;> decide) bad i
  have hk := getLsbD_setField_one (setField (setField w (if pabort then 1 else 0) 1 (if bad then 1 else 0)) 8 6 res.toNat)
    (lo := 14) (by decide) kind i
  have h6 := getLsbD_setField (setField w (if pabort then 1 else 0) 1 (if bad then 1 else 0)) (lo := 8) (len := 6) (by decide) res.toNat i
  unfold tokstatAfter outcomeWord
  cases bad
  · simp only [Bool.false_eq_true, if_false] at hb ⊢
    rw [hb]
    cases pabort <;> simp only [BitVec.getLsbD_and, BitVec.getLsbD_not, hi] <;> grind
  · simp only [if_true] at hb hk h6 ⊢
    rw [hk, h6, hb]
    change (if _ then _ else if _ then res.getLsbD (i - 8) else _) = _
    cases pabort <;> cases kind <;> simp only [BitVec.getLsbD_and, BitVec.getLsbD_or, BitVec.getLsbD_not, BitVec.getLsbD_shiftLeft,
      BitVec.getLsbD_setWidth, h1, h2, h3, h4, hz, hi, if_true, if_false, Bool.false_eq_true] <;> grind

/-! ## Barriers as parts of the state -/

/-- The barrier that was changed. -/
@[simp] theorem State.hb_modHb_same (s : State) (n : BitVec 6) (f : Barrier → Barrier) : (s.modHb n f).hb n = f (s.hb n) :=
  vector_get_set_same s.dev.hbs n.toFin _

/-- A barrier that was not changed. -/
theorem State.hb_modHb_ne (s : State) {n m : BitVec 6} (f : Barrier → Barrier) (h : m ≠ n) : (s.modHb n f).hb m = s.hb m :=
  vector_get_set_ne s.dev.hbs (i := n.toFin) (j := m.toFin) _ fun e => h (BitVec.toFin_inj.1 e)

/-- An element replaced by itself. -/
theorem vector_set_get_self {α : Type} {n : Nat} (v : Vector α n) (i : Fin n) : v.set i.val (v.get i) i.isLt = v :=
  Vector.set_getElem_self i.isLt

/-- Two changes of one barrier are one. -/
theorem State.modHb_modHb (s : State) (n : BitVec 6) (f g : Barrier → Barrier) : (s.modHb n f).modHb n g = s.modHb n (g ∘ f) := by
  have h : (s.modHb n f).dev.hbs.get n.toFin = f (s.dev.hbs.get n.toFin) := State.hb_modHb_same ..
  unfold State.modHb at h ⊢
  unfold State.upd at h ⊢
  simp only at h
  simp only [h, Function.comp_apply, Vector.set_set]

/-- No change of a barrier. -/
theorem State.modHb_id (s : State) (n : BitVec 6) : s.modHb n id = s :=
   congrArg (fun v => ({ s with dev := { s.dev with hbs := v } } : State)) (vector_set_get_self s.dev.hbs n.toFin)

/-- No change of the acting core. -/
theorem State.modMe_self {s : State} {f : Core → Core} (h : f s.me = s.me) : s.modMe f = s := by
  have h' : f (s.dev.cores.get s.dev.cur.core) = s.dev.cores.get s.dev.cur.core := h
  simp only [State.modMe, State.modCore, State.upd, h', vector_set_get_self]

/-! ## Arrivals (R34, R36, R91) -/

/-- A barrier whose phase can no longer complete (R36). -/
def Barrier.brokenNow (b : Barrier) : Barrier := { b with broken := true, bad := b.phase :: b.bad, phase := b.phase + 1 }

/-- A barrier whose phase the last arrival has ended (R34). -/
def Barrier.nextPhase (b : Barrier) : Barrier := { b with count := 0, arrived := [], phase := b.phase + 1 }

/-- A barrier at which the task of a rank has arrived, to wait or not. -/
def Barrier.counted (rank task : Nat) (waits : Bool) (b : Barrier) : Barrier :=
  { b with
    count := b.count + 1, arrived := rank :: b.arrived
    last := if waits then b.last else (rank, b.phase) :: b.last.filter fun x => x.1 != rank
    waits := if waits then (task, b.phase) :: b.waits.filter fun x => x.1 != task else b.waits }

/-- The test of R36 changes nothing, or breaks the barrier. -/
theorem State.testBarrier_only (s : State) (n : BitVec 6) :
    ∃ f, s.testBarrier n = s.modHb n f ∧ (f = id ∨ f = Barrier.brokenNow) := by
  unfold State.testBarrier
  dsimp only
  split
  · exact ⟨id, (s.modHb_id n).symm, .inl rfl⟩
  · split
    · exact ⟨_, rfl, .inr rfl⟩
    · exact ⟨id, (s.modHb_id n).symm, .inl rfl⟩

/-- A member of the barrier's cohort arrives. -/
theorem State.countArrival_member {s : State} {n : BitVec 6} {k : Task} (ht : s.taskById k.id = some k) (hb : (s.hb n).broken = false)
    (hc : (s.hb n).cohort = some k.cohort) (hm : (s.hb n).members.getLsbD k.rank = true) (waits : Bool) :
    s.countArrival n k.id waits = if (s.hb n).count + 1 < (s.hb n).expect then s.modHb n (Barrier.counted k.rank k.id waits)
      else (s.modHb n (Barrier.nextPhase ∘ Barrier.counted k.rank k.id waits)).testBarrier n := by
  unfold State.countArrival
  rw [ht]
  refine (if_neg ?_).trans (if_congr Iff.rfl rfl ?_)
  · rw [hb, hc, show bitAt (s.hb n).members k.rank = true from hm]
    simp
  · rw [← State.modHb_modHb]
    rfl

/-- At a broken barrier nothing arrives. -/
theorem State.countArrival_broken {s : State} {n : BitVec 6} {k : Task} (ht : s.taskById k.id = some k) (hb : (s.hb n).broken = true)
    (waits : Bool) : s.countArrival n k.id waits = s := by
  unfold State.countArrival
  rw [ht]
  exact if_pos (by rw [hb]; rfl)

/-- An arrival that changes the barrier alone. -/
theorem State.countArrival_only {s : State} {n : BitVec 6} {k : Task} (ht : s.taskById k.id = some k) (hb : (s.hb n).broken = false)
    (hc : (s.hb n).cohort = some k.cohort) (hm : (s.hb n).members.getLsbD k.rank = true) (waits : Bool) :
    ∃ f, s.countArrival n k.id waits = s.modHb n f ∧
      ((s.hb n).count + 1 < (s.hb n).expect ∧ f = Barrier.counted k.rank k.id waits ∨
        (s.hb n).expect ≤ (s.hb n).count + 1 ∧ ∃ g, (g = id ∨ g = Barrier.brokenNow) ∧
          f = g ∘ Barrier.nextPhase ∘ Barrier.counted k.rank k.id waits) := by
  rw [State.countArrival_member ht hb hc hm]
  by_cases h : (s.hb n).count + 1 < (s.hb n).expect
  · exact ⟨_, if_pos h, .inl ⟨h, rfl⟩⟩
  · obtain ⟨g, hg, hg'⟩ := (s.modHb n (Barrier.nextPhase ∘ Barrier.counted k.rank k.id waits)).testBarrier_only n
    exact ⟨_, (if_neg h).trans (hg.trans (State.modHb_modHb ..)), .inr ⟨Nat.not_lt.1 h, g, hg', rfl⟩⟩

section
variable {s : State} {d : Deferred} (h : s.me.defer = [])
include h

/-- The release that the acting core now waits for. -/
theorem State.deferOn_defer : ((s.deferOn d).core s.dev.cur.core).defer = [(s.me.seq 1, d)] := by
  refine (congrArg Core.defer (State.me_modMe ..)).trans ?_
  simp only [h, List.nil_append]

/-- The release taken away again. -/
theorem State.deferOn_cleared : (s.deferOn d).modMe (fun k => { k with defer := [] }) = s := by
  rw [State.deferOn, State.modMe_modMe]
  refine State.modMe_self ?_
  change { s.me with defer := [] } = s.me
  rw [← h]

variable (hp : putBefore d [] = false)
include hp

/-- With no release waiting and all earlier accesses performed, a release that is no put has its effect at once (R91). -/
theorem State.runDefers_ready (hr : (s.deferOn d).deferReady s.dev.cur.core (s.me.seq 1, d) = true) :
    (s.deferOn d).runDefers s.dev.cur.core = ((s.deferOn d).release d).modCore s.dev.cur.core fun k => { k with defer := [] } := by
  unfold State.runDefers
  rw [State.deferOn_defer h]
  simp only [List.foldl_cons, List.foldl_nil, hp, hr, Bool.not_false, Bool.and_true, if_true]

/-- Before the earlier accesses have performed the release is on its way (R91). -/
theorem State.runDefers_waits (hr : (s.deferOn d).deferReady s.dev.cur.core (s.me.seq 1, d) = false) :
    (s.deferOn d).runDefers s.dev.cur.core = s.modMe fun k => { k with defer := [(s.me.seq 1, d)] } := by
  unfold State.runDefers
  rw [State.deferOn_defer h]
  simp only [List.foldl_cons, List.foldl_nil, hp, hr, Bool.not_false, Bool.and_false, List.nil_append, Bool.false_eq_true, if_false]
  exact State.modMe_modMe ..

end

/-- Whether the earlier accesses of the acting core have performed does not depend on the releases that wait. -/
theorem State.releaseReady_deferOn (s : State) (d : Deferred) (seq : Nat) (scope : BitVec 3) :
    (s.deferOn d).releaseReady s.dev.cur.core seq scope = s.releaseReady s.dev.cur.core seq scope := by
  have hc : (s.deferOn d).core s.dev.cur.core = { s.me with defer := s.me.defer ++ [(s.me.seq 1, d)] } := State.me_modMe ..
  unfold State.releaseReady State.accessesDone
  rw [hc]
  rfl

/-- An arrival that has issued counts when the core's earlier accesses have performed at device scope (R91). -/
theorem State.deferReady_arrive (s : State) (hb : BitVec 6) (task : Nat) (waits : Bool) :
    (s.deferOn (.arrive hb task waits)).deferReady s.dev.cur.core (s.me.seq 1, .arrive hb task waits) =
      s.releaseReady s.dev.cur.core (s.me.seq 1) 3 := State.releaseReady_deferOn ..

section
variable {s : State} {hb : BitVec 6} {k : Task} (hm : MemberOf s hb k)
include hm

/-- A member's arrival whose earlier accesses have performed changes the barrier alone. -/
theorem State.arrives_now (hr : Released s) (hbr : (s.hb hb).broken = false) (waits : Bool) :
    ∃ f, (s.deferOn (.arrive hb k.id waits)).runDefers s.dev.cur.core = s.modHb hb f ∧
      ((s.hb hb).count + 1 < (s.hb hb).expect ∧ f = Barrier.counted k.rank k.id waits ∨
        (s.hb hb).expect ≤ (s.hb hb).count + 1 ∧ ∃ g, (g = id ∨ g = Barrier.brokenNow) ∧
          f = g ∘ Barrier.nextPhase ∘ Barrier.counted k.rank k.id waits) := by
  obtain ⟨-, -, -, hk, hc, hmem⟩ := hm
  obtain ⟨f, hf, hspec⟩ := State.countArrival_only (s := s.deferOn (.arrive hb k.id waits)) hk hbr hc hmem waits
  refine ⟨f, ?_, hspec⟩
  rw [State.runDefers_ready hr.2 rfl ((State.deferReady_arrive ..).trans hr.1), State.release, hf]
  exact congrArg (fun t : State => t.modHb hb f) (State.deferOn_cleared hr.2)

/-- At a broken barrier an arrival changes nothing. -/
theorem State.arrives_broken (hr : Released s) (hbr : (s.hb hb).broken = true) (waits : Bool) :
    (s.deferOn (.arrive hb k.id waits)).runDefers s.dev.cur.core = s := by
  obtain ⟨-, -, -, hk, -, -⟩ := hm
  rw [State.runDefers_ready hr.2 rfl ((State.deferReady_arrive ..).trans hr.1), State.release,
    State.countArrival_broken (s := s.deferOn (.arrive hb k.id waits)) hk hbr]
  exact State.deferOn_cleared hr.2

/-- A member may use its barrier. -/
theorem State.barrierFault_member : s.barrierFault hb = none := by
  obtain ⟨hmine, hen, ht, hk, hc, hmem⟩ := hm
  have hmy : s.myTask = some k := by rw [State.myTask, ht]; exact hk
  unfold State.barrierFault
  simp [hmine, hen, hmy, hc, show bitAt (s.hb hb).members k.rank = true from hmem]

end

/-- The arrival at a barrier. -/
theorem exec_bara (x : Lent) (hb : BitVec 6) (s : State) : exec (.bara x hb) s = execBara x hb s := rfl

/-- R34, R36, R91, R125: arrivals. -/
theorem barrierArrival : Claims.BarrierArrival := by
  intro s x hb k b hs hr hm rfl
  have hbody : ∀ t, (s.deferOn (.arrive hb k.id false)).runDefers s.dev.cur.core = t → t.mem = s.mem → t.part = s.part →
      t.dev.wbuf = [] → exec (.bara x hb) s = .next t := by
    intro t ht h1 h2 h3
    refine act_syl_answers hr rfl ?_ h1 h2 h3
    simp only [State.barrierFault_member hm, hm.2.2.1]
    exact ht
  refine ⟨fun hrel hbr => ?_, fun hrel hbr => hbody _ (State.arrives_broken hm hrel hbr false) rfl rfl hs, fun hrel hd => ?_⟩
  · obtain ⟨f, hf, hspec⟩ := State.arrives_now hm hrel hbr false
    refine ⟨_, hbody _ hf rfl rfl hs, ?_, ?_, fun n hn => State.hb_modHb_ne s f hn, rfl, sameRegisters_of_eq rfl rfl rfl, rfl, rfl, rfl⟩
    · intro hlt
      rcases hspec with ⟨-, rfl⟩ | ⟨hle, -⟩
      · rw [State.hb_modHb_same]
        exact ⟨rfl, rfl, hbr⟩
      · omega
    · intro hle
      rcases hspec with ⟨hlt, -⟩ | ⟨-, g, rfl | rfl, rfl⟩
      · omega
      · rw [State.hb_modHb_same]
        exact ⟨rfl, Nat.lt_succ_self _⟩
      · rw [State.hb_modHb_same]
        exact ⟨rfl, Nat.lt_succ_of_lt (Nat.lt_succ_self _)⟩
  · exact hbody _ (State.runDefers_waits hd rfl ((State.deferReady_arrive ..).trans hrel)) rfl rfl hs

/-! ## Outcomes (R14) -/

/-- A result issued is in flight. -/
theorem mem_insertFlight {f g : Flight} {l : List Flight} : g ∈ insertFlight f l ↔ g = f ∨ g ∈ l := by
  induction l with
  | nil => simp [insertFlight]
  | cons x l ih =>
    unfold insertFlight
    split
    · simp
    · simp only [List.mem_cons, ih]
      tauto

/-- The outcome of a wait is issued as R14 has it, by a core that stands as it did when its syllable began. -/
theorem State.resOutcome_due {s u : State} (hu : u.me = s.me) (hr : s.Room) (pabort bad : Bool) (res : BitVec 6) (kind : Bool) :
    ∃ fl, u.resOutcome pabort bad res.toNat kind = (u.modMe fun k => { k with flights := fl }) ∧
      s.due 1 (.p 15 s.me.priv) false (if bad then 1 else 0) ∈ fl ∧ effectDue s (.outcome pabort bad res kind) 0 ∈ fl := by
  let e := effectDue s (.outcome pabort bad res kind) 0
  let f := s.due 1 (.p 15 s.me.priv) false (if bad then 1 else 0)
  have hX : u.resX (.outcome pabort bad (BitVec.ofNat 6 res.toNat) kind) 0 = u.issues e := by
    rw [BitVec.ofNat_toNat, BitVec.setWidth_eq]
    refine State.modMe_congr ?_
    rw [hu]
    rfl
  have hme : (u.issues e).me = { s.me with flights := insertFlight e s.me.flights } := by
    rw [State.issues, State.me_modMe, hu]
  have hroom : (u.issues e).Room := by
    refine hr.imp (fun h => ?_) (fun h => ?_)
    · rw [hme]
      exact h
    · rw [hme]
      exact ((insertFlight_counts e s.me.flights).trans (by simp [e, effectDue, Core.inFlight])).trans_lt h
  refine ⟨insertFlight f (insertFlight e s.me.flights), ?_, mem_insertFlight.2 (.inl rfl),
    mem_insertFlight.2 (.inr (mem_insertFlight.2 (.inl rfl)))⟩
  rw [State.resOutcome, hX, State.resP, State.result_room hroom, hme]
  refine (State.modMe_modMe ..).trans (State.modMe_congr ?_)
  rw [hu]
  rfl

/-! ## Waiting (R34, R36, R125) -/

/-- A task whose wait has not begun has no outcome. -/
theorem Barrier.outcome_none {b : Barrier} {task : Nat} (h : ∀ w ∈ b.waits, w.1 ≠ task) : b.outcome task = none := by
  unfold Barrier.outcome
  rw [List.find?_eq_none.2 (by simpa using h)]
  rfl

/-- The outcome of the wait that was begun last. -/
theorem Barrier.outcome_cons {b : Barrier} {task ph : Nat} {l : List (Nat × Nat)} (h : b.waits = (task, ph) :: l) :
    b.outcome task = some (if b.bad.contains ph then some true else if ph < b.phase then some false else none) := by
  unfold Barrier.outcome
  rw [h, List.find?_cons_of_pos (by simp)]
  rfl

/-- A barrier at which a wait has ended. -/
def Barrier.ended (task : Nat) (b : Barrier) : Barrier := { b with waits := b.waits.filter fun w => w.1 != task }

/-- A barrier at which a task waits for a phase. -/
def Barrier.awaited (task rank ph : Nat) (b : Barrier) : Barrier :=
  { b with waits := (task, ph) :: b.waits, last := b.last.filter fun l => l.1 != rank }

/-- The end of a wait. -/
def State.endWait (s : State) (hb : BitVec 6) (task : Nat) (bad : Bool) : State :=
  (s.modHb hb (Barrier.ended task)).resOutcome false bad hb.toNat false

/-- What the end of a wait leaves, where nothing but the barrier has changed. -/
theorem State.endWait_due {s : State} (hr : s.Room) (hb : BitVec 6) (f : Barrier → Barrier) (task : Nat) (bad : Bool) :
    ∃ fl, (s.modHb hb f).endWait hb task bad = (s.modHb hb (Barrier.ended task ∘ f)).modMe (fun k => { k with flights := fl }) ∧
      s.due 1 (.p 15 s.me.priv) false (if bad then 1 else 0) ∈ fl ∧ effectDue s (.outcome false bad hb false) 0 ∈ fl := by
  obtain ⟨fl, h, h1, h2⟩ := State.resOutcome_due (s := s) (u := s.modHb hb (Barrier.ended task ∘ f)) rfl hr false bad hb false
  refine ⟨fl, ?_, h1, h2⟩
  rw [State.endWait, State.modHb_modHb, h]

section
variable {s : State} {hb : BitVec 6} {k : Task} (ht : s.me.task = some k.id) (hk : s.taskById k.id = some k)
include ht

/-- A wait whose phase has ended ends. -/
theorem State.barWait_ends {bad : Bool} (h : (s.hb hb).outcome k.id = some (some bad)) : s.barWait hb = s.endWait hb k.id bad := by
  unfold State.barWait
  simp only [ht, Option.getD_some, h]
  rfl

/-- A wait whose phase has not ended holds its bundle. -/
theorem State.barWait_holds (h : (s.hb hb).outcome k.id = some none) : s.barWait hb = s.holdOn (.barrier hb) := by
  unfold State.barWait
  simp only [ht, Option.getD_some, h]

/-- At a broken barrier a wait ends. -/
theorem State.barWait_broken (h : (s.hb hb).outcome k.id = none) (hbr : (s.hb hb).broken = true) :
    s.barWait hb = s.endWait hb k.id true := by
  unfold State.barWait
  simp only [ht, Option.getD_some, h, hbr, if_true]
  rfl

include hk

/-- A wait for the phase of the task's last arrival. -/
theorem State.barWait_last {ph : Nat} (h : (s.hb hb).outcome k.id = none) (hbr : (s.hb hb).broken = false)
    (ha : s.arriving hb k.id = false) (hl : (s.hb hb).last.find? (fun l => l.1 == k.rank) = some (k.rank, ph)) :
    s.barWait hb = if (s.hb hb).bad.contains ph then (s.modHb hb (Barrier.awaited k.id k.rank ph)).endWait hb k.id true
      else if ph < (s.hb hb).phase then (s.modHb hb (Barrier.awaited k.id k.rank ph)).endWait hb k.id false
      else (s.modHb hb (Barrier.awaited k.id k.rank ph)).holdOn (.barrier hb) := by
  have hmy : s.myTask = some k := by rw [State.myTask, ht]; exact hk
  have ho : ((s.modHb hb (Barrier.awaited k.id k.rank ph)).hb hb).outcome k.id =
      some (if (s.hb hb).bad.contains ph then some true else if ph < (s.hb hb).phase then some false else none) := by
    rw [State.hb_modHb_same]
    exact Barrier.outcome_cons rfl
  unfold State.barWait
  simp only [ht, Option.getD_some, h, hbr, ha, hmy, hl, Bool.false_eq_true, if_false]
  unfold Barrier.awaited at ho ⊢
  by_cases h1 : (s.hb hb).bad.contains ph = true
  · rw [if_pos h1] at ho
    simp only [ho, h1, if_true]
    rfl
  · by_cases h2 : ph < (s.hb hb).phase
    · rw [if_neg h1, if_pos h2] at ho
      simp only [ho, h1, h2, if_true, if_false, Bool.false_eq_true]
      rfl
    · rw [if_neg h1, if_neg h2] at ho
      simp only [ho, h1, h2, if_false, Bool.false_eq_true]

end

/-- The wait at a barrier. -/
theorem exec_barw (x : Lent) (hb : BitVec 6) (s : State) : exec (.barw x hb) s = execBarw x hb s := rfl

/-- Arrival and wait in one. -/
theorem exec_barwA (x : Lent) (hb : BitVec 6) (s : State) : exec (.barwA x hb) s = execBarwA x hb s := rfl

/-- What an ended wait leaves, as the statement has it. -/
theorem State.endWait_gives {s t : State} {hb : BitVec 6} {f : Barrier → Barrier} {bad : Bool} {fl : List Flight}
    (ht : t = (s.modHb hb f).modMe (fun k => { k with flights := fl }))
    (h1 : s.due 1 (.p 15 s.me.priv) false (if bad then 1 else 0) ∈ fl) (h2 : effectDue s (.outcome false bad hb false) 0 ∈ fl) :
    OutcomeDue s t false bad hb false ∧ SameRegisters s t ∧ t.mem = s.mem ∧ t.me.bun = s.me.bun := by
  have hme : t.me = { s.me with flights := fl } := by
    rw [ht, State.me_modMe]
    rfl
  refine ⟨⟨hme ▸ h1, hme ▸ h2, fun k => tokstatAfter_eq ..⟩, sameRegisters_of_eq (by rw [hme]) (by rw [hme]) (by rw [ht]; rfl),
    by rw [ht]; rfl, by rw [hme]⟩

/-- R34, R36, R125: waits. -/
theorem barrierWait : Claims.BarrierWait := by
  intro s x hb k b hs hr hroom hm rfl hw ha
  have hnone : (s.hb hb).outcome k.id = none := Barrier.outcome_none hw
  have hfault : s.waitFault hb = none := by
    unfold State.waitFault
    rw [hm.2.2.1, Option.getD_some, hnone]
    exact State.barrierFault_member hm
  have hbody {t : State} (ht : s.barWait hb = t) (h1 : t.mem = s.mem) (h2 : t.part = s.part) (h3 : t.dev.wbuf = []) :
      exec (.barw x hb) s = .next t := by
    refine act_syl_answers hr rfl ?_ h1 h2 h3
    simp only [hfault]
    exact ht
  have hbodyA {t : State} (hbr : (s.hb hb).broken = false) (harr : s.arrivingHeld hb k.id = false)
      (ht : ((s.deferOn (.arrive hb k.id true)).runDefers s.dev.cur.core).barWait hb = t) (h1 : t.mem = s.mem) (h2 : t.part = s.part)
      (h3 : t.dev.wbuf = []) : exec (.barwA x hb) s = .next t := by
    refine act_syl_answers hr rfl ?_ h1 h2 h3
    simp only [hfault, hm.2.2.1, Option.getD_some, hnone, harr, hbr, Option.isSome_none, Bool.or_false, Bool.false_eq_true, if_false]
    exact ht
  have ended {i : Instr} {u : State} {f : Barrier → Barrier} {bad : Bool} (hx : ∀ t, u = t → t.mem = s.mem → t.part = s.part →
      t.dev.wbuf = [] → exec i s = .next t) (hu : u = (s.modHb hb f).endWait hb k.id bad) : Gives i s fun t =>
      (OutcomeDue s t false bad hb false ∧ SameRegisters s t ∧ t.mem = s.mem ∧ t.me.bun = s.me.bun) ∧
        t.hb hb = Barrier.ended k.id (f (s.hb hb)) := by
    obtain ⟨fl, h, h1, h2⟩ := State.endWait_due hroom hb f k.id bad
    rw [h] at hu
    exact ⟨_, hx _ hu rfl rfl hs, State.endWait_gives rfl h1 h2, State.hb_modHb_same ..⟩
  have held {i : Instr} {u : State} {f : Barrier → Barrier} (hx : ∀ t, u = t → t.mem = s.mem → t.part = s.part →
      t.dev.wbuf = [] → exec i s = .next t) (hu : u = (s.modHb hb f).holdOn (.barrier hb)) : Gives i s fun t =>
      t.me.bun.hold = some (.barrier hb) ∧ t.me.flights = s.me.flights ∧ SameRegisters s t ∧ t.mem = s.mem ∧
        t.hb hb = f (s.hb hb) := by
    have hme : ((s.modHb hb f).holdOn (.barrier hb)).me = { s.me with bun := { s.me.bun with hold := some (.barrier hb) } } :=
      State.me_modMe ..
    refine ⟨_, hx _ hu rfl rfl hs, by rw [hme], by rw [hme], sameRegisters_of_eq (by rw [hme]) (by rw [hme]) rfl, rfl,
      State.hb_modHb_same ..⟩
  refine ⟨fun hbr => ?_, fun hbr ph hl => ⟨fun hph => ?_, fun hle hnb => ?_⟩,
    fun hbr hnb hrel harr => ⟨fun hle => ?_, fun hlt => ?_⟩⟩
  · obtain ⟨t, hx, ho, -⟩ := ended (f := id) (fun t ht => hbody ht)
      ((State.barWait_broken hm.2.2.1 hnone hbr).trans (by rw [State.modHb_id]))
    exact ⟨t, hx, ho⟩
  · have hlast := State.barWait_last hm.2.2.1 hm.2.2.2.1 hnone hbr ha hl
    by_cases hc : (s.hb hb).bad.contains ph = true
    · obtain ⟨t, hx, ho, -⟩ := ended (fun t ht => hbody ht) (hlast.trans (if_pos hc))
      exact ⟨t, hx, hc ▸ ho⟩
    · have hlt : ph < (s.hb hb).phase := hph.resolve_right fun h => hc (List.contains_iff_mem.2 h)
      obtain ⟨t, hx, ho, -⟩ := ended (fun t ht => hbody ht) (hlast.trans ((if_neg hc).trans (if_pos hlt)))
      exact ⟨t, hx, (Bool.not_eq_true _ ▸ hc : (s.hb hb).bad.contains ph = false) ▸ ho⟩
  · have hlast := State.barWait_last hm.2.2.1 hm.2.2.2.1 hnone hbr ha hl
    rw [if_neg (fun h => hnb (List.contains_iff_mem.1 h)), if_neg (Nat.not_lt.2 hle)] at hlast
    obtain ⟨t, hx, h1, h2, h3, h4, -⟩ := held (fun t ht => hbody ht) hlast
    exact ⟨t, hx, h1, h2, h3, h4⟩
  · obtain ⟨f, hf, hspec⟩ := State.arrives_now hm hrel hbr true
    rcases hspec with ⟨hlt, -⟩ | ⟨-, hspec⟩
    · omega
    have hout : ((s.modHb hb f).hb hb).outcome k.id = some (some false) ∧ (f (s.hb hb)).count = 0 ∧
        (s.hb hb).phase < (f (s.hb hb)).phase := by
      rw [State.hb_modHb_same]
      obtain ⟨g, rfl | rfl, rfl⟩ := hspec
      · refine ⟨(Barrier.outcome_cons rfl).trans (congrArg some ?_), rfl, Nat.lt_succ_self _⟩
        exact (if_neg fun h => hnb (List.contains_iff_mem.1 h)).trans (if_pos (Nat.lt_succ_self _))
      · refine ⟨(Barrier.outcome_cons rfl).trans (congrArg some ?_), rfl, Nat.lt_succ_of_lt (Nat.lt_succ_self _)⟩
        refine (if_neg fun h => ?_).trans (if_pos (Nat.lt_succ_of_lt (Nat.lt_succ_self _)))
        rcases List.mem_cons.1 (List.contains_iff_mem.1 h) with h | h
        · exact absurd h (Nat.ne_of_lt (Nat.lt_succ_self _))
        · exact hnb h
    obtain ⟨ho, hcount, hphase⟩ := hout
    obtain ⟨t, hx, ⟨h1, h2, h3, h4⟩, h5⟩ := ended (fun t ht => hbodyA hbr harr (by rw [hf]; exact ht))
      (State.barWait_ends (s := s.modHb hb f) hm.2.2.1 ho)
    exact ⟨t, hx, h1, h5 ▸ hcount, h5 ▸ hphase, h2, h3, h4⟩
  · obtain ⟨f, hf, hspec⟩ := State.arrives_now hm hrel hbr true
    rcases hspec with ⟨-, rfl⟩ | ⟨hle, -⟩
    · have ho : ((s.modHb hb (Barrier.counted k.rank k.id true)).hb hb).outcome k.id = some none := by
        rw [State.hb_modHb_same]
        refine (Barrier.outcome_cons rfl).trans (congrArg some ?_)
        exact (if_neg fun h => hnb (List.contains_iff_mem.1 h)).trans (if_neg (Nat.lt_irrefl _))
      obtain ⟨t, hx, h1, h2, h3, h4, h5⟩ := held (fun t ht => hbodyA hbr harr (by rw [hf]; exact ht))
        (State.barWait_holds (s := s.modHb hb _) hm.2.2.1 ho)
      exact ⟨t, hx, h1, h5 ▸ rfl, h2, h3, h4⟩
    · omega

end Sys2Proof.Machine

/-! `barset` (R212, R241). -/

namespace Sys2Proof.Machine

open Sys2Proof.Claims

/-- PERM for a resource that the tenant was not given (R212, R387). -/
theorem State.trapResource_eq (s : State) : s.trapResource = refusedHere s := by
  rw [State.trapResource, State.trapAt, State.trap_eq]
  rfl

/-- An element of a vector whose elements were changed. -/
theorem vector_get_map {α β : Type} {n : Nat} (f : α → β) (v : Vector α n) (i : Fin n) : (v.map f).get i = f (v.get i) :=
  Vector.getElem_map f i.isLt

/-- A barrier whose waiters are to find their phase broken (R241). -/
def Barrier.rebroken (w : Barrier → List (Nat × Nat)) (b : Barrier) : Barrier :=
  { b with waits := w b, bad := b.phase :: b.bad, phase := b.phase + 1 }

/-- Breaking the waiters changes the barrier, and the releases that wait. -/
theorem State.breakWaiters_only (s : State) (n : BitVec 6) : ∃ (u : State) (w : Barrier → List (Nat × Nat)),
    s.breakWaiters n = u.modHb n (Barrier.rebroken w) ∧ (∃ df, u.me = { s.me with defer := df }) ∧ u.mem = s.mem ∧ u.part = s.part ∧
    u.dev.wbuf = s.dev.wbuf ∧ ∀ m, u.hb m = s.hb m := by
  unfold State.breakWaiters
  dsimp only
  split
  · exact ⟨s, _, rfl, ⟨s.me.defer, rfl⟩, rfl, rfl, rfl, fun _ => rfl⟩
  · exact ⟨_, _, rfl, ⟨_, vector_get_map ..⟩, rfl, rfl, rfl, fun _ => rfl⟩

/-- A barrier as `barset` binds it. -/
def Barrier.bound (cohort : Option Nat) (expect : Nat) (members : BitVec 128) (b : Barrier) : Barrier :=
  { b with cohort := cohort, expect := expect, members := members, count := 0, arrived := [], last := [], broken := false }

/-- The binding of a barrier by `barset`. -/
def State.bindBarrier (s : State) (hb : BitVec 6) (expect : Nat) (m : BitVec 128) : State :=
  ((s.breakWaiters hb).modHb hb (Barrier.bound (s.myTask.map (·.cohort)) expect m)).testBarrier hb

/-- What a binding leaves. -/
theorem State.bindBarrier_gives {s : State} {hb : BitVec 6} {k : Task} (hmy : s.myTask = some k) (expect : Nat) (m : BitVec 128) :
    (s.bindBarrier hb expect m).mem = s.mem ∧ (s.bindBarrier hb expect m).part = s.part ∧
    (s.bindBarrier hb expect m).dev.wbuf = s.dev.wbuf ∧ (∃ df, (s.bindBarrier hb expect m).me = { s.me with defer := df }) ∧
    (∀ n, n ≠ hb → (s.bindBarrier hb expect m).hb n = s.hb n) ∧
    ∃ w g, (g = id ∨ g = Barrier.brokenNow) ∧
      (s.bindBarrier hb expect m).hb hb = g (Barrier.bound (some k.cohort) expect m (Barrier.rebroken w (s.hb hb))) := by
  obtain ⟨u, w, hu, hme, hm, hp, hwb, hhb⟩ := s.breakWaiters_only hb
  obtain ⟨g, hg, hid⟩ := ((s.breakWaiters hb).modHb hb (Barrier.bound (s.myTask.map (·.cohort)) expect m)).testBarrier_only hb
  have he : s.bindBarrier hb expect m = u.modHb hb (g ∘ Barrier.bound (some k.cohort) expect m ∘ Barrier.rebroken w) := by
    rw [State.bindBarrier, hg, hu, State.modHb_modHb, State.modHb_modHb, hmy]
    rfl
  rw [he]
  refine ⟨hm, hp, hwb, hme, fun n hn => (State.hb_modHb_ne u _ hn).trans (hhb n), w, g, hid, ?_⟩
  rw [State.hb_modHb_same, hhb]
  rfl

/-- The member set that `barset` reads from the local store. -/
def State.barsetMembers (s : State) (off : Nat) : BitVec 128 := BitVec.ofNat 128 (leNat (s.readPart s.dev.cur.core (s.me.seq 0)
  { va := Config.lsBase + off, len := 16, pa := some (lsAddr s.dev.cur.core off), sc := false }))

/-- The member set is the bytes of the local store, where nothing of the core's own is on its way to them. -/
theorem State.barsetMembers_local {s : State} {off : Nat} (hs : s.dev.wbuf = []) (hw : s.dev.writes = []) (ho : off + 16 ≤ 2 ^ 20)
    (he : NoEntryOver s 0 (Config.lsBase + off) 16) :
    s.barsetMembers off = BitVec.ofNat 128 (memNat s (lsPlace s (Config.lsBase + off)) 16) := by
  have hp : lsAddr s.dev.cur.core off = lsPlace s (Config.lsBase + off) := by rw [lsPlace, Nat.add_sub_cancel_left]
  have hv : Config.lsBase + off + 16 ≤ Config.vaLimit := by
    have : Config.lsBase + 2 ^ 20 = Config.vaLimit := by decide
    omega
  rw [State.barsetMembers, hp, State.readPart_local hs (Nat.le_add_right ..) hv (by decide) hw he]
  rfl

/-- R34, R36, R241: `barset`. -/
theorem barrierBound : Claims.BarrierBound := by
  intro s x hb a b k h m hs hr hw he
  refine ⟨fun hno => ?_, fun hmine hen => ?_⟩
  · refine act_syl_answers hr rfl ((if_pos ?_).trans (State.trapResource_eq s)) rfl rfl hs
    rcases hno with h | h <;> simp [h]
  have howned : ¬ ((!s.mine (s.hb hb).owner || !(s.hb hb).en) = true) := by simp [hmine, hen]
  refine ⟨fun hops => act_syl_trap hs hr rfl ((if_neg howned).trans (if_pos hops)), fun h1 h2 h3 h4 => ?_,
    fun ht hk hh h1 h2 h3 hmem => ?_⟩
  · exact act_syl_trap hs hr rfl ((if_neg howned).trans
      ((if_neg (not_or.2 ⟨h1, not_or.2 ⟨by omega, by omega⟩⟩)).trans (if_pos h4)))
  have hmem' : s.barsetMembers (s.sreg b).toNat = m := (State.barsetMembers_local hs hw h3 he).trans hmem.symm
  have hmy : s.myTask = some k := by rw [State.myTask, ht]; exact hk
  have hsize : (s.myTask.bind fun t => s.cohortById t.cohort) = some h := by rw [hmy]; exact hh
  refine ⟨fun hlt => ?_, fun hle => act_syl_trap hs hr rfl ((if_neg howned).trans
    ((if_neg (not_or.2 ⟨h1, not_or.2 ⟨by omega, by omega⟩⟩)).trans ((if_neg (Nat.not_lt.2 h3)).trans ?_)))⟩
  · obtain ⟨hm1, hm2, hm3, ⟨df, hme⟩, hoth, w, g, hg, hthis⟩ := State.bindBarrier_gives (hb := hb) hmy (s.sreg a).toNat m
    refine ⟨s.bindBarrier hb (s.sreg a).toNat m, act_syl_answers hr rfl ((if_neg howned).trans
      ((if_neg (not_or.2 ⟨h1, not_or.2 ⟨by omega, by omega⟩⟩)).trans ((if_neg (Nat.not_lt.2 h3)).trans ?_))) hm1 hm2 (hm3.trans hs), ?_⟩
    · simp only [hsize]
      refine (if_neg ?_).trans (by rw [← hmem']; rfl)
      change ¬ ((s.barsetMembers (s.sreg b).toNat).toNat / 2 ^ h.size ≠ 0)
      rw [hmem', Nat.div_eq_of_lt hlt]
      exact fun h => h rfl
    · have hreg : SameRegisters s (s.bindBarrier hb (s.sreg a).toNat m) := sameRegisters_of_eq (by rw [hme]) (by rw [hme]) hm2
      refine ⟨?_, ?_, ?_, ?_, ?_, ?_, ?_, hoth, by rw [hme], hreg, hm1, by rw [hme], by rw [hme]⟩ <;> rw [hthis] <;>
        rcases hg with rfl | rfl
      any_goals rfl
      · exact List.mem_cons_self
      · exact List.mem_cons_of_mem _ List.mem_cons_self
      · exact Nat.lt_succ_self _
      · exact Nat.lt_succ_of_lt (Nat.lt_succ_self _)
  · simp only [hsize]
    refine if_pos ?_
    change (s.barsetMembers (s.sreg b).toNat).toNat / 2 ^ h.size ≠ 0
    rw [hmem']
    exact (Nat.div_pos hle (Nat.two_pow_pos _)).ne'

/-- Settles O35, clause by clause. -/
theorem barriers : Obligations.Barriers := ⟨barrierArrival, barrierWait, barrierBound⟩

end Sys2Proof.Machine

/-! The start of a task on a core whose latches hold bytes that memory lists out of order (R12). -/

namespace Sys2Proof.Machine

open Sys2Proof.Claims

/-- A launch of one task. -/
def startLaunch : Launch :=
  { id := 1, tenant := 0, queue := 0, hdr := .replicate 8 0, entries := [], doneWord := 0, arrival := 0, due := 0, killed := false }

/-- Its cohort, resident. -/
def startCohort : Cohort :=
  { id := 1, launch := 1, order := 0, size := 1, frame := 0, state := .resident, admitted := true, asked := false, frameDone := none }

/-- Its task, which may start on core 0. -/
def startTask : Task :=
  { id := 1, cohort := 1, rank := 0, wid := 0, where_ := .fresh, ctxid := 0, area := none, place := some 0, pairs := 0 }

/-- A byte of latch 0 of core 0 is listed in memory behind one of latch 1: no step leaves memory so, but no hypothesis of the statement
excludes it. -/
def unsortedState : State :=
  ({ State.reset with mem := { cells := [(latchAddr 0 1 0, 1), (latchAddr 0 0 0, 1)] } }.upd fun d => { d with
    launches := [startLaunch], cohorts := [startCohort], tasks := [startTask], cur := { d.cur with n := 1 } }).modMe fun k =>
    { k with microImg := some (0, startLaunch.image) }

/-- The start of a task. -/
theorem exec_taskStart (s : State) : exec .taskStart s = execTaskStart s := rfl

/-- Refutes O52: a task that starts finds the latches of its core cleared only where memory is in its canonical form, and the statement
does not ask for that. The byte of latch 0 is written with 0 while the byte of latch 1 hides it, and shows once that is gone. -/
theorem not_cohortsRun : ¬ Obligations.CohortsRun := by
  intro ⟨_, _, _, h⟩
  obtain ⟨hstart, -⟩ := h unsortedState startTask startLaunch 0 rfl (by decide +kernel) (by decide +kernel)
  obtain ⟨t, he, -, -, -, -, -, -, -, -, hl, -⟩ := hstart 0 rfl (by decide) (by decide +kernel) (by decide)
  rw [exec_taskStart] at he
  obtain rfl := Host.Outcome.next.inj he
  obtain ⟨-, -, -, hread⟩ := hl (.inl (by decide +kernel))
  have h0 := hread 0 0 (by decide) (by decide)
  revert h0
  decide +kernel

end Sys2Proof.Machine

/-! What pre-emption and the watchdog leave of tasks, queues and the cursor (R27, R301, R365, R366, R378). -/

namespace Sys2Proof.Machine

open Sys2Proof.Claims

/-! ## The parts of the device that a matrix unit, a barrier or a fault log never changes -/

/-- Tasks, command queues and cursor. -/
def State.plan (s : State) : List Task × Vector CmdQueue 256 × Who := (s.dev.tasks, s.dev.cqs, s.dev.cur)

/-- Changes that keep the plan, one after another. -/
theorem plan_foldl {α : Type} {f : State → α → State} (h : ∀ s x, (f s x).plan = s.plan) (l : List α) (s : State) :
    (l.foldl f s).plan = s.plan := by
  induction l generalizing s with
  | nil => rfl
  | cons x l ih => exact (ih (f s x)).trans (h s x)

section
variable (s : State)

@[simp] theorem plan_modCore (c : CoreId) (f : Core → Core) : (s.modCore c f).plan = s.plan := rfl
@[simp] theorem plan_modTenant (t : TenantId) (f : Tenant → Tenant) : (s.modTenant t f).plan = s.plan := rfl
@[simp] theorem plan_modHb (n : BitVec 6) (f : Barrier → Barrier) : (s.modHb n f).plan = s.plan := rfl
@[simp] theorem plan_modSg (n : BitVec 5) (f : StepGroup → StepGroup) : (s.modSg n f).plan = s.plan := rfl
@[simp] theorem plan_modPz (n : BitVec 6) (f : Zone → Zone) : (s.modPz n f).plan = s.plan := rfl
@[simp] theorem plan_modStream (n : BitVec 8) (f : StreamRec → StreamRec) : (s.modStream n f).plan = s.plan := rfl
@[simp] theorem plan_modCohort (n : Nat) (f : Cohort → Cohort) : (s.modCohort n f).plan = s.plan := rfl
@[simp] theorem plan_modLaunch (n : Nat) (f : Launch → Launch) : (s.modLaunch n f).plan = s.plan := rfl
@[simp] theorem plan_setCell (a : Nat) (b : Byte) : (s.setCell a b).plan = s.plan := rfl
@[simp] theorem plan_emit (o : HostOut) : (s.emit o).plan = s.plan := rfl

/-! ## Bytes written -/

@[simp] theorem plan_setCells (a : Nat) (bs : List Byte) : (s.setCells a bs).plan = s.plan := by
  induction bs generalizing s a with
  | nil => rfl
  | cons b bs ih => exact ih ..

@[simp] theorem plan_enterKey (k : BitVec 512) (p : Nat) : (s.enterKey k p).plan = s.plan := by
  have retag (u : State) (t : UnitTag) : (u.upd fun d => { d with tags := setTag (p / 64) t d.tags }).plan = u.plan := rfl
  unfold State.enterKey
  split
  · split
    · rfl
    · rw [retag, plan_setCells]
  · rw [retag, plan_setCells]
  · rfl

@[simp] theorem plan_poke (a : Nat) (b : Byte) : (s.poke a b).plan = s.plan := by
  unfold State.poke
  split <;> simp

@[simp] theorem plan_pokes (a : Nat) (bs : List Byte) : (s.pokes a bs).plan = s.plan := by
  induction bs generalizing s a with
  | nil => rfl
  | cons b bs ih => exact (ih ..).trans (plan_poke ..)

@[simp] theorem plan_pokeSpan (l : List (Nat × Nat)) (bs : List Byte) : (s.pokeSpan l bs).plan = s.plan := by
  induction l generalizing s bs with
  | nil => rfl
  | cons p l ih => exact (ih ..).trans (plan_pokes ..)

@[simp] theorem plan_clearRange (a n : Nat) : (s.clearRange a n).plan = s.plan := plan_foldl (fun _ _ => plan_poke ..) _ s

@[simp] theorem plan_clearBut (a n : Nat) (kept : List (Nat × Nat)) : (s.clearBut a n kept).plan = s.plan :=
  plan_foldl (fun _ _ => plan_poke ..) _ s

/-! ## The matrix unit runs its queue to completion (R209) -/

@[simp] theorem plan_addLand (c : CoreId) (l : MLand) : (s.addLand c l).plan = s.plan := rfl

@[simp] theorem plan_startWrites (c : CoreId) (m : MCmd) (x ahead : Nat) : (s.startWrites c m x ahead).plan = s.plan := by
  unfold State.startWrites
  split <;> simp

@[simp] theorem plan_matStart (c : CoreId) (x ahead : Nat) : (s.matStart c x ahead).plan = s.plan := by
  unfold State.matStart
  split
  · rfl
  · split <;> simp

@[simp] theorem plan_landDrain (c : CoreId) (t : BitVec 3) (row : Nat) (sums : List Chain) (asc : Byte) (bs : BitVec 32)
    (int sat : Bool) : (s.landDrain c t row sums asc bs int sat).plan = s.plan :=
  (plan_modCore ..).trans (plan_foldl (fun _ _ => plan_pokes ..) _ s)

@[simp] theorem plan_landPair (c : CoreId) (r : MRun) (i cols : Nat) (row : List Byte) : (s.landPair c r i cols row).plan = s.plan := by
  unfold State.landPair
  split <;> simp

@[simp] theorem plan_matLandOne (c : CoreId) (l : MLand) : (s.matLandOne c l).plan = s.plan := by
  unfold State.matLandOne
  split
  · split <;> simp
  all_goals simp

@[simp] theorem plan_matLand (c : CoreId) (x : Nat) : (s.matLand c x).plan = s.plan := by
  unfold State.matLand
  refine (plan_foldl (fun u r => ?_) _ _).trans ((plan_foldl (fun u l => plan_matLandOne ..) _ _).trans (plan_modCore ..))
  split <;> simp

@[simp] theorem plan_passRow (c : CoreId) (r : MRun) (t fa fb : BitVec 3) (sat : Bool) (i x : Nat) :
    (s.passRow c r t fa fb sat i x).plan = s.plan := by
  unfold State.passRow
  split <;> simp

@[simp] theorem plan_pairRow (c : CoreId) (r : MRun) (t : BitVec 3) (i x : Nat) : (s.pairRow c r t i x).plan = s.plan := by
  unfold State.pairRow
  split
  · rfl
  · dsimp only
    split <;> simp

@[simp] theorem plan_drainRow (c : CoreId) (r : MRun) (t : BitVec 3) (f : BitVec 2) (z : Bool) (due : List MLand) (x i : Nat) :
    (s.drainRow c r t f z due x i).plan = s.plan := by
  unfold State.drainRow
  split
  · rfl
  · dsimp only
    split <;> simp

@[simp] theorem plan_latchChunk (c : CoreId) (r : MRun) (kk : BitVec 2) (f : BitVec 3) (i : Nat) :
    (s.latchChunk c r kk f i).plan = s.plan := by
  unfold State.latchChunk
  dsimp only
  split
  · rfl
  · split <;> simp [plan_foldl]

@[simp] theorem plan_runReads (c : CoreId) (r : MRun) (due : List MLand) (x ahead : Nat) : (s.runReads c r due x ahead).plan = s.plan := by
  unfold State.runReads
  dsimp only
  split
  · split <;> simp
  · split <;> simp
  · split <;> simp
  · exact plan_passRow ..
  · exact plan_pairRow ..
  · exact plan_latchChunk ..
  · exact (plan_drainRow ..).trans (plan_drainRow ..)
  · split
    · rfl
    · exact plan_foldl (fun _ _ => plan_modCore ..) _ s
  · rfl

@[simp] theorem plan_matReads (c : CoreId) (due : List MLand) (x ahead : Nat) : (s.matReads c due x ahead).plan = s.plan :=
  (plan_modCore ..).trans (plan_foldl (fun _ _ => plan_runReads ..) _ s)

@[simp] theorem plan_matClock (c : CoreId) (x ahead : Nat) : (s.matClock c x ahead).plan = s.plan := by
  unfold State.matClock
  simp

@[simp] theorem plan_matDrain (c : CoreId) (n ahead : Nat) (wait : Bool) : (State.matDrain c n ahead wait s).plan = s.plan := by
  induction n generalizing s ahead wait with
  | zero => rfl
  | succ n ih =>
    unfold State.matDrain
    dsimp only
    split_ifs <;> simp [ih]

@[simp] theorem plan_matFlush (c : CoreId) : (s.matFlush c).plan = s.plan := (plan_modCore ..).trans (plan_matDrain ..)

/-! ## Barriers and step groups when a task ends (R36, R37, R246) -/

@[simp] theorem plan_testBarrier (n : BitVec 6) : (s.testBarrier n).plan = s.plan := by
  obtain ⟨f, hf, -⟩ := s.testBarrier_only n
  rw [hf, plan_modHb]

@[simp] theorem plan_modZones (g : BitVec 5) (f : Zone → Zone) : (s.modZones g f).plan = s.plan :=
  plan_foldl (fun _ _ => plan_modPz ..) _ s

@[simp] theorem plan_breakStep (n : BitVec 5) : (s.breakStep n).plan = s.plan := by
  unfold State.breakStep
  simp

@[simp] theorem plan_groupLoses (n : BitVec 5) (task : Nat) : (s.groupLoses n task).plan = s.plan := by
  unfold State.groupLoses
  dsimp only
  split_ifs <;> split <;> simp [apply_ite State.plan]

theorem plan_forUpto {f : Nat → State → State} (h : ∀ i s, (f i s).plan = s.plan) (n : Nat) : (forUpto n f s).plan = s.plan :=
  plan_foldl (fun s i => h i s) _ s

@[simp] theorem plan_leaveSync (task : Nat) : (s.leaveSync task).plan = s.plan := by
  unfold State.leaveSync
  split
  · rfl
  · refine (plan_forUpto _ (fun _ _ => plan_groupLoses ..) _).trans (plan_forUpto _ (fun i u => ?_) _)
    dsimp only
    split_ifs <;> simp

/-! ## Contexts, frames and the fault log -/

@[simp] theorem plan_losePair (p : CoreId) (cohort : Nat) : (s.losePair p cohort).plan = s.plan := by
  unfold State.losePair
  dsimp only
  split <;> rfl

theorem plan_cores (v : Vector Core 128) : (s.upd fun d => { d with cores := v }).plan = s.plan := rfl

@[simp] theorem plan_dropTiles (t : TenantId) (n : Nat) : (s.dropTiles t n).plan = s.plan := by
  unfold State.dropTiles
  dsimp only
  split
  · rfl
  · exact plan_cores ..

@[simp] theorem plan_unqueue (c : CoreId) : (s.unqueue c).plan = s.plan := rfl

@[simp] theorem plan_endContext (c : CoreId) (run : Run) : (s.endContext c run).plan = s.plan :=
  (plan_modCore ..).trans ((plan_unqueue ..).trans (plan_matFlush ..))

@[simp] theorem plan_boundaries (n : BitVec 8) (fuel : Nat) : (State.boundaries n fuel s).plan = s.plan := by
  induction fuel generalizing s with
  | zero => rfl
  | succ fuel ih =>
    unfold State.boundaries
    split
    · exact (ih _).trans rfl
    · rfl

theorem plan_devWrite {u : State} {t : TenantId} {va : Nat} {bs : List Byte} (h : s.devWrite t va bs = .ok u) : u.plan = s.plan := by
  unfold State.devWrite at h
  split at h
  · cases h
  · obtain rfl := Except.ok.inj h
    exact plan_pokeSpan ..

@[simp] theorem plan_logEntry (t : TenantId) (a b d : Nat) : (s.logEntry t a b d).plan = s.plan := by
  unfold State.logEntry
  dsimp only
  split
  · rfl
  · split
    · rfl
    · rename_i u h
      exact Eq.trans (b := u.plan) rfl ((plan_devWrite _ h).trans rfl)

end

/-! ## Tasks end (R27, R312) -/

/-- Tasks and cursor. -/
def State.roster (s : State) : List Task × Who := (s.dev.tasks, s.dev.cur)

/-- Where the plan stays, tasks and cursor do. -/
theorem roster_of_plan {s t : State} (h : t.plan = s.plan) : t.roster = s.roster := by
  simp only [State.plan, Prod.mk.injEq] at h
  simp only [State.roster, h.1, h.2.2]

section
variable (s : State)

@[simp] theorem roster_modTenant (t : TenantId) (f : Tenant → Tenant) : (s.modTenant t f).roster = s.roster := rfl
@[simp] theorem roster_modLaunch (n : Nat) (f : Launch → Launch) : (s.modLaunch n f).roster = s.roster := rfl
@[simp] theorem roster_modCohort (n : Nat) (f : Cohort → Cohort) : (s.modCohort n f).roster = s.roster := rfl
@[simp] theorem roster_progress (t : TenantId) (q : QueueId) : (s.progress t q).roster = s.roster := rfl
@[simp] theorem roster_wantDecision (t : TenantId) : (s.wantDecision t).roster = s.roster := rfl
@[simp] theorem roster_leaveSync (task : Nat) : (s.leaveSync task).roster = s.roster := roster_of_plan (plan_leaveSync ..)
@[simp] theorem roster_boundaries (n : BitVec 8) (fuel : Nat) : (State.boundaries n fuel s).roster = s.roster :=
  roster_of_plan (plan_boundaries ..)

/-- What the end of a task does beside ending it leaves every task as it is. -/
theorem taskEnds_roster {id : Nat} {t : Task} (h : s.taskById id = some t) (killed : Bool) :
    (s.taskEnds id killed).roster =
      (s.modTask id fun t => { t with where_ := .ended killed, ctxid := 0, area := none }).roster := by
  have hlose (u : State) (hu : u.plan = s.plan) (f : Task → Task) : (u.modTask id f).roster = (s.modTask id f).roster := by
    simp only [State.plan, Prod.mk.injEq] at hu
    simp only [State.roster, State.modTask, State.upd, hu.1, hu.2.2]
  unfold State.taskEnds
  rw [h]
  dsimp only
  cases t.place with
  | none =>
    refine Eq.trans ?_ (hlose s rfl _)
    dsimp only
    split
    · rfl
    · split
      · rfl
      · split_ifs <;> simp
  | some p =>
    refine Eq.trans ?_ (hlose (s.losePair p t.cohort) (plan_losePair ..) _)
    dsimp only
    split
    · rfl
    · split
      · rfl
      · split_ifs <;> simp

end

/-- Of the same tasks some more have ended, and the cursor stands where it stood. -/
def Ages (s t : State) : Prop := t.dev.cur = s.dev.cur ∧ ∃ f : Task → Task, t.dev.tasks = s.dev.tasks.map f ∧
  ∀ k, (f k).id = k.id ∧ (f k).cohort = k.cohort ∧ (k.alive = false → (f k).alive = false)

namespace Ages

/-- Where tasks and cursor stay nothing has ended. -/
theorem of_roster {s t : State} (h : t.roster = s.roster) : Ages s t := by
  simp only [State.roster, Prod.mk.injEq] at h
  exact ⟨h.2, id, by rw [h.1, List.map_id], fun _ => ⟨rfl, rfl, id⟩⟩

theorem trans {s t u : State} (h : Ages s t) (h' : Ages t u) : Ages s u := by
  obtain ⟨hc, f, hf, hk⟩ := h
  obtain ⟨hc', g, hg, hk'⟩ := h'
  refine ⟨hc'.trans hc, g ∘ f, by rw [hg, hf, List.map_map], fun k => ?_⟩
  obtain ⟨h1, h2, h3⟩ := hk k
  obtain ⟨h1', h2', h3'⟩ := hk' (f k)
  exact ⟨h1'.trans h1, h2'.trans h2, h3' ∘ h3⟩

/-- A task stands among the earlier ones, and if it had ended it still has. -/
theorem mem {s t : State} (h : Ages s t) {k : Task} (hk : k ∈ t.dev.tasks) :
    ∃ k' ∈ s.dev.tasks, k.id = k'.id ∧ k.cohort = k'.cohort ∧ (k'.alive = false → k.alive = false) := by
  obtain ⟨-, f, hf, hfk⟩ := h
  rw [hf] at hk
  obtain ⟨k', hk', rfl⟩ := List.mem_map.1 hk
  exact ⟨k', hk', hfk k'⟩

/-- Numbers stay. -/
theorem ids {s t : State} (h : Ages s t) : t.dev.tasks.map (·.id) = s.dev.tasks.map (·.id) := by
  obtain ⟨-, f, hf, hfk⟩ := h
  rw [hf, List.map_map]
  exact List.map_congr_left fun k _ => (hfk k).1

end Ages

/-- No task of a number lives. -/
def Dead (s : State) (id : Nat) : Prop := ∀ k ∈ s.dev.tasks, k.id = id → k.alive = false

/-- What has ended stays so. -/
theorem Dead.ages {s t : State} {id : Nat} (h : Dead s id) (ha : Ages s t) : Dead t id := fun k hk hid => by
  obtain ⟨k', hk', hi, -, halive⟩ := ha.mem hk
  exact halive (h k' hk' (hi.symm.trans hid))

/-- A task that has ended lives no more, and the others are as they were. -/
theorem taskEnds_ages {s : State} {id : Nat} {t : Task} (h : s.taskById id = some t) (killed : Bool) :
    Ages s (s.taskEnds id killed) ∧ Dead (s.taskEnds id killed) id := by
  have hr := Ages.of_roster (taskEnds_roster s h killed)
  have hend : Ages s (s.modTask id fun t => { t with where_ := .ended killed, ctxid := 0, area := none }) :=
    ⟨rfl, _, rfl, fun k => by
      dsimp only
      split
      · exact ⟨rfl, rfl, fun _ => rfl⟩
      · exact ⟨rfl, rfl, fun h => h⟩⟩
  refine ⟨hend.trans hr, Dead.ages (fun k hk hid => ?_) hr⟩
  obtain ⟨k', hk', rfl⟩ := List.mem_map.1 hk
  dsimp only at hid ⊢
  split at hid
  · rw [if_pos ‹_›]
    rfl
  · exact absurd hid ‹_›

/-- The task of a number, where numbers name one task each. -/
theorem taskById_of_mem {s : State} (hn : (s.dev.tasks.map (·.id)).Nodup) {k : Task} (hk : k ∈ s.dev.tasks) :
    s.taskById k.id = some k := by
  obtain ⟨k', hf⟩ := Option.isSome_iff_exists.1 (List.find?_isSome.2 ⟨k, hk, beq_self_eq_true k.id⟩ :
    (s.dev.tasks.find? fun t => t.id == k.id).isSome)
  have hid : k'.id = k.id := by simpa using List.find?_some hf
  rw [List.inj_on_of_nodup_map hn (List.mem_of_find?_eq_some hf) hk hid] at hf
  exact hf

/-- A task that is not there lives not. -/
theorem dead_of_taskById_none {s : State} {id : Nat} (h : s.taskById id = none) : Dead s id := fun k hk hid => by
  have := List.find?_eq_none.1 h k hk
  simp [hid] at this

/-- A kill ends the task and leaves the others as they were. -/
theorem killTask_ages {s : State} (hn : (s.dev.tasks.map (·.id)).Nodup) (id : Nat) :
    Ages s (s.killTask id) ∧ Dead (s.killTask id) id := by
  have ends (u : State) (hu : u.plan = s.plan) : Ages s (u.taskEnds id true) ∧ Dead (u.taskEnds id true) id := by
    have ha := Ages.of_roster (roster_of_plan hu)
    cases h : u.taskById id with
    | none =>
      have : u.taskEnds id true = u := by
        unfold State.taskEnds
        rw [h]
      rw [this]
      exact ⟨ha, dead_of_taskById_none h⟩
    | some t =>
      obtain ⟨h1, h2⟩ := taskEnds_ages h true
      exact ⟨ha.trans h1, h2⟩
  unfold State.killTask
  cases h : s.taskById id with
  | none => exact ⟨.of_roster rfl, dead_of_taskById_none h⟩
  | some t =>
    dsimp only
    split
    · refine ⟨.of_roster rfl, fun k hk hid => ?_⟩
      obtain rfl : k = t := Option.some.inj ((taskById_of_mem hn hk).symm.trans (hid ▸ h))
      simpa using ‹(!k.alive) = true›
    · refine ends _ ?_
      split <;> split <;> simp

/-- Kills end the tasks and leave the others as they were. -/
theorem killTasks_ages {s : State} (hn : (s.dev.tasks.map (·.id)).Nodup) (ids : List Nat) :
    Ages s (ids.foldl (fun s id => s.killTask id) s) ∧ ∀ id ∈ ids, Dead (ids.foldl (fun s id => s.killTask id) s) id := by
  induction ids generalizing s with
  | nil => exact ⟨.of_roster rfl, fun _ h => absurd h List.not_mem_nil⟩
  | cons id ids ih =>
    obtain ⟨h1, h2⟩ := killTask_ages hn id
    obtain ⟨h3, h4⟩ := ih (h1.ids ▸ hn)
    refine ⟨h1.trans h3, fun x hx => ?_⟩
    rcases List.mem_cons.1 hx with rfl | hx
    · exact h2.ages h3
    · exact h4 x hx

end Sys2Proof.Machine

/-! The clauses of PreemptionAndWatchdog. -/

namespace Sys2Proof.Machine

open Sys2Proof.Claims

/-! ## Cohorts of a queue -/

/-- The cohorts of a queue's launches. -/
theorem mem_queueCohorts {s : State} {t : TenantId} {q : QueueId} {c : Cohort} :
    c ∈ ((s.queueLaunches t q).flatMap fun l => s.launchCohorts l.id) ↔ c ∈ s.dev.cohorts ∧ ofQueue s t q c := by
  simp only [State.queueLaunches, State.launchCohorts, List.mem_flatMap, List.mem_filter, Bool.and_eq_true, beq_iff_eq]
  constructor
  · rintro ⟨l, ⟨hl, ht, hq⟩, hc, hid⟩
    exact ⟨hc, l, hl, ht, hq, hid.symm⟩
  · rintro ⟨hc, l, hl, ht, hq, hid⟩
    exact ⟨l, ⟨hl, ht, hq⟩, hc, hid.symm⟩

/-- The tasks of a cohort that have not ended. -/
theorem mem_aliveTasks {s : State} {n : Nat} {k : Task} : k ∈ s.aliveTasks n ↔ k ∈ s.dev.tasks ∧ k.cohort = n ∧ k.alive = true := by
  simp [State.aliveTasks, State.cohortTasks]
  tauto

/-- The tasks of a queue's launches, by cohort. -/
theorem mem_queueTasks {s : State} {t : TenantId} {q : QueueId} {k : Task} {c : Cohort} (hk : k ∈ s.dev.tasks)
    (hc : c ∈ s.dev.cohorts) (hid : c.id = k.cohort) (hq : ofQueue s t q c) :
    k ∈ (s.queueLaunches t q).flatMap fun l => s.launchTasks l.id := by
  obtain ⟨l, hl, hcl⟩ := List.mem_flatMap.1 (mem_queueCohorts.2 ⟨hc, hq⟩)
  refine List.mem_flatMap.2 ⟨l, hl, List.mem_flatMap.2 ⟨c, hcl, ?_⟩⟩
  simp [State.cohortTasks, hk, hid]

/-- The cohort of a number has that number. -/
theorem id_of_cohortById {s : State} {n : Nat} {h : Cohort} (hh : s.cohortById n = some h) : h.id = n := by
  simpa using List.find?_some hh

/-- A changed cohort that keeps its number. -/
theorem cohortById_modCohort {s : State} {n : Nat} {h : Cohort} (hh : s.cohortById n = some h) {f : Cohort → Cohort}
    (hf : ∀ c, (f c).id = c.id) : (s.modCohort n f).cohortById n = some (f h) := by
  have hkey : (fun c : Cohort => c.id == n) ∘ (fun c => if c.id = n then f c else c) = fun c => c.id == n := by
    funext c
    by_cases hc : c.id = n <;> simp [hc, hf]
  have hfind : s.dev.cohorts.find? (fun c => c.id == n) = some h := hh
  simp only [State.cohortById, State.modCohort, State.upd, List.find?_map, hkey, hfind, Option.map_some, id_of_cohortById hh, if_true]

/-! ## A pre-emption is asked for (R301, R378) -/

/-- Asking a core to stop keeps its task. -/
@[simp] theorem askStop_task (k : Core) : k.askStop.task = k.task := rfl

@[simp] theorem askStop_askStop (k : Core) : k.askStop.askStop = k.askStop := rfl

/-- The core of a task is asked to stop. -/
def State.askTask (s : State) (t : Task) : State := match s.coreOf t.id with
  | some k => s.modCore k Core.askStop
  | none => s

/-- One request: the core of the task, and no other. -/
theorem core_askTask (s : State) (k : Task) (c : CoreId) :
    (s.askTask k).core c = if s.coreOf k.id = some c then (s.core c).askStop else s.core c := by
  unfold State.askTask
  cases h : s.coreOf k.id with
  | none => rw [if_neg (by simp)]
  | some d =>
    by_cases hd : c = d
    · subst hd
      rw [if_pos rfl]
      exact State.core_modCore_same ..
    · rw [if_neg fun he => hd (Option.some.inj he).symm]
      exact State.core_modCore_ne _ _ hd

/-- A request leaves every task on its core. -/
theorem coreOf_askTask (s : State) (k : Task) (id : Nat) : (s.askTask k).coreOf id = s.coreOf id := by
  have (c : CoreId) : ((s.askTask k).core c).task = (s.core c).task := by
    rw [core_askTask]
    split <;> rfl
  simp only [State.coreOf, this]

/-- What a request does not touch. -/
theorem askTask_only (s : State) (k : Task) : (s.askTask k).mem = s.mem ∧ (s.askTask k).part = s.part ∧
    (s.askTask k).dev = { s.dev with cores := (s.askTask k).dev.cores } := by
  unfold State.askTask
  split <;> exact ⟨rfl, rfl, rfl⟩

/-- Requests to the cores of tasks reach those cores and no others. -/
theorem core_askTasks (ks : List Task) (s : State) (c : CoreId) :
    ((∃ k ∈ ks, s.coreOf k.id = some c) → (ks.foldl State.askTask s).core c = (s.core c).askStop) ∧
    ((¬ ∃ k ∈ ks, s.coreOf k.id = some c) → (ks.foldl State.askTask s).core c = s.core c) := by
  induction ks generalizing s with
  | nil => simp
  | cons k ks ih =>
    obtain ⟨h1, h2⟩ := ih (s.askTask k)
    simp only [coreOf_askTask, core_askTask] at h1 h2
    simp only [List.foldl_cons, List.mem_cons, exists_eq_or_imp, not_or]
    by_cases hk : s.coreOf k.id = some c <;> by_cases hks : ∃ k ∈ ks, s.coreOf k.id = some c
    · simp [h1 hks, hk]
    · simp [h2 hks, hk]
    · simp [h1 hks, hk, hks]
    · simp [h2 hks, hk, hks]

/-- What requests do not touch. -/
theorem askTasks_only (ks : List Task) (s : State) : (ks.foldl State.askTask s).mem = s.mem ∧ (ks.foldl State.askTask s).part = s.part ∧
    (ks.foldl State.askTask s).dev = { s.dev with cores := (ks.foldl State.askTask s).dev.cores } := by
  induction ks generalizing s with
  | nil => exact ⟨rfl, rfl, rfl⟩
  | cons k ks ih =>
    obtain ⟨h1, h2, h3⟩ := ih (s.askTask k)
    obtain ⟨h4, h5, h6⟩ := askTask_only s k
    exact ⟨h1.trans h4, h2.trans h5, by rw [List.foldl_cons, h3, h6]⟩

/-- The loaded tasks of a cohort that have not ended. -/
theorem runsOf_iff {s : State} {n : Nat} {c : CoreId} : RunsOf s n c ↔ ∃ k ∈ s.aliveTasks n, s.coreOf k.id = some c := by
  simp only [RunsOf, mem_aliveTasks, and_assoc]

theorem exec_preemptionRequest (s : State) : exec .preemptionRequest s = execPreemptionRequest s := rfl
theorem exec_preemptionCompletes (s : State) : exec .preemptionCompletes s = act (fun s => s.preemptDone s.dev.cur.n) s := rfl

/-- R301, R378: every core of the cohort is asked to stop. -/
theorem preemptionRequest_gives {s : State} (hs : s.dev.wbuf = []) {h : Cohort} (hh : s.cohortById s.dev.cur.n = some h)
    (hst : h.state = .preempting) (ha : h.asked = false) : Gives .preemptionRequest s fun t =>
      (∀ c, (RunsOf s h.id c → t.core c = (s.core c).askStop) ∧ (¬ RunsOf s h.id c → t.core c = s.core c)) ∧
      t.cohortById h.id = some { h with asked := true } ∧ t.dev.tasks = s.dev.tasks ∧ t.mem = s.mem := by
  obtain ⟨hm, hp, hd⟩ := askTasks_only (s.aliveTasks h.id) s
  have hcores := core_askTasks (s.aliveTasks h.id) s
  obtain ⟨u, hu⟩ : ∃ u, u = (s.aliveTasks h.id).foldl State.askTask s := ⟨_, rfl⟩
  rw [← hu] at hm hp hd
  have hc : u.cohortById h.id = some h := by
    rw [id_of_cohortById hh, ← hh]
    exact congrArg (fun d : Dev => d.cohorts.find? fun t => t.id == s.dev.cur.n) hd
  refine ⟨u.modCohort h.id fun c => { c with asked := true }, ?_, fun c => ?_, cohortById_modCohort hc fun _ => rfl, ?_, hm⟩
  · rw [exec_preemptionRequest]
    refine act_answers ?_ hm hp ?_
    · rw [hh]
      dsimp only
      rw [if_neg (by simp [hst, ha]), hu]
      rfl
    · exact (congrArg Dev.wbuf hd).trans hs
  · obtain ⟨h1, h2⟩ := hcores c
    rw [← hu] at h1 h2
    rw [runsOf_iff]
    exact ⟨h1, h2⟩
  · exact (congrArg (fun d : Dev => d.tasks) hd).trans rfl

/-! ## A pre-emption completes (R27, R366, R378) -/

/-- A pre-emption is under way while a task of the cohort that has not ended is on a core. -/
theorem preemptDone_waits {s : State} {n : Nat} {h : Cohort} (hh : s.cohortById n = some h)
    (hk : ∃ k ∈ s.dev.tasks, k.cohort = h.id ∧ k.alive = true ∧ s.coreOf k.id ≠ none) : s.preemptDone n = s := by
  obtain ⟨k, hk, hc, hal, hcore⟩ := hk
  unfold State.preemptDone
  rw [hh]
  dsimp only
  rw [if_pos (.inr (List.any_eq_true.2 ⟨k, mem_aliveTasks.2 ⟨hk, hc, hal⟩, Option.isSome_iff_ne_none.2 hcore⟩))]

/-- What the end of a pre-emption leaves beside the cohort. -/
def preemptEnds (s : State) (h : Cohort) (st : CohortState) : State :=
  let u := s.modCohort h.id fun c => { c with state := st }
  match u.launchById h.launch with
  | some l =>
    let u := u.wantDecision l.tenant
    if u.queuePreempting l.tenant l.queue then u else u.modCq l.tenant l.queue fun x => { x with preAt := none }
  | none => u

/-- A pre-emption is over when no task of the cohort that has not ended is on a core. -/
theorem preemptDone_ends {s : State} {n : Nat} {h : Cohort} (hh : s.cohortById n = some h) (hst : h.state = .preempting)
    (hk : ∀ k ∈ s.dev.tasks, k.cohort = h.id → k.alive = true → s.coreOf k.id = none) :
    s.preemptDone n = preemptEnds s h (if ∃ k ∈ s.dev.tasks, k.cohort = h.id ∧ k.alive = true then .ready else .done) := by
  have hnone : ¬ (h.state ≠ .preempting ∨ (s.aliveTasks h.id).any (fun t => (s.coreOf t.id).isSome) = true) := by
    rintro (h1 | h1)
    · exact h1 hst
    · obtain ⟨k, hkm, hcore⟩ := List.any_eq_true.1 h1
      obtain ⟨hkm, hc, hal⟩ := mem_aliveTasks.1 hkm
      rw [hk k hkm hc hal] at hcore
      cases hcore
  have hend : (if (s.aliveTasks h.id).isEmpty then CohortState.done else .ready) =
      if ∃ k ∈ s.dev.tasks, k.cohort = h.id ∧ k.alive = true then .ready else .done := by
    by_cases he : ∃ k ∈ s.dev.tasks, k.cohort = h.id ∧ k.alive = true
    · rw [if_pos he]
      obtain ⟨k, hkm⟩ := he
      refine if_neg fun hemp => ?_
      exact absurd (mem_aliveTasks.2 hkm) (List.isEmpty_iff.1 hemp ▸ List.not_mem_nil)
    · rw [if_neg he, if_pos (List.isEmpty_iff.2 (List.eq_nil_iff_forall_not_mem.2 fun k hkm => he ⟨k, mem_aliveTasks.1 hkm⟩))]
  unfold State.preemptDone
  rw [hh]
  dsimp only
  rw [if_neg hnone, hend]
  rfl

/-- The cohort, the decision asked for, and what stays. -/
theorem preemptEnds_leaves {s : State} {h : Cohort} (hh : s.cohortById h.id = some h) (st : CohortState) {u : State}
    (hu : u = preemptEnds s h st) : u.cohortById h.id = some { h with state := st } ∧
      (∀ l, s.launchById h.launch = some l → (u.tenant l.tenant).due = true) ∧ u.dev.tasks = s.dev.tasks ∧ u.dev.cores = s.dev.cores ∧
      u.mem = s.mem ∧ u.part = s.part ∧ u.dev.wbuf = s.dev.wbuf := by
  have hc := cohortById_modCohort hh (f := fun c => { c with state := st }) fun _ => rfl
  have hl : (s.modCohort h.id fun c => { c with state := st }).launchById h.launch = s.launchById h.launch := rfl
  unfold preemptEnds at hu
  dsimp only at hu
  rw [hl] at hu
  cases hlaunch : s.launchById h.launch with
  | none =>
    rw [hlaunch] at hu
    subst hu
    exact ⟨hc, fun l hl => (by cases hl), rfl, rfl, rfl, rfl, rfl⟩
  | some l =>
    rw [hlaunch] at hu
    have hdue : (((s.modCohort h.id fun c => { c with state := st }).wantDecision l.tenant).tenant l.tenant).due = true := by
      simp [State.wantDecision]
    dsimp only at hu
    split at hu <;> subst hu <;> exact ⟨hc, fun l' hl' => by obtain rfl := Option.some.inj hl'; exact hdue, rfl, rfl, rfl, rfl, rfl⟩

/-- R27, R366, R378: the pre-emption of a cohort without a loaded task completes. -/
theorem preemptionCompletes_gives {s : State} (hs : s.dev.wbuf = []) {h : Cohort} (hh : s.cohortById s.dev.cur.n = some h)
    (hst : h.state = .preempting) (hk : ∀ k ∈ s.dev.tasks, k.cohort = h.id → k.alive = true → s.coreOf k.id = none) :
    Gives .preemptionCompletes s fun t => t.cohortById h.id = some { h with
          state := if ∃ k ∈ s.dev.tasks, k.cohort = h.id ∧ k.alive = true then .ready else .done } ∧
        (∀ l, s.launchById h.launch = some l → (t.tenant l.tenant).due = true) ∧
        t.dev.tasks = s.dev.tasks ∧ t.dev.cores = s.dev.cores ∧ t.mem = s.mem := by
  obtain ⟨u, hu⟩ : ∃ u : State, u = preemptEnds s h (if ∃ k ∈ s.dev.tasks, k.cohort = h.id ∧ k.alive = true then .ready else .done) :=
    ⟨_, rfl⟩
  obtain ⟨h1, h2, h3, h4, h5, h6, h7⟩ := preemptEnds_leaves (id_of_cohortById hh ▸ hh) _ hu
  refine ⟨u, ?_, h1, h2, h3, h4, h5⟩
  rw [exec_preemptionCompletes]
  exact act_answers ((preemptDone_ends hh hst hk).trans hu.symm) h5 h6 (h7.trans hs)

/-! ## The watchdog kills (R365) -/

/-- A fault of a queue: of the plan its state and code alone. -/
theorem plan_queueFault (s : State) (t : TenantId) (q : QueueId) (code addr : Nat) : (s.queueFault t q code addr).plan =
    (s.modCq t q fun c => { c with state := 3, code := BitVec.ofNat 8 code }).plan := by
  unfold State.queueFault
  dsimp only
  split
  · exact plan_logEntry ..
  · exact plan_logEntry ..

/-- Where the plan stays the queues do. -/
theorem cq_of_plan {s u : State} (h : u.plan = s.plan) (t : TenantId) (q : QueueId) : u.cq t q = s.cq t q := by
  simp only [State.plan, Prod.mk.injEq] at h
  simp only [State.cq, h.2.1]

/-- What the watchdog's kill leaves: a queue that is FAULTED with WATCHDOG, and its tasks ended. -/
def WatchKilled (s t : State) (ids : List Nat) : Prop :=
  (t.myCq.state = 3 ∧ t.myCq.code = 0x14 ∧ t.myCq.preAt = none) ∧ Ages s t ∧ ∀ id ∈ ids, Dead t id

/-- The watchdog kills the tasks of a list and faults the queue. -/
theorem watchKill_kills {s : State} (hn : (s.dev.tasks.map (·.id)).Nodup) (ids : List Nat) :
    WatchKilled s (s.watchKill s.dev.cur.t s.dev.cur.q ids) ids := by
  obtain ⟨hages, hdead⟩ := killTasks_ages hn ids
  obtain ⟨u, hu⟩ : ∃ u, u = ids.foldl (fun s id => s.killTask id) s := ⟨_, rfl⟩
  rw [← hu] at hages hdead
  obtain ⟨v, hv⟩ : ∃ v, v = s.watchKill s.dev.cur.t s.dev.cur.q ids := ⟨_, rfl⟩
  have hplan : v.plan = ((u.modCq s.dev.cur.t s.dev.cur.q fun c => { c with preAt := none }).modCq s.dev.cur.t s.dev.cur.q
      fun c => { c with state := 3, code := BitVec.ofNat 8 cWatchdog }).plan := by
    rw [hv, State.watchKill, ← hu]
    exact plan_queueFault ..
  have hroster : Ages u v := .of_roster ((roster_of_plan hplan).trans rfl)
  have hcq : v.myCq = { u.cq s.dev.cur.t s.dev.cur.q with preAt := none, state := 3, code := BitVec.ofNat 8 cWatchdog } := by
    rw [State.myCq, (hages.trans hroster).1, cq_of_plan hplan, State.modCq_modCq]
    simp
  rw [← hv]
  refine ⟨?_, hages.trans hroster, fun id hid => (hdead id hid).ages hroster⟩
  rw [hcq]
  exact ⟨rfl, rfl, rfl⟩

/-- A meaning that kills answers so, whatever it wrote to the fault log. -/
theorem act_watchKill {f : State → State} {s : State} {ids : List Nat} (hn : (s.dev.tasks.map (·.id)).Nodup)
    (hf : f s = s.watchKill s.dev.cur.t s.dev.cur.q ids) : ∃ t, act f s = .next t ∧ WatchKilled s t ids := by
  have h := watchKill_kills hn ids
  rw [← hf] at h
  exact ⟨_, rfl, h⟩

/-- A task whose number was killed lives not. -/
theorem WatchKilled.not_alive {s t : State} {ids : List Nat} (h : WatchKilled s t ids) {k : Task} (hk : k ∈ t.dev.tasks)
    (hid : ∀ k' ∈ s.dev.tasks, k'.id = k.id → k'.cohort = k.cohort → k'.alive = true → k.id ∈ ids) : k.alive = false := by
  obtain ⟨-, hages, hdead⟩ := h
  obtain ⟨k', hk', hi, hc, halive⟩ := hages.mem hk
  cases ha : k'.alive with
  | false => exact halive ha
  | true => exact hdead _ (hid k' hk' hi.symm hc.symm ha) k hk rfl

/-! ## The first period (R365) -/

/-- Cohorts pre-empted one after another: those of the list, and of the rest nothing. -/
theorem preemptCohorts_leave (l : List Cohort) (s : State) :
    (l.foldl (fun s c => s.preemptCohort c.id) s) = { s with dev := { s.dev with
      cohorts := (l.foldl (fun s c => s.preemptCohort c.id) s).dev.cohorts } } ∧
    ∀ c ∈ s.dev.cohorts, ∃ d ∈ (l.foldl (fun s c => s.preemptCohort c.id) s).dev.cohorts, d.id = c.id ∧
      ((c.state = .preempting ∨ ∃ x ∈ l, x.id = c.id) → d.state = .preempting) ∧ ((¬ ∃ x ∈ l, x.id = c.id) → d = c) := by
  induction l generalizing s with
  | nil => exact ⟨rfl, fun c hc => ⟨c, hc, rfl, by simp, fun _ => rfl⟩⟩
  | cons x l ih =>
    obtain ⟨h1, h2⟩ := ih (s.preemptCohort x.id)
    refine ⟨by rw [List.foldl_cons, h1]; rfl, fun c hc => ?_⟩
    by_cases hx : c.id = x.id
    · obtain ⟨d, hd, hid, hst, -⟩ := h2 { c with state := .preempting, asked := false }
        (List.mem_map.2 ⟨c, hc, if_pos hx⟩)
      exact ⟨d, hd, hid, fun _ => hst (.inl rfl), fun hn => absurd ⟨x, List.mem_cons_self, hx.symm⟩ hn⟩
    · obtain ⟨d, hd, hid, hst, hsame⟩ := h2 c (List.mem_map.2 ⟨c, hc, if_neg hx⟩)
      have hmem : (∃ y ∈ x :: l, y.id = c.id) ↔ ∃ y ∈ l, y.id = c.id := by
        simp [Ne.symm hx]
      rw [hmem]
      exact ⟨d, hd, hid, hst, hsame⟩

section
variable {s : State}

/-- The cohorts of the acting queue that are resident or on their way out. -/
def heldCohorts (s : State) : List Cohort :=
  ((s.queueLaunches s.dev.cur.t s.dev.cur.q).flatMap fun l => s.launchCohorts l.id).filter fun c =>
    c.state == .resident || c.state == .preempting

theorem mem_heldCohorts {c : Cohort} : c ∈ heldCohorts s ↔
    (c ∈ s.dev.cohorts ∧ ofQueue s s.dev.cur.t s.dev.cur.q c) ∧ (c.state = .resident ∨ c.state = .preempting) := by
  rw [heldCohorts, List.mem_filter, mem_queueCohorts]
  simp

/-- A queue whose cohorts the watchdog pre-empts now. -/
def preemptsAt (now : Nat) (c : CmdQueue) : CmdQueue := { c with wdPre := true, since := now, preAt := some now }

/-- What the first period does when it is over. -/
def wd1Due (s : State) : State :=
  if s.myCq.wdPre then
    s.watchKill s.dev.cur.t s.dev.cur.q
      (((s.queueLaunches s.dev.cur.t s.dev.cur.q).flatMap fun l => s.launchTasks l.id).filter (·.alive) |>.map (·.id))
  else if (heldCohorts s).isEmpty then s.modMyCq fun c => { c with since := s.dev.board.dtime }
  else ((heldCohorts s).filter fun c => c.state == .resident).foldl (fun s c => s.preemptCohort c.id)
    (s.modMyCq (preemptsAt s.dev.board.dtime))

/-- The first period of the acting queue is not over, or nothing watches the queue. -/
def wd1Idle (s : State) : Bool := s.dev.board.recovery || s.myCq.wd1 == 0 || !s.watched s.dev.cur.t s.dev.cur.q ||
  decide (s.dev.board.dtime < s.myCq.since + s.myCq.wd1.toNat * 1000)

theorem exec_watchdogWd1 (s : State) : exec .watchdogWd1 s = act (fun s => if wd1Idle s then s else wd1Due s) s := rfl

theorem wd1Idle_of (h : s.dev.board.dtime < s.myCq.since + s.myCq.wd1.toNat * 1000 ∨ s.myCq.wd1 = 0 ∨ s.dev.board.recovery = true) :
    wd1Idle s = true := by
  rcases h with h | h | h <;> simp [wd1Idle, h]

theorem wd1Idle_false (hr : s.dev.board.recovery = false) (hw : s.watched s.dev.cur.t s.dev.cur.q = true) (h1 : s.myCq.wd1 ≠ 0)
    (ht : s.myCq.since + s.myCq.wd1.toNat * 1000 ≤ s.dev.board.dtime) : wd1Idle s = false := by
  have hen : (s.myCq.wd1 == 0) = false := beq_eq_false_iff_ne.2 h1
  rw [wd1Idle, hr, hw, hen]
  simpa using ht

/-- R365: before the period is over, or with a watchdog that is disabled, nothing happens. -/
theorem watchdogWd1_idle (hs : s.dev.wbuf = []) (h : wd1Idle s = true) : exec .watchdogWd1 s = .next s := by
  rw [exec_watchdogWd1]
  exact act_same hs (if_pos h)

/-- Log 111: with no cohort to pre-empt the window starts again. -/
theorem watchdogWd1_none (hs : s.dev.wbuf = []) (hi : wd1Idle s = false) (hp : s.myCq.wdPre = false)
    (hn : ∀ c ∈ s.dev.cohorts, ofQueue s s.dev.cur.t s.dev.cur.q c → c.state ≠ .resident ∧ c.state ≠ .preempting) :
    exec .watchdogWd1 s = .next (s.modMyCq fun c => { c with since := s.dev.board.dtime }) := by
  have hempty : heldCohorts s = [] := List.eq_nil_iff_forall_not_mem.2 fun c hc => by
    obtain ⟨⟨hm, hq⟩, hst⟩ := mem_heldCohorts.1 hc
    exact hst.elim (hn c hm hq).1 (hn c hm hq).2
  rw [exec_watchdogWd1]
  refine act_answers ?_ rfl rfl hs
  simp [hi, wd1Due, hp, hempty]

/-- R365: the first time the queue's resident cohorts are pre-empted. -/
theorem watchdogWd1_preempts (hs : s.dev.wbuf = []) (hi : wd1Idle s = false) (hp : s.myCq.wdPre = false)
    (hd : (s.dev.cohorts.map (·.id)).Nodup)
    (hn : ∃ c ∈ s.dev.cohorts, ofQueue s s.dev.cur.t s.dev.cur.q c ∧ (c.state = .resident ∨ c.state = .preempting)) :
    Gives .watchdogWd1 s fun t =>
      t.myCq = { s.myCq with wdPre := true, since := s.dev.board.dtime, preAt := some s.dev.board.dtime } ∧
      (∀ c ∈ s.dev.cohorts, ∃ d ∈ t.dev.cohorts, d.id = c.id ∧ (ofQueue s s.dev.cur.t s.dev.cur.q c ∧ c.state = .resident →
        d.state = .preempting) ∧ (¬ (ofQueue s s.dev.cur.t s.dev.cur.q c ∧ c.state = .resident) → d = c)) ∧
      t.dev.tasks = s.dev.tasks ∧ t.mem = s.mem ∧ t.dev.cores = s.dev.cores := by
  obtain ⟨c, hc, hq, hst⟩ := hn
  have hheld : (heldCohorts s).isEmpty = false :=
    Bool.eq_false_iff.2 fun he => absurd (mem_heldCohorts.2 ⟨⟨hc, hq⟩, hst⟩) (List.isEmpty_iff.1 he ▸ List.not_mem_nil)
  have hnamed (c : Cohort) (hc : c ∈ s.dev.cohorts) : (∃ x ∈ (heldCohorts s).filter fun c => c.state == .resident, x.id = c.id) ↔
      ofQueue s s.dev.cur.t s.dev.cur.q c ∧ c.state = .resident := by
    constructor
    · rintro ⟨x, hx, hid⟩
      obtain ⟨hx, hres⟩ := List.mem_filter.1 hx
      obtain ⟨⟨hxm, hxq⟩, -⟩ := mem_heldCohorts.1 hx
      rw [← List.inj_on_of_nodup_map hd hxm hc hid]
      exact ⟨hxq, by simpa using hres⟩
    · rintro ⟨hq, hres⟩
      exact ⟨c, List.mem_filter.2 ⟨mem_heldCohorts.2 ⟨⟨hc, hq⟩, .inl hres⟩, by simp [hres]⟩, rfl⟩
  obtain ⟨hdev, hcohorts⟩ := preemptCohorts_leave ((heldCohorts s).filter fun c => c.state == .resident)
    (s.modMyCq (preemptsAt s.dev.board.dtime))
  obtain ⟨u, hu⟩ : ∃ u, u = ((heldCohorts s).filter fun c => c.state == .resident).foldl (fun s c => s.preemptCohort c.id)
    (s.modMyCq (preemptsAt s.dev.board.dtime)) := ⟨_, rfl⟩
  rw [← hu] at hdev hcohorts
  refine ⟨u, ?_, ?_, fun c hc => ?_, ?_⟩
  · rw [exec_watchdogWd1]
    refine act_answers ?_ (by rw [hdev]; rfl) (by rw [hdev]; rfl) (by rw [hdev]; exact hs)
    rw [hi, if_neg (by decide), wd1Due, hp, if_neg (by decide), hheld, if_neg (by decide), hu]
  · rw [hdev]
    exact State.myCq_modMyCq s (preemptsAt s.dev.board.dtime)
  · obtain ⟨d, hdm, hid, hpre, hsame⟩ := hcohorts c hc
    rw [hnamed c hc] at hpre hsame
    exact ⟨d, hdm, hid, fun h => hpre (.inr h), hsame⟩
  · rw [hdev]
    exact ⟨rfl, rfl, rfl⟩

/-- R365: the second time its tasks are killed, and it is FAULTED with WATCHDOG. -/
theorem watchdogWd1_kills (hi : wd1Idle s = false) (hp : s.myCq.wdPre = true) (hd : (s.dev.tasks.map (·.id)).Nodup) :
    Gives .watchdogWd1 s fun t => t.myCq.state = 3 ∧ t.myCq.code = 0x14 ∧ t.myCq.preAt = none ∧
      ∀ k ∈ t.dev.tasks, ∀ c ∈ s.dev.cohorts, c.id = k.cohort → ofQueue s s.dev.cur.t s.dev.cur.q c → k.alive = false := by
  obtain ⟨t, ht, hk⟩ := act_watchKill (f := fun s => if wd1Idle s then s else wd1Due s) hd
    ((if_neg (by simp [hi])).trans (if_pos hp))
  obtain ⟨hstate, hcode, hpre⟩ := hk.1
  refine ⟨t, (exec_watchdogWd1 s).trans ht, hstate, hcode, hpre, fun k hkm c hc hid hq => hk.not_alive hkm fun k' hk' hi' hc' ha => ?_⟩
  rw [← hi']
  exact List.mem_map_of_mem (List.mem_filter.2 ⟨mem_queueTasks hk' hc (hid.trans hc'.symm) hq, ha⟩)

/-! ## The second period (R365) -/

/-- The numbers of the loaded tasks of the acting queue's cohorts that are on their way out. -/
def loadedIds (s : State) : List Nat :=
  ((s.queueLaunches s.dev.cur.t s.dev.cur.q).flatMap fun l => s.launchCohorts l.id).filter (fun c => c.state == .preempting)
    |>.flatMap fun c => (s.aliveTasks c.id).filter (fun t => (s.coreOf t.id).isSome) |>.map (·.id)

theorem mem_loadedIds {k : Task} {c : Cohort} (hk : k ∈ s.dev.tasks) (ha : k.alive = true) (hc : c ∈ s.dev.cohorts)
    (hid : c.id = k.cohort) (hq : ofQueue s s.dev.cur.t s.dev.cur.q c) (hst : c.state = .preempting) (hcore : s.coreOf k.id ≠ none) :
    k.id ∈ loadedIds s := by
  refine List.mem_flatMap.2 ⟨c, List.mem_filter.2 ⟨mem_queueCohorts.2 ⟨hc, hq⟩, by simp [hst]⟩, ?_⟩
  exact List.mem_map_of_mem (List.mem_filter.2 ⟨mem_aliveTasks.2 ⟨hk, hid.symm, ha⟩, Option.isSome_iff_ne_none.2 hcore⟩)

/-- What the second period does, by the time at which the watchdog's pre-emption began. -/
def wd2At (s : State) (at_ : Nat) : State :=
  if s.dev.board.recovery || s.myCq.wd1 == 0 || decide (s.dev.board.dtime < at_ + s.myCq.wd2.toNat * 1000) then s
  else if !s.queuePreempting s.dev.cur.t s.dev.cur.q then s.modMyCq fun c => { c with preAt := none }
  else s.watchKill s.dev.cur.t s.dev.cur.q (loadedIds s)

theorem exec_watchdogWd2 (s : State) : exec .watchdogWd2 s = act (fun s => s.myCq.preAt.elim s (wd2At s)) s := by
  refine Eq.trans (b := execWatchdogWd2 s) rfl (congrArg (act · s) (funext fun s => ?_))
  dsimp only
  split
  · next h => rw [State.myCq, h]; rfl
  · next h => rw [State.myCq, h]; rfl

/-- R365: a watchdog that WD1 = 0 disables does nothing. -/
theorem watchdogWd2_disabled (hs : s.dev.wbuf = []) (h : s.myCq.wd1 = 0) : exec .watchdogWd2 s = .next s := by
  rw [exec_watchdogWd2]
  refine act_same hs ?_
  cases s.myCq.preAt with
  | none => rfl
  | some at_ => exact if_pos (by simp [h])

variable {at_ : Nat} (hr : s.dev.board.recovery = false) (h1 : s.myCq.wd1 ≠ 0) (hat : s.myCq.preAt = some at_)
  (ht : at_ + s.myCq.wd2.toNat * 1000 ≤ s.dev.board.dtime)
include hr h1 hat ht

/-- The second period is over. -/
theorem wd2_over : s.myCq.preAt.elim s (wd2At s) =
    if !s.queuePreempting s.dev.cur.t s.dev.cur.q then s.modMyCq fun c => { c with preAt := none }
    else s.watchKill s.dev.cur.t s.dev.cur.q (loadedIds s) := by
  rw [hat]
  have hen : (s.myCq.wd1 == 0) = false := beq_eq_false_iff_ne.2 h1
  refine if_neg ?_
  rw [hr, hen]
  simpa using ht

/-- R365: the tasks still loaded are killed, and the queue is FAULTED. -/
theorem watchdogWd2_kills (hd : (s.dev.tasks.map (·.id)).Nodup) (hq : s.queuePreempting s.dev.cur.t s.dev.cur.q = true) :
    Gives .watchdogWd2 s fun t => t.myCq.state = 3 ∧ t.myCq.code = 0x14 ∧
      ∀ k ∈ t.dev.tasks, ∀ c ∈ s.dev.cohorts, c.id = k.cohort → ofQueue s s.dev.cur.t s.dev.cur.q c → c.state = .preempting →
        s.coreOf k.id ≠ none → k.alive = false := by
  obtain ⟨t, hact, hk⟩ := act_watchKill (f := fun s => s.myCq.preAt.elim s (wd2At s)) hd
    ((wd2_over hr h1 hat ht).trans (if_neg (by simp [hq])))
  obtain ⟨hstate, hcode, -⟩ := hk.1
  refine ⟨t, (exec_watchdogWd2 s).trans hact, hstate, hcode, fun k hkm c hc hid hcq hst hcore => ?_⟩
  refine hk.not_alive hkm fun k' hk' hi' hc' ha => ?_
  rw [← hi'] at hcore ⊢
  exact mem_loadedIds hk' ha hc (hid.trans hc'.symm) hcq hst hcore

/-- The watchdog's pre-emption has completed: its window is closed. -/
theorem watchdogWd2_completed (hs : s.dev.wbuf = []) (hq : s.queuePreempting s.dev.cur.t s.dev.cur.q = false) :
    exec .watchdogWd2 s = .next (s.modMyCq fun c => { c with preAt := none }) := by
  rw [exec_watchdogWd2]
  exact act_answers ((wd2_over hr h1 hat ht).trans (if_pos (by simp [hq]))) rfl rfl hs

end

/-- Settles O54: a clause per request, completion and period of the watchdog. -/
theorem preemptionAndWatchdog : Obligations.PreemptionAndWatchdog := by
  unfold Obligations.PreemptionAndWatchdog
  intro s hs
  refine ⟨fun h hh hst ha => preemptionRequest_gives hs hh hst ha, fun h hh hst hk => preemptionCompletes_gives hs hh hst hk,
    fun h hh hk => ?_, fun hr hw h1 ⟨hdt, hdc⟩ ht => ?_, fun h => watchdogWd1_idle hs (wd1Idle_of h), watchdogWd2_disabled hs,
    fun at_ hr h1 hat ht ⟨hdt, _⟩ => ⟨watchdogWd2_kills hr h1 hat ht hdt, watchdogWd2_completed hr h1 hat ht hs⟩⟩
  · rw [exec_preemptionCompletes]
    exact act_same hs (preemptDone_waits hh hk)
  · have hi := wd1Idle_false hr hw h1 ht
    exact ⟨watchdogWd1_none hs hi, fun hp hn => watchdogWd1_preempts hs hi hp hdc hn, fun hp => watchdogWd1_kills hi hp hdt⟩

end Sys2Proof.Machine

/-! Elements and lanes of a vector register (R158), and integers on them (R39, R53). -/

namespace Sys2Proof.Machine

open Sys2Proof.Claims

/-! ## Lanes of a register (R158) -/

/-- A lane as a number. -/
theorem toNat_lane (w i : Nat) (v : V1024) : (lane w i v).toNat = v.toNat / 2 ^ (w * i) % 2 ^ w := by
  rw [lane, BitVec.extractLsb'_toNat, Nat.shiftRight_eq_div_pow]

/-- The elements of a register are its lanes, as numbers. -/
theorem elems_eq_lanes (w n : Nat) (v : V1024) : elems w n v = (List.range n).map fun i => (lane w i v).toNat := by
  simp only [elems, toNat_lane]

/-- An element of a list made from its positions. -/
theorem nth_map_range {α : Type} {n i : Nat} (h : i < n) (f : Nat → α) (d : α) : nth ((List.range n).map f) i d = f i := by
  simp [nth, h]

/-- Element `i` is lane `i`. -/
theorem nth_elems {n i : Nat} (h : i < n) (w : Nat) (v : V1024) : nth (elems w n v) i 0 = (lane w i v).toNat := by
  rw [elems_eq_lanes, nth_map_range h]

/-- Element `i` of joined elements. -/
theorem joinEls_div_mod (w : Nat) (l : List Nat) (i : Nat) : joinEls w l / 2 ^ (w * i) % 2 ^ w = nth l i 0 % 2 ^ w := by
  induction l generalizing i with
  | nil => simp [joinEls, nth]
  | cons e l ih =>
    cases i with
    | zero => simp [joinEls, nth]
    | succ i =>
      have he : e % 2 ^ w / 2 ^ w = 0 := Nat.div_eq_of_lt (Nat.mod_lt _ (Nat.two_pow_pos w))
      rw [joinEls, Nat.mul_succ, Nat.add_comm (w * i), Nat.pow_add, ← Nat.div_div_eq_div_mul,
        Nat.add_mul_div_left _ _ (Nat.two_pow_pos w), he, Nat.zero_add, ih]
      rfl

/-- A lane that fits the register holds the element packed there. -/
theorem lane_packEls {w i : Nat} (h : w * i + w ≤ 1024) (l : List Nat) : lane w i (packEls w l) = BitVec.ofNat w (nth l i 0) := by
  refine BitVec.eq_of_toNat_eq ?_
  have hd : 2 ^ w ∣ 2 ^ (1024 - w * i) := Nat.pow_dvd_pow 2 (by omega)
  rw [toNat_lane, packEls, BitVec.toNat_ofNat, BitVec.toNat_ofNat, show 1024 = w * i + (1024 - w * i) by omega, Nat.pow_add,
    Nat.mod_mul_right_div_self, Nat.mod_mod_of_dvd _ hd, joinEls_div_mod]

/-- A register has 1024 bits at most. -/
theorem width_bits_le (wd : Width) : wd.bits ≤ 1024 := by cases wd <;> decide

/-- Every lane of a width fits the register. -/
theorem lane_fits {wd : Width} {w n : Nat} (h : n < lanes wd w) : w * n + w ≤ 1024 :=
  calc w * n + w = w * (n + 1) := rfl
    _ ≤ w * lanes wd w := Nat.mul_le_mul_left w h
    _ ≤ wd.bits := Nat.mul_div_le ..
    _ ≤ 1024 := width_bits_le wd

/-- A lane of a two-source row is its function of that lane of the sources. -/
theorem lane_vec2 {x : Lent} {wd : Width} {et : BitVec 1} {d : VDst} {a b : VSrc} {lat n : Nat} {f : Arith → Nat → Nat → Nat}
    {r : VecOut} (h : vec2 x wd et d a b lat f = some r) (s : State) (hn : n < lanes wd (tyBits (x.ty et))) :
    lane (tyBits (x.ty et)) n (r.val s) =
      BitVec.ofNat _ (f (s.arith x et) (lane (tyBits (x.ty et)) n (s.me.vsrc a)).toNat
        (lane (tyBits (x.ty et)) n (s.me.vsrc b)).toNat) := by
  cases h
  rw [lane_packEls (lane_fits hn), elems_eq_lanes, elems_eq_lanes, List.zipWith_map, List.zipWith_self, nth_map_range hn]

/-! ## Integers of a type (R39) -/

/-- An integer modulo 2^w, as a word. -/
theorem ofNat_wrapI (w : Nat) (z : Int) : BitVec.ofNat w (wrapI w z) = BitVec.ofInt w z := by
  refine BitVec.eq_of_toNat_eq ?_
  have h0 : 0 ≤ z % 2 ^ w := Int.emod_nonneg _ (by positivity)
  have h1 : z % 2 ^ w < 2 ^ w := Int.emod_lt_of_pos _ (by positivity)
  have hlt : (z % 2 ^ w).toNat < 2 ^ w := by
    zify
    rwa [Int.toNat_of_nonneg h0]
  rw [BitVec.toNat_ofNat, BitVec.toNat_ofInt, wrapI, Nat.mod_eq_of_lt hlt]
  push_cast
  rfl

/-- The value of an integer element, as a word of its type. -/
theorem ofInt_intVal (ty : BitVec 4) (a : BitVec (tyBits ty)) : BitVec.ofInt _ (intVal ty a.toNat) = a := by
  unfold intVal
  split
  · rw [sgn_toNat, BitVec.ofInt_toInt]
  · rw [BitVec.ofInt_natCast, BitVec.ofNat_toNat, BitVec.setWidth_eq]

/-- The order of integer elements is that of their type. -/
theorem intVal_lt (ty : BitVec 4) (a b : BitVec (tyBits ty)) :
    intVal ty a.toNat < intVal ty b.toNat ↔ (if isSigned ty then a.slt b else a.ult b) = true := by
  unfold intVal
  split
  · rw [sgn_toNat, sgn_toNat, BitVec.slt_iff_toInt_lt]
  · rw [BitVec.ult_iff_toNat_lt, Int.ofNat_lt]

section
variable {q : Arith} (hi : isI q.ty = true) (hs : q.sat = false) (a b : BitVec (tyBits q.ty))
include hi hs

/-- An operation on elements of an integer type without saturation is that on their values, modulo 2^w. -/
theorem Arith.ofNat_bin (f : FVal → FVal → FVal) (g : Int → Int → Int) :
    BitVec.ofNat (tyBits q.ty) (q.bin f g a.toNat b.toNat) = BitVec.ofInt _ (g (intVal q.ty a.toNat) (intVal q.ty b.toNat)) := by
  have hf : isF q.ty = false := by simp [isI, isF] at *; omega
  rw [Arith.bin, hf, if_neg (by decide), intRes, hs, if_neg (by decide), ofNat_wrapI]

/-- A sum of integer elements. -/
theorem Arith.ofNat_add : BitVec.ofNat (tyBits q.ty) (q.add a.toNat b.toNat) = a + b := by
  rw [Arith.add, Arith.ofNat_bin hi hs, BitVec.ofInt_add, ofInt_intVal, ofInt_intVal]

/-- A difference of integer elements. -/
theorem Arith.ofNat_sub : BitVec.ofNat (tyBits q.ty) (q.sub a.toNat b.toNat) = a - b := by
  rw [Arith.sub, Arith.ofNat_bin hi hs, Int.sub_eq_add_neg, BitVec.ofInt_add, BitVec.ofInt_neg, ofInt_intVal, ofInt_intVal,
    BitVec.sub_eq_add_neg]

/-- A product of integer elements. -/
theorem Arith.ofNat_mul : BitVec.ofNat (tyBits q.ty) (q.mul a.toNat b.toNat) = a * b := by
  rw [Arith.mul, Arith.ofNat_bin hi hs, BitVec.ofInt_mul, ofInt_intVal, ofInt_intVal]

/-- The lesser of two integer elements. -/
theorem Arith.ofNat_min : BitVec.ofNat (tyBits q.ty) (q.min a.toNat b.toNat) =
    if (if isSigned q.ty then a.slt b else a.ult b) then a else b := by
  rw [Arith.min, Arith.ofNat_bin hi hs]
  simp only [intVal_lt, apply_ite (BitVec.ofInt _), ofInt_intVal]

/-- The greater of two integer elements. -/
theorem Arith.ofNat_max : BitVec.ofNat (tyBits q.ty) (q.max a.toNat b.toNat) =
    if (if isSigned q.ty then a.slt b else a.ult b) then b else a := by
  rw [Arith.max, Arith.ofNat_bin hi hs]
  simp only [intVal_lt, apply_ite (BitVec.ofInt _), ofInt_intVal]

end

/-! ## Bits and shifts of a pattern (R53) -/

/-- A shift to the left of a w-bit pattern. -/
theorem ofNat_shlW {w : Nat} (a : BitVec w) (n : Nat) : BitVec.ofNat w (shlW w a.toNat n) = a <<< n := by
  unfold shlW
  split
  next h => rw [BitVec.shiftLeft_eq_zero h]
  next => exact BitVec.eq_of_toNat_eq (by simp [Nat.shiftLeft_eq])

/-- A logical shift to the right. -/
theorem ofNat_shrW {w : Nat} (a : BitVec w) (n : Nat) : BitVec.ofNat w (shrW w a.toNat n) = a >>> n := by
  unfold shrW
  split
  next h => rw [BitVec.ushiftRight_eq_zero h]
  next =>
    have : a.toNat / 2 ^ n < 2 ^ w := Nat.lt_of_le_of_lt (Nat.div_le_self ..) a.isLt
    exact BitVec.eq_of_toNat_eq (by simp [Nat.shiftRight_eq_div_pow, Nat.mod_eq_of_lt this])

/-- A number below 2^w in magnitude, divided by 2^w or a greater power of two, is its sign. -/
theorem ediv_two_pow_sign {w n : Nat} (h : w ≤ n) {z : Int} (hlo : -2 ^ w ≤ z) (hhi : z < 2 ^ w) :
    z / 2 ^ n = if z < 0 then -1 else 0 := by
  have hp : (2 : Int) ^ w ≤ 2 ^ n := pow_le_pow_right₀ (by decide) h
  have h0 : (0 : Int) < 2 ^ n := by positivity
  split
  · rw [Int.ediv_eq_iff_of_pos h0]
    omega
  · exact Int.ediv_eq_zero_of_lt (by omega) (by omega)

/-- An arithmetic shift to the right. -/
theorem ofNat_sraW {w : Nat} (a : BitVec w) (n : Nat) : BitVec.ofNat w (sraW w a.toNat n) = a.sshiftRight n := by
  have hlt := BitVec.toInt_lt (x := a)
  have hle := BitVec.le_toInt (x := a)
  have hp : (2 : Int) ^ (w - 1) ≤ 2 ^ w := pow_le_pow_right₀ (by decide) (by omega)
  have hdiv : a.toInt / 2 ^ (if w ≤ n then w else n) = a.toInt / 2 ^ n := by
    split
    next h => rw [ediv_two_pow_sign (le_refl w) (by omega) (by omega), ediv_two_pow_sign h (by omega) (by omega)]
    next => rfl
  rw [sraW, ofNat_wrapI, sgn_toNat, hdiv]
  exact congrArg (BitVec.ofInt w) (by rw [Int.shiftRight_eq_div_pow]; rfl)

/-- A rotation to the left, by an amount modulo the width. -/
theorem ofNat_rotW {w : Nat} (hw : 0 < w) (a : BitVec w) (n : Nat) : BitVec.ofNat w (rotW w a.toNat n) = a.rotateLeft n := by
  have hk : n % w ≤ w := (Nat.mod_lt n hw).le
  have hlow : a.toNat / 2 ^ (w - n % w) < 2 ^ (n % w) := by
    rw [Nat.div_lt_iff_lt_mul (Nat.two_pow_pos _), ← Nat.pow_add, Nat.add_sub_cancel' hk]
    exact a.isLt
  have hhigh : a.toNat * 2 ^ (n % w) % 2 ^ w = (a.toNat % 2 ^ (w - n % w)) <<< (n % w) := by
    rw [Nat.shiftLeft_eq, ← Nat.mul_mod_mul_right, ← Nat.pow_add, Nat.sub_add_cancel hk]
  have hor : rotW w a.toNat n = (a.rotateLeft n).toNat := by
    rw [BitVec.toNat_rotateLeft, rotW, Nat.shiftLeft_eq, hhigh, Nat.shiftRight_eq_div_pow, Nat.shiftLeft_add_eq_or_of_lt hlow]
  rw [hor, BitVec.ofNat_toNat, BitVec.setWidth_eq]

/-- An element of a type has bits. -/
theorem tyBits_pos (ty : BitVec 4) : 0 < tyBits ty := by
  revert ty
  decide

/-! ## Lanes of integer operations, of `vsel` and of `vperm` (R162, R166, R168) -/

/-- R39, R53, R162: the lanes of the two-source integer instructions. -/
theorem integerLanes : Claims.IntegerLanes := by
  intro i s r x wd et a b n hrow hargs hi hsat hn
  unfold laneArgs at hargs
  split at hargs <;> simp only [Option.some.injEq, Prod.mk.injEq, reduceCtorEq] at hargs <;>
    obtain ⟨rfl, rfl, rfl, rfl, rfl⟩ := hargs <;> simp only [vecRow] at hrow <;> refine congrArg some ((lane_vec2 hrow s hn).trans ?_)
  · exact Arith.ofNat_add hi hsat ..
  · exact Arith.ofNat_sub hi hsat ..
  · exact Arith.ofNat_mul hi hsat ..
  · exact BitVec.ofNat_and.trans (by simp)
  · exact BitVec.ofNat_or.trans (by simp)
  · exact BitVec.ofNat_xor.trans (by simp)
  · exact ofNat_shlW ..
  · exact ofNat_shrW ..
  · exact ofNat_sraW ..
  · exact ofNat_rotW (tyBits_pos _) ..
  · exact Arith.ofNat_min hi hsat ..
  · exact Arith.ofNat_max hi hsat ..

/-- R166: a byte of `vsel`. -/
theorem lane_selBytes {wd : Width} {j : Nat} (h : j < wd.bits / 8) (m : BitVec 128) (a b : V1024) :
    lane 8 j (selBytes wd m a b) = if m.getLsbD j then lane 8 j a else lane 8 j b := by
  rw [selBytes, lane_packEls (lane_fits h), nth_map_range h]
  refine BitVec.eq_of_toNat_eq ?_
  cases hm : m.getLsbD j <;> simp [bitAt, hm, toNat_lane]

/-- R168: an element of `vperm`. -/
theorem lane_permLanes {w n j : Nat} (hn : w * n ≤ 1024) (h : j < n) (a b : V1024) :
    lane w j (permLanes w n a b) = if (lane w j b).toNat < n then lane w (lane w j b).toNat a else 0 := by
  have hfit : w * j + w ≤ 1024 := Nat.le_trans (Nat.mul_le_mul_left w h) hn
  rw [permLanes, lane_packEls hfit, elems_eq_lanes w n b, List.map_map, nth_map_range h, Function.comp]
  split
  next hk => rw [nth_elems hk, BitVec.ofNat_toNat, BitVec.setWidth_eq]
  next => rfl

/-- Settles O13: a lane of a packed register is the element packed there, and each integer operation is that of words. -/
theorem laneResults : Obligations.LaneResults :=
  ⟨integerLanes, fun _ m a b _ h => lane_selBytes h m a b, fun _ _ a b _ _ hn h => lane_permLanes hn h a b⟩

end Sys2Proof.Machine

/-! The vector instructions with another destination (R165, R167, R169, R175) and relative position bias (R54, R178). -/

namespace Sys2Proof.Machine

open Sys2Proof.Claims

/-! ## What popping leaves (R183) -/

/-- The slots after a change of one. -/
theorem Core.get_modStream (k : Core) (n : BitVec 3) (f : StreamSlot → StreamSlot) (i : Fin 8) :
    (k.modStream n f).ctx.streams.get i = if i = n.toFin then f (k.ctx.streams.get i) else k.ctx.streams.get i := by
  split
  next h =>
    subst h
    exact vector_get_set_same ..
  next h => exact vector_get_set_ne _ _ h

/-- Popping changes neither the binding of a slot nor its register. -/
theorem Core.popStreams_binding (k : Core) (u : Uses) (i : Fin 8) :
    ((k.popStreams u).ctx.streams.get i).bound = (k.ctx.streams.get i).bound ∧
      ((k.popStreams u).ctx.streams.get i).vr = (k.ctx.streams.get i).vr := by
  unfold Core.popStreams
  induction u.vs generalizing k with
  | nil => exact ⟨rfl, rfl⟩
  | cons r rs ih =>
    rw [List.foldl_cons]
    split
    next slot st _ =>
      split
      · exact ih k
      · split
        · exact ih k
        · obtain ⟨hb, hv⟩ := ih { (k.modStream slot fun st => { st with fifo := st.fifo.drop 1 }) with
            bun := { k.bun with pops := _ } }
          have hget := k.get_modStream slot (fun st => { st with fifo := st.fifo.drop 1 }) i
          refine ⟨hb.trans ((congrArg StreamSlot.bound hget).trans ?_), hv.trans ((congrArg StreamSlot.vr hget).trans ?_)⟩ <;>
            split <;> rfl
    next => exact ih k

/-- A register that is bound to no stream is bound to none after popping. -/
theorem Core.boundSlot_popStreams {k : Core} {r : BitVec 5} (h : k.boundSlot r = none) (u : Uses) :
    (k.popStreams u).boundSlot r = none := by
  unfold Core.boundSlot at *
  split at h
  next hr => rw [if_pos hr]
  next hr =>
    rw [if_neg hr, List.find?_eq_none]
    intro x hx
    obtain ⟨n, hn, rfl⟩ := List.mem_map.1 hx
    obtain ⟨hb, hv⟩ := k.popStreams_binding u ⟨n % 8, Nat.mod_lt _ (by decide)⟩
    simp only [hb, hv]
    exact List.find?_eq_none.1 h _ (List.mem_map.2 ⟨n, hn, rfl⟩)

/-- The same of the state in which the syllable computes. -/
theorem boundSlot_popped {s : State} {r : BitVec 5} (h : s.me.boundSlot r = none) (u : Uses) : (popped s u).me.boundSlot r = none := by
  unfold popped
  split
  · exact h
  · rw [State.me_modMe]
    exact Core.boundSlot_popStreams h u

/-- Popping leaves room for a number of results. -/
theorem roomFor_popped {s : State} {n : Nat} (h : RoomFor s n) (u : Uses) : RoomFor (popped s u) n := by
  rwa [RoomFor, (UnderWay.popped s u).priv, inFlight_popped]

/-- Popping leaves room for a result. -/
theorem room_popped {s : State} (h : s.Room) (u : Uses) : (popped s u).Room := roomFor_popped (n := 1) h u

/-- A syllable that passes its checks and has, where it computes, an effect on the acting core alone. -/
theorem act_syl_popped {x : Lent} {u : Uses} {s t : State} {body : State → State} (hs : s.dev.wbuf = []) (h : s.Ready x u)
    (hb : body (popped s u) = t) (hm : t.mem = (popped s u).mem) (hp : t.part = (popped s u).part)
    (hw : t.dev.wbuf = (popped s u).dev.wbuf) : act (syl x u body) s = .next t := by
  have hu := UnderWay.popped s u
  obtain ⟨-, -, -, -, -, -, -, -, -, -, -, -, hpart⟩ := hu.regs
  exact act_answers ((syl_popped h body).trans hb) (hm.trans hu.mem) (hp.trans hpart) (hw.trans (hu.wbuf.trans hs))

/-- A vector result into a register that is bound to no stream, or into none, with room. -/
theorem State.resV_unbound {s : State} (h : s.Room) {d : VDst} (hd : d.n = true ∨ s.me.boundSlot d.r = none) (lat : Nat) (wd : Width)
    (v : V1024) : s.resV lat wd d v = s.issues (vecDue s lat wd d v) := by
  rcases hd with hn | hb
  · rw [State.resV, if_pos hn, State.result_room h, vecDue, if_pos hn]
    rfl
  · exact State.resV_room h hb lat wd v

/-- A destination that is bound to no stream is so where the syllable computes. -/
theorem unbound_popped {s : State} {d : VDst} (h : d.n = true ∨ s.me.boundSlot d.r = none) (u : Uses) :
    d.n = true ∨ (popped s u).me.boundSlot d.r = none := h.imp_right fun h => boundSlot_popped h u

/-! ## Masks (R165, R167) -/

/-- The operations of `vmsk`. -/
theorem maskOp_eq (op : BitVec 3) (a b : BitVec 128) : maskOp op a b = maskResult op a b := by
  unfold maskOp maskResult
  rcases op.toNat with _ | _ | _ | _ | _ | _ | _ <;> rfl

/-! ## One element (R169) -/

/-- An element of an integer type in 64 bits is its lane, extended as its type says; one of another type is extended by 0s. -/
theorem ofI_intVal_elems {ty : BitVec 4} {n i : Nat} (h : i < n) (v : V1024) : ofI (intVal ty (nth (elems (tyBits ty) n v) i 0)) =
    if isSigned ty then (lane (tyBits ty) i v).signExtend 64 else (lane (tyBits ty) i v).setWidth 64 := by
  rw [nth_elems h, intVal]
  split
  · rw [sgn_toNat]
    rfl
  · rw [ofI, BitVec.ofInt_natCast, BitVec.ofNat_toNat]

/-- A lane that `vext` may name. -/
theorem vext_lane_lt {x : Lent} {wd : Width} {h : Bool} {et : BitVec 1} {d : BitVec 6} {a : VSrc} {idx : BitVec 6}
    (hwf : (Instr.vext x wd h et d a idx).wf = true) : idx.toNat < lanes wd (tyBits (x.ty et)) :=
  of_decide_eq_true (Bool.and_eq_true_iff.1 hwf).2

/-- A scalar result that reaches no latch, with room. -/
theorem State.resR_room {s : State} (h : s.Room) (lat : Nat) (d : BitVec 6) (v : W64) :
    s.resR lat d v = s.issues (s.due lat (.s d s.me.priv) false (v.setWidth 1024)) := by
  rw [State.resR, State.result_room h]
  rfl

/-! ## Two results (R175) -/

/-- What is due after a result is what would have been due before it. -/
theorem vecDue_issues (s : State) (f : Flight) (lat : Nat) (wd : Width) (d : VDst) (v : V1024) :
    vecDue (s.issues f) lat wd d v = vecDue s lat wd d v := by
  have hme : (s.issues f).me = s.me.addFlight f := State.me_modMe ..
  simp only [vecDue, State.due, hme, Core.addFlight_bun, Core.addFlight_clk]

/-- A result that counts and a vector result, with room for two. -/
theorem State.result_then_resV {s : State} (h : RoomFor s 2) (hl : s.live = true) {f : Flight} (hf : f.counts = true) {d : VDst}
    (hd : d.n = true ∨ s.me.boundSlot d.r = none) (lat : Nat) (wd : Width) (v : V1024) :
    (s.result f).andThen (fun s => s.resV lat wd d v) = (s.issues f).issues (vecDue s lat wd d v) := by
  have hme : (s.issues f).me = s.me.addFlight f := State.me_modMe ..
  have hroom : (s.issues f).Room := by
    rw [State.Room, State.inFlight_issues s hf, hme]
    exact h.imp_right fun h => by omega
  rw [State.result_room (h.imp_right fun h => by omega), State.andThen_live ((State.live_issues s f).trans hl),
    State.resV_unbound hroom (by rwa [hme]), vecDue_issues]

/-- R165, R167, R169, R175: `vcmp`, `vmsk`, `vext` and `vmaxe`. -/
theorem maskScalarAndScaleResults : Claims.MaskScalarAndScaleResults := by
  refine ⟨?vcmp, ?vmsk, ?vext, ?vmaxe⟩
  case vcmp =>
    rintro s _ x wd h et c md a b _ hs hr hroom rfl rfl
    exact act_syl_popped hs hr (State.resM_room (room_popped hroom _) ..) rfl rfl rfl
  case vmsk =>
    intro s x wd op md ma mb hs hr hroom
    rw [← maskOp_eq]
    exact act_syl_answers hr rfl (State.resM_room hroom ..) rfl rfl hs
  case vext =>
    rintro s _ x wd h et d a idx _ hs hr hroom hwf rfl rfl
    rw [← ofI_intVal_elems (vext_lane_lt hwf), ← (UnderWay.popped s (Uses.none.v a)).priv]
    exact act_syl_popped hs hr (State.resR_room (room_popped hroom _) ..) rfl rfl rfl
  case vmaxe =>
    rintro s _ x wd h d a tgt src _ hs hr hroom hl hd rfl rfl
    have hu := UnderWay.popped s ((Uses.none.v a).d d)
    exact act_syl_popped hs hr
      (State.result_then_resV (roomFor_popped hroom _) (hu.live.trans hl) rfl (unbound_popped hd _) ..) rfl rfl rfl

/-! ## The table of `vrpb` (R54, R178) -/

/-- Without its first bytes a byte string spells the higher part of its number. -/
theorem leNat_drop (l : List Byte) (k : Nat) : leNat (l.drop k) = leNat l / 2 ^ (8 * k) := by
  induction k generalizing l with
  | zero => simp
  | succ k ih =>
    cases l with
    | nil => simp [leNat]
    | cons b l =>
      have hb : b.toNat / 256 = 0 := Nat.div_eq_of_lt b.isLt
      rw [List.drop_succ_cons, ih, leNat, Nat.mul_succ, Nat.add_comm (8 * k), Nat.pow_add, ← Nat.div_div_eq_div_mul,
        show (2 : Nat) ^ 8 = 256 by rfl, Nat.add_mul_div_left _ _ (by decide), hb, Nat.zero_add]

/-- The first bytes of a byte string spell the lower part of its number. -/
theorem leNat_take (l : List Byte) (k : Nat) : leNat (l.take k) = leNat l % 2 ^ (8 * k) := by
  induction k generalizing l with
  | zero => simp [leNat, Nat.mod_one]
  | succ k ih =>
    cases l with
    | nil => simp [leNat]
    | cons b l =>
      have hb : (b.toNat + 256 * leNat l) / 256 = leNat l := by have := b.isLt; omega
      have hm : (b.toNat + 256 * leNat l) % 256 = b.toNat := by have := b.isLt; omega
      rw [List.take_succ_cons, leNat, leNat, ih, Nat.mul_succ, Nat.add_comm (8 * k), Nat.pow_add, show (2 : Nat) ^ 8 = 256 by rfl,
        Nat.mod_mul, hb, hm]

/-- Bytes in the middle of a span. -/
theorem map_addrs_middle (f : Nat → Byte) {a n k m : Nat} (h : k + m ≤ n) :
    (((addrs a n).map f).drop k).take m = (addrs (a + k) m).map f := by
  refine List.ext_getElem ?_ fun i _ _ => ?_
  · simp [addrs_eq_range']
    omega
  · simp [addrs_eq_range', Nat.add_assoc]

/-- Bytes that fill a word spell its number. -/
theorem toNat_ofNat_leNat {l : List Byte} {n : Nat} (h : 8 * l.length = n) : (BitVec.ofNat n (leNat l)).toNat = leNat l := by
  subst h
  rw [BitVec.toNat_ofNat, Nat.mod_eq_of_lt (leNat_lt l)]

/-- The 32-bit elements of 128 bytes are the numbers that they spell by fours. -/
theorem elems_bytes (f : Nat → Byte) (a : Nat) : elems 32 32 (BitVec.ofNat 1024 (leNat ((addrs a 128).map f))) =
    (List.range 32).map fun i => leNat ((addrs (a + 4 * i) 4).map f) := by
  refine List.map_congr_left fun i hi => ?_
  have hi : i < 32 := List.mem_range.1 hi
  have hlen : 8 * ((addrs a 128).map f).length = 1024 := by simp [addrs_eq_range']
  rw [toNat_ofNat_leNat hlen, show 32 * i = 8 * (4 * i) by omega, show 32 = 8 * 4 by rfl, ← leNat_drop, ← leNat_take,
    map_addrs_middle f (by omega)]

/-- The core that acts is the same where the syllable computes. -/
theorem popped_cur (s : State) (u : Uses) : (popped s u).dev.cur = s.dev.cur := by
  unfold popped
  split <;> rfl

/-- Popping changes stream slots and the bundle's pops alone. -/
theorem popped_me (s : State) (u : Uses) : ∃ st ps, (popped s u).me =
    { s.me with ctx := { s.me.ctx with streams := st }, bun := { s.me.bun with pops := ps } } := by
  unfold popped
  split
  · exact ⟨_, _, rfl⟩
  · rw [State.me_modMe]
    exact s.me.popStreams_only u

/-- The table that `vrpb` reads from the local store, where nothing is on its way there. -/
theorem biasTable {s : State} (hs : s.dev.wbuf = []) (hq : Quiet s) {off : Nat} (h : off < 2 ^ 20) (seq : Nat) :
    elems 32 32 (BitVec.ofNat 1024 (leNat (s.readPart s.dev.cur.core seq
      { va := Config.lsBase + off / 128 * 128, len := 128, pa := some (lsAddr s.dev.cur.core (off / 128 * 128)), sc := false }))) =
    (List.range 32).map fun i => memNat s (lsPlace s (Config.lsBase + off / 128 * 128 + 4 * i)) 4 := by
  obtain ⟨-, hw, hwr⟩ := hq
  have hplace : lsAddr s.dev.cur.core (off / 128 * 128) = lsPlace s (Config.lsBase + off / 128 * 128) := by
    rw [lsPlace, Nat.add_sub_cancel_left]
  have hstep (i : Nat) : lsPlace s (Config.lsBase + off / 128 * 128) + 4 * i = lsPlace s (Config.lsBase + off / 128 * 128 + 4 * i) := by
    simp only [lsPlace, lsAddr]
    omega
  have hlim : Config.lsBase + off / 128 * 128 + 128 ≤ Config.vaLimit := by
    simp only [Config.lsBase, Config.vaLimit]
    omega
  rw [hplace, State.readPart_local hs (Nat.le_add_right ..) hlim (by decide) hwr (by simp [hw]), elems_bytes]
  simp only [hstep, memNat]

/-- What `vrpb` adds where it computes is the sum of R178. -/
theorem biasLanes_popped {s : State} (hs : s.dev.wbuf = []) (hq : Quiet s) (x : Lent) (wd : Width) (bidir : Bool) (a p : VSrc) (u : Uses)
    (h : nth (elems 32 3 ((popped s u).me.vsrc p)) 2 0 < 2 ^ 20) (seq : Nat) :
    biasLanes wd bidir { ty := 0, rnd := x.rnd.toNat, sat := false, fz := (popped s u).me.ctx.fz }
      (sgn 32 (nth (elems 32 3 ((popped s u).me.vsrc p)) 0 0)) (sgn 32 (nth (elems 32 3 ((popped s u).me.vsrc p)) 1 0))
      (elems 32 32 (BitVec.ofNat 1024 (leNat ((popped s u).readPart (popped s u).dev.cur.core seq
        { va := Config.lsBase + nth (elems 32 3 ((popped s u).me.vsrc p)) 2 0 / 128 * 128, len := 128,
          pa := some (lsAddr (popped s u).dev.cur.core (nth (elems 32 3 ((popped s u).me.vsrc p)) 2 0 / 128 * 128)), sc := false }))))
      ((popped s u).me.vsrc a) = biasSum s (popped s u) x wd bidir a p := by
  have hu := UnderWay.popped s u
  obtain ⟨st, ps, hme⟩ := popped_me s u
  have hfz : (popped s u).me.ctx.fz = s.me.ctx.fz := by rw [hme]
  have hwents : (popped s u).me.wents = s.me.wents := by rw [hme]
  obtain ⟨ho, hw, hwr⟩ := hq
  have htab := biasTable (hu.wbuf.trans hs) ⟨hu.ops.trans ho, hwents.trans hw, hu.writes.trans hwr⟩ h seq
  rw [htab, hfz]
  simp only [memNat, lsPlace, popped_cur, hu.mem]
  rfl

/-- R54, R178: `vrpb`, and its table past the local store. -/
theorem relativePositionBias : Claims.RelativePositionBias := by
  rintro s _ x wd h bidir d a p _ hs hr rfl rfl
  constructor
  · intro hroom hq hd hoff
    refine act_syl_popped hs hr ?_ rfl rfl rfl
    exact (if_neg (Nat.not_le.2 hoff)).trans
      ((State.resV_unbound (room_popped hroom _) (unbound_popped hd _) ..).trans (by rw [biasLanes_popped hs hq x wd bidir a p _ hoff]))
  · intro hoff
    exact act_syl_popped hs hr ((if_pos hoff).trans (State.trap_eq ..)) rfl rfl rfl

/-- Settles O14: the vector instructions with another destination, and relative position bias. -/
theorem otherVectorResults : Obligations.OtherVectorResults := ⟨maskScalarAndScaleResults, relativePositionBias⟩

end Sys2Proof.Machine

/-! Chains of products (R48), bytes of encrypted tiers as a key shows them (R391), and the landing of a pass's row (R51, R192, R201). -/

namespace Sys2Proof.Machine

open Sys2Proof.Claims

/-! ## Exact sums (R48) -/

/-- The chain value is finite and is this number. -/
def Chain.Holds (c : Chain) (x : ℚ) : Prop := ∃ n e, c = .fin n e ∧ (n : ℚ) * (2 : ℚ) ^ e = x

/-- A number brought to a lower exponent is the same number. -/
theorem scaled_to_lower (n : Int) {e f : Int} (h : e ≤ f) :
    ((n * 2 ^ (f - e).toNat : Int) : ℚ) * (2 : ℚ) ^ e = n * (2 : ℚ) ^ f := by
  push_cast
  rw [mul_assoc, ← zpow_natCast (2 : ℚ), Int.toNat_of_nonneg (by omega), ← zpow_add₀ (by norm_num), Int.sub_add_cancel]

/-- The sum of two chain values is exact. -/
theorem Chain.Holds.add {c d : Chain} {x y : ℚ} (hc : c.Holds x) (hd : d.Holds y) : (c.add d).Holds (x + y) := by
  obtain ⟨a, ea, rfl, rfl⟩ := hc
  obtain ⟨b, eb, rfl, rfl⟩ := hd
  refine ⟨_, _, rfl, ?_⟩
  rw [Int.cast_add, add_mul, scaled_to_lower a (min_le_left ..), scaled_to_lower b (min_le_right ..)]

/-- A finite product is its value. -/
theorem Chain.holds_ofF {p : FVal} (h : isFinite p) : (Chain.ofF p).Holds (valueOf p) := by
  cases p with
  | nan => exact h.elim
  | inf _ => exact h.elim
  | fin n m e =>
    by_cases hm : m = 0
    · exact ⟨0, 0, by simp [Chain.ofF, hm], by simp [valueOf, hm]⟩
    · exact ⟨signed n m, e, by simp [Chain.ofF, hm], by cases n <;> simp [valueOf, signed]⟩

/-- Finite products added to a chain value, in their order. -/
theorem Chain.Holds.foldl {ps : List FVal} (h : ∀ p ∈ ps, isFinite p) {c : Chain} {x : ℚ} (hc : c.Holds x) :
    (ps.foldl (fun c p => c.add (.ofF p)) c).Holds (x + (ps.map valueOf).sum) := by
  induction ps generalizing c x with
  | nil => simpa using hc
  | cons p ps ih =>
    rw [List.foldl_cons, List.map_cons, List.sum_cons, ← add_assoc]
    exact ih (fun q hq => h q (List.mem_cons_of_mem _ hq)) (hc.add (holds_ofF (h p List.mem_cons_self)))

/-- R48: without the BF16 rule a chain of finite products is their exact sum. -/
theorem chainSumExact : Claims.ChainSumExact := by
  intro ps h
  have h0 : (Chain.fin 0 0).Holds 0 := ⟨0, 0, rfl, by simp⟩
  simpa [chainSum, Chain.Holds] using h0.foldl h

/-! ## Bytes of a data unit under a key (R391) -/

/-- The inverse of AES-256 answers a block of 16 bytes. -/
theorem aes256Inv_length {k : List Byte} (h : k.length = 32) (b : List Byte) : (aes256Inv k b).length = 16 := by
  simp [aes256Inv, List.range_succ, roundKey_length h, shiftRowsInv]

/-- The plaintext of a data unit has 64 bytes. -/
theorem xtsDecrypt_length (key : BitVec 512) (tier off : Nat) (bs : List Byte) : (xtsDecrypt key tier off bs).length = 64 := by
  have h : ((toLe 64 key.toNat).take 32).length = 32 := by simp
  simp [xtsDecrypt, xtsUnit, tweaks, aes256Inv_length h]

/-- A data unit shows 64 bytes under a key. -/
theorem State.unitAs_length (s : State) (k : BitVec 512) (p : Nat) : (s.unitAs k p).length = 64 := by
  have hm : ((addrs (p / 64 * 64) 64).map s.cell).length = 64 := by simp [addrs_eq_range']
  unfold State.unitAs
  split
  · exact hm
  · split
    · exact hm
    · exact xtsDecrypt_length ..
  · exact xtsDecrypt_length ..

/-- The byte of a tier that a key shows. -/
def State.byteAs (s : State) (k : BitVec 512) (p : Nat) : Byte := nth (s.unitAs k p) (p % 64) 0

/-- A unit of that key, or one that nothing has written, shows its stored bytes. -/
theorem State.byteAs_shows {s : State} {k : BitVec 512} {p : Nat} (h : s.shows k p = true) : s.byteAs k p = s.cell p := by
  have hu : s.unitAs k p = (addrs (p / 64 * 64) 64).map s.cell := by
    unfold State.shows at h
    unfold State.unitAs
    split at h
    next => rfl
    next => exact if_pos (eq_of_beq h)
    next => cases h
  rw [State.byteAs, hu, nth_map_addrs _ (Nat.mod_lt _ (by decide)), Nat.div_add_mod']

/-- A keyed place shows the byte of its place under its key. -/
theorem State.peek_keyed {s : State} {a : Nat} (h : ¬ a < 2 ^ 70) : s.peek a = s.byteAs (s.keyAt a) (physOf a) := by
  rw [State.peek, if_neg h]
  simp only
  split
  next hs => exact (State.byteAs_shows hs).symm
  next => rfl

/-- What a data unit shows depends on its stored bytes and its tag alone. -/
theorem State.unitAs_congr {s t : State} {a b : Nat} (k : BitVec 512) (h : a / 64 = b / 64) (ht : t.tagOf a = s.tagOf b)
    (hc : ∀ c, c / 64 = b / 64 → t.cell c = s.cell c) : t.unitAs k a = s.unitAs k b := by
  have hm : (addrs (a / 64 * 64) 64).map t.cell = (addrs (b / 64 * 64) 64).map s.cell := by
    rw [h]
    exact List.map_congr_left fun c hm => hc c (by have := mem_addrs.1 hm; omega)
  simp only [State.unitAs, hm, ht, unitOff_unit h, State.rawUnit_congr h ht hc]

/-! ## Writing at a keyed place (R391) -/

/-- A unit that enters a key has its tag; every other keeps its own. -/
theorem State.tagOf_enterKey (s : State) (k : BitVec 512) (p a : Nat) :
    (s.enterKey k p).tagOf a = if a / 64 = p / 64 then some (.key k) else s.tagOf a := by
  have retag : ((s.setCells (p / 64 * 64) (s.unitAs k p)).tagUnit (p / 64) (.key k)).tagOf a =
      if a / 64 = p / 64 then some (.key k) else s.tagOf a := by
    rw [State.tagOf_tagUnit]
    obtain ⟨l, hl⟩ := s.setCells_only (p / 64 * 64) (s.unitAs k p)
    rw [hl]
    rfl
  unfold State.enterKey
  split
  next j h =>
    split
    next hj =>
      split
      next e => rw [s.tagOf_unit e, h, hj]
      next => rfl
    next => exact retag
  next => exact retag
  next => exact State.tagOf_tagUnit ..

/-- A unit that enters a key stores what it showed under it; every other byte stays. -/
theorem State.cell_enterKey (s : State) (k : BitVec 512) (p a : Nat) :
    (s.enterKey k p).cell a = if a / 64 = p / 64 then s.byteAs k a else s.cell a := by
  have kept (h : s.shows k p = true) : s.cell a = if a / 64 = p / 64 then s.byteAs k a else s.cell a := by
    split
    next e => exact (State.byteAs_shows (by rw [State.shows, s.tagOf_unit e]; exact h)).symm
    next => rfl
  have stored : (s.setCells (p / 64 * 64) (s.unitAs k p)).cell a = if a / 64 = p / 64 then s.byteAs k a else s.cell a := by
    rw [State.cell_setCells, State.unitAs_length]
    by_cases e : a / 64 = p / 64
    · rw [if_pos (by omega), if_pos e, State.byteAs, State.unitAs_congr k e (s.tagOf_unit e) fun _ _ => rfl,
        show a % 64 = a - p / 64 * 64 by omega]
    · rw [if_neg (by omega), if_neg e]
  unfold State.enterKey
  split
  next j h =>
    split
    next hj => exact kept (by simp [State.shows, h, hj])
    next => exact stored
  next => exact stored
  next h => exact kept (by simp [State.shows, h])

/-- A byte written under a key shows under it, and every other byte shows under it as before. -/
theorem State.byteAs_enterKey_setCell (s : State) (k : BitVec 512) (p : Nat) (b : Byte) (a : Nat) :
    ((s.enterKey k p).setCell p b).byteAs k a = if a = p then b else s.byteAs k a := by
  have ht : ((s.enterKey k p).setCell p b).tagOf a = if a / 64 = p / 64 then some (.key k) else s.tagOf a := s.tagOf_enterKey k p a
  by_cases e : a / 64 = p / 64
  · rw [State.byteAs_shows (by simp [State.shows, ht, e]), State.cell_setCell, State.cell_enterKey, if_pos e]
  · have hc : ∀ c, c / 64 = a / 64 → ((s.enterKey k p).setCell p b).cell c = s.cell c := fun c hc => by
      rw [State.cell_setCell, State.cell_enterKey, if_neg (fun h => e (by rw [← hc, h])), if_neg (by omega)]
    rw [State.byteAs, if_neg (fun h => e (by rw [h])), State.byteAs, State.unitAs_congr k rfl (by rw [ht, if_neg e]) hc]

/-- A write keeps the keys. -/
theorem State.keyAt_poke (s : State) (a : Nat) (b : Byte) (c : Nat) : (s.poke a b).keyAt c = s.keyAt c := by
  obtain ⟨l, m, h⟩ := s.poke_only a b
  rw [h]
  rfl

/-- A byte written shows at its place; every other byte that the same key shows, or that no key does, shows as before. -/
theorem State.peek_poke_block (s : State) {a c : Nat} (h : a / 2 ^ 70 = c / 2 ^ 70) (b : Byte) :
    (s.poke a b).peek c = if c = a then b else s.peek c := by
  by_cases ha : a < 2 ^ 70
  · exact s.peek_poke b ha (by omega)
  · have hc : ¬ c < 2 ^ 70 := by omega
    have hkey : s.keyAt c = s.keyAt a := by simp only [State.keyAt, h]
    have heq : physOf c = physOf a ↔ c = a := by
      simp only [physOf]
      omega
    rw [State.peek_keyed hc, State.peek_keyed hc, State.keyAt_poke, hkey, State.poke, if_neg ha, State.byteAs_enterKey_setCell]
    simp only [heq]

/-- Bytes written at places of one key show there; every other place of that key shows as before. -/
theorem State.peek_pokes_block (s : State) {a c : Nat} (bs : List Byte) (h : ∀ i < bs.length, (a + i) / 2 ^ 70 = c / 2 ^ 70) :
    (s.pokes a bs).peek c = if a ≤ c ∧ c < a + bs.length then nth bs (c - a) 0 else s.peek c := by
  induction bs generalizing s a with
  | nil => simp [State.pokes]
  | cons b bs ih =>
    have h' : ∀ i < bs.length, (a + 1 + i) / 2 ^ 70 = c / 2 ^ 70 := fun i hi => by
      rw [Nat.add_assoc, Nat.add_comm 1]
      exact h (i + 1) (Nat.succ_lt_succ hi)
    have h0 : a / 2 ^ 70 = c / 2 ^ 70 := h 0 (Nat.succ_pos _)
    rw [State.pokes, ih _ h', State.peek_poke_block _ h0, List.length_cons]
    by_cases hc : c = a
    · rw [if_neg (by omega), if_pos hc, if_pos (by omega), hc, Nat.sub_self]
      rfl
    · by_cases hr : a + 1 ≤ c ∧ c < a + 1 + bs.length
      · rw [if_pos hr, if_pos (by omega), show c - a = c - (a + 1) + 1 by omega]
        rfl
      · rw [if_neg hr, if_neg hc, if_neg (by omega)]

/-- A number written at places of one key reads back. -/
theorem State.peekNat_pokes_same (s : State) {a n : Nat} (v : Nat) (h : ∀ i < n, (a + i) / 2 ^ 70 = a / 2 ^ 70) :
    (s.pokes a (toLe n v)).peekNat a n = v % 2 ^ (8 * n) := by
  have hp : (s.pokes a (toLe n v)).peeks a n = toLe n v := by
    have hm := map_addrs_eq (a := a) (bs := toLe n v) (f := (s.pokes a (toLe n v)).peek) fun i hi => by
      rw [toLe_length] at hi
      have hk : ∀ x < (toLe n v).length, (a + x) / 2 ^ 70 = (a + i) / 2 ^ 70 := fun x hx => by
        rw [toLe_length] at hx
        rw [h x hx, h i hi]
      rw [State.peek_pokes_block s _ hk, toLe_length, if_pos (by omega), Nat.add_sub_cancel_left]
    rwa [toLe_length] at hm
  rw [State.peekNat, hp, leNat_toLe]

/-- A number beside the bytes written, at places of the same key, is the number that it was. -/
theorem State.peekNat_pokes_apart (s : State) {a c n : Nat} {bs : List Byte} (h : a + bs.length ≤ c ∨ c + n ≤ a)
    (hk : ∀ i < bs.length, ∀ j < n, (a + i) / 2 ^ 70 = (c + j) / 2 ^ 70) : (s.pokes a bs).peekNat c n = s.peekNat c n := by
  refine congrArg leNat (List.map_congr_left fun x hx => ?_)
  obtain ⟨hlo, hhi⟩ := mem_addrs.1 hx
  have hb : ∀ i < bs.length, (a + i) / 2 ^ 70 = x / 2 ^ 70 := fun i hi => by
    rw [hk i hi (x - c) (by omega), Nat.add_sub_cancel' hlo]
  rw [State.peek_pokes_block s bs hb, if_neg (by omega)]

/-! ## The row of a pass lands (R51, R192, R201) -/

/-- Where element `j` of a tile row stands. -/
def tileEl (c : CoreId) (t : BitVec 3) (row j : Nat) : Nat := tileAddr c t.toNat (512 * row + 4 * j)

/-- Elements of a row stand four bytes apart. -/
theorem tileEl_eq (c : CoreId) (t : BitVec 3) (row j : Nat) : tileEl c t row j = tileEl c t row 0 + 4 * j := by
  simp only [tileEl, tileAddr]
  omega

/-- The bytes of a row stand at places of one key. -/
theorem tileEl_block (c : CoreId) (t : BitVec 3) (row : Nat) {j i : Nat} (hj : j < 128) (hi : i < 4) :
    (tileEl c t row j + i) / 2 ^ 70 = tileEl c t row 0 / 2 ^ 70 := by
  simp only [tileEl, tileAddr, Config.tileAt]
  omega

/-- An element of a tile after a chain has drained into it. -/
def drained (int sat : Bool) (asc : Byte) (bs : BitVec 32) (old : BitVec 32) (e : Chain) (j : Nat) : BitVec 32 :=
  if int then drainI old e sat else drainF old e asc.toNat (fieldNat bs (8 * (j / 32)) 8)

/-- Of a floating-point tile. -/
theorem drained_float (sat : Bool) (asc : Byte) (bs : BitVec 32) (old : BitVec 32) (e : Chain) (j : Nat) :
    drained false sat asc bs old e j = drainF old e asc.toNat (bs.extractLsb' (8 * (j / 32)) 8).toNat := by
  rw [BitVec.extractLsb'_toNat]
  rfl

/-- Of an integer tile. -/
theorem drained_int (sat : Bool) (asc : Byte) (bs : BitVec 32) (old : BitVec 32) (e : Chain) (j : Nat) :
    drained true sat asc bs old e j = drainI old e sat := rfl

/-- One chain drains into its element. -/
def State.drainEl (c : CoreId) (t : BitVec 3) (row : Nat) (asc : Byte) (bs : BitVec 32) (int sat : Bool) (s : State)
    (e : Chain × Nat) : State :=
  s.pokes (tileEl c t row e.2) (toLe 4 (drained int sat asc bs (BitVec.ofNat 32 (s.peekNat (tileEl c t row e.2) 4)) e.1 e.2).toNat)

/-- The landing of a row. -/
theorem State.matLandOne_drain (s : State) (c : CoreId) (clk ord : Nat) (t : BitVec 3) (row : Nat) (sums : List Chain) (asc : Byte)
    (bs : BitVec 32) (int sat : Bool) : s.matLandOne c { clk := clk, ord := ord, what := .drain t row sums asc bs int sat } =
      s.landDrain c t row sums asc bs int sat := rfl

/-- A row lands element by element, and its tile becomes dirty. -/
theorem State.landDrain_eq (s : State) (c : CoreId) (t : BitVec 3) (row : Nat) (sums : List Chain) (asc : Byte) (bs : BitVec 32)
    (int sat : Bool) : s.landDrain c t row sums asc bs int sat =
      (sums.zipIdx.foldl (State.drainEl c t row asc bs int sat) s).modCore c fun k => k.dirtyTile t := rfl

section
variable (c : CoreId) (t : BitVec 3) (row : Nat) (asc : Byte) (bs : BitVec 32) (int sat : Bool) (s : State)

/-- The element that a chain drains into. -/
theorem State.peekNat_drainEl_same {j : Nat} (hj : j < 128) (e : Chain) :
    (State.drainEl c t row asc bs int sat s (e, j)).peekNat (tileEl c t row j) 4 =
      (drained int sat asc bs (BitVec.ofNat 32 (s.peekNat (tileEl c t row j) 4)) e j).toNat := by
  have hk : ∀ i < 4, (tileEl c t row j + i) / 2 ^ 70 = tileEl c t row j / 2 ^ 70 := fun i hi =>
    (tileEl_block c t row hj hi).trans (tileEl_block c t row hj (i := 0) (by decide)).symm
  rw [State.drainEl, State.peekNat_pokes_same _ _ hk]
  exact Nat.mod_eq_of_lt (BitVec.isLt _)

/-- Every other element of the row. -/
theorem State.peekNat_drainEl_ne {i j : Nat} (hi : i < 128) (hj : j < 128) (h : j ≠ i) (e : Chain) :
    (State.drainEl c t row asc bs int sat s (e, i)).peekNat (tileEl c t row j) 4 = s.peekNat (tileEl c t row j) 4 := by
  refine State.peekNat_pokes_apart _ ?_ fun x hx y hy => ?_
  · rw [toLe_length, tileEl_eq c t row i, tileEl_eq c t row j]
    omega
  · rw [toLe_length] at hx
    rw [tileEl_block c t row hi hx, tileEl_block c t row hj hy]

/-- Chains that drain from element `k` on leave the elements before. -/
theorem State.peekNat_drains_below {j : Nat} (l : List Chain) {k : Nat} (hk : k + l.length ≤ 128) (h : j < k) :
    ((l.zipIdx k).foldl (State.drainEl c t row asc bs int sat) s).peekNat (tileEl c t row j) 4 = s.peekNat (tileEl c t row j) 4 := by
  induction l generalizing s k with
  | nil => rfl
  | cons e l ih =>
    rw [List.length_cons] at hk
    rw [List.zipIdx_cons, List.foldl_cons, ih _ (by omega) (by omega),
      State.peekNat_drainEl_ne c t row asc bs int sat s (by omega) (by omega) (by omega)]

/-- Each of the chains that drain from element `k` on drains into its own element as it stood. -/
theorem State.peekNat_drains {e : Chain} (l : List Chain) {k i : Nat} (hk : k + l.length ≤ 128) (h : l[i]? = some e) :
    ((l.zipIdx k).foldl (State.drainEl c t row asc bs int sat) s).peekNat (tileEl c t row (k + i)) 4 =
      (drained int sat asc bs (BitVec.ofNat 32 (s.peekNat (tileEl c t row (k + i)) 4)) e (k + i)).toNat := by
  induction l generalizing s k i with
  | nil => cases h
  | cons x l ih =>
    rw [List.length_cons] at hk
    rw [List.zipIdx_cons, List.foldl_cons]
    cases i with
    | zero =>
      cases h
      simp only [Nat.add_zero]
      rw [State.peekNat_drains_below c t row asc bs int sat _ l (by omega) (Nat.lt_add_one k),
        State.peekNat_drainEl_same c t row asc bs int sat s (by omega)]
    | succ i =>
      rw [List.getElem?_cons_succ] at h
      have hi : i < l.length := (List.getElem?_eq_some_iff.1 h).1
      rw [show k + (i + 1) = k + 1 + i by omega, ih _ (by omega) h,
        State.peekNat_drainEl_ne c t row asc bs int sat s (by omega) (by omega) (by omega)]

/-- A change of a core shows the same numbers in memory. -/
theorem State.peekNat_modCore (f : Core → Core) (a n : Nat) : (s.modCore c f).peekNat a n = s.peekNat a n := rfl

/-- Draining keeps every core. -/
theorem State.core_drains (l : List (Chain × Nat)) :
    (l.foldl (State.drainEl c t row asc bs int sat) s).core c = s.core c := by
  induction l generalizing s with
  | nil => rfl
  | cons e l ih =>
    obtain ⟨w, m, h⟩ := s.pokes_only (tileEl c t row e.2)
      (toLe 4 (drained int sat asc bs (BitVec.ofNat 32 (s.peekNat (tileEl c t row e.2) 4)) e.1 e.2).toNat)
    rw [List.foldl_cons, ih, State.drainEl, h]
    rfl

/-- An element of the row after it has landed. -/
theorem State.peekNat_landDrain {sums : List Chain} {e : Chain} {j : Nat} (hl : sums.length ≤ 128) (h : sums[j]? = some e) :
    (s.landDrain c t row sums asc bs int sat).peekNat (tileEl c t row j) 4 =
      (drained int sat asc bs (BitVec.ofNat 32 (s.peekNat (tileEl c t row j) 4)) e j).toNat := by
  rw [State.landDrain_eq, State.peekNat_modCore]
  have hd := State.peekNat_drains c t row asc bs int sat s sums (k := 0) (by omega) h
  rwa [Nat.zero_add] at hd

end

/-- R51, R192, R201: each element of a row of a pass, and its tile's DIRTY. -/
theorem passRowLands : Claims.PassRowLands := by
  intro s c clk ord row t sums asc bs sat j e _ hl he
  have hF := State.peekNat_landDrain c t row asc bs false sat s hl he
  have hI := State.peekNat_landDrain c t row asc bs true sat s hl he
  rw [drained_float] at hF
  rw [drained_int] at hI
  refine ⟨hF, hI, ?_⟩
  rw [State.matLandOne_drain, State.landDrain_eq, State.core_modCore_same, State.core_drains]
  exact vector_get_set_same (s.core c).mat.tcfg t.toFin _

/-- Settles O24: chains sum exactly, and the elements of a row are drained one by one, whatever the row. -/
theorem passArithmetic : Obligations.PassArithmetic := ⟨chainSumExact, passRowLands⟩

end Sys2Proof.Machine

/-! Accesses end as late errors (R63, R291, R299, R300), and what goes on then while writes are on their way (R81, R83, R91). -/

namespace Sys2Proof.Machine

open Sys2Proof.Claims

/-! ## What goes on while writes are on their way (R81, R83, R91) -/

/-- Of a core only waits have ended and operations have gone: a result that waits for nothing stays. -/
structure Core.Loosened (k k' : Core) : Prop where
  only : ∃ fl os, k' = { k with flights := fl, ops := os }
  ops : ∀ o ∈ k'.ops, ∃ o' ∈ k.ops, o'.id = o.id
  flights : ∀ f ∈ k.flights, f.wait = none → f ∈ k'.flights

/-- A core as it was. -/
theorem Core.Loosened.refl (k : Core) : k.Loosened k := ⟨⟨_, _, rfl⟩, fun o h => ⟨o, h, rfl⟩, fun _ h _ => h⟩

/-- One after the other. -/
theorem Core.Loosened.trans {k l m : Core} (h : k.Loosened l) (h' : l.Loosened m) : k.Loosened m := by
  refine ⟨?_, fun o ho => ?_, fun f hf hw => h'.flights f (h.flights f hf hw) hw⟩
  · obtain ⟨fl, os, rfl⟩ := h.only
    obtain ⟨fl', os', rfl⟩ := h'.only
    exact ⟨fl', os', rfl⟩
  · obtain ⟨o', ho', e'⟩ := h'.ops o ho
    obtain ⟨o'', ho'', e''⟩ := h.ops o' ho'
    exact ⟨o'', ho'', e''.trans e'⟩

/-- Between two states cores are loosened and writes let go; no write is new, and nothing else changes. -/
structure Loosens (s t : State) : Prop where
  only : ∃ cs ws, t = s.upd fun d => { d with cores := cs, writes := ws }
  core : ∀ c, (s.core c).Loosened (t.core c)
  writes : ∀ w ∈ t.dev.writes, ∃ w' ∈ s.dev.writes, w'.id = w.id

namespace Loosens

theorem refl (s : State) : Loosens s s := ⟨⟨_, _, rfl⟩, fun _ => .refl _, fun w h => ⟨w, h, rfl⟩⟩

theorem trans {s t u : State} (h : Loosens s t) (h' : Loosens t u) : Loosens s u := by
  refine ⟨?_, fun c => (h.core c).trans (h'.core c), fun w hw => ?_⟩
  · obtain ⟨cs, ws, rfl⟩ := h.only
    obtain ⟨cs', ws', rfl⟩ := h'.only
    exact ⟨cs', ws', rfl⟩
  · obtain ⟨w', hw', e'⟩ := h'.writes w hw
    obtain ⟨w'', hw'', e''⟩ := h.writes w' hw'
    exact ⟨w'', hw'', e''.trans e'⟩

/-- One core is loosened. -/
theorem modCore (s : State) (c : CoreId) {f : Core → Core} (h : (s.core c).Loosened (f (s.core c))) : Loosens s (s.modCore c f) := by
  refine ⟨⟨_, _, rfl⟩, fun e => ?_, fun w hw => ⟨w, hw, rfl⟩⟩
  by_cases he : e = c
  · rw [he, State.core_modCore_same]
    exact h
  · rw [State.core_modCore_ne s f he]
    exact .refl _

/-- Writes that keep their numbers. -/
theorem mapWrites (s : State) {g : PendingWrite → PendingWrite} (h : ∀ w, (g w).id = w.id) :
    Loosens s (s.upd fun d => { d with writes := d.writes.map g }) := by
  refine ⟨⟨s.dev.cores, s.dev.writes.map g, rfl⟩, fun _ => .refl _, fun w hw => ?_⟩
  obtain ⟨w', hw', rfl⟩ := List.mem_map.1 hw
  exact ⟨w', hw', (h w').symm⟩

/-- The acting core is loosened. -/
theorem me {s t : State} (h : Loosens s t) : s.me.Loosened t.me := by
  have := h.core s.dev.cur.core
  obtain ⟨cs, ws, rfl⟩ := h.only
  exact this

theorem noRelease {s t : State} (h : Loosens s t) (hd : NoRelease s) : NoRelease t := fun c => by
  obtain ⟨fl, os, e⟩ := (h.core c).only
  rw [e]
  exact hd c

end Loosens

/-- The end of fences loosens a core. -/
theorem State.endFences_loosens (s : State) (c : CoreId) (done : List Nat) : Loosens s (s.endFences c done) := by
  unfold State.endFences
  split
  · exact .refl s
  · refine .modCore s c ?_
    obtain ⟨fl, h, hf⟩ := Core.foldl_arrive done { s.core c with ops := (s.core c).ops.filter fun o => !done.contains o.id }
    rw [h]
    exact ⟨⟨_, _, rfl⟩, fun o ho => ⟨o, List.mem_of_mem_filter ho, rfl⟩, hf⟩

/-- So does the leaving of release atomics. -/
theorem State.leaveAll_loosens (s : State) (c : CoreId) : Loosens s (s.leaveAll c) := by
  unfold State.leaveAll
  split
  · refine .modCore s c ⟨⟨_, _, rfl⟩, fun o ho => ?_, fun f hf _ => hf⟩
    obtain ⟨o', ho', rfl⟩ := List.mem_map.1 ho
    exact ⟨o', ho', (s.opLeaves_id c o').symm⟩
  · exact .refl s

/-- A write as its release leaves it. -/
def State.writeLeaves (s : State) (c : CoreId) (w : PendingWrite) : PendingWrite := match w.hold with
  | some sc => if w.core = c && s.releaseReady c w.seq sc then { w with hold := none, since := s.dev.board.dtime } else w
  | none => w

/-- A write keeps its number as it leaves. -/
theorem State.writeLeaves_id (s : State) (c : CoreId) (w : PendingWrite) : (s.writeLeaves c w).id = w.id := by
  unfold State.writeLeaves
  split
  · split <;> rfl
  · rfl

/-- Release stores leave. -/
def State.leaveWrites (s : State) (c : CoreId) : State :=
  if s.dev.writes.any (fun w => w.hold.isSome) then s.upd fun d => { d with writes := d.writes.map (s.writeLeaves c) } else s

/-- So does the leaving of release stores. -/
theorem State.leaveWrites_loosens (s : State) (c : CoreId) : Loosens s (s.leaveWrites c) := by
  unfold State.leaveWrites
  split
  · exact .mapWrites s (s.writeLeaves_id c)
  · exact .refl s

/-- Settling a core ends its fences, then lets its release atomics and its release stores leave. -/
theorem State.settle_steps (s : State) (c : CoreId) :
    s.settle c = ((s.endFences c (((s.core c).ops.filter fun o => s.fenceMet c o).map (·.id))).leaveAll c).leaveWrites c := rfl

/-- Settling a core loosens it. -/
theorem State.settle_loosens (s : State) (c : CoreId) : Loosens s (s.settle c) := by
  rw [State.settle_steps]
  exact ((State.endFences_loosens ..).trans (State.leaveAll_loosens ..)).trans (State.leaveWrites_loosens ..)

/-- With no release waiting, a core lets go on what waited. -/
theorem State.wakeCore_loosens {s : State} (hd : NoRelease s) (c : CoreId) : Loosens s (s.wakeCore c) := by
  unfold State.wakeCore
  have hk : (s.core c).defer.isEmpty = true := by rw [hd c]; rfl
  simp only [hk, if_true]
  split
  · exact State.settle_loosens s c
  · exact .refl s

/-- With no release waiting, all cores let go on what waited. -/
theorem State.wake_loosens {s : State} (hd : NoRelease s) : Loosens s s.wake := by
  have all (l : List CoreId) (t : State) (ht : Loosens s t) : Loosens s (l.foldl State.wakeCore t) := by
    induction l generalizing t with
    | nil => exact ht
    | cons c l ih => exact ih _ (ht.trans (State.wakeCore_loosens (ht.noRelease hd) c))
  exact all (List.finRange 128) s (.refl s)

/-! ## Late errors (R291, R300) -/

/-- A late error of the supervisor's own access halts the core. -/
theorem State.lateError_supervisor (s : State) (c : CoreId) {own : Owner} (h : own.sv = true) (va info : Nat) (timeout : Bool) :
    s.lateError c own cDataUnmapped va info timeout = s.modCore c fun k =>
      { k.modCtx fun x => { x with lates := x.lates ++ [lateOf cDataUnmapped timeout va info] } with run := .halted } := if_pos h

/-- A late error of a context that is loaded on the core, and has room for it, is pending there. -/
theorem State.lateError_user {s : State} {c : CoreId} {own : Owner} (h : own.sv = false) (hl : (s.core c).ctx.lates.length < 32)
    (ht : (own.task.bind s.taskById).all (fun k => k.where_ == .on c) = true) (va info : Nat) (timeout : Bool) :
    s.lateError c own cDataUnmapped va info timeout = s.modCore c fun k =>
      k.modCtx fun x => { x with lates := x.lates ++ [lateOf cDataUnmapped timeout va info] } := by
  have hon : s.lateOn c (lateOf cDataUnmapped timeout va info) = s.modCore c fun k =>
      k.modCtx fun x => { x with lates := x.lates ++ [lateOf cDataUnmapped timeout va info] } := if_pos hl
  refine (if_neg (by rw [h]; decide)).trans (Eq.trans ?_ hon)
  show s.errorTo c own.task (lateOf cDataUnmapped timeout va info) = _
  unfold State.errorTo
  cases hk : own.task.bind s.taskById with
  | none => rfl
  | some k =>
    have hw : k.where_ = .on c := by simpa [hk] using ht
    simp only [hw]

/-- Before its late error, an access has been given up: no register, no level, no pending error, no waiting release and no byte has
changed. -/
structure GivenUp (s u : State) : Prop where
  mem : u.mem = s.mem
  part : u.part = s.part
  wbuf : u.dev.wbuf = s.dev.wbuf
  cur : u.dev.cur = s.dev.cur
  tasks : u.dev.tasks = s.dev.tasks
  ctx : u.me.ctx = s.me.ctx
  sv : u.me.sv = s.me.sv
  defer : NoRelease s → NoRelease u

/-- No operation and no write is new, and a result that waits for nothing stays. -/
structure Remains (u t : State) : Prop where
  ops : ∀ o ∈ t.me.ops, ∃ o' ∈ u.me.ops, o'.id = o.id
  writes : ∀ w ∈ t.dev.writes, ∃ w' ∈ u.dev.writes, w'.id = w.id
  flights : ∀ f ∈ u.me.flights, f.wait = none → f ∈ t.me.flights

/-- A change of the acting core that leaves its waiting releases. -/
theorem noRelease_modMe {u : State} (h : NoRelease u) {g : Core → Core} (hg : (g u.me).defer = u.me.defer) : NoRelease (u.modMe g) :=
  fun c => by
    by_cases hc : c = u.dev.cur.core
    · rw [hc]
      exact ((congrArg Core.defer (State.me_modMe u g)).trans hg).trans (h _)
    · rw [State.modMe, State.core_modCore_ne u g hc]
      exact h c

/-- An event that gives up an access, changes what the acting core is doing or its pending errors, and lets go on what waited. -/
theorem GivenUp.gives {i : Instr} {f : State → State} {s u : State} {g : Core → Core} (h : GivenUp s u) (hs : s.dev.wbuf = [])
    (hd : NoRelease s) (hx : exec i s = act f s) (hf : f s = (u.modMe g).wake) {x : Ctx} {r : Run}
    (hg : g u.me = { u.me with ctx := x, run := r }) :
    Gives i s fun t => t.mem = s.mem ∧ t.part = s.part ∧ t.me.ctx = x ∧ t.me.run = r ∧ t.me.sv = s.me.sv ∧ Remains u t := by
  have hgo := State.wake_loosens (noRelease_modMe (h.defer hd) (g := g) (by rw [hg]))
  have hme := hgo.me
  rw [State.me_modMe, hg] at hme
  obtain ⟨fl, os, hk⟩ := hme.only
  obtain ⟨cs, ws, e⟩ := hgo.only
  have hm : (u.modMe g).wake.mem = s.mem := e ▸ h.mem
  have hp : (u.modMe g).wake.part = s.part := e ▸ h.part
  refine ⟨_, hx.trans (act_answers hf hm hp (e ▸ h.wbuf.trans hs)), hm, hp, ?_, ?_, ?_, hme.ops, hgo.writes, hme.flights⟩
  · rw [hk]
  · rw [hk]
  · rw [hk]
    exact h.sv

/-- The late error of an access that has been given up: the supervisor's halts its core, the user's is pending in its context. -/
theorem GivenUp.lateError {i : Instr} {f : State → State} {s u : State} {own : Owner} {va info : Nat} {timeout : Bool}
    (h : GivenUp s u) (hs : s.dev.wbuf = []) (hd : NoRelease s) (hx : exec i s = act f s)
    (hf : f s = (u.lateError s.dev.cur.core own cDataUnmapped va info timeout).wake) :
    (own.sv = true → Gives i s fun t => t.me.run = .halted ∧ t.mem = s.mem ∧ Remains u t) ∧
    (UserLate s own → Gives i s fun t => t.me.ctx.lates = s.me.ctx.lates ++ [lateOf 0x06 timeout va info] ∧ t.mem = s.mem ∧
      SameRegisters s t ∧ Remains u t) := by
  refine ⟨fun ho => ?_, fun ⟨ho, hl, ht⟩ => ?_⟩
  · rw [← h.cur, State.lateError_supervisor u _ ho] at hf
    obtain ⟨t, he, hm, -, -, hr, -, hrest⟩ := h.gives hs hd hx hf rfl
    exact ⟨t, he, hr, hm, hrest⟩
  · have hul : u.me.ctx.lates.length < 32 := by rwa [h.ctx]
    have hut : (own.task.bind u.taskById).all (fun k => k.where_ == .on u.dev.cur.core) = true := by
      unfold State.taskById
      rwa [h.tasks, h.cur]
    rw [← h.cur, State.lateError_user ho hul hut] at hf
    obtain ⟨t, he, hm, hp, hc, -, hv, hrest⟩ := h.gives hs hd hx hf (x := { u.me.ctx with lates := _ }) (r := u.me.run) rfl
    rw [h.ctx] at hc
    refine ⟨t, he, by rw [hc]; rfl, hm, ?_, hrest⟩
    unfold SameRegisters
    rw [hc, hv, hp]
    exact ⟨rfl, rfl, rfl, rfl, rfl, rfl, rfl, rfl, rfl, rfl, rfl, rfl, rfl⟩

/-! ## Accesses that end (R63, R299) -/

/-- A core without an operation, whose results are dropped. -/
def Core.without (o : MemOp) (k : Core) : Core :=
  { (k.dropResults o.id o.firstVa).arrive o.id with ops := k.ops.filter fun x => x.id != o.id }

/-- An operation is given up. -/
theorem givenUp_without (s : State) (o : MemOp) : GivenUp s (s.modMe (Core.without o)) :=
  ⟨rfl, rfl, rfl, rfl, rfl, by rw [State.me_modMe]; rfl, by rw [State.me_modMe]; rfl, fun h => noRelease_modMe h rfl⟩

/-- The operation stays away. -/
theorem Remains.op_gone {s t : State} {o : MemOp} (h : Remains (s.modMe (Core.without o)) t) : ∀ x ∈ t.me.ops, x.id ≠ o.id :=
  fun x hx => by
    obtain ⟨x', hx', e⟩ := h.ops x hx
    rw [State.me_modMe] at hx'
    exact e ▸ by simpa using (List.mem_filter.1 hx').2

/-- A result of an operation that is given up is dropped, and waits no more (R300, R303). -/
theorem mem_flights_without {k : Core} {o : MemOp} {f : Flight} (hf : f ∈ k.flights) (hw : f.wait = some o.id) (he : f.err = false) :
    { f with wait := none, err := true, faddr := BitVec.ofNat 64 o.firstVa } ∈ (k.without o).flights := by
  refine List.mem_map.2 ⟨{ f with err := true, faddr := BitVec.ofNat 64 o.firstVa }, List.mem_map.2 ⟨f, hf, ?_⟩, if_pos hw⟩
  exact if_pos ⟨hw, by rw [he]; rfl⟩

/-- A write is given up. -/
theorem givenUp_write (s : State) (id : Nat) : GivenUp s ((s.dropWrite id).modMe fun k => k.arrive id) :=
  ⟨rfl, rfl, rfl, rfl, rfl, by rw [State.me_modMe]; rfl, by rw [State.me_modMe]; rfl,
    fun h => noRelease_modMe (u := s.dropWrite id) h rfl⟩

/-- The write stays away. -/
theorem Remains.write_gone {s t : State} {id : Nat} (h : Remains ((s.dropWrite id).modMe fun k => k.arrive id) t) :
    ∀ x ∈ t.dev.writes, x.id ≠ id := fun x hx => by
  obtain ⟨x', hx', e⟩ := h.writes x hx
  exact e ▸ by simpa using (List.mem_filter.1 hx').2

/-- A timeout and a refusal outside the chip end an access alike. -/
theorem exec_accessEnds {s : State} {o : MemOp} {i : Instr} {timeout : Bool} (ho : s.me.op s.dev.cur.n = some o)
    (ha : o.isAccess = true) (hr : o.rel = false)
    (h : (i = .responseTimeout ∧ timeout = true ∧ o.since + 20000 ≤ s.dev.board.dtime) ∨
      (i = .lateErrorResponse ∧ timeout = false ∧ o.external = true)) :
    ∃ f, exec i s = act f s ∧ f s = s.failOp s.dev.cur.core o cDataUnmapped timeout := by
  have ho' : (s.core s.dev.cur.core).op s.dev.cur.n = some o := ho
  obtain ⟨rfl, rfl, ht⟩ | ⟨rfl, rfl, hx⟩ := h
  · refine ⟨_, (rfl : execResponseTimeout s = act _ s), ?_⟩
    simp only [ho', State.opLate, ha, hr, decide_eq_true ht]
    rfl
  · refine ⟨_, (rfl : execLateErrorResponse s = act _ s), ?_⟩
    simp only [ho', ha, hr, hx]
    rfl

/-- A write that a core's number names is the core's. -/
theorem State.coreWrite_some {s : State} {c : CoreId} {id : Nat} {w : PendingWrite} (h : s.coreWrite c id = some w) :
    w.core = c ∧ w.op.isNone = true := by
  have hw := List.find?_some h
  simp only [Bool.and_eq_true, beq_iff_eq] at hw
  exact ⟨hw.1.2, hw.2⟩

/-- A timeout and a refusal outside the chip end a write alike. -/
theorem exec_writeEnds {s : State} {w : PendingWrite} {i : Instr} {timeout : Bool} (ho : s.me.op s.dev.cur.n = none)
    (hw : s.coreWrite s.dev.cur.core s.dev.cur.n = some w)
    (h : (i = .responseTimeout ∧ timeout = true ∧ 1 ≤ w.lvl ∧ w.since + 20000 ≤ s.dev.board.dtime) ∨
      (i = .lateErrorResponse ∧ timeout = false ∧ w.lvl = 2 ∧ w.external = true)) :
    ∃ f, exec i s = act f s ∧ f s = s.failWrite w cDataUnmapped timeout := by
  have ho' : (s.core s.dev.cur.core).op s.dev.cur.n = none := ho
  obtain ⟨-, hn⟩ := State.coreWrite_some hw
  obtain ⟨rfl, rfl, hl, ht⟩ | ⟨rfl, rfl, hl⟩ := h
  · refine ⟨_, (rfl : execResponseTimeout s = act _ s), ?_⟩
    simp only [ho', hw, State.writeLate, hn, decide_eq_true hl, decide_eq_true ht]
    rfl
  · refine ⟨_, (rfl : execLateErrorResponse s = act _ s), ?_⟩
    simp only [ho', hw]
    exact if_pos hl

/-- What an outcome gives, a weaker outcome gives. -/
theorem Gives.imp {i : Instr} {s : State} {p q : State → Prop} (h : Gives i s p) (hpq : ∀ t, p t → q t) : Gives i s q := by
  obtain ⟨t, he, ht⟩ := h
  exact ⟨t, he, hpq t ht⟩

/-- Settles O33: an access or a write that ends without its effect is given up, its late error is reported, and what waited for it goes
on. -/
theorem accessEndsLate : Obligations.AccessEndsLate := by
  refine ⟨fun s o hs ho ha hr hd i timeout h => ?_, fun s w hs ho hw hd i timeout h => ?_⟩
  · obtain ⟨f, hx, hf⟩ := exec_accessEnds ho ha hr h
    obtain ⟨hsv, huser⟩ := (givenUp_without s o).lateError hs hd hx hf
    refine ⟨fun hown => (hsv hown).imp fun t ⟨hrun, hm, ht⟩ => ⟨hrun, ht.op_gone, hm⟩,
      fun hown => (huser hown).imp fun t ⟨hl, hm, hreg, ht⟩ => ⟨hl, hm, hreg, ht.op_gone, fun x hx hxw he => ht.flights _ ?_ rfl⟩⟩
    rw [State.me_modMe]
    exact mem_flights_without hx hxw he
  · obtain ⟨f, hx, hf⟩ := exec_writeEnds ho hw h
    obtain ⟨hc, -⟩ := State.coreWrite_some hw
    unfold State.failWrite at hf
    rw [hc] at hf
    obtain ⟨hsv, huser⟩ := (givenUp_write s w.id).lateError hs hd hx hf
    exact ⟨fun hown => (hsv hown).imp fun t ⟨hrun, hm, ht⟩ => ⟨hrun, ht.write_gone, hm⟩,
      fun hown => (huser hown).imp fun t ⟨hl, hm, hreg, ht⟩ => ⟨hl, hm, hreg, ht.write_gone⟩⟩

end Sys2Proof.Machine

/-! A vector load across two clusters' vaults (R59, R77, R90, R179). -/

namespace Sys2Proof.Machine

open Sys2Proof.Claims

/-- The first byte of the vaults of cluster 1. -/
def secondClusterAt : Nat := Config.vaultBase + 8 * Config.vaultBytes

/-- A write stream of one entry of 32 bytes in the vaults of cluster 1. -/
def vaultStream : StreamSlot :=
  { Reset.stream with bound := true, dir := true, pat := BitVec.ofNat 512 (secondClusterAt + 4096 + 2 ^ 128), next := 1 }

/-- Its entry, pushed in an earlier bundle, whose result has landed. -/
def vaultEntry : WEnt :=
  { slot := 0, place := 0, seq := 3, va := secondClusterAt + 4096, len := 32, val := some 1, own := { sv := false, task := none } }

/-- Core 8, of cluster 1, at user level with that entry; its tenant owns clusters 0 and 1, and s8 addresses the last 16 bytes of the
vaults of cluster 0. -/
def straddlingState : State :=
  ({ State.reset with part := State.reset.part.set 0 0x10003 }.upd fun d => { d with
    cur := { d.cur with core := 8 }, nextId := 1 }).modMe fun k =>
    { (k.setS 8 false (BitVec.ofNat 64 (secondClusterAt - 16))).modStream 0 fun _ => vaultStream with
      run := .running, sv := { k.sv with priv := false }, bun := { k.bun with ord := 8 }, wents := [vaultEntry] }

/-- A load of 32 bytes from there. -/
def straddlingLoad : Instr := .vld { guard := none, ix := 0 } .w256 1 7 8 0

/-- A vector load. -/
theorem exec_vld (x : Lent) (wd : Width) (lc : BitVec 2) (d : BitVec 5) (a : BitVec 6) (off : BitVec 9) (s : State) :
    exec (.vld x wd lc d a off) s = execVld x wd lc d a off s := rfl

/-- Before the load's second piece, in the vaults of its own cluster, the core drains the entry that it pushed there (R77, R90): the
entry's bytes are then in memory. -/
theorem straddlingLoad_drains :
    ∃ t, exec straddlingLoad straddlingState = .next t ∧ t.mem.read (vaultAddr 8 4096) = 1 := by
  rw [straddlingLoad, exec_vld]
  exact ⟨_, rfl, by decide +kernel⟩

/-- The load passes the checks of issue. -/
theorem straddlingLoad_ready :
    straddlingState.Ready { guard := none, ix := 0 } ((Uses.none.r 8).d { n := false, r := 7 }) ∧ straddlingState.Room ∧
      straddlingState.live = true ∧ straddlingState.me.ecc = false ∧ NewNumbers straddlingState := by
  decide +kernel

/-- Refutes O18: a vector load whose first byte lies in the vaults of another cluster, and whose last in those of its own, drains an
entry that lies in the latter, and so changes memory; the statement excludes only entries that lie in the local memory of the first
byte. -/
theorem not_accessesIssue : ¬ Obligations.AccessesIssue := by
  intro ⟨_, h, _, _⟩
  obtain ⟨hready, hroom, hlive, hecc, hnew⟩ := straddlingLoad_ready
  have hspan : ∀ e ∈ [(vecEa straddlingState 8 (0 : BitVec 9), 32)],
      straddlingState.dataFault .read true e.1 e.2 = none ∧ NoEntryAhead straddlingState 0 e.1 e.2 := by decide +kernel
  have htlbs : TlbsServe straddlingState .read [(vecEa straddlingState 8 (0 : BitVec 9), 32)] := by decide +kernel
  obtain ⟨t, he, -, -, hm⟩ :=
    h straddlingLoad straddlingState _ _ _ _ _ _ rfl (by decide) rfl hready hroom hlive hecc hnew hspan htlbs
  obtain ⟨u, hu, hread⟩ := straddlingLoad_drains
  obtain rfl := Host.Outcome.next.inj (he.symm.trans hu)
  rw [hm] at hread
  exact absurd hread (by decide +kernel)

end Sys2Proof.Machine

/-! Fields that stand side by side in a number, and the codes of the operands (R99, R107, R109, R110). -/

namespace Sys2Proof

/-! ## Fields of a number -/

/-- Every value of a list of values and widths fits its width. -/
def Fits : List (Nat × Nat) → Prop
  | [] => True
  | (v, w) :: l => v < 2 ^ w ∧ Fits l

/-- The bits that a list of values and widths takes. -/
def bitsOf : List (Nat × Nat) → Nat
  | [] => 0
  | (_, w) :: l => w + bitsOf l

/-- The low bits of a number are the fields of a list of values and widths, the first most significant. -/
def Spells (n : Nat) : List (Nat × Nat) → Prop
  | [] => True
  | (v, w) :: l => n / 2 ^ bitsOf l % 2 ^ w = v ∧ Spells n l

/-- What `pk` makes of fields, with a number above them. -/
theorem spells_foldl {l : List (Nat × Nat)} (hf : Fits l) (acc : Nat) :
    l.foldl (fun acc p => acc * 2 ^ p.2 + p.1) acc / 2 ^ bitsOf l = acc ∧
      Spells (l.foldl (fun acc p => acc * 2 ^ p.2 + p.1) acc) l := by
  induction l generalizing acc with
  | nil => simp [bitsOf, Spells]
  | cons p l ih =>
    obtain ⟨v, w⟩ := p
    obtain ⟨hv, hl⟩ := hf
    obtain ⟨hd, hs⟩ := ih hl (acc * 2 ^ w + v)
    refine ⟨?_, ?_, hs⟩
    · rw [bitsOf, Nat.add_comm w, pow_add, ← Nat.div_div_eq_div_mul, List.foldl_cons, hd, mul_comm,
        Nat.mul_add_div (Nat.two_pow_pos w), Nat.div_eq_of_lt hv, Nat.add_zero]
    · rw [List.foldl_cons, hd, mul_comm, Nat.mul_add_mod, Nat.mod_eq_of_lt hv]

/-- Fields that fit can be read back from the number that they make, which has no other bits. -/
theorem spells_of_pk {l : List (Nat × Nat)} {n : Nat} (h : some (pk l) = some n) (hf : Fits l) :
    n < 2 ^ bitsOf l ∧ Spells n l := by
  obtain rfl := Option.some.inj h
  obtain ⟨hd, hs⟩ := spells_foldl hf 0
  exact ⟨(Nat.div_eq_zero_iff_lt (Nat.two_pow_pos _)).1 hd, hs⟩

/-- Two values side by side in one field. -/
theorem field_append {n lo a b j k : Nat} (h : n / 2 ^ lo % 2 ^ (j + k) = a * 2 ^ k + b) (hb : b < 2 ^ k) :
    n / 2 ^ lo % 2 ^ k = b ∧ n / 2 ^ (lo + k) % 2 ^ j = a := by
  constructor
  · rw [← Nat.mod_mod_of_dvd (n / 2 ^ lo) (Nat.pow_dvd_pow 2 (Nat.le_add_left k j)), h, mul_comm, Nat.mul_add_mod,
      Nat.mod_eq_of_lt hb]
  · rw [pow_add, ← Nat.div_div_eq_div_mul, ← Nat.mod_mul_right_div_self, ← pow_add, Nat.add_comm k, h, mul_comm,
      Nat.mul_add_div (Nat.two_pow_pos k), Nat.div_eq_of_lt hb, Nat.add_zero]

/-- A value in the high bits of a field whose low bits are 0. -/
theorem field_high {n lo a j k : Nat} (h : n / 2 ^ lo % 2 ^ (j + k) = a * 2 ^ k) : n / 2 ^ (lo + k) % 2 ^ j = a :=
  (field_append (b := 0) (by rw [h, Nat.add_zero]) (Nat.two_pow_pos k)).2

/-- A value in a field wider than it. -/
theorem field_low {n lo v w k : Nat} (h : n / 2 ^ lo % 2 ^ w = v) (hv : v < 2 ^ k) (hk : k ≤ w) : n / 2 ^ lo % 2 ^ k = v := by
  rw [← Nat.mod_mod_of_dvd (n / 2 ^ lo) (Nat.pow_dvd_pow 2 hk), h, Nat.mod_eq_of_lt hv]

/-! ## The codes fit their fields -/

theorem toNat_lt {k w : Nat} (h : k ≤ w) (x : BitVec k) : x.toNat < 2 ^ w :=
  Nat.lt_of_lt_of_le x.isLt (Nat.pow_le_pow_right (by decide) h)

theorem b01_lt (b : Bool) {w : Nat} : b01 b < 2 ^ (w + 1) :=
  Nat.lt_of_lt_of_le (m := 2) (by cases b <;> decide) (Nat.le_self_pow (Nat.succ_ne_zero w) 2)

theorem b01_lt_two (b : Bool) : b01 b < 2 ^ 1 := b01_lt b

theorem SSrc.enc_lt (a : SSrc) : a.enc < 2 ^ 7 := by cases a <;> simp only [SSrc.enc] <;> omega

theorem VSrc.enc_lt (a : VSrc) : a.enc < 2 ^ 6 := by cases a <;> simp only [VSrc.enc] <;> omega

theorem Width.enc_lt (wd : Width) : wd.enc < 2 ^ 2 := by cases wd <;> decide

theorem SDst.enc_lt (d : SDst) : d.enc < 2 ^ 7 := by
  have := b01_lt_two d.n
  simp only [SDst.enc]
  omega

theorem VDst.enc_lt (d : VDst) : d.enc < 2 ^ 6 := by
  have := b01_lt_two d.n
  simp only [VDst.enc]
  omega

/-! ## What the codes name -/

/-- The scalar source of a code. -/
def SSrc.ofCode (c : Nat) : Option SSrc :=
  if c < 64 then some (.s (BitVec.ofNat 6 c)) else if c < 66 then some (.y (BitVec.ofNat 1 (c - 64))) else none

/-- The vector source of a code. -/
def VSrc.ofCode (c : Nat) : Option VSrc :=
  if c < 32 then some (.v (BitVec.ofNat 5 c)) else if c < 34 then some (.y (BitVec.ofNat 1 (c - 32))) else none

/-- The width of a code. -/
def Width.ofCode (c : Nat) : Option Width := match c with
  | 0 => some .w256 | 1 => some .w512 | 2 => some .w1024 | _ => none

/-- The scalar destination of a code. -/
def SDst.ofCode (c : Nat) : SDst := { n := c / 64 == 1, r := BitVec.ofNat 6 c }

/-- The vector destination of a code. -/
def VDst.ofCode (c : Nat) : VDst := { n := c / 32 == 1, r := BitVec.ofNat 5 c }

@[simp] theorem b01_beq_one (b : Bool) : (b01 b == 1) = b := by cases b <;> rfl

@[simp] theorem SSrc.ofCode_enc (a : SSrc) : SSrc.ofCode a.enc = some a := by
  cases a with
  | s r => simp [SSrc.enc, SSrc.ofCode, r.isLt]
  | y m =>
    simp [SSrc.enc, SSrc.ofCode]
    omega

@[simp] theorem VSrc.ofCode_enc (a : VSrc) : VSrc.ofCode a.enc = some a := by
  cases a with
  | v r => simp [VSrc.enc, VSrc.ofCode, r.isLt]
  | y m =>
    simp [VSrc.enc, VSrc.ofCode]
    omega

@[simp] theorem Width.ofCode_enc (wd : Width) : Width.ofCode wd.enc = some wd := by cases wd <;> rfl

@[simp] theorem SDst.ofCode_enc (d : SDst) : SDst.ofCode d.enc = d := by
  obtain ⟨n, r⟩ := d
  have := r.isLt
  cases n <;> simp [SDst.enc, SDst.ofCode, b01, ← BitVec.toNat_inj] <;> omega

@[simp] theorem VDst.ofCode_enc (d : VDst) : VDst.ofCode d.enc = d := by
  obtain ⟨n, r⟩ := d
  have := r.isLt
  cases n <;> simp [VDst.enc, VDst.ofCode, b01, ← BitVec.toNat_inj] <;> omega

/-! ## The decoder reads codes -/

theorem fld_eq (n lo len : Nat) : fld n lo len = BitVec.ofNat len (n / 2 ^ lo % 2 ^ len) := by
  rw [fld, ← BitVec.toNat_inj]
  simp

theorem flag_eq (n i : Nat) : flag n i = (n / 2 ^ i % 2 ^ 1 == 1) := rfl

theorem srcOf_eq (n lo : Nat) : srcOf n lo = SSrc.ofCode (n / 2 ^ lo % 2 ^ 7) := rfl

theorem vsrcOf_eq (n lo : Nat) : vsrcOf n lo = VSrc.ofCode (n / 2 ^ lo % 2 ^ 6) := rfl

theorem widthOf_eq (n lo : Nat) : widthOf n lo = Width.ofCode (n / 2 ^ lo % 2 ^ 2) := rfl

theorem dstOf_eq (n lo : Nat) : dstOf n lo = SDst.ofCode (n / 2 ^ lo % 2 ^ 7) := by
  have h : n / 2 ^ (lo + 6) = n / 2 ^ lo / 2 ^ 6 := by rw [pow_add, Nat.div_div_eq_div_mul]
  simp only [dstOf, SDst.ofCode, flag, fld, h, SDst.mk.injEq, ← BitVec.toNat_inj, BitVec.toNat_ofNat]
  generalize n / 2 ^ lo = m
  exact ⟨congrArg (· == 1) (by omega), by omega⟩

theorem vdstOf_eq (n lo : Nat) : vdstOf n lo = VDst.ofCode (n / 2 ^ lo % 2 ^ 6) := by
  have h : n / 2 ^ (lo + 5) = n / 2 ^ lo / 2 ^ 5 := by rw [pow_add, Nat.div_div_eq_div_mul]
  simp only [vdstOf, VDst.ofCode, flag, fld, h, VDst.mk.injEq, ← BitVec.toNat_inj, BitVec.toNat_ofNat]
  generalize n / 2 ^ lo = m
  exact ⟨congrArg (· == 1) (by omega), by omega⟩

/-! ## The lent byte (R107) -/

/-- A lent byte in which only the bits of IX that exist are set. -/
theorem Lent.lentOf_enc {x : Lent} (h : x.ok = true) : lentOf x.enc = x := by
  obtain ⟨_ | ⟨neg, p⟩, ix⟩ := x
  · have := ix.isLt
    have h7 : bitAt (BitVec.ofNat 8 ix.toNat) 7 = false := by
      simp only [bitAt, BitVec.getLsbD, BitVec.toNat_ofNat, Nat.testBit_eq_decide_div_mod_eq]
      simp
      omega
    simp only [Lent.enc, lentOf, h7]
    simp [bits, ← BitVec.toNat_inj]
    omega
  · have hix : ix.toNat < 4 := by simpa [Lent.ok] using h
    have := p.isLt
    have := b01_lt_two neg
    simp only [Lent.enc, lentOf, bitAt, BitVec.getLsbD, BitVec.toNat_ofNat, Nat.testBit_eq_decide_div_mod_eq, bits]
    have h7 : (128 + b01 neg * 64 + p.toNat * 4 + ix.toNat) % 2 ^ 8 / 2 ^ 7 % 2 = 1 := by omega
    have h6 : (128 + b01 neg * 64 + p.toNat * 4 + ix.toNat) % 2 ^ 8 / 2 ^ 6 % 2 = b01 neg := by omega
    rw [h7, h6]
    simp [← BitVec.toNat_inj, Nat.shiftRight_eq_div_pow]
    refine ⟨⟨?_, ?_⟩, ?_⟩
    · cases neg <;> rfl
    · omega
    · omega

end Sys2Proof

/-! The raw reading of a syllable's encoding: every field of it is read back (R99 to R125, R140 to R157, R159, R193, R210, R211,
R313). -/

namespace Sys2Proof

/-- The three parts of the syllables: scalar (0), vector (1), and those of the engines, of synchronisation and of the supervisor
(2). -/
def Instr.part (i : Instr) : Nat :=
  if i.ctorIdx ≤ (Instr.nop false 0 0 0).ctorIdx then 0
  else if i.ctorIdx < (Instr.tcfg ⟨none, 0⟩ 0 0 0 false).ctorIdx then 1 else 2

/-- The scalar, memory and control syllables: majors 0000 to 0101. -/
theorem rawSyllable_of_scalar {i : Instr} {n : Nat} (h : i.syl = some n) (hp : i.part = 0) (hh : ∀ o a b c, i ≠ .nop o a b c) :
    n < 2 ^ 31 ∧ rawSyllable n i.lent = some i := by
  cases i
  case add | sub | mul | mulh | mulhn | div | divn | rem | remn | and | or | xor | andn | shl | shr | sra | rot | clz | popc
      | min | max | minn | maxn | pmovFrom | pmovTo =>
    obtain ⟨hlt, hs⟩ := spells_of_pk h (by simp [Fits, ↓SDst.enc_lt, ↓SSrc.enc_lt])
    simp only [Spells, bitsOf, Nat.reduceAdd, Nat.reducePow, Nat.div_one] at hs
    refine ⟨hlt, ?_⟩
    simp [rawSyllable, rawRRR, srcOf_eq, dstOf_eq, hs]
    rfl
  case sext x d a w | zext x d a w | agen x d w a =>
    obtain ⟨hlt, hs⟩ := spells_of_pk h (by simp [Fits, ↓toNat_lt, ↓SDst.enc_lt, ↓SSrc.enc_lt])
    obtain ⟨hj, hm, hd, ha, hb, -⟩ := hs
    have hw := field_low hb w.isLt (by decide)
    simp only [bitsOf, Nat.reduceAdd, Nat.reducePow, Nat.div_one] at *
    refine ⟨hlt, ?_⟩
    simp [rawSyllable, rawRRR, fld_eq, srcOf_eq, dstOf_eq, hj, hm, hd, ha, hw]
    rfl
  case agset x m a b =>
    obtain ⟨hlt, hs⟩ := spells_of_pk h (by simp [Fits, ↓toNat_lt, ↓SSrc.enc_lt])
    obtain ⟨hj, hm, hd, ha, hb, -⟩ := hs
    have hd := field_low hd m.isLt (by decide)
    simp only [bitsOf, Nat.reduceAdd, Nat.reducePow, Nat.div_one] at *
    refine ⟨hlt, ?_⟩
    simp [rawSyllable, rawRRR, fld_eq, srcOf_eq, hj, hm, hd, ha, hb]
    rfl
  case cmp x c p a b =>
    obtain ⟨hlt, hs⟩ := spells_of_pk h (by simp [Fits, ↓SSrc.enc_lt]; omega)
    obtain ⟨hj, hm, hd, ha, hb, -⟩ := hs
    have hd := field_append (j := 3) (k := 4) hd p.isLt
    simp only [bitsOf, Nat.reduceAdd, Nat.reducePow, Nat.div_one] at *
    refine ⟨hlt, ?_⟩
    simp [rawSyllable, rawRRR, fld_eq, srcOf_eq, hj, hm, hd, ha, hb]
    rfl
  case pop x op pd na pa nb pb =>
    have hna := b01_lt_two na
    have hnb := b01_lt_two nb
    obtain ⟨hlt, hs⟩ := spells_of_pk h (by simp [Fits]; omega)
    obtain ⟨hj, hm, hd, ha, hb, -⟩ := hs
    have hd := field_append (j := 3) (k := 4) hd pd.isLt
    obtain ⟨ha, ha'⟩ := field_append (j := 3) (k := 4) ha pa.isLt
    obtain ⟨hb, hb'⟩ := field_append (j := 3) (k := 4) hb pb.isLt
    have ha' := field_low ha' hna (by decide)
    have hb' := field_low hb' hnb (by decide)
    simp only [bitsOf, Nat.reduceAdd, Nat.reducePow, Nat.div_one] at *
    refine ⟨hlt, ?_⟩
    simp [rawSyllable, rawRRR, fld_eq, flag_eq, hj, hm, hd, ha, ha', hb, hb']
    rfl
  case lea x k d a b =>
    obtain ⟨hlt, hs⟩ := spells_of_pk h (by simp [Fits, ↓SDst.enc_lt, ↓SSrc.enc_lt]; omega)
    obtain ⟨hj, hm, hd, ha, hb, -⟩ := hs
    obtain ⟨hk, -⟩ := field_append (a := 8) (j := 4) (k := 2) hm k.isLt
    simp only [bitsOf, Nat.reduceAdd, Nat.reducePow, Nat.div_one] at *
    obtain hv | hv | hv | hv : k.toNat = 0 ∨ k.toNat = 1 ∨ k.toNat = 2 ∨ k.toNat = 3 := by omega
    all_goals
      rw [hv] at hm
      refine ⟨hlt, ?_⟩
      simp [rawSyllable, rawRRR, fld_eq, srcOf_eq, dstOf_eq, hj, hm, hd, ha, hb, hk]
      rfl
  case sel x p d a b =>
    obtain ⟨hlt, hs⟩ := spells_of_pk h (by simp [Fits, ↓SDst.enc_lt, ↓SSrc.enc_lt]; omega)
    obtain ⟨hj, hm, hd, ha, hb, -⟩ := hs
    obtain ⟨hp, -⟩ := field_append (a := 3) (j := 2) (k := 4) hm p.isLt
    simp only [bitsOf, Nat.reduceAdd, Nat.reducePow, Nat.div_one, Nat.add_comm 48] at *
    refine ⟨hlt, ?_⟩
    simp [rawSyllable, rawRRR, fld_eq, srcOf_eq, dstOf_eq, hj, hm, hd, ha, hb, hp]
    rfl
  case addi =>
    obtain ⟨hlt, hs⟩ := spells_of_pk h (by simp [Fits, ↓toNat_lt, ↓SDst.enc_lt, ↓SSrc.enc_lt])
    simp only [Spells, bitsOf, Nat.reduceAdd, Nat.reducePow, Nat.div_one] at hs
    refine ⟨hlt, ?_⟩
    simp [rawSyllable, rawRI, fld_eq, srcOf_eq, dstOf_eq, hs]
    rfl
  case cmpi x c p a imm =>
    obtain ⟨hlt, hs⟩ := spells_of_pk h (by simp [Fits, ↓toNat_lt, ↓SSrc.enc_lt]; omega)
    obtain ⟨hj, hm, hd, ha, hb, -⟩ := hs
    have hd := field_append (j := 3) (k := 4) hd p.isLt
    simp only [bitsOf, Nat.reduceAdd, Nat.reducePow, Nat.div_one] at *
    refine ⟨hlt, ?_⟩
    simp [rawSyllable, rawRI, fld_eq, srcOf_eq, hj, hm, hd, ha, hb]
    rfl
  case bfx | bfi =>
    obtain ⟨hlt, hs⟩ := spells_of_pk h (by simp [Fits, ↓toNat_lt, ↓SDst.enc_lt, ↓SSrc.enc_lt])
    simp only [Spells, bitsOf, Nat.reduceAdd, Nat.reducePow, Nat.div_one] at hs
    refine ⟨hlt, ?_⟩
    simp [rawSyllable, rawRF, fld_eq, flag_eq, srcOf_eq, dstOf_eq, hs]
    rfl
  case movi | movhi =>
    obtain ⟨hlt, hs⟩ := spells_of_pk h (by simp [Fits, ↓toNat_lt, ↓SDst.enc_lt])
    simp only [Spells, bitsOf, Nat.reduceAdd, Nat.reducePow, Nat.div_one] at hs
    refine ⟨hlt, ?_⟩
    simp [rawSyllable, rawRL, fld_eq, flag_eq, dstOf_eq, hs]
    rfl
  case ld | st | ldacq | strel | amo | cas | cas16 | pref =>
    obtain ⟨hlt, hs⟩ := spells_of_pk h (by simp [Fits, ↓toNat_lt, ↓b01_lt])
    simp only [Spells, bitsOf, Nat.reduceAdd, Nat.reducePow, Nat.div_one] at hs
    refine ⟨hlt, ?_⟩
    simp [rawSyllable, rawM, fld_eq, flag_eq, hs]
    rfl
  case br | brc | bri | call | calli | ret | loopx | brk | bsel | exit =>
    obtain ⟨hlt, hs⟩ := spells_of_pk h (by simp [Fits, ↓toNat_lt, ↓b01_lt, ↓SSrc.enc_lt])
    simp only [List.cons_append, List.nil_append, Spells, bitsOf, Nat.reduceAdd, Nat.reducePow, Nat.div_one] at hs
    refine ⟨hlt, ?_⟩
    simp [rawSyllable, rawC, fld_eq, flag_eq, srcOf_eq, hs]
    rfl
  case loop x cnt off | pause x cnt =>
    cases cnt
    all_goals
      obtain ⟨hlt, hs⟩ := spells_of_pk h (by simp [Fits, ↓toNat_lt, ↓SSrc.enc_lt])
      simp only [List.cons_append, List.nil_append, Spells, bitsOf, Nat.reduceAdd, Nat.reducePow, Nat.div_one] at hs
      refine ⟨hlt, ?_⟩
      simp [rawSyllable, rawC, fld_eq, flag_eq, srcOf_eq, hs]
      rfl
  case nop => exact (hh _ _ _ _ rfl).elim
  all_goals exact absurd hp (Nat.ne_of_beq_eq_false rfl)

/-- The vector syllables: majors 0110 to 1000. -/
theorem rawSyllable_of_vector {i : Instr} {n : Nat} (h : i.syl = some n) (hp : i.part = 1) :
    n < 2 ^ 31 ∧ rawSyllable n i.lent = some i := by
  cases i
  case vadd | vsub | vmul | vfma | vfms | vmin | vmax | vabs | vneg | vand | vor | vxor | vshl | vshr | vsra | vrot | vsel | vmac16
      | vdot4 | vsadd | vssub | vperm | vbcst | vins | vext | vmov =>
    obtain ⟨hlt, hs⟩ := spells_of_pk h (by simp [Fits, ↓toNat_lt, ↓b01_lt, ↓Width.enc_lt, ↓VSrc.enc_lt, ↓VDst.enc_lt])
    simp only [Spells, bitsOf, Nat.reduceAdd, Nat.reducePow, Nat.div_one] at hs
    refine ⟨hlt, ?_⟩
    simp [rawSyllable, rawVR, fld_eq, flag_eq, vsrcOf_eq, vdstOf_eq, widthOf_eq, hs]
    rfl
  case vcmp x wd hold et c m a b =>
    obtain ⟨hlt, hs⟩ := spells_of_pk h (by simp [Fits, ↓toNat_lt, ↓b01_lt, ↓Width.enc_lt, ↓VSrc.enc_lt]; omega)
    obtain ⟨hj, ho, hw, hh, he, hd, ha, hb, -⟩ := hs
    have hd := field_append (j := 3) (k := 3) hd m.isLt
    simp only [bitsOf, Nat.reduceAdd, Nat.reducePow, Nat.div_one] at *
    refine ⟨hlt, ?_⟩
    simp [rawSyllable, rawVR, fld_eq, flag_eq, vsrcOf_eq, widthOf_eq, hj, ho, hw, hh, he, hd, ha, hb]
    rfl
  case vred x wd hold et op d a =>
    obtain ⟨hlt, hs⟩ := spells_of_pk h (by simp [Fits, ↓toNat_lt, ↓b01_lt, ↓Width.enc_lt, ↓VSrc.enc_lt, ↓VDst.enc_lt])
    obtain ⟨hj, ho, hw, hh, he, hd, ha, hb, -⟩ := hs
    have hb := field_low hb op.isLt (by decide)
    simp only [bitsOf, Nat.reduceAdd, Nat.reducePow, Nat.div_one] at *
    refine ⟨hlt, ?_⟩
    simp [rawSyllable, rawVR, fld_eq, flag_eq, vsrcOf_eq, vdstOf_eq, widthOf_eq, hj, ho, hw, hh, he, hd, ha, hb]
    rfl
  case vcvt x wd hold d a t s | vmaxe x wd hold d a t s | vcvtq x wd hold d a t s =>
    obtain ⟨hlt, hs⟩ := spells_of_pk h (by simp [Fits, ↓toNat_lt, ↓b01_lt, ↓Width.enc_lt, ↓VSrc.enc_lt]; omega)
    obtain ⟨hj, ho, hw, hh, hn, hd, ha, hf, -⟩ := hs
    have hf := field_append (j := 4) (k := 4) hf s.isLt
    simp only [bitsOf, Nat.reduceAdd, Nat.reducePow, Nat.div_one] at *
    refine ⟨hlt, ?_⟩
    simp [rawSyllable, rawVS, fld_eq, flag_eq, vsrcOf_eq, widthOf_eq, hj, ho, hw, hh, hn, hd, ha, hf]
    rfl
  case vexp2 x wd hold d a s | vlog2 x wd hold d a s | vrcp x wd hold d a s | vrsq x wd hold d a s | vtanh x wd hold d a s =>
    obtain ⟨hlt, hs⟩ := spells_of_pk h (by simp [Fits, ↓toNat_lt, ↓b01_lt, ↓Width.enc_lt, ↓VSrc.enc_lt])
    obtain ⟨hj, ho, hw, hh, hn, hd, ha, hf, -⟩ := hs
    have hf := field_low hf s.isLt (by decide)
    simp only [bitsOf, Nat.reduceAdd, Nat.reducePow, Nat.div_one] at *
    refine ⟨hlt, ?_⟩
    simp [rawSyllable, rawVS, fld_eq, flag_eq, vsrcOf_eq, widthOf_eq, hj, ho, hw, hh, hn, hd, ha, hf]
    rfl
  case vpack x wd hold form d a b =>
    have hb := b.enc_lt
    obtain ⟨hlt, hs⟩ := spells_of_pk h (by simp [Fits, ↓toNat_lt, ↓b01_lt, ↓Width.enc_lt, ↓VSrc.enc_lt]; omega)
    obtain ⟨hj, ho, hw, hh, hn, hd, ha, hf, -⟩ := hs
    have hf := field_append (j := 2) (k := 6) hf hb
    simp only [bitsOf, Nat.reduceAdd, Nat.reducePow, Nat.div_one] at *
    refine ⟨hlt, ?_⟩
    simp [rawSyllable, rawVS, fld_eq, flag_eq, vsrcOf_eq, widthOf_eq, hj, ho, hw, hh, hn, hd, ha, hf]
    rfl
  case vrpb x wd hold bidir d a p =>
    have hp := p.enc_lt
    have hb := b01_lt_two bidir
    obtain ⟨hlt, hs⟩ := spells_of_pk h (by simp [Fits, ↓toNat_lt, ↓b01_lt, ↓Width.enc_lt, ↓VSrc.enc_lt]; omega)
    obtain ⟨hj, ho, hw, hh, hn, hd, ha, hf, -⟩ := hs
    obtain ⟨hf, hf'⟩ := field_append (j := 1) (k := 7) hf (by omega)
    have hf := field_low hf hp (by decide)
    simp only [bitsOf, Nat.reduceAdd, Nat.reducePow, Nat.div_one] at *
    refine ⟨hlt, ?_⟩
    simp [rawSyllable, rawVS, fld_eq, flag_eq, vsrcOf_eq, widthOf_eq, hj, ho, hw, hh, hn, hd, ha, hf, hf']
    rfl
  case vunpk x wd hold form hi d a =>
    have hb := b01_lt_two hi
    obtain ⟨hlt, hs⟩ := spells_of_pk h (by simp [Fits, ↓toNat_lt, ↓b01_lt, ↓Width.enc_lt, ↓VSrc.enc_lt]; omega)
    obtain ⟨hj, ho, hw, hh, hn, hd, ha, hf, -⟩ := hs
    obtain ⟨hf, hf'⟩ := field_append (j := 2) (k := 6) hf (by omega)
    have hf := field_low hf hb (by decide)
    simp only [bitsOf, Nat.reduceAdd, Nat.reducePow, Nat.div_one] at *
    refine ⟨hlt, ?_⟩
    simp [rawSyllable, rawVS, fld_eq, flag_eq, vsrcOf_eq, widthOf_eq, hj, ho, hw, hh, hn, hd, ha, hf, hf']
    rfl
  case vld | vst | vlds | vsts | vmsk =>
    obtain ⟨hlt, hs⟩ := spells_of_pk h (by simp [Fits, ↓toNat_lt, ↓b01_lt, ↓Width.enc_lt, ↓VSrc.enc_lt])
    simp only [Spells, bitsOf, Nat.reduceAdd, Nat.reducePow, Nat.div_one] at hs
    refine ⟨hlt, ?_⟩
    simp [rawSyllable, rawVM, fld_eq, flag_eq, vsrcOf_eq, widthOf_eq, hs]
    rfl
  all_goals exact absurd hp (Nat.ne_of_beq_eq_false rfl)

/-- The syllables of the engines, of synchronisation and of the supervisor: majors 1001 to 1100. -/
theorem rawSyllable_of_engine {i : Instr} {n : Nat} (h : i.syl = some n) (hp : i.part = 2) :
    n < 2 ^ 31 ∧ rawSyllable n i.lent = some i := by
  cases i
  case tcfgOff | tzero | trowmv | trowrd | tcolrd | mma | mmap | mlatch | mscl | mdrain | mcall | mpset | ringcfg | ringpop
      | ringpush | mpload =>
    obtain ⟨hlt, hs⟩ := spells_of_pk h (by simp [Fits, ↓toNat_lt, ↓b01_lt, ↓VSrc.enc_lt])
    simp only [List.cons_append, List.nil_append, Spells, bitsOf, Nat.reduceAdd, Nat.reducePow, Nat.div_one] at hs
    refine ⟨hlt, ?_⟩
    simp [rawSyllable, rawX, fld_eq, flag_eq, vsrcOf_eq, hs]
    rfl
  case tcfg x t r c int =>
    cases int
    all_goals
      obtain ⟨hlt, hs⟩ := spells_of_pk h (by simp [Fits, ↓toNat_lt, ↓b01_lt])
      simp only [List.cons_append, List.nil_append, Spells, bitsOf, b01, Bool.false_eq_true, if_true, if_false, Nat.reduceAdd,
        Nat.reducePow, Nat.div_one] at hs
      refine ⟨hlt, ?_⟩
      simp [rawSyllable, rawX, fld_eq, hs]
      rfl
  case kld | kst | kapp | kalloc | kfree | kcommit | kdedup | kfork | kwin | kpin =>
    obtain ⟨hlt, hs⟩ := spells_of_pk h (by simp [Fits, ↓toNat_lt, ↓b01_lt])
    simp only [Spells, bitsOf, Nat.reduceAdd, Nat.reducePow, Nat.div_one] at hs
    refine ⟨hlt, ?_⟩
    simp [rawSyllable, rawT, fld_eq, flag_eq, hs]
    rfl
  case copy x d a ord q r sc | copyc x d a ord q r sc =>
    have ho := b01_lt_two ord
    obtain ⟨hlt, hs⟩ := spells_of_pk h (by simp [Fits, ↓toNat_lt, ↓b01_lt]; omega)
    obtain ⟨hj, hm, hd, ha, hb, hq, hr, hc, -⟩ := hs
    have hb := field_high (a := b01 ord) (j := 1) (k := 5) hb
    simp only [bitsOf, Nat.reduceAdd, Nat.reducePow, Nat.div_one] at *
    refine ⟨hlt, ?_⟩
    simp [rawSyllable, rawT, fld_eq, flag_eq, hj, hm, hd, ha, hb, hq, hr, hc]
    rfl
  case sbind | sfree | ixq | qput | qget | crwait | fenceAcq | fenceRel | fenceAr | drain | bara | barwA | barset | stepjoin
      | step | stepleave | logit | seqbind | verify | tmove | mbox =>
    obtain ⟨hlt, hs⟩ := spells_of_pk h (by simp [Fits, ↓toNat_lt, ↓b01_lt])
    simp only [List.cons_append, List.nil_append, Spells, bitsOf, Nat.reduceAdd, Nat.reducePow, Nat.div_one] at hs
    refine ⟨hlt, ?_⟩
    simp [rawSyllable, rawS, fld_eq, flag_eq, hs]
    rfl
  case barw =>
    obtain ⟨hlt, hs⟩ := spells_of_pk h (by simp [Fits, ↓toNat_lt])
    simp only [List.cons_append, List.nil_append] at hs
    obtain ⟨hj, hm, hb, h0, -⟩ := hs
    obtain ⟨-, h15⟩ := field_append (j := 1) (k := 15) (a := 0) (b := 0) h0 (by decide)
    simp only [bitsOf, Nat.reduceAdd, Nat.reducePow, Nat.div_one] at *
    refine ⟨hlt, ?_⟩
    simp [rawSyllable, rawS, fld_eq, flag_eq, hj, hm, hb, h15]
    rfl
  case syscall | eret | mfsr | mtsr | csave | crest | wfi | halt =>
    obtain ⟨hlt, hs⟩ := spells_of_pk h (by simp [Fits, ↓toNat_lt, ↓SSrc.enc_lt])
    simp only [List.cons_append, List.nil_append, Spells, bitsOf, Nat.reduceAdd, Nat.reducePow, Nat.div_one] at hs
    refine ⟨hlt, ?_⟩
    simp [rawSyllable, rawY, fld_eq, srcOf_eq, hs]
    rfl
  case tsave | tsaveOut =>
    obtain ⟨hlt, hs⟩ := spells_of_pk h (by simp [Fits, ↓toNat_lt])
    simp only [List.cons_append, List.nil_append] at hs
    obtain ⟨hj, hm, hd, hf, -⟩ := hs
    have hf := field_low (k := 1) hf (by decide) (by decide)
    simp only [bitsOf, Nat.reduceAdd, Nat.reducePow, Nat.div_one] at *
    refine ⟨hlt, ?_⟩
    simp [rawSyllable, rawY, fld_eq, flag_eq, hj, hm, hd, hf]
    rfl
  case tlbinvPage | tlbinvTen | tlbinvAll =>
    obtain ⟨hlt, hs⟩ := spells_of_pk h (by simp [Fits, ↓toNat_lt])
    simp only [List.cons_append, List.nil_append] at hs
    obtain ⟨hj, hm, hd, ha, hf, -⟩ := hs
    have hf := field_low (k := 3) hf (by decide) (by decide)
    simp only [bitsOf, Nat.reduceAdd, Nat.reducePow, Nat.div_one] at *
    refine ⟨hlt, ?_⟩
    simp [rawSyllable, rawY, fld_eq, hj, hm, hd, ha, hf]
    rfl
  case add | sub | mul | mulh | mulhn | div | divn | rem | remn | and | or | xor | andn | shl | shr | sra | rot | clz | popc |
      min | max | minn | maxn | sext | zext | cmp | pop | pmovFrom | pmovTo | agen | agset | lea | sel | addi | cmpi | bfx | bfi
      | movi | movhi | ld | st | ldacq | strel | amo | cas | cas16 | pref | br | brc | bri | call | calli | ret | loop | loopx |
      brk | bsel | pause | exit | nop | vadd | vsub | vmul | vfma | vfms | vmin | vmax | vabs | vneg | vand | vor | vxor | vshl
      | vshr | vsra | vrot | vcmp | vsel | vmac16 | vdot4 | vsadd | vssub | vred | vperm | vbcst | vins | vext | vmov | vcvt |
      vpack | vunpk | vmaxe | vcvtq | vexp2 | vlog2 | vrcp | vrsq | vtanh | vrpb | vld | vst | vlds | vsts | vmsk =>
    exact absurd hp (Nat.ne_of_beq_eq_false rfl)
  all_goals exact absurd h nofun

/-- The raw reading of a syllable's encoding, which takes 31 bits. -/
theorem rawSyllable_of_syl {i : Instr} {n : Nat} (h : i.syl = some n) (hh : ∀ o a b c, i ≠ .nop o a b c) :
    n < 2 ^ 31 ∧ rawSyllable n i.lent = some i := by
  have hp : i.part = 0 ∨ i.part = 1 ∨ i.part = 2 := by
    unfold Instr.part
    split
    · exact .inl rfl
    · split
      · exact .inr (.inl rfl)
      · exact .inr (.inr rfl)
  obtain hp | hp | hp := hp
  · exact rawSyllable_of_scalar h hp hh
  · exact rawSyllable_of_vector h hp
  · exact rawSyllable_of_engine h hp

end Sys2Proof

/-! The encoding of a syllable and of the header, decoded (R99, R105 to R107). -/

namespace Sys2Proof

/-! ## The lent byte of a well-formed syllable -/

theorem Lent.ok_of_plain {x : Lent} (h : x.plain = true) : x.ok = true := by
  have hx : x.ix = 0 := by simpa [Lent.plain] using h
  rcases x with ⟨_ | g, ix⟩
  · rfl
  · subst hx
    rfl

theorem Lent.ok_of_vec {x : Lent} (h : x.vec = true) : x.ok = true := (Bool.and_eq_true_iff.1 h).1

/-- The first of two checks. -/
theorem left_of_and {a b : Bool} (h : (a && b) = true) : a = true := (Bool.and_eq_true_iff.1 h).1

/-- The second of two checks. -/
theorem right_of_and {a b : Bool} (h : (a && b) = true) : b = true := (Bool.and_eq_true_iff.1 h).2

/-- The checks of majors 0110 and 0111, `vrOk` and `vsOk`, begin with that of the lent byte. -/
theorem Lent.ok_of_vec_and {x : Lent} {a b c : Bool} (h : (x.vec && a && b && c) = true) : x.ok = true :=
  x.ok_of_vec (left_of_and (left_of_and (left_of_and h)))

/-- The checks on a well-formed instruction's fields are checks on its lent byte too. -/
theorem Instr.lent_ok_of_wf {i : Instr} (h : i.wf = true) : i.lent.ok = true := by
  cases i
  case add | sub | mul | mulh | mulhn | div | divn | rem | remn | and | or | xor | andn | shl | shr | sra | rot | clz | popc |
      min | max | minn | maxn | cmp | pmovFrom | pmovTo | agen | agset | lea | sel | bri | calli | ret | brk | bsel | exit | vld
      | vlds | vsts | tcfg | tcfgOff | tzero | trowmv | trowrd | tcolrd | mscl | mcall | mpset | ringcfg | ringpop | ringpush |
      sbind | sfree | ixq | qput | qget | crwait | bara | barw | barwA | barset | stepjoin | step | stepleave | logit | seqbind
      | verify | tmove | mbox | syscall | eret | wfi | halt => exact Lent.ok_of_plain h
  case sext | zext | bfx | bfi | vst | mlatch | mdrain | mpload | copy | copyc | kld | kst | kapp | kalloc | kfree | kcommit |
      kdedup | kfork | kwin | kpin | fenceAcq | fenceRel | fenceAr | drain | mfsr | mtsr | csave | crest | tsave | tsaveOut |
      tlbinvPage | tlbinvTen | tlbinvAll => exact Lent.ok_of_plain (left_of_and h)
  case pop | cas16 | mma | mmap => exact Lent.ok_of_plain (left_of_and (left_of_and h))
  case addi | cmpi | movi | movhi | st | pref | br | brc | call => exact h
  case ld | strel | loop => exact left_of_and h
  case ldacq | loopx => exact left_of_and (left_of_and h)
  case amo | cas | vmsk => exact Lent.ok_of_plain (left_of_and (left_of_and (left_of_and h)))
  case vadd | vsub | vmul | vfma | vfms | vmin | vmax | vabs | vneg | vand | vor | vxor | vshl | vshr | vsra | vrot | vsadd |
      vssub | vcmp | vmac16 | vdot4 | vperm | vbcst | vmov | vunpk | vpack | vrpb => exact Lent.ok_of_vec_and h
  case vsel => exact Lent.ok_of_vec (left_of_and (left_of_and h))
  case vred | vcvt | vmaxe | vcvtq | vexp2 | vlog2 | vrcp | vrsq | vtanh => exact Lent.ok_of_vec_and (right_of_and h)
  case vins | vext => exact Lent.ok_of_vec_and (left_of_and h)
  case pause x cnt =>
    cases cnt with
    | reg d => exact Lent.ok_of_plain h
    | imm n => exact h
  all_goals rfl

/-! ## Decoding -/

/-- The majors that no syllable has. -/
theorem rawSyllable_reserved {n : Nat} {x : Lent} (hm : n / 2 ^ 27 % 16 = 13 ∨ n / 2 ^ 27 % 16 = 14 ∨ n / 2 ^ 27 % 16 = 15) :
    rawSyllable n x = none := by
  obtain hm | hm | hm := hm <;> simp only [rawSyllable, hm]

/-- Decoding a syllable's encoding, whatever the stop bit. -/
theorem decodeSyllable_of_syl {i : Instr} {n : Nat} (stop : Bool) (hw : i.wf = true) (h : i.syl = some n)
    (hh : ∀ o a b c, i ≠ .nop o a b c) :
    decodeSyllable (BitVec.ofNat 32 (n + if stop then 2 ^ 31 else 0)) i.lent.enc = .ok i := by
  obtain ⟨hlt, hraw⟩ := rawSyllable_of_syl h hh
  have hn : (BitVec.ofNat 32 (n + if stop then 2 ^ 31 else 0)).toNat % 2 ^ 31 = n := by
    rw [BitVec.toNat_ofNat]
    split <;> omega
  have hm : ¬(n / 2 ^ 27 = 13 ∨ n / 2 ^ 27 = 14 ∨ n / 2 ^ 27 = 15) := by
    intro hm
    rw [rawSyllable_reserved (by omega)] at hraw
    cases hraw
  have hx := Lent.lentOf_enc (Instr.lent_ok_of_wf hw)
  unfold decodeSyllable
  simp only [hn, hx, hraw, hw, h]
  rw [if_neg fun e => hm (.inr (.inr e)), if_neg fun e => hm (e.imp_right .inl)]
  simp

/-- Decoding a header's encoding. -/
theorem decodeHeader_of_syl {o : Bool} {a b c : BitVec 8} {n : Nat} (h : (Instr.nop o a b c).syl = some n) :
    decodeHeader (BitVec.ofNat 32 n) = .ok (.nop o a b c) := by
  obtain ⟨hlt, hs⟩ := spells_of_pk h (by simp [Fits, ↓toNat_lt, ↓b01_lt])
  simp only [Spells, bitsOf, Nat.reduceAdd, Nat.reducePow, Nat.div_one] at hlt hs
  have hn : (BitVec.ofNat 32 n).toNat % 2 ^ 31 = n := by
    rw [BitVec.toNat_ofNat]
    omega
  have hm : n / 134217728 = 15 := by omega
  unfold decodeHeader
  simp only [hn]
  simp [hm, fld_eq, flag_eq, hs]

end Sys2Proof

/-! The encodings of commands and of Pip words, decoded (R269, R349, R350). -/

namespace Sys2Proof

/-! ## Commands -/

/-- The raw reading of a command's encoding, whose extension word counts when X = 1. -/
theorem rawCommand_of_cmd {i : Instr} {n : Nat} (h : i.cmd = some n) :
    (if flag n 26 then n % 2 ^ 96 else n % 2 ^ 32) = n ∧ rawCommand n = some i := by
  cases i
  case cmov | cmovi | cadd | csub | cand | cor | ccmp | cloop | cret | cwait | claunch | cseg | ctime | cint | chalt =>
    obtain ⟨hlt, hs⟩ := spells_of_pk h (by simp [Fits, ↓toNat_lt])
    simp only [Spells, bitsOf, Nat.reduceAdd, Nat.reducePow, Nat.div_one] at hlt hs
    have hx : n / 67108864 % 2 = 0 := by omega
    refine ⟨?_, ?_⟩
    · simp [flag, hx, Nat.mod_eq_of_lt hlt]
    · simp [rawCommand, fld_eq, flag_eq, hs]
  case cmoviExt | caddImm | csubImm | candImm | corImm | ccmpImm =>
    obtain ⟨hlt, hs⟩ := spells_of_pk h (by simp [Fits, ↓toNat_lt])
    simp only [Spells, bitsOf, Nat.reduceAdd, Nat.reducePow, Nat.div_one] at hlt hs
    refine ⟨?_, ?_⟩
    · simp [flag, hs, Nat.mod_eq_of_lt hlt]
    · simp [rawCommand, fld_eq, flag_eq, hs]
  case cbr mode d disp =>
    obtain ⟨hlt, ho, hx, hd, h0, hm, hdisp, -⟩ := spells_of_pk h (by simp [Fits, ↓toNat_lt])
    have hm := field_low hm mode.isLt (by decide)
    simp only [bitsOf, Nat.reduceAdd, Nat.reducePow, Nat.div_one] at *
    refine ⟨?_, ?_⟩
    · simp [flag, hx, Nat.mod_eq_of_lt hlt]
    · simp [rawCommand, fld_eq, ho, hd, hm, hdisp]
  case ccall disp =>
    obtain ⟨hlt, ho, h0, hdisp, -⟩ := spells_of_pk h (by simp [Fits, ↓toNat_lt])
    obtain ⟨h26, h14⟩ : n / 2 ^ 26 % 2 = 0 ∧ n / 2 ^ 14 % 2 = 0 := by
      simp only [bitsOf] at h0
      omega
    simp only [bitsOf, Nat.reduceAdd, Nat.reducePow, Nat.div_one] at *
    refine ⟨?_, ?_⟩
    · simp [flag, h26, Nat.mod_eq_of_lt hlt]
    · simp [rawCommand, fld_eq, flag_eq, ho, h14, hdisp]
  case ccallIndirect a =>
    obtain ⟨hlt, ho, h26, ha, h14, h0, -⟩ := spells_of_pk h (by simp [Fits, ↓toNat_lt])
    simp only [bitsOf, Nat.reduceAdd, Nat.reducePow, Nat.div_one] at *
    have hx : n / 67108864 % 2 = 0 := by omega
    have hi : n / 16384 % 2 = 1 := by omega
    refine ⟨?_, ?_⟩
    · simp [flag, hx, Nat.mod_eq_of_lt hlt]
    · simp [rawCommand, fld_eq, flag_eq, ho, ha, hi]
  case cld | cldR | cst | cstR =>
    obtain ⟨hlt, ho, hx, hd, ha, hr, hoff, -⟩ := spells_of_pk h (by simp [Fits, ↓toNat_lt])
    have hr := field_low (k := 1) hr (by decide) (by decide)
    simp only [bitsOf, Nat.reduceAdd, Nat.reducePow, Nat.div_one] at *
    refine ⟨?_, ?_⟩
    · simp [flag, hx, Nat.mod_eq_of_lt hlt]
    · simp [rawCommand, fld_eq, flag_eq, ho, hd, ha, hr, hoff]
  case csigSet | csigAdd | crungSet =>
    obtain ⟨hlt, ho, hx, ha, hb, hr, -⟩ := spells_of_pk h (by simp [Fits, ↓toNat_lt])
    have hr := field_low (k := 1) hr (by decide) (by decide)
    have hx' := field_append (a := 0) (b := 0) (j := 1) (k := 4) hx (by decide)
    simp only [bitsOf, Nat.reduceAdd, Nat.reducePow, Nat.div_one] at *
    refine ⟨?_, ?_⟩
    · simp [flag, hx', Nat.mod_eq_of_lt hlt]
    · simp [rawCommand, fld_eq, flag_eq, ho, ha, hb, hr]
  case ccopy | ccopyC | crungRd =>
    obtain ⟨hlt, ho, hx, hd, ha, hr, -⟩ := spells_of_pk h (by simp [Fits, ↓toNat_lt])
    have hr := field_low (k := 1) hr (by decide) (by decide)
    simp only [bitsOf, Nat.reduceAdd, Nat.reducePow, Nat.div_one] at *
    refine ⟨?_, ?_⟩
    · simp [flag, hx, Nat.mod_eq_of_lt hlt]
    · simp [rawCommand, fld_eq, flag_eq, ho, hd, ha, hr]
  case cfenceCopy | cfenceLaunch | cfenceAll =>
    obtain rfl := Option.some.inj h
    exact ⟨rfl, rfl⟩
  all_goals exact absurd h nofun

/-- Decoding a command's encoding. -/
theorem decodeCommand_of_cmd {i : Instr} {n : Nat} (hw : i.wf = true) (h : i.cmd = some n) : decodeCommand n = .ok i := by
  obtain ⟨hm, hraw⟩ := rawCommand_of_cmd h
  rw [decodeCommand, hm]
  simp [hraw, hw, h]

/-! ## Pip words -/

/-- The raw reading of a Pip word's encoding, which takes 32 bits. -/
theorem rawPip_of_pip {i : Instr} {n : Nat} (h : i.pip = some n) : n < 2 ^ 32 ∧ rawPip n = some i := by
  cases i
  case pld | pldIdx =>
    obtain ⟨hlt, ho, hd, ha, hb, hx, -⟩ := spells_of_pk h (by simp [Fits, ↓toNat_lt])
    have hx := field_low (k := 1) hx (by decide) (by decide)
    simp only [bitsOf, Nat.reduceAdd, Nat.reducePow, Nat.div_one] at *
    refine ⟨hlt, ?_⟩
    simp [rawPip, fld_eq, flag_eq, ho, hd, hx]
  case pcnt | pbias | pexp | plog | pmask | pimm | pnop | pend =>
    obtain ⟨hlt, hs⟩ := spells_of_pk h (by simp [Fits, ↓toNat_lt])
    simp only [Spells, bitsOf, Nat.reduceAdd, Nat.reducePow, Nat.div_one] at hlt hs
    refine ⟨hlt, ?_⟩
    simp [rawPip, fld_eq, hs]
  case padd d a b s | psub d a b s | pmul d a b s | pmax d a b s | pmin d a b s =>
    have hs := b01_lt_two s
    obtain ⟨hlt, ho, hd, ha, hb, hx, -⟩ := spells_of_pk h (by simp [Fits, ↓toNat_lt]; omega)
    have hf := field_high (a := b01 s) (j := 1) (k := 17) hx
    simp only [bitsOf, Nat.reduceAdd, Nat.reducePow, Nat.div_one] at *
    refine ⟨hlt, ?_⟩
    simp [rawPip, fld_eq, flag_eq, ho, hd, ha, hb, hf]
  case ppen d a b c | pclamp d a b c | psel d c a b =>
    obtain ⟨hlt, ho, hd, ha, hb, hx, -⟩ := spells_of_pk h (by simp [Fits, ↓toNat_lt]; omega)
    have hf := field_high (a := c.toNat) (j := 3) (k := 15) hx
    simp only [bitsOf, Nat.reduceAdd, Nat.reducePow, Nat.div_one] at *
    refine ⟨hlt, ?_⟩
    simp [rawPip, fld_eq, ho, hd, ha, hb, hf]
  case pfreq d a b c e =>
    obtain ⟨hlt, ho, hd, ha, hb, hx, -⟩ := spells_of_pk h (by simp [Fits, ↓toNat_lt]; omega)
    obtain ⟨hx, hc⟩ := field_append (a := c.toNat) (b := e.toNat * 2 ^ 12) (j := 3) (k := 15) hx (by omega)
    have he := field_high (a := e.toNat) (j := 3) (k := 12) hx
    simp only [bitsOf, Nat.reduceAdd, Nat.reducePow, Nat.div_one] at *
    refine ⟨hlt, ?_⟩
    simp [rawPip, fld_eq, ho, hd, ha, hb, hc, he]
  case pcmp d a b s cond =>
    have hs := b01_lt_two s
    obtain ⟨hlt, ho, hd, ha, hb, hx, -⟩ := spells_of_pk h (by simp [Fits, ↓toNat_lt]; omega)
    obtain ⟨hx, hs⟩ := field_append (a := b01 s) (b := cond.toNat * 2 ^ 14) (j := 1) (k := 17) hx (by omega)
    have hc := field_high (a := cond.toNat) (j := 3) (k := 14) hx
    simp only [bitsOf, Nat.reduceAdd, Nat.reducePow, Nat.div_one] at *
    refine ⟨hlt, ?_⟩
    simp [rawPip, fld_eq, flag_eq, ho, hd, ha, hb, hs, hc]
  case pskip m =>
    obtain ⟨hlt, ho, hd, ha, hb, hx, -⟩ := spells_of_pk h (by simp [Fits, ↓toNat_lt])
    have hm := m.isLt
    simp only [bitsOf, Nat.reduceAdd, Nat.reducePow, Nat.div_one] at *
    obtain ⟨hk, hm⟩ : n / 65536 % 4 = 0 ∧ n % 64 = m.toNat := by omega
    refine ⟨hlt, ?_⟩
    simp [rawPip, fld_eq, ho, hk, hm]
  case pskipNz a m =>
    have hm := m.isLt
    obtain ⟨hlt, ho, hd, ha, hb, hx, -⟩ := spells_of_pk h (by simp [Fits, ↓toNat_lt]; omega)
    simp only [bitsOf, Nat.reduceAdd, Nat.reducePow, Nat.div_one] at *
    obtain ⟨hk, hm⟩ : n / 65536 % 4 = 1 ∧ n % 64 = m.toNat := by omega
    refine ⟨hlt, ?_⟩
    simp [rawPip, fld_eq, ho, ha, hk, hm]
  case pskipZ a m =>
    have hm := m.isLt
    obtain ⟨hlt, ho, hd, ha, hb, hx, -⟩ := spells_of_pk h (by simp [Fits, ↓toNat_lt]; omega)
    simp only [bitsOf, Nat.reduceAdd, Nat.reducePow, Nat.div_one] at *
    obtain ⟨hk, hm⟩ : n / 65536 % 4 = 2 ∧ n % 64 = m.toNat := by omega
    refine ⟨hlt, ?_⟩
    simp [rawPip, fld_eq, ho, ha, hk, hm]
  case pskipNone a m =>
    have hm := m.isLt
    obtain ⟨hlt, ho, hd, ha, hb, hx, -⟩ := spells_of_pk h (by simp [Fits, ↓toNat_lt]; omega)
    simp only [bitsOf, Nat.reduceAdd, Nat.reducePow, Nat.div_one] at *
    obtain ⟨hk, hm⟩ : n / 65536 % 4 = 3 ∧ n % 64 = m.toNat := by omega
    refine ⟨hlt, ?_⟩
    simp [rawPip, fld_eq, ho, ha, hk, hm]
  all_goals exact absurd h nofun

/-- Decoding a Pip word's encoding. -/
theorem decodePip_of_pip {i : Instr} {n : Nat} (hw : i.wf = true) (h : i.pip = some n) : decodePip (BitVec.ofNat 32 n) = .ok i := by
  obtain ⟨hlt, hraw⟩ := rawPip_of_pip h
  have hn : (BitVec.ofNat 32 n).toNat = n := by rw [BitVec.toNat_ofNat, Nat.mod_eq_of_lt hlt]
  simp [decodePip, hn, hraw, hw, h]

end Sys2Proof

/-! The statements on the encoder and the decoder. -/

namespace Sys2Proof.Machine

open Sys2Proof.Claims

/-- Settles O58, by the fields that each encoding puts side by side (`spells_of_pk`), family by family. -/
theorem decodeAfterEncode : Obligations.DecodeAfterEncode :=
  ⟨fun _ _ stop hw h hh => decodeSyllable_of_syl stop hw h hh, fun _ _ _ _ _ h => decodeHeader_of_syl h,
    fun _ _ hw h => decodeCommand_of_cmd hw h, fun _ _ hw h => decodePip_of_pip hw h⟩

/-- Settles O57, by running the decoder on each word. -/
theorem encodedWords : Obligations.EncodedWords := by
  unfold Obligations.EncodedWords
  decide +kernel

end Sys2Proof.Machine

/-! The statement about vector results (R111, R158, R162 to R177). -/

namespace Sys2Proof.Machine

open Sys2Proof.Claims

/-- A vector row's instruction is a syllable that issues the row's value, computed in the state in which it computes. -/
theorem exec_vecRow_val {i : Instr} {s : State} {r : VecOut} (h : vecRow i = some r) :
    exec i s = act (syl r.x r.u fun t => t.resV r.lat r.wd r.d (r.val t)) s := by
  unfold vecRow special vec1 vec2 vec3 at h
  split at h <;> simp only [Option.some.injEq, reduceCtorEq] at h <;> subst h <;> rfl

/-- Settles O12: the syllable computes where the streams that it names have been popped, and its result is one value for its
register and its latch. -/
theorem vectorResult : Obligations.VectorResult := by
  intro i s r hrow _ hs hr hroom hd
  rw [exec_vecRow_val hrow]
  exact act_syl_popped hs hr (State.resV_unbound (room_popped hroom _) (unbound_popped hd _) ..) rfl rfl rfl

end Sys2Proof.Machine

/-! The statement about false guards (R104, R108): a syllable is one check of its latches, its guard and what follows. -/

namespace Sys2Proof.Machine

open Sys2Proof.Claims

/-! ## The latches of an operand list -/

@[simp] theorem Uses.latches_none : Uses.none.latches = [] := rfl

@[simp] theorem Uses.latches_s (u : Uses) (a : SSrc) : (u.s a).latches = u.latches ++ ofS a := by
  cases a with
  | s r => exact (List.append_nil _).symm
  | y n => rfl

@[simp] theorem Uses.latches_v (u : Uses) (a : VSrc) : (u.v a).latches = u.latches ++ ofV a := by
  cases a with
  | v r => exact (List.append_nil _).symm
  | y n => rfl

@[simp] theorem Uses.latches_r (u : Uses) (r : BitVec 6) : (u.r r).latches = u.latches := rfl

@[simp] theorem Uses.latches_d (u : Uses) (d : VDst) : (u.d d).latches = u.latches := rfl

@[simp] theorem Uses.latches_dv (u : Uses) (d : VDst) : (u.dv d).latches = u.latches := rfl

/-- Where none of the latches that the operands name is stale, check 5 passes. -/
theorem Core.not_stale {k : Core} {u : Uses} {l : List (Fin 4)} (hl : ∀ n ∈ l, (k.latch.get n).stale = false) (hu : u.latches = l) :
    k.stale u = false := by
  subst hu
  simpa [Core.stale] using hl

/-- An operation that is a syllable with a false guard, whose operands name the latches `l`, does nothing when none of them is stale. -/
theorem act_guarded {f body : State → State} {s : State} {x : Lent} {u : Uses} {l : List (Fin 4)} (hs : s.dev.wbuf = [])
    (hl : ∀ n ∈ l, (s.me.latch.get n).stale = false) (hg : s.me.guard x = false) (hf : f s = syl x u body s) (hu : u.latches = l) :
    act f s = .next s := act_same hs (hf.trans (syl_guarded (Core.not_stale hl hu) hg body))

/-- The same of a syllable that queues a matrix command. -/
theorem act_matSyl_guarded {s : State} {x : Lent} {u : Uses} {owned : Bool} {i : Instr} {a b : State → W64} {v : State → V1024}
    {go : State → State} {l : List (Fin 4)} (hs : s.dev.wbuf = []) (hl : ∀ n ∈ l, (s.me.latch.get n).stale = false)
    (hg : s.me.guard x = false) (hu : u.latches = l) : act (matSyl x u owned i a b v go) s = .next s :=
  act_same hs (syl_guarded (Core.not_stale hl hu) hg _)

/-- The same of a system engine operation. -/
theorem act_sysSyl_guarded {s : State} {x : Lent} {u : Uses} {body : State → State} {l : List (Fin 4)} (hs : s.dev.wbuf = [])
    (hl : ∀ n ∈ l, (s.me.latch.get n).stale = false) (hg : s.me.guard x = false) (hu : u.latches = l) :
    act (sysSyl x u body) s = .next s := by
  rw [sysSyl, privSyl]
  exact act_guarded hs hl hg rfl hu

/-! ## Syllables -/

/-- Settles O4: every syllable but the header checks its latches and then its guard before it does anything; the header has no
guard. -/
theorem falseGuardDoesNothing : Obligations.FalseGuardDoesNothing := by
  intro i s hi hs hl hg
  cases i
  case add | sub | mul | mulh | mulhn | div | divn | rem | remn | and | or | xor | andn | shl | shr | sra | rot | min | max |
      minn | maxn | cmp | agset | lea | sel | clz | popc | sext | zext | pmovTo | agen | addi | cmpi | bfx | bfi | bri | calli
      | ret | bsel | mtsr | vadd | vsub | vmul | vfma | vfms | vmin | vmax | vand | vor | vxor | vshl | vshr | vsra | vrot |
      vcmp | vsel | vmac16 | vdot4 | vsadd | vssub | vperm | vpack | vrpb | vabs | vneg | vred | vext | vmov | vcvt | vunpk |
      vmaxe | vcvtq | vst | vsts =>
    refine act_guarded hs hl hg rfl ?_
    simp only [Uses.latches_none, Uses.latches_s, Uses.latches_v, Uses.latches_r, Uses.latches_d, Uses.latches_dv, List.nil_append]
    rfl
  case vexp2 | vlog2 | vrcp | vrsq | vtanh =>
    refine (exec_vecRow_val rfl).trans (act_guarded hs hl hg rfl ?_)
    simp only [Uses.latches_none, Uses.latches_v, Uses.latches_d, List.nil_append]
    rfl
  case loop x cnt off | pause x cnt =>
    refine act_guarded hs hl hg rfl ?_
    cases cnt with
    | reg a =>
      simp only [Uses.latches_none, Uses.latches_s, List.nil_append]
      rfl
    | imm n => rfl
  case trowmv x t row cb va =>
    refine act_guarded hs hl hg rfl ?_
    cases va <;> rfl
  case amo x asz lc ord scope op d a =>
    refine act_guarded hs hl hg rfl ?_
    split <;> rfl
  case pop | pmovFrom | movi | movhi | ld | st | ldacq | strel | cas | cas16 | pref | br | brc | call | loopx | brk | exit |
      vbcst | vins | vld | vlds | vmsk | mmap | mcall | copy | copyc | kld | kst | kapp | kalloc | kfree | kcommit | kdedup |
      kfork | kwin | kpin | sbind | sfree | ixq | qput | qget | crwait | fenceAcq | fenceRel | fenceAr | drain | bara | barw |
      barwA | barset | stepjoin | step | stepleave | logit | seqbind | verify | tmove | mbox | syscall | eret | mfsr | wfi |
      halt =>
    refine act_guarded hs hl hg rfl ?_
    rfl
  case tcfg | tcfgOff | tzero | trowrd | tcolrd | mma | mlatch | mscl | mdrain | mpset | ringcfg | ringpop | ringpush | mpload
      =>
    exact act_matSyl_guarded hs hl hg rfl
  case csave | crest | tsave | tsaveOut | tlbinvPage | tlbinvTen | tlbinvAll =>
    exact act_sysSyl_guarded hs hl hg rfl
  case nop => exact absurd hg nofun
  all_goals exact absurd hi nofun

end Sys2Proof.Machine

/-! What no syllable changes: the cursor, which names the agents of the turn (log 1). One rule for each operation of the state. -/

namespace Sys2Proof.Machine

open Sys2Proof.Claims

/-! ## From the rules of earlier parts -/

theorem cur_of_plan {s t : State} (h : t.plan = s.plan) : t.dev.cur = s.dev.cur := congrArg (fun p => p.2.2) h

theorem cur_of_roster {s t : State} (h : t.roster = s.roster) : t.dev.cur = s.dev.cur := congrArg (fun p => p.2) h

/-- Changes that keep the cursor, one after another. -/
theorem cur_foldl {α : Type} {f : State → α → State} (h : ∀ s x, (f s x).dev.cur = s.dev.cur) (l : List α) (s : State) :
    (l.foldl f s).dev.cur = s.dev.cur := by
  induction l generalizing s with
  | nil => rfl
  | cons x l ih => exact (ih (f s x)).trans (h s x)

/-- The same of changes that carry a value along. -/
theorem cur_foldl_snd {α β : Type} {f : β × State → α → β × State} (h : ∀ r x, (f r x).2.dev.cur = r.2.dev.cur) (l : List α)
    (r : β × State) : (l.foldl f r).2.dev.cur = r.2.dev.cur := by
  induction l generalizing r with
  | nil => rfl
  | cons x l ih => exact (ih (f r x)).trans (h r x)

/-- The same of changes that carry a value behind. -/
theorem cur_foldl_fst {α β : Type} {f : State × β → α → State × β} (h : ∀ r x, (f r x).1.dev.cur = r.1.dev.cur) (l : List α)
    (r : State × β) : (l.foldl f r).1.dev.cur = r.1.dev.cur := by
  induction l generalizing r with
  | nil => rfl
  | cons x l ih => exact (ih (f r x)).trans (h r x)

theorem cur_forUpto {f : Nat → State → State} (h : ∀ i s, (f i s).dev.cur = s.dev.cur) (n : Nat) (s : State) :
    (forUpto n f s).dev.cur = s.dev.cur := cur_foldl (fun s i => h i s) _ s

section
variable (s : State)

theorem State.devWrite_cur {u : State} {t : TenantId} {va : Nat} {bs : List Byte} (h : s.devWrite t va bs = .ok u) :
    u.dev.cur = s.dev.cur := cur_of_plan (plan_devWrite s h)

@[simp] theorem State.poke_cur (a : Nat) (b : Byte) : (s.poke a b).dev.cur = s.dev.cur := cur_of_plan (plan_poke ..)
@[simp] theorem State.pokes_cur (a : Nat) (bs : List Byte) : (s.pokes a bs).dev.cur = s.dev.cur := cur_of_plan (plan_pokes ..)
@[simp] theorem State.logEntry_cur (t : TenantId) (a b d : Nat) : (s.logEntry t a b d).dev.cur = s.dev.cur :=
  cur_of_plan (plan_logEntry ..)
@[simp] theorem State.modZones_cur (g : BitVec 5) (f : Zone → Zone) : (s.modZones g f).dev.cur = s.dev.cur :=
  cur_of_plan (plan_modZones ..)
@[simp] theorem State.testBarrier_cur (n : BitVec 6) : (s.testBarrier n).dev.cur = s.dev.cur := cur_of_plan (plan_testBarrier ..)

/-! ## Traps, holds and results -/

@[simp] theorem State.holdOn_cur (h : Hold) : (s.holdOn h).dev.cur = s.dev.cur := rfl
@[simp] theorem State.trapResource_cur : s.trapResource.dev.cur = s.dev.cur := rfl
@[simp] theorem State.resX_cur (d : FDest) (v : V1024) : (s.resX d v).dev.cur = s.dev.cur := rfl
@[simp] theorem State.deferOn_cur (d : Deferred) : (s.deferOn d).dev.cur = s.dev.cur := rfl
@[simp] theorem State.countPair_cur : s.countPair.dev.cur = s.dev.cur := rfl
@[simp] theorem State.modTask_cur (id : Nat) (f : Task → Task) : (s.modTask id f).dev.cur = s.dev.cur := rfl
@[simp] theorem State.setSlot_cur (f : BitVec 8) (n : Nat) (st : SlotState) : (s.setSlot f n st).dev.cur = s.dev.cur := rfl
@[simp] theorem State.issueFence_cur (lat : Nat) (loads all remote : Bool) (scope : BitVec 3) (cls : Nat) :
    (s.issueFence lat loads all remote scope cls).2.dev.cur = s.dev.cur := rfl
@[simp] theorem State.startSys_cur (d : BitVec 6) (token : W64) (todo : Option SysWork) :
    (s.startSys d token todo).dev.cur = s.dev.cur := rfl
@[simp] theorem State.logRefused_cur (t : TenantId) (code cls core va pa : Nat) :
    (s.logRefused t code cls core va pa).dev.cur = s.dev.cur := State.logEntry_cur ..
@[simp] theorem State.logFault_cur (t : TenantId) (code cls core va : Nat) : (s.logFault t code cls core va).dev.cur = s.dev.cur :=
  State.logRefused_cur ..
@[simp] theorem State.logFurther_cur (t : TenantId) (core : Nat) (e : LateErr) : (s.logFurther t core e).dev.cur = s.dev.cur :=
  State.logFault_cur ..
@[simp] theorem State.logEcc_cur (t : TenantId) (code cls core va : Nat) : (s.logEcc t code cls core va).dev.cur = s.dev.cur :=
  State.logEntry_cur ..

@[simp] theorem State.result_cur (f : Flight) : (s.result f).dev.cur = s.dev.cur := by
  unfold State.result
  split <;> rfl

@[simp] theorem State.resS_cur (lat : Nat) (d : SDst) (v : W64) : (s.resS lat d v).dev.cur = s.dev.cur := State.result_cur ..
@[simp] theorem State.resP_cur (p : BitVec 4) (b : Bool) : (s.resP p b).dev.cur = s.dev.cur := State.result_cur ..
@[simp] theorem State.resR_cur (lat : Nat) (d : BitVec 6) (v : W64) : (s.resR lat d v).dev.cur = s.dev.cur := State.result_cur ..
@[simp] theorem State.resM_cur (lat : Nat) (wd : Width) (m : BitVec 3) (v : BitVec 128) : (s.resM lat wd m v).dev.cur = s.dev.cur :=
  State.result_cur ..
@[simp] theorem State.link_cur : s.link.dev.cur = s.dev.cur := State.resR_cur ..

@[simp] theorem State.resV_cur (lat : Nat) (wd : Width) (d : VDst) (v : V1024) : (s.resV lat wd d v).dev.cur = s.dev.cur := by
  unfold State.resV
  dsimp only
  split
  · exact State.result_cur ..
  · split <;> exact State.result_cur ..

@[simp] theorem State.resOutcome_cur (pabort bad : Bool) (res : Nat) (kind : Bool) :
    (s.resOutcome pabort bad res kind).dev.cur = s.dev.cur := State.resP_cur ..

@[simp] theorem State.trapData_cur (f : Nat × Nat) : (s.trapData f).dev.cur = s.dev.cur := by
  unfold State.trapData
  dsimp only
  split <;> rfl

theorem State.andThen_cur {f : State → State} (h : ∀ s, (f s).dev.cur = s.dev.cur) : (s.andThen f).dev.cur = s.dev.cur := by
  unfold State.andThen
  split
  · exact h s
  · rfl

/-! ## Translation -/

@[simp] theorem State.startWalk_cur (t : TenantId) (c : CoreId) (va : Nat) : (s.startWalk t c va).dev.cur = s.dev.cur := by
  unfold State.startWalk
  split <;> rfl

@[simp] theorem State.mkPart_cur (c : CoreId) (acc : Acc) (hostOk : Bool) (va len : Nat) :
    (s.mkPart c acc hostOk va len).2.dev.cur = s.dev.cur := by
  unfold State.mkPart
  dsimp only
  split
  · split
    · rfl
    · split
      · rfl
      · exact State.startWalk_cur ..
  all_goals rfl

@[simp] theorem State.mkParts_cur (c : CoreId) (acc : Acc) (hostOk : Bool) (els : List (Nat × Nat)) :
    (s.mkParts c acc hostOk els).2.dev.cur = s.dev.cur := by
  refine cur_foldl_snd (fun r e => ?_) els.zipIdx ([], s)
  refine cur_foldl_snd (fun r p => ?_) (spanPieces e.1.1 e.1.2) r
  exact State.mkPart_cur r.2 c acc hostOk p.1 p.2

@[simp] theorem State.coreXlate_cur (c : CoreId) (acc : Acc) (va : Nat) : (s.coreXlate c acc va).2.dev.cur = s.dev.cur := by
  unfold State.coreXlate
  dsimp only
  split
  · rfl
  · split
    · rfl
    · split
      · rfl
      · split <;> rfl

/-! ## Late errors -/

@[simp] theorem State.lateOn_cur (c : CoreId) (e : LateErr) : (s.lateOn c e).dev.cur = s.dev.cur := by
  unfold State.lateOn
  split
  · rfl
  · exact State.logFurther_cur ..

@[simp] theorem State.logEngine_cur (t : TenantId) (code cls core va : Nat) : (s.logEngine t code cls core va).dev.cur = s.dev.cur := by
  unfold State.logEngine
  split
  · exact State.logFault_cur ..
  · rfl

@[simp] theorem State.lateToArea_cur (t : TenantId) (core area : Nat) (e : LateErr) :
    (s.lateToArea t core area e).dev.cur = s.dev.cur := by
  unfold State.lateToArea
  dsimp only
  split
  · exact State.logEngine_cur ..
  next d _ =>
    split
    · exact State.logEngine_cur ..
    next u hu =>
      have hs : u.dev.cur = s.dev.cur := by
        split at hu
        · exact State.devWrite_cur s hu
        · obtain rfl := Except.ok.inj hu
          exact State.logFurther_cur ..
      split
      next v hv => exact (State.devWrite_cur u hv).trans hs
      next => exact (State.logEngine_cur ..).trans hs

@[simp] theorem State.errorTo_cur (c : CoreId) (task : Option Nat) (e : LateErr) : (s.errorTo c task e).dev.cur = s.dev.cur := by
  unfold State.errorTo
  split
  · exact State.lateOn_cur ..
  · split
    · exact State.lateOn_cur ..
    · split
      · exact State.lateToArea_cur ..
      · rfl
    · rfl

@[simp] theorem State.lateError_cur (c : CoreId) (own : Owner) (code va info : Nat) (timeout : Bool) :
    (s.lateError c own code va info timeout).dev.cur = s.dev.cur := by
  unfold State.lateError
  dsimp only
  have h : (if code = cMemwin then s.logFault (s.coreTenant c) code clsCore c.val va else s).dev.cur = s.dev.cur := by
    split
    · exact State.logFault_cur ..
    · rfl
  split
  · exact h
  · exact (State.errorTo_cur ..).trans h

/-! ## Stores -/

@[simp] theorem State.removeWrites_cur (p : PendingWrite → Bool) : (s.removeWrites p).dev.cur = s.dev.cur := by
  unfold State.removeWrites
  dsimp only
  split
  · rfl
  · exact cur_foldl (f := fun (s : State) (w : PendingWrite) => s.modCore w.core fun k => k.arrive w.id) (fun _ _ => rfl) _ (s.upd _)

@[simp] theorem State.resolveStore_cur (c : CoreId) (acc n : Nat) : (State.resolveStore c acc n s).dev.cur = s.dev.cur := by
  induction n generalizing s with
  | zero => rfl
  | succ n ih =>
    unfold State.resolveStore
    split
    · exact State.removeWrites_cur ..
    · refine (ih _).trans ((State.removeWrites_cur ..).trans ?_)
      split
      · split
        · exact State.lateError_cur ..
        · exact State.lateError_cur ..
      · rfl

@[simp] theorem State.pokeSome_cur (a : Nat) (bs : List (Option Byte)) : (s.pokeSome a bs).dev.cur = s.dev.cur := by
  induction bs generalizing s a with
  | nil => rfl
  | cons b bs ih =>
    cases b with
    | none => exact ih ..
    | some b => exact (ih ..).trans (State.poke_cur ..)

@[simp] theorem State.storeGranule_cur (c : CoreId) (g : StoreTag) (p : Part) (bs : List (Option Byte)) :
    (s.storeGranule c g p bs).dev.cur = s.dev.cur := by
  unfold State.storeGranule
  dsimp only
  split
  · exact State.pokeSome_cur ..
  · split <;> rfl

@[simp] theorem State.storePiece_cur (c : CoreId) (g : StoreTag) (p : Part) (bs : List (Option Byte)) :
    (s.storePiece c g p bs).dev.cur = s.dev.cur := by
  refine cur_foldl_fst (fun r q => ?_) p.cut (s, bs)
  dsimp only
  split
  · rfl
  · exact State.storeGranule_cur ..

@[simp] theorem State.storeCuts_cur (c : CoreId) (g : StoreTag) (cuts : List Cut) : (s.storeCuts c g cuts).dev.cur = s.dev.cur :=
  cur_foldl (fun _ _ => (State.storePiece_cur ..).trans (State.mkPart_cur ..)) cuts s

@[simp] theorem State.storeElem_cur (c : CoreId) (task : Option Nat) (g : StoreTag) (whole : Bool) (n : Nat)
    (e : Nat × List (Option Byte)) : (s.storeElem c task g whole n e).dev.cur = s.dev.cur := by
  unfold State.storeElem
  dsimp only
  split
  · exact State.storeCuts_cur ..
  · split
    · exact State.storeCuts_cur ..
    · refine (State.storeCuts_cur ..).trans (cur_foldl (fun u i => ?_) _ s)
      split <;> rfl

@[simp] theorem State.storeBytes_cur (c : CoreId) (task : Option Nat) (g : StoreTag) (whole : Bool)
    (els : List (Nat × List (Option Byte))) : (s.storeBytes c task g whole els).dev.cur = s.dev.cur :=
  (State.resolveStore_cur ..).trans (cur_foldl (fun _ _ => State.storeElem_cur ..) _ s)

@[simp] theorem State.settle_cur (c : CoreId) : (s.settle c).dev.cur = s.dev.cur := by
  obtain ⟨cs, ws, h⟩ := (State.settle_loosens s c).only
  rw [h]
  rfl

@[simp] theorem State.drainSlot_cur (c : CoreId) (slot : BitVec 3) : (s.drainSlot c slot).dev.cur = s.dev.cur := by
  unfold State.drainSlot
  dsimp only
  split
  · rfl
  · split
    · exact (State.settle_cur ..).trans (State.lateError_cur ..)
    · exact (State.settle_cur ..).trans (State.storeBytes_cur ..)

@[simp] theorem State.drainMany_cur (c : CoreId) (slot : BitVec 3) (n : Nat) : (State.drainMany c slot n s).dev.cur = s.dev.cur := by
  induction n generalizing s with
  | zero => rfl
  | succ n ih => exact (ih _).trans (State.drainSlot_cur ..)

@[simp] theorem State.drainAhead_cur (c : CoreId) (seq : Nat) (els : List (Nat × Nat)) :
    (s.drainAhead c seq els).dev.cur = s.dev.cur := by
  unfold State.drainAhead
  split
  · rfl
  · refine cur_forUpto (fun i u => ?_) 8 s
    exact State.drainMany_cur ..

@[simp] theorem State.storeMany_cur (hold : Option (BitVec 3)) (whole : Bool) (els : List (Nat × List (Option Byte))) :
    (s.storeMany hold whole els).dev.cur = s.dev.cur :=
  (State.storeBytes_cur ..).trans (State.drainAhead_cur s _ _ _)

@[simp] theorem State.store_cur (hold : Option (BitVec 3)) (va : Nat) (bs : List Byte) : (s.store hold va bs).dev.cur = s.dev.cur :=
  State.storeMany_cur ..

/-! ## Loads and atomics -/

@[simp] theorem State.resolveOp_cur (c : CoreId) (id n : Nat) : (State.resolveOp c id n s).dev.cur = s.dev.cur := by
  induction n generalizing s with
  | zero => rfl
  | succ n ih =>
    unfold State.resolveOp
    split
    · rfl
    · split
      · rfl
      · exact (ih _).trans (State.lateError_cur ..)

@[simp] theorem State.dropOp_cur (c : CoreId) (o : MemOp) (code : Nat) (timeout : Bool) :
    (s.dropOp c o code timeout).dev.cur = s.dev.cur := State.lateError_cur ..

@[simp] theorem State.pokeParts_cur (ps : List Part) (bs : List Byte) : (s.pokeParts ps bs).dev.cur = s.dev.cur := by
  induction ps generalizing s bs with
  | nil => rfl
  | cons p ps ih => exact (ih ..).trans (State.pokes_cur ..)

@[simp] theorem State.performOp_cur (c : CoreId) (o : MemOp) : (s.performOp c o).2.dev.cur = s.dev.cur := by
  unfold State.performOp
  dsimp only
  split
  · rfl
  · rfl
  · exact State.pokeParts_cur ..
  · split
    · exact State.pokeParts_cur ..
    · rfl
  · rfl

@[simp] theorem State.finishOp_cur (c : CoreId) (o : MemOp) : (s.finishOp c o).dev.cur = s.dev.cur :=
  (State.settle_cur ..).trans (State.performOp_cur ..)

@[simp] theorem State.endLoad_cur (c : CoreId) (id : Nat) : (s.endLoad c id).dev.cur = s.dev.cur := by
  unfold State.endLoad
  split
  · split
    · exact State.finishOp_cur ..
    · rfl
  · rfl

@[simp] theorem State.issueOp_cur (o : MemOp) : (s.issueOp o).dev.cur = s.dev.cur := by
  unfold State.issueOp
  dsimp only
  have h := State.resolveOp_cur (s.modCore s.dev.cur.core fun k => { k with ops := k.ops ++ [o] }) s.dev.cur.core o.id o.parts.length
  split
  · exact (State.dropOp_cur ..).trans ((State.logEcc_cur ..).trans h)
  · split
    · split
      · split
        · exact (State.finishOp_cur ..).trans h
        · exact h
      · exact h
    · exact (State.endLoad_cur ..).trans h

@[simp] theorem State.issueLoad_cur (kind : MemKind) (els : List (Nat × Nat)) (lat : Nat) (dest : FDest) (dreg : Option (BitVec 6)) :
    (s.issueLoad kind els lat dest dreg).dev.cur = s.dev.cur := by
  refine (State.andThen_cur _ fun u => ?_).trans (State.result_cur ..)
  exact (State.issueOp_cur ..).trans ((State.mkParts_cur ..).trans (State.drainAhead_cur ..))

@[simp] theorem State.scalarLoad_cur (size : Nat) (sx : Bool) (lc : BitVec 2) (d : BitVec 6) (ea : Nat) :
    (s.scalarLoad size sx lc d ea).dev.cur = s.dev.cur := by
  unfold State.scalarLoad
  split
  · exact State.trapData_cur ..
  · exact State.issueLoad_cur ..

@[simp] theorem State.vloadDest_cur (wd : Width) (d : BitVec 5) : (s.vloadDest wd d).2.dev.cur = s.dev.cur := by
  unfold State.vloadDest
  dsimp only
  split <;> rfl

@[simp] theorem State.issueAtomic_cur (kind : MemKind) (size : Nat) (lc ord : BitVec 2) (scope : BitVec 3) (d : BitVec 6) (ea : Nat)
    (hostOk : Bool) : (s.issueAtomic kind size lc ord scope d ea hostOk).dev.cur = s.dev.cur := by
  unfold State.issueAtomic
  split
  · exact State.trapData_cur ..
  · refine (State.andThen_cur _ fun u => ?_).trans ?_
    · exact (State.issueOp_cur ((u.drainAhead u.dev.cur.core (u.me.seq 1) [(ea, size)]).mkParts u.dev.cur.core .rmw hostOk
        [(ea, size)]).2 _).trans ((State.mkParts_cur ..).trans (State.drainAhead_cur ..))
    · split
      · refine (State.andThen_cur _ fun u => State.result_cur ..).trans ?_
        exact (State.andThen_cur _ fun u => State.result_cur ..).trans (State.result_cur ..)
      · exact State.result_cur ..

end

end Sys2Proof.Machine
/-! The rules for the cursor go on: the matrix unit, streams, synchronisation, engines and the supervisor's operations. -/

namespace Sys2Proof.Machine

open Sys2Proof.Claims

section
variable (s : State)

/-! ## Commands and micro-steps of the matrix unit -/

@[simp] theorem State.queueCmd_cur (i : Instr) (a b : W64) (v : V1024) (peer : Option Peer) :
    (s.queueCmd i a b v peer).dev.cur = s.dev.cur := by
  unfold State.queueCmd
  dsimp only
  refine (State.andThen_cur _ fun u => State.modMe_cur u _).trans ?_
  split
  · exact State.result_cur ..
  · rfl

@[simp] theorem State.microFail_cur (c : CoreId) (code : Nat) : (s.microFail c code).dev.cur = s.dev.cur := State.lateOn_cur ..

@[simp] theorem State.matFeed_cur (c : CoreId) : (s.matFeed c).dev.cur = s.dev.cur := by
  unfold State.matFeed
  dsimp only
  split
  · rfl
  · split
    · exact State.microFail_cur ..
    · split
      · exact State.microFail_cur ..
      · rfl

@[simp] theorem State.matTick_cur (c : CoreId) : (s.matTick c).dev.cur = s.dev.cur := by
  unfold State.matTick
  dsimp only
  have h : (if (s.core c).mat.idle then s.modCore c fun k => k.modMat fun m => { m with clk := (s.core c).mat.clk + 1 }
      else s.matClock c (s.core c).mat.clk 0).dev.cur = s.dev.cur := by
    split
    · rfl
    · exact cur_of_plan (plan_matClock ..)
  split
  · rfl
  · split
    · exact (State.matFeed_cur ..).trans h
    · exact h

/-! ## Control -/

@[simp] theorem State.transfer_cur (a : W64) (n : Nat) : (s.transfer a n).dev.cur = s.dev.cur := by
  unfold State.transfer
  split <;> rfl

theorem State.afterBundle_cur (va : W64) {f : W64 → State} (h : ∀ a, (f a).dev.cur = s.dev.cur) :
    (s.afterBundle va f).dev.cur = s.dev.cur := by
  unfold State.afterBundle
  split
  · rfl
  · exact State.trapData_cur ..
  · split
    · exact h _
    · rfl

@[simp] theorem State.pushLoop_cur (trip off : Nat) : (s.pushLoop trip off).dev.cur = s.dev.cur := by
  unfold State.pushLoop
  dsimp only
  split
  · rfl
  · split
    · exact State.afterBundle_cur _ _ fun _ => State.transfer_cur ..
    · rfl

@[simp] theorem State.overlayMark_cur (c : CoreId) (seg : Nat) : (s.overlayMark c seg).dev.cur = s.dev.cur := by
  unfold State.overlayMark
  dsimp only
  split
  · rfl
  · split
    · rfl
    · split <;> rfl

@[simp] theorem State.readTable_cur (own : List Syl) : (s.readTable own).dev.cur = s.dev.cur := by
  unfold State.readTable
  split <;> rfl

/-! ## Engines and streams -/

@[simp] theorem State.issueEng_cur (d : BitVec 6) (o : EngOp) : (s.issueEng d o).dev.cur = s.dev.cur := by
  unfold State.issueEng
  dsimp only
  split
  · split <;> rfl
  · split <;> rfl

@[simp] theorem copyIssue_cur (rec_ : Bool) (d a : BitVec 6) (ord acq rel : Bool) (scope : BitVec 3) :
    (copyIssue rec_ d a ord acq rel scope s).dev.cur = s.dev.cur := by
  unfold copyIssue
  dsimp only
  split
  · rfl
  · split
    · split <;> rfl
    · exact State.issueEng_cur ..

@[simp] theorem kvIssue_cur (kind : EngKind) (d a b : BitVec 6) (acq rel : Bool) (scope : BitVec 3) (bad : W64 → W64 → Bool)
    (range : State → W64 → W64 → Bool) (ls : W64 → W64 → Bool) :
    (kvIssue kind d a b acq rel scope bad range ls s).dev.cur = s.dev.cur := by
  unfold kvIssue
  dsimp only
  split
  · rfl
  · split
    · rfl
    · split
      · rfl
      · exact State.issueEng_cur ..

/-- Where a piece of a stream's entry lies, as `fetchPieces` finds it. -/
def State.piecePlace (s : State) (c : CoreId) (p : Nat × Nat) : Except Nat Nat × State :=
  let reach (s : State) (pa : Nat) : Except Nat Nat × State :=
    (if s.placeWaits (some c) (s.coreTenant c) pa then .error cWait else .ok pa, s)
  match rowOf p.1 with
  | .paged => match s.coreXlate c .read p.1 with
    | (.ok e, s) => reach s (s.placeOf e p.1)
    | (.error code, s) => (.error code, s)
  | .vault => reach s (vaultPlace p.1)
  | .ls => (.ok (lsAddr c (p.1 - Config.lsBase)), s)
  | .vlat => (.ok (vlatAddr c (p.1 - Config.vlatBase)), s)
  | .hole => (.error cDataUnmapped, s)

@[simp] theorem State.piecePlace_cur (c : CoreId) (p : Nat × Nat) : (s.piecePlace c p).2.dev.cur = s.dev.cur := by
  unfold State.piecePlace
  dsimp only
  have h := State.coreXlate_cur s c .read p.1
  split
  · split
    next u hu =>
      rw [hu] at h
      exact h
    next u hu =>
      rw [hu] at h
      exact h
  all_goals rfl

@[simp] theorem State.fetchPieces_cur (c : CoreId) (l : List (Nat × Nat)) : (State.fetchPieces c l s).2.dev.cur = s.dev.cur := by
  induction l generalizing s with
  | nil => rfl
  | cons p ps ih =>
    have hp := State.piecePlace_cur s c p
    unfold State.fetchPieces
    dsimp only
    split
    · exact hp
    · have h := (ih (s.piecePlace c p).2).trans hp
      split
      next u hu =>
        have hu : State.fetchPieces c ps (s.piecePlace c p).2 = _ := hu
        rw [hu] at h
        exact h
      next => exact h

@[simp] theorem State.fetchEntry_cur (va len : Nat) : (s.fetchEntry va len).2.dev.cur = s.dev.cur := by
  unfold State.fetchEntry
  split
  · rfl
  · refine (State.fetchPieces_cur ..).trans ?_
    split
    · exact State.drainAhead_cur ..
    · rfl

@[simp] theorem State.streamFetch_cur (slot : BitVec 3) : (s.streamFetch slot).dev.cur = s.dev.cur := by
  unfold State.streamFetch
  dsimp only
  split
  · rfl
  next i _ =>
    have h := State.fetchEntry_cur s ((s.me.ctx.streams.get slot.toFin).entryVa i) (s.me.ctx.streams.get slot.toFin).entryBytes
    refine Eq.trans (State.modMe_cur ..) ?_
    split
    · exact h
    · split
      · exact (State.logFault_cur ..).trans h
      · exact h

/-! ## Queues, barriers and step groups -/

@[simp] theorem State.countArrival_cur (n : BitVec 6) (task : Nat) (waits : Bool) :
    (s.countArrival n task waits).dev.cur = s.dev.cur := by
  unfold State.countArrival
  dsimp only
  split
  · rfl
  · split
    · rfl
    · split
      · rfl
      · exact State.testBarrier_cur ..

@[simp] theorem State.commitStep_cur (n : BitVec 5) : (s.commitStep n).dev.cur = s.dev.cur := by
  unfold State.commitStep
  dsimp only
  refine (State.modSg_cur ..).trans ((cur_foldl (fun u m => ?_) _ _).trans ((State.modZones_cur ..).trans
    (cur_foldl (fun _ _ => State.pokes_cur ..) _ s)))
  split
  · rfl
  · split
    · exact State.errorTo_cur ..
    · rfl

@[simp] theorem State.countStep_cur (n : BitVec 5) (task : Nat) (leave : Bool) : (s.countStep n task leave).dev.cur = s.dev.cur := by
  unfold State.countStep
  dsimp only
  split
  · rfl
  · split
    · split
      · exact State.modZones_cur ..
      · exact State.modZones_cur ..
    · have h (u : State) (hu : u.dev.cur = s.dev.cur) :
          (if (u.sg n).members.all (·.arrived) then u.commitStep n else u).dev.cur = s.dev.cur := by
        split
        · exact (State.commitStep_cur ..).trans hu
        · exact hu
      exact h _ (State.modSg_cur ..)

@[simp] theorem State.release_cur (d : Deferred) : (s.release d).dev.cur = s.dev.cur := by
  cases d with
  | put q w => rfl
  | arrive n task waits => exact State.countArrival_cur ..
  | stepArrive n task leave id => exact State.countStep_cur ..

@[simp] theorem State.runDefers_cur (c : CoreId) : (s.runDefers c).dev.cur = s.dev.cur := by
  refine cur_foldl_snd (fun r d => ?_) (s.core c).defer ([], s)
  split
  · exact State.release_cur ..
  · rfl

@[simp] theorem State.barWait_cur (hb : BitVec 6) : (s.barWait hb).dev.cur = s.dev.cur := by
  unfold State.barWait
  dsimp only
  split
  · exact State.resOutcome_cur ..
  · rfl
  · split
    · exact State.resOutcome_cur ..
    · split
      · rfl
      · split
        · exact State.resOutcome_cur ..
        · rfl

@[simp] theorem State.breakWaiters_cur (n : BitVec 6) : (s.breakWaiters n).dev.cur = s.dev.cur := by
  unfold State.breakWaiters
  dsimp only
  refine (State.modHb_cur ..).trans ?_
  split <;> rfl

@[simp] theorem State.stepEnds_cur (n : BitVec 5) (task : Nat) (bad : Bool) : (s.stepEnds n task bad).dev.cur = s.dev.cur :=
  State.resOutcome_cur ..

/-! ## Contexts and tasks -/

@[simp] theorem State.loadTask_cur (c : CoreId) : (s.loadTask c).dev.cur = s.dev.cur := by
  unfold State.loadTask
  split <;> rfl

@[simp] theorem State.switchOut_cur (c : CoreId) : (s.switchOut c).dev.cur = s.dev.cur := by
  unfold State.switchOut
  split <;> rfl

@[simp] theorem State.clearLatches_cur (c : CoreId) : (s.clearLatches c).dev.cur = s.dev.cur := by
  unfold State.clearLatches
  generalize List.range 4 = l
  exact cur_foldl (fun _ _ => cur_of_plan (plan_clearRange ..)) l s

@[simp] theorem State.endContext_cur (c : CoreId) (run : Run) : (s.endContext c run).dev.cur = s.dev.cur :=
  cur_of_plan (plan_endContext ..)

@[simp] theorem State.dropTiles_cur (t : TenantId) (n : Nat) : (s.dropTiles t n).dev.cur = s.dev.cur := cur_of_plan (plan_dropTiles ..)

@[simp] theorem State.taskEnds_cur (id : Nat) (killed : Bool) : (s.taskEnds id killed).dev.cur = s.dev.cur := by
  cases h : s.taskById id with
  | none =>
    unfold State.taskEnds
    rw [h]
  | some t => exact (cur_of_roster (taskEnds_roster s h killed)).trans (State.modTask_cur ..)

@[simp] theorem State.killTask_cur (id : Nat) : (s.killTask id).dev.cur = s.dev.cur := by
  unfold State.killTask
  split
  · rfl
  · split
    · rfl
    · refine (State.taskEnds_cur ..).trans ?_
      split
      · refine (State.endContext_cur ..).trans ?_
        split
        · exact State.dropTiles_cur ..
        · rfl
      · split
        · exact State.dropTiles_cur ..
        · rfl

@[simp] theorem State.reapHalted_cur (c : CoreId) : (s.reapHalted c).dev.cur = s.dev.cur := by
  unfold State.reapHalted
  dsimp only
  split
  · rfl
  · refine (State.emit_cur ..).trans ((State.modCore_cur ..).trans ?_)
    split
    · exact State.killTask_cur ..
    · rfl

end

/-! ## Save areas -/

/-- The computation keeps the cursor. -/
structure KeepsCur {α : Type} (m : Kv α) : Prop where
  run : ∀ s, (m.run s).2.dev.cur = s.dev.cur

namespace KeepsCur

theorem pure {α : Type} (a : α) : KeepsCur (Pure.pure a : Kv α) := ⟨fun _ => rfl⟩

theorem bind {α β : Type} {m : Kv α} {f : α → Kv β} (hm : KeepsCur m) (hf : ∀ a, KeepsCur (f a)) : KeepsCur (m >>= f) := by
  refine ⟨fun s => ?_⟩
  have h := hm.run s
  rcases e : m.run s with ⟨r, t⟩
  rw [e] at h
  have hb : (m >>= f).run s = (ExceptT.bindCont f r : StateM State (Except (Nat × Nat) β)) t := by
    have e1 : (m.run s).1 = r := by rw [e]
    have e2 : (m.run s).2 = t := by rw [e]
    rw [← e1, ← e2]
    rfl
  rw [hb]
  cases r with
  | ok a => exact ((hf a).run t).trans h
  | error x => exact h

theorem ask {α : Type} (f : State → α) : KeepsCur (kvAsk f) := ⟨fun _ => rfl⟩

theorem free : KeepsCur kvFree := ⟨fun _ => rfl⟩

/-- A change of a core. -/
theorem modCore {α : Type} (c : CoreId) (f : Core → Core) (a : α) : KeepsCur (fun s => (.ok a, s.modCore c f) : Kv α) :=
  ⟨fun _ => rfl⟩

theorem areaFail {α : Type} (c : CoreId) (t : TenantId) (f : Nat × Nat) (done : Nat) : KeepsCur (areaFail c t f done : Kv α) := by
  refine ⟨fun s => ?_⟩
  show (if f.1 = cMemwin then s.logFault t f.1 clsCore c.val f.2 else s).dev.cur = _
  split
  · exact State.logFault_cur ..
  · rfl

theorem areaPuts (c : CoreId) (t : TenantId) (ps : List (Nat × Nat)) (bs : List Byte) (done : Nat) :
    KeepsCur (areaPuts c t ps bs done) := by
  induction ps generalizing bs done with
  | nil => exact pure _
  | cons p ps ih =>
    refine ⟨fun s => ?_⟩
    show (match s.devWrite t p.1 (bs.take p.2) with
      | .ok s => Machine.areaPuts c t ps (bs.drop p.2) (done + p.2) s
      | .error f => Machine.areaFail c t f done s : Except (Nat × Nat) Nat × State).2.dev.cur = _
    split
    next u hu => exact ((ih _ _).run u).trans (State.devWrite_cur s hu)
    next f _ => exact (areaFail c t f done).run s

theorem areaPut (c : CoreId) (t : TenantId) (va : Nat) (bs : List Byte) (done : Nat) : KeepsCur (areaPut c t va bs done) :=
  areaPuts ..

theorem areaGets (c : CoreId) (t : TenantId) (ps : List (Nat × Nat)) (done : Nat) : KeepsCur (areaGets c t ps done) := by
  induction ps generalizing done with
  | nil => exact pure _
  | cons p ps ih =>
    refine ⟨fun s => ?_⟩
    show (match s.devRead t p.1 p.2 with
      | .ok bs => (do return bs ++ (← Machine.areaGets c t ps (done + p.2)) : Kv (List Byte)) s
      | .error f => Machine.areaFail c t f done s : Except (Nat × Nat) (List Byte) × State).2.dev.cur = _
    split
    next bs _ => exact (bind (ih _) fun _ => pure _).run s
    next f _ => exact (areaFail c t f done).run s

theorem areaGet (c : CoreId) (t : TenantId) (va n done : Nat) : KeepsCur (areaGet c t va n done) := areaGets ..

theorem granulesOut (c : CoreId) (t : TenantId) (base : Nat) (gs : List Nat) (done : Nat) :
    KeepsCur (granulesOut c t base gs done) := by
  induction gs generalizing done with
  | nil => exact pure _
  | cons g gs ih => exact bind (ask _) fun _ => bind (areaPut ..) fun _ => ih _

theorem saveContext (c : CoreId) (t : TenantId) : KeepsCur (saveContext c t) :=
  bind (ask _) fun _ => bind free fun _ => bind (areaPut ..) fun _ => granulesOut ..

theorem tilesOut (c : CoreId) (t : TenantId) (base : Nat) (ns : List Nat) (done : Nat) : KeepsCur (tilesOut c t base ns done) := by
  induction ns generalizing done with
  | nil => exact pure _
  | cons n ns ih =>
    refine bind (ask _) fun w => ?_
    split
    · exact bind (ask _) fun _ => bind (areaPut ..) fun _ => bind (modCore ..) fun _ => ih _
    · exact ih _

theorem latchesOut (c : CoreId) (t : TenantId) (base : Nat) (ns : List Nat) (done : Nat) :
    KeepsCur (latchesOut c t base ns done) := by
  induction ns generalizing done with
  | nil => exact pure _
  | cons n ns ih =>
    refine bind (ask _) fun k => ?_
    split
    · exact bind (ask _) fun _ => bind (areaPut ..) fun _ => ih _
    · exact ih _

theorem tileFileOut (c : CoreId) (t : TenantId) : KeepsCur (tileFileOut c t) :=
  bind (ask _) fun _ => bind (tilesOut ..) fun _ => bind (latchesOut ..) fun _ => bind (ask _) fun _ => areaPut ..

theorem tilesIn (c : CoreId) (t : TenantId) (base : Nat) (ws ns : List Nat) (done : Nat) :
    KeepsCur (tilesIn c t base ws ns done) := by
  induction ws generalizing ns done with
  | nil => exact pure _
  | cons w ws ih =>
    cases ns with
    | nil => exact pure _
    | cons n ns =>
      unfold Machine.tilesIn
      split
      · exact bind (areaGet ..) fun _ => bind ⟨fun s => State.pokes_cur s _ _⟩ fun _ => ih ..
      · exact ih ..

theorem latchesIn (c : CoreId) (t : TenantId) (base : Nat) (ns : List Nat) (done : Nat) : KeepsCur (latchesIn c t base ns done) := by
  induction ns generalizing done with
  | nil => exact pure _
  | cons n ns ih => exact bind (areaGet ..) fun _ => bind ⟨fun s => State.pokes_cur s _ _⟩ fun _ => ih _

theorem tileFileIn (c : CoreId) (t : TenantId) (done : Nat) : KeepsCur (tileFileIn c t done) := by
  refine bind (ask _) fun _ => bind (areaGet ..) fun _ => ?_
  dsimp only
  split
  · exact bind (areaGet ..) fun _ => bind (tilesIn ..) fun _ => bind (modCore ..) fun _ => latchesIn ..
  · exact ⟨fun s => (State.modCore_cur (s.clearLatches c) c Core.emptyTiles).trans (State.clearLatches_cur s c)⟩

theorem tileHandover (c : CoreId) (t : TenantId) : KeepsCur (tileHandover c t) := by
  refine bind (ask _) fun k => ?_
  have h (n : Nat) := bind (tileFileIn c t n) fun n => modCore c (fun k => k.takeTiles.syncSh) n
  split
  · exact pure _
  · dsimp only
    split
    · exact bind (tileFileOut ..) fun n => h n
    · exact bind (pure _) fun n => h n

theorem tileOut (c : CoreId) (t : TenantId) : KeepsCur (tileOut c t) := by
  refine bind (ask _) fun k => ?_
  dsimp only
  split
  · exact bind (tileFileOut ..) fun _ => modCore ..
  · exact bind (pure _) fun _ => modCore ..

end KeepsCur

end Sys2Proof.Machine
/-! No syllable, and no header, changes the cursor (log 1). -/

namespace Sys2Proof.Machine

open Sys2Proof.Claims

/-- A syllable keeps the cursor when what follows its checks does. -/
theorem syl_cur {x : Lent} {u : Uses} {body : State → State} (h : ∀ s, (body s).dev.cur = s.dev.cur) (s : State) :
    (syl x u body s).dev.cur = s.dev.cur := by
  unfold syl
  dsimp only
  split
  · rfl
  · split
    · rfl
    · split
      · rfl
      · split
        · rfl
        · refine (h _).trans ?_
          split <;> rfl

theorem matSyl_cur (x : Lent) (u : Uses) (owned : Bool) (i : Instr) (a b : State → W64) (v : State → V1024) (s : State) :
    (matSyl x u owned i a b v id s).dev.cur = s.dev.cur := by
  refine syl_cur (fun s => ?_) s
  dsimp only
  split
  · rfl
  · split
    · rfl
    · split
      · rfl
      · exact State.queueCmd_cur ..

theorem privSyl_cur {x : Lent} {u : Uses} {body : State → State} (h : ∀ s, (body s).dev.cur = s.dev.cur) (s : State) :
    (privSyl x u body s).dev.cur = s.dev.cur := by
  refine syl_cur (fun s => ?_) s
  split
  · rfl
  · exact h s

theorem sysSyl_cur {x : Lent} {u : Uses} {body : State → State} (h : ∀ s, (body s).dev.cur = s.dev.cur) (s : State) :
    (sysSyl x u body s).dev.cur = s.dev.cur := by
  refine privSyl_cur (fun s => ?_) s
  split
  · rfl
  · exact h s

/-- What an operation on the device keeps of the cursor. -/
theorem act_cur {f : State → State} {s t : State} (he : act f s = .next t) (h : (f s).dev.cur = s.dev.cur) : t.dev.cur = s.dev.cur := by
  obtain rfl := Host.Outcome.next.inj he
  exact h

/-- What `pmov pr` does to the predicates keeps the cursor. -/
theorem predsFrom_cur (v : W64) (u : State) :
    (forUpto 15 (fun i s => if s.me.run = .running then s.resP (BitVec.ofNat 4 (i + 1)) (bitAt v (i + 1)) else s) u).dev.cur =
      u.dev.cur :=
  cur_forUpto (fun i w => by split; exacts [State.resP_cur .., rfl]) _ u

/-- A scalar, memory or control syllable keeps the cursor. -/
theorem exec_cur_scalar {i : Instr} {s t : State} (hp : i.part = 0) (he : exec i s = .next t) : t.dev.cur = s.dev.cur := by
  cases i
  case add | sub | mul | mulh | mulhn | and | or | xor | andn | shl | shr | sra | rot | clz | popc | min | max | minn | maxn | sext | zext
      | pmovFrom | agen | lea | sel | addi | bfx | bfi | movi | movhi =>
    exact act_cur he (syl_cur (fun u => State.resS_cur u _ _ _) s)
  case div | divn | rem | remn => exact act_cur he (syl_cur (fun u => (State.result_cur (u.modMe _) _).trans rfl) s)
  case cmp | pop | cmpi => exact act_cur he (syl_cur (fun u => State.resP_cur u _ _) s)
  case pmovTo x a => exact act_cur he (syl_cur (fun u => predsFrom_cur (u.src a) u) s)
  case agset => exact act_cur he (syl_cur (fun u => State.resX_cur u _ _) s)
  case ld | ldacq => exact act_cur he (syl_cur (fun u => State.scalarLoad_cur u ..) s)
  case st x sz d a off =>
    refine act_cur he (syl_cur (fun u => ?_) s)
    dsimp only
    split
    · exact State.trapData_cur ..
    · exact State.store_cur ..
  case strel x sz lc scope d a off =>
    refine act_cur he (syl_cur (fun u => ?_) s)
    dsimp only
    split
    · exact State.trapData_cur ..
    · exact (State.settle_cur ..).trans (State.store_cur ..)
  case amo | cas | cas16 => exact act_cur he (syl_cur (fun u => State.issueAtomic_cur u ..) s)
  case pref x a off =>
    refine act_cur he (syl_cur (fun u => ?_) s)
    dsimp only
    split
    · exact State.mkPart_cur ..
    · rfl
  case br | bri | ret => exact act_cur he (syl_cur (fun u => State.transfer_cur u _ _) s)
  case brc x neg p disp =>
    refine act_cur he (syl_cur (fun u => ?_) s)
    split
    · exact State.transfer_cur ..
    · rfl
  case call | calli =>
    exact act_cur he (syl_cur (fun u => (State.andThen_cur u.link fun v => State.transfer_cur v _ _).trans (State.link_cur u)) s)
  case loop | loopx => exact act_cur he (syl_cur (fun u => State.pushLoop_cur u _ _) s)
  case brk x =>
    refine act_cur he (syl_cur (fun u => ?_) s)
    dsimp only
    split
    · rfl
    · split
      · rfl
      · exact State.afterBundle_cur _ _ fun a => State.transfer_cur (u.modMe _) a 3
  case bsel x a =>
    refine act_cur he (syl_cur (fun u => ?_) s)
    dsimp only
    split
    · rfl
    · exact State.transfer_cur ..
  case pause x cnt =>
    refine act_cur he (syl_cur (fun u => ?_) s)
    dsimp only
    split <;> split <;> rfl
  case exit x =>
    refine act_cur he (syl_cur (fun u => ?_) s)
    split <;> rfl
  case nop o a b c =>
    refine act_cur he ?_
    split
    · exact State.overlayMark_cur ..
    · rfl
  all_goals exact absurd hp (Nat.ne_of_beq_eq_false rfl)

/-- A vector syllable keeps the cursor. -/
theorem exec_cur_vector {i : Instr} {s t : State} (hp : i.part = 1) (he : exec i s = .next t) : t.dev.cur = s.dev.cur := by
  cases i
  case vadd | vsub | vmul | vfma | vfms | vmin | vmax | vabs | vneg | vand | vor | vxor | vshl | vshr | vsra | vrot | vsel | vmac16 | vdot4
      | vsadd | vssub | vred | vperm | vbcst | vins | vmov | vcvt | vpack | vunpk | vcvtq | vexp2 | vlog2 | vrcp | vrsq | vtanh =>
    rw [exec_vecRow_val rfl] at he
    exact act_cur he (syl_cur (fun u => State.resV_cur u _ _ _ _) s)
  case vcmp | vmsk => exact act_cur he (syl_cur (fun u => State.resM_cur u _ _ _ _) s)
  case vext => exact act_cur he (syl_cur (fun u => State.resR_cur u _ _ _) s)
  case vmaxe =>
    refine act_cur he (syl_cur (fun u => ?_) s)
    exact (State.andThen_cur _ fun v => State.resV_cur v _ _ _ _).trans (State.result_cur ..)
  case vrpb =>
    refine act_cur he (syl_cur (fun u => ?_) s)
    dsimp only
    split
    · rfl
    · exact State.resV_cur ..
  case vld =>
    refine act_cur he (syl_cur (fun u => ?_) s)
    dsimp only
    split
    · exact State.trapData_cur ..
    · exact (State.issueLoad_cur ..).trans (State.vloadDest_cur ..)
  case vlds =>
    refine act_cur he (syl_cur (fun u => ?_) s)
    dsimp only
    split
    · exact State.trapData_cur ..
    · exact (State.issueLoad_cur ..).trans (State.vloadDest_cur ..)
  case vst =>
    refine act_cur he (syl_cur (fun u => ?_) s)
    dsimp only
    split
    · exact State.trapData_cur ..
    · exact State.storeMany_cur ..
  case vsts =>
    refine act_cur he (syl_cur (fun u => ?_) s)
    dsimp only
    split
    · exact State.trapData_cur ..
    · exact State.storeMany_cur ..
  all_goals exact absurd hp (Nat.ne_of_beq_eq_false rfl)

end Sys2Proof.Machine
/-! An engine, transfer, synchronisation or privileged syllable keeps the cursor; with the scalar and vector ones, every syllable does. -/

namespace Sys2Proof.Machine

open Sys2Proof.Claims

/-- What goes on where nothing traps keeps the cursor. -/
theorem elseTrap_cur {c : Prop} [Decidable c] {s u v : State} {n : Nat} (hu : u.dev.cur = s.dev.cur) (h : v.dev.cur = s.dev.cur) :
    (if c then u.trapAt n else v).dev.cur = s.dev.cur := by
  split
  · exact hu
  · exact h

theorem elseTrapResource_cur {c : Prop} [Decidable c] {s v : State} (h : v.dev.cur = s.dev.cur) :
    (if c then s.trapResource else v).dev.cur = s.dev.cur := by
  split
  · exact State.trapResource_cur ..
  · exact h

/-- To settle the matrix unit's registers keeps the cursor. -/
theorem syncSh_cur {s v : State} (h : s.modMe Core.syncSh = v) : v.dev.cur = s.dev.cur := h ▸ rfl

section
variable {x : Lent} {s u : State}

/-! ## The matrix unit and the engines -/

theorem execMcall_cur {n : BitVec 6} (he : execMcall x n s = .next u) : u.dev.cur = s.dev.cur := by
  refine act_cur he (syl_cur (fun s => ?_) s)
  generalize hv : s.modMe Core.syncSh = v
  rw [← syncSh_cur hv]
  dsimp only
  exact elseTrap_cur rfl (elseTrap_cur rfl (State.queueCmd_cur ..))

theorem execMmap_cur {t : BitVec 3} {k ring : BitVec 2} {fa fb : BitVec 3} {a : BitVec 6} {sat : Bool}
    (he : execMmap x t k ring fa fb a sat s = .next u) : u.dev.cur = s.dev.cur := by
  refine act_cur he (syl_cur (fun s => ?_) s)
  generalize hv : s.modMe Core.syncSh = v
  rw [← syncSh_cur hv]
  dsimp only
  refine elseTrap_cur rfl (elseTrap_cur rfl ?_)
  split
  · rfl
  · split
    · exact (State.resOutcome_cur ..).trans ((State.countPair_cur _).trans (State.queueCmd_cur ..))
    · exact (State.resOutcome_cur ..).trans (State.countPair_cur _)
    · split
      · rfl
      · split <;> rfl

section
variable {d a b : BitVec 6}

theorem execKld_cur {acq rel : Bool} {scope : BitVec 3} (he : execKld x d a b acq rel scope s = .next u) : u.dev.cur = s.dev.cur := by
  refine act_cur he (syl_cur (fun s => ?_) s)
  generalize hv : s.modMe Core.syncSh = v
  rw [← syncSh_cur hv]
  dsimp only
  exact elseTrap_cur rfl (elseTrap_cur rfl (elseTrap_cur rfl (State.issueEng_cur ..)))

theorem execKalloc_cur {acq rel : Bool} {scope : BitVec 3} (he : execKalloc x d a b acq rel scope s = .next u) :
    u.dev.cur = s.dev.cur := by
  refine act_cur he (syl_cur (fun s => ?_) s)
  exact elseTrap_cur rfl (elseTrap_cur rfl (elseTrap_cur rfl (elseTrap_cur rfl (State.issueEng_cur ..))))

theorem execLogit_cur (he : execLogit x d a b s = .next u) : u.dev.cur = s.dev.cur := by
  refine act_cur he (syl_cur (fun s => ?_) s)
  generalize hv : s.modMe Core.syncSh = v
  rw [← syncSh_cur hv]
  dsimp only
  refine elseTrap_cur rfl (elseTrap_cur rfl (elseTrap_cur rfl ?_))
  split
  · rfl
  · exact elseTrap_cur rfl (State.issueEng_cur ..)

theorem execVerify_cur (he : execVerify x d a b s = .next u) : u.dev.cur = s.dev.cur := by
  refine act_cur he (syl_cur (fun s => ?_) s)
  exact elseTrap_cur rfl (elseTrap_cur rfl (elseTrap_cur rfl (State.issueEng_cur ..)))

theorem execMbox_cur (he : execMbox x d a b s = .next u) : u.dev.cur = s.dev.cur := by
  refine act_cur he (syl_cur (fun s => ?_) s)
  exact elseTrap_cur rfl (elseTrap_cur rfl (elseTrap_cur rfl (State.issueEng_cur ..)))

theorem execTmove_cur (he : execTmove x d a b s = .next u) : u.dev.cur = s.dev.cur := by
  refine act_cur he (syl_cur (fun s => ?_) s)
  exact elseTrap_cur rfl (elseTrap_cur rfl (State.issueEng_cur ..))

end

/-! ## Streams, queues and done rings -/

theorem execSbind_cur {slot vr : BitVec 3} {dir : Bool} {a : BitVec 6} (he : execSbind x slot vr dir a s = .next u) :
    u.dev.cur = s.dev.cur := by
  refine act_cur he (syl_cur (fun s => ?_) s)
  exact elseTrap_cur rfl (elseTrap_cur rfl (State.resX_cur ..))

theorem execSfree_cur {slot : BitVec 3} (he : execSfree x slot s = .next u) : u.dev.cur = s.dev.cur := by
  refine act_cur he (syl_cur (fun s => ?_) s)
  split
  · exact State.resX_cur ..
  · rfl

theorem execIxq_cur {slot : BitVec 3} {a : BitVec 6} (he : execIxq x slot a s = .next u) : u.dev.cur = s.dev.cur := by
  refine act_cur he (syl_cur (fun s => ?_) s)
  refine elseTrap_cur rfl ?_
  dsimp only
  have hf : (if 64 ≤ (s.me.ctx.streams.get slot.toFin).gq.length then s.streamFetch slot else s).dev.cur = s.dev.cur := by
    split
    · exact State.streamFetch_cur ..
    · rfl
  exact elseTrap_cur rfl hf

theorem execQput_cur {q : BitVec 8} {a : BitVec 6} (he : execQput x q a s = .next u) : u.dev.cur = s.dev.cur := by
  refine act_cur he (syl_cur (fun s => ?_) s)
  dsimp only
  split
  · split
    · rfl
    · exact State.trapResource_cur ..
  · refine elseTrap_cur rfl ?_
    split
    · rfl
    · refine (State.runDefers_cur ..).trans ((State.deferOn_cur ..).trans ?_)
      split
      · exact State.setSlot_cur ..
      · rfl

theorem execQget_cur {q : BitVec 8} {d : BitVec 6} (he : execQget x q d s = .next u) : u.dev.cur = s.dev.cur := by
  refine act_cur he (syl_cur (fun s => ?_) s)
  dsimp only
  split
  · split
    · rfl
    · exact State.trapResource_cur ..
  · refine elseTrap_cur rfl ?_
    split
    · refine (State.resR_cur ..).trans ?_
      split
      · exact State.setSlot_cur ..
      · rfl
    · rfl

theorem execCrwait_cur {dn : BitVec 8} {a d : BitVec 6} (he : execCrwait x dn a d s = .next u) : u.dev.cur = s.dev.cur := by
  refine act_cur he (syl_cur (fun s => ?_) s)
  refine elseTrapResource_cur ?_
  dsimp only
  split
  · rfl
  · exact State.resR_cur ..

/-! ## Barriers and step groups -/

/-- A syllable that names a barrier or a group keeps the cursor when what it does beyond the fault does. -/
theorem elseForeign_cur {o : Option Bool} {s v : State} (h : v.dev.cur = s.dev.cur) :
    (match o with
      | some foreign => if foreign then s.trapResource else s.trapAt cPerm
      | none => v).dev.cur = s.dev.cur := by
  split
  · exact elseTrapResource_cur rfl
  · exact h

theorem execBara_cur {n : BitVec 6} (he : execBara x n s = .next u) : u.dev.cur = s.dev.cur := by
  refine act_cur he (syl_cur (fun s => ?_) s)
  exact elseForeign_cur ((State.runDefers_cur ..).trans (State.deferOn_cur ..))

theorem execBarw_cur {n : BitVec 6} (he : execBarw x n s = .next u) : u.dev.cur = s.dev.cur := by
  refine act_cur he (syl_cur (fun s => ?_) s)
  exact elseForeign_cur (State.barWait_cur ..)

theorem execBarwA_cur {n : BitVec 6} (he : execBarwA x n s = .next u) : u.dev.cur = s.dev.cur := by
  refine act_cur he (syl_cur (fun s => ?_) s)
  refine elseForeign_cur ?_
  dsimp only
  split
  · exact State.barWait_cur ..
  · exact (State.barWait_cur ..).trans ((State.runDefers_cur ..).trans (State.deferOn_cur ..))

theorem execBarset_cur {n a b : BitVec 6} (he : execBarset x n a b s = .next u) : u.dev.cur = s.dev.cur := by
  refine act_cur he (syl_cur (fun s => ?_) s)
  refine elseTrapResource_cur (elseTrap_cur rfl (elseTrap_cur rfl (elseTrap_cur rfl ?_)))
  exact (State.testBarrier_cur ..).trans (State.breakWaiters_cur ..)

theorem execStepjoin_cur {n : BitVec 5} (he : execStepjoin x n s = .next u) : u.dev.cur = s.dev.cur := by
  refine act_cur he (syl_cur (fun s => ?_) s)
  dsimp only
  split
  · rfl
  · exact elseTrapResource_cur (elseTrap_cur rfl rfl)

theorem execStep_cur {n : BitVec 5} (he : execStep x n s = .next u) : u.dev.cur = s.dev.cur := by
  refine act_cur he (syl_cur (fun s => ?_) s)
  refine elseForeign_cur ?_
  have ha {c : Prop} [Decidable c] {v : Deferred} :
      (if c then s else (s.deferOn v).runDefers s.dev.cur.core).dev.cur = s.dev.cur := by
    split
    · rfl
    · exact (State.runDefers_cur ..).trans (State.deferOn_cur ..)
  dsimp only
  split
  · exact (State.stepEnds_cur ..).trans ha
  · exact (State.holdOn_cur ..).trans ha

theorem execStepleave_cur {n : BitVec 5} (he : execStepleave x n s = .next u) : u.dev.cur = s.dev.cur := by
  refine act_cur he (syl_cur (fun s => ?_) s)
  refine elseForeign_cur ?_
  dsimp only
  split
  · rfl
  · exact (State.runDefers_cur ..).trans (State.deferOn_cur ..)

/-! ## Privileged syllables -/

theorem execSeqbind_cur {a : BitVec 6} (he : execSeqbind x a s = .next u) : u.dev.cur = s.dev.cur := by
  refine act_cur he (syl_cur (fun s => ?_) s)
  exact elseTrap_cur rfl (elseTrap_cur rfl (State.resX_cur ..))

theorem execMfsr_cur {d : BitVec 6} {n : BitVec 8} (he : execMfsr x d n s = .next u) : u.dev.cur = s.dev.cur := by
  refine act_cur he (syl_cur (fun s => ?_) s)
  exact elseTrap_cur rfl (State.resR_cur ..)

theorem execMtsr_cur {a : SSrc} {n : BitVec 8} (he : execMtsr x a n s = .next u) : u.dev.cur = s.dev.cur := by
  refine act_cur he (syl_cur (fun s => ?_) s)
  exact elseTrap_cur rfl (State.resX_cur ..)

theorem execSyscall_cur {n : BitVec 16} (he : execSyscall x n s = .next u) : u.dev.cur = s.dev.cur := by
  refine act_cur he (syl_cur (fun s => ?_) s)
  rfl

theorem execEret_cur (he : execEret x s = .next u) : u.dev.cur = s.dev.cur := by
  refine act_cur he (privSyl_cur (fun s => ?_) s)
  exact elseTrap_cur rfl (State.loadTask_cur (s.modMe Core.returnToUser) _)

theorem execWfi_cur (he : execWfi x s = .next u) : u.dev.cur = s.dev.cur := by
  refine act_cur he (privSyl_cur (fun s => ?_) s)
  dsimp only
  have hw : (if s.isLoaded s.dev.cur.core then s.switchOut s.dev.cur.core else s).dev.cur = s.dev.cur := by
    split
    · exact State.switchOut_cur ..
    · rfl
  generalize (if s.isLoaded s.dev.cur.core then s.switchOut s.dev.cur.core else s) = v at hw ⊢
  have hd := State.endContext_cur v s.dev.cur.core .free
  generalize v.endContext s.dev.cur.core .free = w at hd ⊢
  exact hd.trans hw

theorem execHalt_cur (he : execHalt x s = .next u) : u.dev.cur = s.dev.cur := by
  refine act_cur he (privSyl_cur (fun s => ?_) s)
  exact State.reapHalted_cur (s.modMe _) _

theorem execCsave_cur {d : BitVec 6} (he : execCsave x d s = .next u) : u.dev.cur = s.dev.cur := by
  refine act_cur he (sysSyl_cur (fun s => ?_) s)
  exact (State.startSys_cur ..).trans ((State.switchOut_cur ..).trans ((KeepsCur.saveContext ..).run s))

theorem execTsave_cur {d : BitVec 6} (he : execTsave x d s = .next u) : u.dev.cur = s.dev.cur :=
  act_cur he (sysSyl_cur (fun s => (State.startSys_cur ..).trans ((KeepsCur.tileHandover ..).run s)) s)

theorem execTsaveOut_cur {d : BitVec 6} (he : execTsaveOut x d s = .next u) : u.dev.cur = s.dev.cur :=
  act_cur he (sysSyl_cur (fun s => (State.startSys_cur ..).trans ((KeepsCur.tileOut ..).run s)) s)

end

/-- A matrix, transfer, synchronisation or privileged syllable keeps the cursor. -/
theorem exec_cur_engine {i : Instr} {s t : State} (hs : i.syl.isSome = true) (hp : i.part = 2) (he : exec i s = .next t) :
    t.dev.cur = s.dev.cur := by
  cases i
  case tcfg | tcfgOff | tzero | trowmv | trowrd | tcolrd | mma | mlatch | mscl | mdrain | mpset | ringcfg | ringpop | ringpush | mpload =>
    exact act_cur he (matSyl_cur ..)
  case mmap => exact execMmap_cur he
  case mcall => exact execMcall_cur he
  case copy | copyc => exact act_cur he (syl_cur (fun _ => copyIssue_cur ..) s)
  case kst | kapp | kfree | kcommit | kdedup | kfork | kwin | kpin => exact act_cur he (syl_cur (fun _ => kvIssue_cur ..) s)
  case kld => exact execKld_cur he
  case kalloc => exact execKalloc_cur he
  case logit => exact execLogit_cur he
  case verify => exact execVerify_cur he
  case mbox => exact execMbox_cur he
  case tmove => exact execTmove_cur he
  case fenceAcq | fenceRel | fenceAr | drain =>
    exact act_cur he (syl_cur (fun _ => (State.settle_cur ..).trans (State.issueFence_cur ..)) s)
  case sbind => exact execSbind_cur he
  case sfree => exact execSfree_cur he
  case ixq => exact execIxq_cur he
  case qput => exact execQput_cur he
  case qget => exact execQget_cur he
  case crwait => exact execCrwait_cur he
  case bara => exact execBara_cur he
  case barw => exact execBarw_cur he
  case barwA => exact execBarwA_cur he
  case barset => exact execBarset_cur he
  case stepjoin => exact execStepjoin_cur he
  case step => exact execStep_cur he
  case stepleave => exact execStepleave_cur he
  case seqbind => exact execSeqbind_cur he
  case mfsr => exact execMfsr_cur he
  case mtsr => exact execMtsr_cur he
  case syscall => exact execSyscall_cur he
  case eret => exact execEret_cur he
  case csave => exact execCsave_cur he
  case tsave => exact execTsave_cur he
  case tsaveOut => exact execTsaveOut_cur he
  case crest | tlbinvPage | tlbinvTen | tlbinvAll => exact act_cur he (sysSyl_cur (fun _ => State.startSys_cur ..) s)
  case halt => exact execHalt_cur he
  case wfi => exact execWfi_cur he
  case add | sub | mul | mulh | mulhn | div | divn | rem | remn | and | or | xor | andn | shl | shr | sra | rot | clz | popc |
      min | max | minn | maxn | sext | zext | cmp | pop | pmovFrom | pmovTo | agen | agset | lea | sel | addi | cmpi | bfx | bfi
      | movi | movhi | ld | st | ldacq | strel | amo | cas | cas16 | pref | br | brc | bri | call | calli | ret | loop | loopx |
      brk | bsel | pause | exit | nop | vadd | vsub | vmul | vfma | vfms | vmin | vmax | vabs | vneg | vand | vor | vxor | vshl
      | vshr | vsra | vrot | vcmp | vsel | vmac16 | vdot4 | vsadd | vssub | vred | vperm | vbcst | vins | vext | vmov | vcvt |
      vpack | vunpk | vmaxe | vcvtq | vexp2 | vlog2 | vrcp | vrsq | vtanh | vrpb | vld | vst | vlds | vsts | vmsk =>
    exact absurd hp (Nat.ne_of_beq_eq_false rfl)
  all_goals exact absurd hs Bool.false_ne_true

/-- A syllable, or a header, keeps the cursor. -/
theorem exec_cur {i : Instr} {s t : State} (hs : i.syl.isSome = true) (he : exec i s = .next t) : t.dev.cur = s.dev.cur := by
  by_cases h0 : i.part = 0
  · exact exec_cur_scalar h0 he
  · by_cases h1 : i.part = 1
    · exact exec_cur_vector h1 he
    · refine exec_cur_engine hs ?_ he
      unfold Instr.part at h0 h1 ⊢
      split
      · next h => exact absurd (if_pos h) h0
      · next h =>
        rw [if_neg h] at h1
        split
        · next h' => exact absurd (if_pos h') h1
        · rfl

end Sys2Proof.Machine
/-! What the device reads does not depend on whose turn it is (log 1), nor on which queue of a worker had the turn before (R343). -/

namespace Sys2Proof.Machine

open Sys2Proof.Claims

/-- What a queue's turn changes before its command runs: the tape, the cursor, and which queue of the worker runs last. -/
def State.queueGoes (s : State) (ts : List Turn) (w : Who) (t : TenantId) (f : Vector QueueId 6 → Vector QueueId 6) : State :=
  (turnOf s ts w).modTenant t fun x => { x with last := f x.last }

section
variable (s : State) (ts : List Turn) (w : Who) (r : TenantId) (f : Vector QueueId 6 → Vector QueueId 6)

theorem State.queueGoes_tenant (t : TenantId) : ∃ l, (s.queueGoes ts w r f).tenant t = { s.tenant t with last := l } := by
  by_cases h : r = t
  · subst h
    exact ⟨_, State.tenant_modTenant_same ..⟩
  · exact ⟨(s.tenant t).last, vector_get_set_ne _ _ (Ne.symm h)⟩

theorem State.queueGoes_keyAt (a : Nat) : (s.queueGoes ts w r f).keyAt a = s.keyAt a := by
  have hk (t : TenantId) : ((s.queueGoes ts w r f).tenant t).mkeys = (s.tenant t).mkeys := by
    obtain ⟨l, h⟩ := s.queueGoes_tenant ts w r f t
    rw [h]
  exact congrArg (fun v : Vector (BitVec 512) 16 => v.get _) (hk _)

theorem State.queueGoes_peek (a : Nat) : (s.queueGoes ts w r f).peek a = s.peek a := by
  unfold State.peek
  rw [State.queueGoes_keyAt]
  rfl

theorem State.queueGoes_inWindow (t : TenantId) (tier peer lo hi : Nat) :
    (s.queueGoes ts w r f).inWindow t tier peer lo hi = s.inWindow t tier peer lo hi := by
  obtain ⟨l, h⟩ := s.queueGoes_tenant ts w r f t
  simp only [State.inWindow, h]

theorem State.queueGoes_leafOk (t : TenantId) (e : TlbEntry) (acc : Acc) :
    (s.queueGoes ts w r f).leafOk t e acc = s.leafOk t e acc := by
  obtain ⟨l, h⟩ := s.queueGoes_tenant ts w r f t
  unfold State.leafOk
  rw [h]
  rfl

theorem State.queueGoes_peeks (a n : Nat) : (s.queueGoes ts w r f).peeks a n = s.peeks a n :=
  congrArg (addrs a n).map (funext (s.queueGoes_peek ts w r f))

theorem State.queueGoes_walkFrom (t : TenantId) (acc : Acc) (va n lv tb : Nat) :
    (s.queueGoes ts w r f).walkFrom t acc va n lv tb = s.walkFrom t acc va n lv tb := by
  induction n generalizing lv tb with
  | zero => rfl
  | succ n ih => simp only [State.walkFrom, State.queueGoes_inWindow, State.peekNat, State.queueGoes_peeks, ih]; rfl

theorem State.queueGoes_walk (t : TenantId) (acc : Acc) (va : Nat) : (s.queueGoes ts w r f).walk t acc va = s.walk t acc va := by
  obtain ⟨l, h⟩ := s.queueGoes_tenant ts w r f t
  unfold State.walk
  simp only [h, State.queueGoes_walkFrom]

theorem State.queueGoes_missWaits (t : TenantId) (va : Nat) : (s.queueGoes ts w r f).missWaits t va = s.missWaits t va := rfl

theorem State.queueGoes_xlatePaged (t : TenantId) (acc : Acc) (va : Nat) :
    (s.queueGoes ts w r f).xlatePaged t acc va = s.xlatePaged t acc va := by
  unfold State.xlatePaged
  rw [State.queueGoes_walk, State.queueGoes_missWaits]
  simp only [State.queueGoes_leafOk]
  rfl

theorem State.queueGoes_zone (n : BitVec 6) : (s.queueGoes ts w r f).zone n = s.zone n := rfl

theorem State.queueGoes_zoneAt (a len : Nat) : (s.queueGoes ts w r f).zoneAt a len = s.zoneAt a len := by
  simp only [State.zoneAt, State.queueGoes_zone]
  rfl

theorem State.queueGoes_placeOf (e : TlbEntry) (va : Nat) : (s.queueGoes ts w r f).placeOf e va = s.placeOf e va := rfl

theorem State.queueGoes_engPlace (t : TenantId) (core : Option CoreId) (acc : Acc) (va : Nat) :
    (s.queueGoes ts w r f).engPlace t core acc va = s.engPlace t core acc va := by
  have reach (p : Nat) : (if (s.queueGoes ts w r f).placeWaits core t p then (.error cWait : Except Nat Nat) else .ok p) =
      if s.placeWaits core t p then .error cWait else .ok p := rfl
  unfold State.engPlace
  cases rowOf va with
  | paged => simp only [State.queueGoes_xlatePaged, State.queueGoes_placeOf]; rfl
  | vault =>
    simp only [State.queueGoes_zoneAt, State.queueGoes_zone, reach]
    exact ite_congr rfl (fun _ => rfl) fun _ => by cases s.zoneAt va 1 <;> rfl
  | ls => rfl
  | vlat => rfl
  | hole => rfl

theorem State.queueGoes_engSpan (t : TenantId) (core : Option CoreId) (acc : Acc) (va len : Nat) :
    (s.queueGoes ts w r f).engSpan t core acc va len = s.engSpan t core acc va len := by
  simp only [State.engSpan, State.queueGoes_engPlace]

theorem State.queueGoes_shownBytes (v : View) (va pa len : Nat) :
    (s.queueGoes ts w r f).shownBytes v va pa len = s.shownBytes v va pa len := by
  unfold State.shownBytes State.shownByte
  simp only [State.queueGoes_peeks, State.queueGoes_peek]
  rfl

theorem State.queueGoes_readAs (v : View) (t : TenantId) (va len : Nat) :
    (s.queueGoes ts w r f).readAs v t va len = s.readAs v t va len := by
  unfold State.readAs
  simp only [State.queueGoes_engSpan, State.queueGoes_zoneAt, State.queueGoes_zone,
    State.queueGoes_shownBytes]

theorem State.queueGoes_devNat (t : TenantId) (va len : Nat) :
    (s.queueGoes ts w r f).devNat t va len = s.devNat t va len := by
  unfold State.devNat State.devRead
  rw [State.queueGoes_readAs]

end

section
variable (s : State) (ts : List Turn) (w : Who) (r : TenantId) (f : Vector QueueId 6 → Vector QueueId 6)

theorem State.queueGoes_arenaVa (t : TenantId) (n : Nat) : (s.queueGoes ts w r f).arenaVa t n = s.arenaVa t n := by
  obtain ⟨l, h⟩ := s.queueGoes_tenant ts w r f t
  unfold State.arenaVa
  rw [h]

theorem State.queueGoes_numAs (a : KvAs) (va len : Nat) : (s.queueGoes ts w r f).numAs a va len = s.numAs a va len := by
  unfold State.numAs
  rw [State.queueGoes_readAs]

theorem State.queueGoes_recordVa (k : SamplerId) (q : SeqKey) : (s.queueGoes ts w r f).recordVa k q = s.recordVa k q := by
  unfold State.recordVa
  rw [State.queueGoes_numAs, State.queueGoes_arenaVa]

theorem State.queueGoes_treeOf (q : SeqKey) : (s.queueGoes ts w r f).treeOf q = s.treeOf q := rfl

/-- What a record makes of a round does not depend on whose turn it is. -/
theorem State.queueGoes_openRound {α : Type} (g : Round → Bool → α) (d : α) (k : SamplerId) (q : SeqKey) (b : Nat) :
    (match (s.queueGoes ts w r f).openRound k q b with | .ok (x, bad, _) => g x bad | .error _ => d) =
      match s.openRound k q b with | .ok (x, bad, _) => g x bad | .error _ => d := by
  unfold State.openRound
  dsimp only
  rw [State.queueGoes_readAs, State.queueGoes_treeOf]
  cases s.readAs (smpAs k q.tenant).v (smpAs k q.tenant).t b (if (s.treeOf q).isSome then 0x600 else 0x200) <;> rfl

theorem State.queueGoes_takeDraws (k : SamplerId) (n : Nat) : (s.queueGoes ts w r f).takeDraws k n = s.takeDraws k n := by
  have he : (s.queueGoes ts w r f).engOp n = s.engOp n := rfl
  have hr (q : SeqKey) : (s.queueGoes ts w r f).roundOf k q = s.roundOf k q := rfl
  unfold State.takeDraws
  simp only [he, hr, State.queueGoes_recordVa]
  cases s.engOp n with
  | none => rfl
  | some o =>
    refine congrArg (bitAt o.b 0 && ·) ?_
    cases s.roundOf k (seqKey o.tenant o.kvslot) with
    | some x => rfl
    | none =>
      cases s.recordVa k (seqKey o.tenant o.kvslot) with
      | error e => rfl
      | ok b => exact s.queueGoes_openRound ts w r f (fun x bad => !bad && (!x.pipon && x.mode != 0)) false k _ b

theorem State.queueGoes_eventSlots (i : Instr) (v : Who) : (s.queueGoes ts w r f).eventSlots i v = s.eventSlots i v := by
  have hr : (s.queueGoes ts w r f).ringTenant = s.ringTenant := rfl
  have hj : (s.queueGoes ts w r f).jobTenant = s.jobTenant := rfl
  have ho : (s.queueGoes ts w r f).opTenant = s.opTenant := rfl
  have hd : (s.queueGoes ts w r f).takeDraws = s.takeDraws := funext fun k => funext fun n => s.queueGoes_takeDraws ts w r f k n
  have hc : (s.queueGoes ts w r f).dev.decs = s.dev.decs := rfl
  have he : (s.queueGoes ts w r f).dev.encs = s.dev.encs := rfl
  have hw : (s.queueGoes ts w r f).dev.walks = s.dev.walks := rfl
  unfold State.eventSlots
  rw [hr, hj, ho, hd, hc, he, hw]

theorem State.queueGoes_slotAllows (i : Instr) (v : Who) : (s.queueGoes ts w r f).slotAllows i v = s.slotAllows i v := by
  unfold State.slotAllows
  rw [State.queueGoes_eventSlots]
  rfl

theorem State.queueGoes_scEvent (i : Instr) (v : Who) : (s.queueGoes ts w r f).scEvent i v = s.scEvent i v := by
  unfold State.scEvent
  congr 1

end

/-- Another tape and cursor alone. -/
theorem turnOf_eq_queueGoes (s : State) (ts : List Turn) (w : Who) : turnOf s ts w = s.queueGoes ts w 0 id := by
  unfold State.queueGoes State.modTenant State.upd
  have h : (turnOf s ts w).dev.tenants.set 0 ((turnOf s ts w).dev.tenants.get 0) = (turnOf s ts w).dev.tenants :=
    Vector.set_getElem_self ..
  exact (congrArg (fun v => { turnOf s ts w with dev := { (turnOf s ts w).dev with tenants := v } }) h).symm

end Sys2Proof.Machine
/-! A queue's turn runs the command at CPC (R343, R349), a sampler's the Pip word of its round (R269), an event's the event (log 1). -/

namespace Sys2Proof

/-- The first word of a command's encoding encodes a command itself: it is the same one, or, with X = 1, one whose extension is 0. -/
theorem cmd_firstWord {i : Instr} {m : Nat} (h : i.cmd = some m) (hw : i.wf = true) :
    ∃ j : Instr, j.cmd = some (m % 2 ^ 32) ∧ j.wf = true := by
  have same (hlt : m < 2 ^ 32) : ∃ j : Instr, j.cmd = some (m % 2 ^ 32) ∧ j.wf = true :=
    ⟨i, by rw [Nat.mod_eq_of_lt hlt, h], hw⟩
  cases i
  case cmoviExt d ext =>
    refine ⟨.cmoviExt d 0, congrArg some ?_, hw⟩
    obtain rfl := Option.some.inj h
    simp [pk]
    omega
  case caddImm d a ext =>
    refine ⟨.caddImm d a 0, congrArg some ?_, hw⟩
    obtain rfl := Option.some.inj h
    simp [pk]
    omega
  case csubImm d a ext =>
    refine ⟨.csubImm d a 0, congrArg some ?_, hw⟩
    obtain rfl := Option.some.inj h
    simp [pk]
    omega
  case candImm d a ext =>
    refine ⟨.candImm d a 0, congrArg some ?_, hw⟩
    obtain rfl := Option.some.inj h
    simp [pk]
    omega
  case corImm d a ext =>
    refine ⟨.corImm d a 0, congrArg some ?_, hw⟩
    obtain rfl := Option.some.inj h
    simp [pk]
    omega
  case ccmpImm d a ext c =>
    refine ⟨.ccmpImm d a 0 c, congrArg some ?_, hw⟩
    obtain rfl := Option.some.inj h
    simp [pk]
    omega
  case cmov | cmovi | cadd | csub | cand | cor | ccmp | cbr | cloop | ccall | ccallIndirect | cret | cld | cldR | cst | cstR | cwait
      | csigSet | csigAdd | claunch | cseg | ccopy | ccopyC | cfenceCopy | cfenceLaunch | cfenceAll | ctime | crungRd | crungSet | cint
      | chalt =>
    exact same (spells_of_pk h (by simp [Fits, ↓toNat_lt])).1
  all_goals exact absurd h nofun

/-- What decodes as a command is the encoding of it. -/
theorem decodeCommand_ok {n : Nat} {i : Instr} (h : decodeCommand n = .ok i) :
    i.cmd = some (if flag n 26 then n % 2 ^ 96 else n % 2 ^ 32) ∧ i.wf = true := by
  unfold decodeCommand at h
  dsimp only at h
  generalize (if flag n 26 then n % 2 ^ 96 else n % 2 ^ 32) = m at h ⊢
  cases hj : rawCommand m with
  | none => exact absurd (hj ▸ h) nofun
  | some j =>
    simp only [hj] at h
    split at h
    · next hw =>
      obtain rfl := Except.ok.inj h
      simp only [Bool.and_eq_true, beq_iff_eq] at hw
      exact hw.symm
    · exact absurd h nofun

/-- The first word of a command decodes itself (R349). -/
theorem decodeCommand_firstWord {n : Nat} {i : Instr} (h : decodeCommand n = .ok i) : ∃ j, decodeCommand (n % 2 ^ 32) = .ok j := by
  obtain ⟨hc, hw⟩ := decodeCommand_ok h
  obtain ⟨j, hj, hjw⟩ := cmd_firstWord hc hw
  have he : (if flag n 26 then n % 2 ^ 96 else n % 2 ^ 32) % 2 ^ 32 = n % 2 ^ 32 := by split <;> omega
  exact ⟨j, decodeCommand_of_cmd hjw (he ▸ hj)⟩

end Sys2Proof

namespace Sys2Proof.Machine

open Sys2Proof.Claims

/-- The first turn of the tape is the one that is taken, and on a device that is on it does its work. -/
theorem step_of_tape {s : State} {t : Turn} {ts : List Turn} (h : s.dev.turns = t :: ts) :
    step s = (turnOf s ts s.dev.cur).runTurn t := by
  unfold step State.takeTurn
  rw [h]
  rfl

theorem step_of_on {s : State} {t : Turn} {ts : List Turn} (h : s.dev.turns = t :: ts) (ho : s.dev.board.off = false) :
    step s = (turnOf s ts s.dev.cur).turnOn t := by
  rw [step_of_tape h]
  have ho' : (turnOf s ts s.dev.cur).dev.board.off = false := ho
  unfold State.runTurn
  rw [ho']
  rfl

theorem gate_of_not_contended {s : State} {t : Turn} {f : State → Out} (h : s.contended = false) : s.gate t f = f s := by
  unfold State.gate
  rw [h]
  rfl

/-- The command that the bytes at CPC spell is the one fetched (R349). -/
theorem cmdFetch_ok {s : State} {t : TenantId} {q : QueueId} {n w : Nat} {i : Instr} (hpc : (s.cq t q).cpc.toNat % 4 = 0)
    (hw : s.devNat t (s.cq t q).cpc.toNat 4 = .ok w) (h4 : commandBytes w = 4 → n = w)
    (h12 : commandBytes w = 12 → s.devNat t (s.cq t q).cpc.toNat 12 = .ok n ∧ n % 2 ^ 32 = w) (hd : decodeCommand n = .ok i) :
    s.cmdFetch t q = .ok i := by
  unfold State.cmdFetch
  simp only [hpc, ne_eq, not_true_eq_false, ↓reduceIte, hw]
  by_cases hb : commandBytes w = 4
  · obtain rfl := h4 hb
    simp only [hd, hb, ↓reduceIte]
  · have hb' : commandBytes w = 12 := by
      unfold commandBytes at hb ⊢
      split <;> simp_all
    obtain ⟨hn, rfl⟩ := h12 hb'
    obtain ⟨j, hj⟩ := decodeCommand_firstWord hd
    simp only [hj, hb, ↓reduceIte, hn, hd]

/-- A queue's turn in its slot runs the command at CPC. -/
theorem step_queue {s : State} {ts : List Turn} {t : TenantId} {q : QueueId} {n w : Nat} {i : Instr}
    (ht : s.dev.turns = .queue t q :: ts) (ho : s.dev.board.off = false) (hc : s.contended = false) (hs : s.served 5 t = true)
    (hq : s.hasTurn t q = true) (hpc : (s.cq t q).cpc.toNat % 4 = 0) (hw : s.devNat t (s.cq t q).cpc.toNat 4 = .ok w)
    (h4 : commandBytes w = 4 → n = w)
    (h12 : commandBytes w = 12 → s.devNat t (s.cq t q).cpc.toNat 12 = .ok n ∧ n % 2 ^ 32 = w) (hd : decodeCommand n = .ok i) :
    step s = exec i (s.queueGoes ts { s.dev.cur with t := t, q := q } t fun l =>
      l.set (s.cq t q).worker.val q (s.cq t q).worker.isLt) := by
  rw [step_of_on ht ho]
  have hf : (s.queueGoes ts { s.dev.cur with t := t, q := q } t fun l =>
      l.set (s.cq t q).worker.val q (s.cq t q).worker.isLt).cmdFetch t q = .ok i :=
    cmdFetch_ok hpc (by rw [State.queueGoes_devNat]; exact hw) h4 (fun h => by rw [State.queueGoes_devNat]; exact h12 h) hd
  have hs' : (turnOf s ts { s.dev.cur with t := t, q := q }).served 5 t = true := hs
  have hq' : (turnOf s ts { s.dev.cur with t := t, q := q }).hasTurn t q = true := hq
  change (if (!(turnOf s ts { s.dev.cur with t := t, q := q }).served 5 t ||
    !(turnOf s ts { s.dev.cur with t := t, q := q }).hasTurn t q) = true then _ else State.gate _ _ _) = _
  rw [hs', hq']
  refine (if_neg Bool.false_ne_true).trans ?_
  refine (gate_of_not_contended (s := s.queueGoes ts { s.dev.cur with t := t, q := q } t fun l =>
    l.set (s.cq t q).worker.val q (s.cq t q).worker.isLt) hc).trans ?_
  dsimp only
  rw [hf]

/-- A queue's turn out of its slot, or before its time, does nothing. -/
theorem step_queue_idle {s : State} {ts : List Turn} {t : TenantId} {q : QueueId}
    (ht : s.dev.turns = .queue t q :: ts) (ho : s.dev.board.off = false) (h : s.served 5 t = false ∨ s.hasTurn t q = false) :
    step s = .next (turnOf s ts { s.dev.cur with t := t, q := q }) := by
  rw [step_of_on ht ho]
  refine if_pos ?_
  change (!s.served 5 t || !s.hasTurn t q) = true
  obtain h | h := h <;> simp [h]

/-- A sampler's turn in which nothing holds it runs the next word of its program. -/
theorem samplerTurn_runs {s v : State} {k : SamplerId} {j : Job} {i : Instr} (hv : s.withCur { s.dev.cur with k := k } = v)
    (hc : v.contended = false) (hh : v.scHolds j.op = false) (hj : (v.dev.samplers.get k).job = some j)
    (hs : ∀ cls, v.pipClass k = some cls → v.served cls (tid j.key.tenant) = true) (hn : v.pipNext k = some i) :
    s.samplerTurn k = exec i v := by
  unfold State.samplerTurn
  simp only [hv, hn, gate_of_not_contended hc, State.samplerTenant, hj, Option.map_some, Option.any_some, hh, Bool.or_false]
  refine if_neg ?_
  simp only [Bool.not_eq_true', Bool.not_eq_false]
  cases hp : v.pipClass k with
  | none => rfl
  | some c => exact hs c hp

theorem pipNext_eq {s : State} {k : SamplerId} {j : Job} {r : Round} {i : Instr} (hj : (s.dev.samplers.get k).job = some j)
    (hr : s.roundOf k j.key = some r) (hd : decodePip (r.prog.getD j.pip 0) = .ok i) : s.pipNext k = some i := by
  unfold State.pipNext
  simp only [hj, hr, nth, hd]

/-- A sampler's turn in its slot runs the Pip word of its round. -/
theorem step_sampler {s : State} {ts : List Turn} {k : SamplerId} {j : Job} {r : Round} {i : Instr}
    (ht : s.dev.turns = .sampler k :: ts) (ho : s.dev.board.off = false) (hc : s.contended = false) (hh : s.scHolds j.op = false)
    (hj : (s.dev.samplers.get k).job = some j) (hr : s.roundOf k j.key = some r)
    (hs : ∀ cls, s.pipClass k = some cls → s.served cls (tid j.key.tenant) = true) (hd : decodePip (r.prog.getD j.pip 0) = .ok i) :
    step s = exec i (turnOf s ts { s.dev.cur with k := k }):= by
  rw [step_of_on ht ho]
  have hc' : (turnOf s ts { s.dev.cur with k := k }).contended = false := hc
  have hh' : (turnOf s ts { s.dev.cur with k := k }).scHolds j.op = false := hh
  have hn : (turnOf s ts { s.dev.cur with k := k }).pipNext k = some i := pipNext_eq (j := j) hj hr hd
  have hs' : ∀ cls, (turnOf s ts { s.dev.cur with k := k }).pipClass k = some cls →
    (turnOf s ts { s.dev.cur with k := k }).served cls (tid j.key.tenant) = true := hs
  exact samplerTurn_runs (s := turnOf s ts s.dev.cur) (j := j) rfl hc' hh' hj hs' hn

/-- An event that no turn must wait for happens in its slot alone. -/
theorem eventTurn_runs {s : State} {i : Instr} {w : Who} (hi : i.isEvent = true) (hc : (s.withCur w).contended = false) :
    s.eventTurn i w = if (s.withCur w).slotAllows i w = true ∧ (s.withCur w).scEvent i w = false then exec i (s.withCur w)
      else .next (s.withCur w) := by
  unfold State.eventTurn
  simp only [hi, gate_of_not_contended hc, Bool.not_true, Bool.false_eq_true, ↓reduceIte, Bool.and_eq_true, Bool.not_eq_true']

/-- An event's turn in its slot runs the event. -/
theorem step_event {s : State} {ts : List Turn} {i : Instr} {w : Who} (ht : s.dev.turns = .event i w :: ts)
    (ho : s.dev.board.off = false) (hc : s.contended = false) (hi : i.isEvent = true) :
    step s = if s.slotAllows i w = true ∧ s.scEvent i w = false then exec i (turnOf s ts w) else .next (turnOf s ts w) := by
  rw [step_of_on ht ho]
  have hv : (turnOf s ts s.dev.cur).withCur w = s.queueGoes ts w 0 id := turnOf_eq_queueGoes s ts w
  have hr := eventTurn_runs (s := turnOf s ts s.dev.cur) (w := w) hi (hv ▸ hc)
  rw [hv, State.queueGoes_slotAllows, State.queueGoes_scEvent, ← turnOf_eq_queueGoes] at hr
  exact hr

/-- On a device that is off only DTIME goes on, until a power-on reset. -/
theorem step_off {s : State} {t : Turn} {ts : List Turn} (ht : s.dev.turns = t :: ts) (ho : s.dev.board.off = true) :
    ((∀ b w, t ≠ .event (.powerOnReset b) w) → (∀ ns, t ≠ .time ns) → step s = .next (turnOf s ts s.dev.cur)) ∧
      (∀ ns, t = .time ns → step s = .next ((turnOf s ts s.dev.cur).modBoard fun b => { b with dtime := b.dtime + ns })) := by
  rw [step_of_tape ht]
  have ho' : (turnOf s ts s.dev.cur).dev.board.off = true := ho
  unfold State.runTurn
  rw [ho']
  refine ⟨fun hp hn => ?_, ?_⟩
  · have hw : t.whileOff = false := by
      unfold Turn.whileOff
      split
      · exact absurd rfl (hp _ _)
      · exact absurd rfl (hn _)
      · rfl
    rw [hw]
    rfl
  · rintro ns rfl
    change Host.Outcome.next (State.pass _ ns) = _
    unfold State.pass
    rw [ho']
    rfl

end Sys2Proof.Machine
/-! A core's turn runs the syllable, or the header, of a bundle of one word (R99 to R107, R119; log 1). -/

namespace Sys2Proof.Machine

open Sys2Proof.Claims

/-! ## The checks of a bundle of one word (R103 to R105) -/

theorem majorOf_eq (w : BitVec 32) : majorOf w = w.toNat % 2 ^ 31 / 2 ^ 27 := by
  unfold majorOf fieldNat
  rw [Nat.shiftRight_eq_div_pow]
  omega

/-- A syllable's word is of a major that has syllables. -/
theorem majorOf_le_of_syllable {w : BitVec 32} {e : Byte} {i : Instr} (h : decodeSyllable w e = .ok i) : majorOf w ≤ 12 := by
  rw [majorOf_eq]
  unfold decodeSyllable at h
  dsimp only at h
  split at h
  · exact absurd h nofun
  · split at h
    · exact absurd h nofun
    · have := w.isLt
      omega

/-- A word that decodes as a syllable encodes one. -/
theorem syl_of_decode {w : BitVec 32} {e : Byte} {i : Instr} (h : decodeSyllable w e = .ok i) :
    i.syl.isSome = true ∧ (rawSyllable (w.toNat % 2 ^ 31) (lentOf e)).isSome = true := by
  unfold decodeSyllable at h
  dsimp only at h
  split at h
  · exact absurd h nofun
  · split at h
    · exact absurd h nofun
    · cases hr : rawSyllable (w.toNat % 2 ^ 31) (lentOf e) with
      | none => rw [hr] at h; exact absurd h nofun
      | some j =>
        rw [hr] at h
        dsimp only at h
        split at h
        · next hw =>
          obtain rfl := Except.ok.inj h
          simp only [Bool.and_eq_true, beq_iff_eq] at hw
          exact ⟨by rw [hw.1.2]; rfl, rfl⟩
        · exact absurd h nofun

theorem widthOf_lt {n lo : Nat} (h : (Sys2Proof.widthOf n lo).isSome = true) : n / 2 ^ lo % 4 < 3 := by
  by_contra hn
  have h3 : n / 2 ^ lo % 4 = 3 := by omega
  unfold Sys2Proof.widthOf at h
  rw [h3] at h
  exact absurd h nofun

/-- A raw reading that begins with a width has one. -/
theorem isSome_of_bind {α β : Type} {o : Option α} {f : α → Option β} (h : (o >>= f).isSome = true) : o.isSome = true := by
  cases o with
  | none => exact h
  | some a => rfl

/-- A width field of a word, which its top bit does not touch. -/
theorem width_of_field {w : BitVec 32} {lo : Nat} (hlo : lo = 20 ∨ lo = 21 ∨ lo = 22) (h : w.toNat % 2 ^ 31 / 2 ^ lo % 4 < 3) :
    256 * 2 ^ fieldNat w lo 2 ≤ 1024 := by
  have he : fieldNat w lo 2 = w.toNat % 2 ^ 31 / 2 ^ lo % 4 := by
    rw [fieldNat, Nat.shiftRight_eq_div_pow]
    obtain rfl | rfl | rfl := hlo <;> omega
  rw [he]
  obtain h | h | h : w.toNat % 2 ^ 31 / 2 ^ lo % 4 = 0 ∨ w.toNat % 2 ^ 31 / 2 ^ lo % 4 = 1 ∨ w.toNat % 2 ^ 31 / 2 ^ lo % 4 = 2 := by
    omega
  all_goals rw [h]; decide

/-- A vector syllable takes at most 1024 bits. -/
theorem sylWidth_le {w : BitVec 32} {e : Byte} {i : Instr} (h : decodeSyllable w e = .ok i) (hv : engineOf (majorOf w) = 2) :
    sylWidth w ≤ 1024 := by
  have hr := (syl_of_decode h).2
  have hm := majorOf_eq w
  have hmod : w.toNat % 2 ^ 31 / 2 ^ 27 % 16 = majorOf w := by omega
  unfold rawSyllable at hr
  rw [hmod] at hr
  obtain h6 | h7 | h8 : majorOf w = 6 ∨ majorOf w = 7 ∨ majorOf w = 8 := by
    unfold engineOf at hv
    grind
  · rw [h6] at hr
    rw [sylWidth, h6]
    exact width_of_field (by decide) (widthOf_lt (isSome_of_bind hr))
  · rw [h7] at hr
    rw [sylWidth, h7]
    exact width_of_field (by decide) (widthOf_lt (isSome_of_bind hr))
  · rw [h8] at hr
    rw [sylWidth, h8]
    exact width_of_field (by decide) (widthOf_lt (isSome_of_bind hr))

/-- The one own syllable of a bundle of one word that is no header. -/
theorem bundleSyls_lone {pc : W64} {w : BitVec 32} {i : Instr} (h : decodeSyllable w 0 = .ok i) :
    bundleSyls pc [w] = [loneSyl pc w i] := by
  have hm := majorOf_le_of_syllable h
  have hh : headerOf [w] = none := if_neg (by omega)
  unfold bundleSyls bodyOf
  rw [hh]
  have hd : (decodeSyllable w 0).toOption = some i := by rw [h]; rfl
  simp [wordsAt, lentBytes, ownSyls, loneSyl]
  exact hd

theorem headerOf_syllable {w : BitVec 32} {e : Byte} {i : Instr} (h : decodeSyllable w e = .ok i) : headerOf [w] = none :=
  if_neg (by have := majorOf_le_of_syllable h; omega)

theorem bundleFault_lone {pc : W64} {w : BitVec 32} {i : Instr} (h : decodeSyllable w 0 = .ok i) (hs : stopped [w] = true)
    (hy : holdBit w = true → ∀ f ∈ vsrcFields w, f ≠ 32 ∧ f ≠ 33) : bundleFault pc [w] [loneSyl pc w i] [] = none := by
  have hm := majorOf_le_of_syllable h
  have h2 : shapeFault pc [w] = none := by
    unfold shapeFault bodyOf
    rw [hs, headerOf_syllable h]
    have hl : 1 ≤ engineLimit (engineOf (majorOf w)) := by
      unfold engineLimit
      split <;> [omega; split <;> omega]
    simp [wordsAt]
    omega
  have h3 : codeFault pc [w] [loneSyl pc w i] = none := by
    unfold codeFault
    rw [headerOf_syllable h]
    simpa [loneSyl] using hy
  have h4 : widthFault pc [loneSyl pc w i] [] = none := by
    unfold widthFault
    dsimp only
    refine if_neg ?_
    by_cases hv : engineOf (majorOf w) = 2
    · have := sylWidth_le h hv
      simp [loneSyl, hv]
      omega
    · simp [loneSyl, hv]
  unfold bundleFault
  rw [h2, h3, h4]
  rfl

/-- A held syllable repeats in no bundle of a core that holds none. -/
theorem Core.repeats_of_not_held {k : Core} (h : k.held = .replicate 2 none) (base : W64) (own : List Syl) :
    k.repeats base own = [] := by
  unfold Core.repeats
  rw [h]
  simp

theorem headerOf_header {w : BitVec 32} {i : Instr} (h : decodeHeader w = .ok i) : headerOf [w] = some w := by
  have hm := majorOf_eq w
  unfold decodeHeader at h
  dsimp only at h
  split at h
  · exact absurd h nofun
  · exact if_pos (by omega)

/-- The header's instruction is what `retire` executes of it (R106, R119). -/
theorem nop_of_header {w : BitVec 32} {i : Instr} (h : decodeHeader w = .ok i) :
    i = .nop (bitAt w 26) (bits w 16 8) (bits w 8 8) (bits w 0 8) ∧ fieldNat w 24 2 = 0 := by
  unfold decodeHeader at h
  dsimp only at h
  split at h
  · exact absurd h nofun
  · split at h
    · exact absurd h nofun
    · next h24 =>
      obtain rfl := Except.ok.inj h
      refine ⟨?_, ?_⟩
      · have hf : flag (w.toNat % 2 ^ 31) 26 = bitAt w 26 := by
          rw [bitAt, BitVec.getLsbD, Nat.testBit_eq_decide_div_mod_eq, flag]
          have he : w.toNat % 2 ^ 31 / 2 ^ 26 % 2 = w.toNat / 2 ^ 26 % 2 := by omega
          rw [he]
          rfl
        have hb (lo : Nat) (hlo : lo = 0 ∨ lo = 8 ∨ lo = 16) : (fld (w.toNat % 2 ^ 31) lo 8 : BitVec 8) = bits w lo 8 := by
          refine BitVec.eq_of_toNat_eq ?_
          rw [bits, BitVec.extractLsb'_toNat, fld, BitVec.toNat_ofNat, Nat.shiftRight_eq_div_pow]
          obtain rfl | rfl | rfl := hlo <;> omega
        rw [hf, hb 16 (by decide), hb 8 (by decide), hb 0 (by decide)]
      · rw [fieldNat, Nat.shiftRight_eq_div_pow]
        omega

theorem bundleSyls_header {pc : W64} {w : BitVec 32} {i : Instr} (h : decodeHeader w = .ok i) : bundleSyls pc [w] = [] := by
  unfold bundleSyls bodyOf
  rw [headerOf_header h]
  rfl

theorem bundleFault_header {pc : W64} {w : BitVec 32} {i : Instr} (h : decodeHeader w = .ok i) (hs : stopped [w] = true) :
    bundleFault pc [w] [] [] = none := by
  have h2 : shapeFault pc [w] = none := by
    unfold shapeFault bodyOf
    rw [hs, headerOf_header h]
    rfl
  have h3 : codeFault pc [w] [] = none := by
    unfold codeFault
    rw [headerOf_header h]
    simp [(nop_of_header h).2]
  unfold bundleFault
  rw [h2, h3]
  rfl

/-! ## Its issue (R76, R102, R104) -/

theorem State.enter_cur (s : State) (y : Syl) : (s.enter y).dev.cur = s.dev.cur := rfl

/-- A syllable that takes effect and does not wait adds its effects to the tally. -/
theorem Tally.add_next {t : Tally} {y : Syl} {i : Instr} {r : State} (hi : y.instr = some i)
    (he : exec i (t.st.enter y) = .next r)
    (hr : (r.me.run = .running ∧ r.me.bun.hold = none) ∨ (∃ x, i = .halt x ∧ r.me.run = .halted)) :
    t.add y = { t with st := r } := by
  have hs : t.st.runSyl y = r := by
    unfold State.runSyl
    simp only [hi, he]
  unfold Tally.add
  dsimp only
  rw [hs]
  obtain ⟨hr, hh⟩ | ⟨x, rfl, hr⟩ := hr
  · simp only [hr, hh]
  · simp only [hr, hi]
    rfl

theorem sylOrder_single (y : Syl) : sylOrder [y] = [y] := by
  have hr : y.rank = 0 ∨ y.rank = 1 ∨ y.rank = 2 ∨ y.rank = 3 := by
    unfold Syl.rank
    split
    case h_8 => split <;> [decide; split <;> decide]
    all_goals decide
  unfold sylOrder
  obtain hr | hr | hr | hr := hr <;> simp [List.range_succ, hr]

/-- A bundle of one syllable that takes effect, and does not wait, issues. -/
theorem State.tryBundle_single {s r : State} {y : Syl} {i : Instr} (hi : y.instr = some i)
    (he : exec i ((s.readTable [y]).enter y) = .next r)
    (hr : (r.me.run = .running ∧ r.me.bun.hold = none) ∨ (∃ x, i = .halt x ∧ r.me.run = .halted)) :
    s.tryBundle [y] [] = .go r := by
  unfold State.tryBundle
  dsimp only
  rw [ite_self, List.append_nil, sylOrder_single, List.foldl_cons, Tally.add_next hi he hr]
  rfl

theorem State.tryBundle_nil (s : State) : s.tryBundle [] [] = .go s := by
  unfold State.tryBundle
  dsimp only
  rw [ite_self]
  rfl

/-! ## What a bundle leaves (R31, R114, R119) -/

theorem State.retire_syllable (s : State) (pre : Core) {ws : List (BitVec 32)} (ys : List Syl) (h : headerOf ws = none) :
    s.retire pre ws ys = s.retire pre [] ys := by
  unfold State.retire
  rw [h]
  rfl

theorem State.retire_header {s r : State} (pre : Core) {w : BitVec 32} {i : Instr} (h : decodeHeader w = .ok i)
    (he : exec i s = .next r) (hc : r.dev.cur = s.dev.cur) : s.retire pre [w] [] = r.retire pre [] [] := by
  obtain ⟨rfl, -⟩ := nop_of_header h
  unfold State.retire
  rw [headerOf_header h, ← hc]
  simp only [he]
  rfl

theorem Core.holdsAfter_keeps (k pre : Core) (ys : List Syl) :
    (k.holdsAfter pre ys).bun = k.bun ∧ (k.holdsAfter pre ys).ctx = k.ctx ∧ (k.holdsAfter pre ys).clk = k.clk := by
  refine List.foldlRecOn (motive := fun x : Core => x.bun = k.bun ∧ x.ctx = k.ctx ∧ x.clk = k.clk) ys _
    ⟨rfl, rfl, rfl⟩ fun x hx y _ => ?_
  split
  · split <;> exact hx
  · exact hx

/-- A core after a bundle that takes no transfer, its holds and the next bundle's address with it (`State.retire`). -/
def Core.goesOn (k pre : Core) (ys : List Syl) : Core :=
  let k := k.holdsAfter pre ys
  if pre.priv then k.modCtx fun x => { x with pc := k.bun.next } else k.advance

/-- Out of every loop, a core goes on at the next bundle. -/
theorem Core.goesOn_next (k pre : Core) (ys : List Syl) (hl : k.ctx.loops = []) (hp : k.bun.pushed = false) :
    (k.goesOn pre ys).ctx.pc = k.bun.next ∧ (k.goesOn pre ys).clk.cycle = k.clk.cycle ∧ (k.goesOn pre ys).clk.unf = k.clk.unf := by
  obtain ⟨h1, h2, h3⟩ := k.holdsAfter_keeps pre ys
  unfold Core.goesOn
  dsimp only
  split
  · exact ⟨congrArg BundleCtx.next h1, congrArg Clk.cycle h3, congrArg Clk.unf h3⟩
  · unfold Core.advance
    rw [h1, h2, hl, hp]
    exact ⟨rfl, congrArg Clk.cycle h3, congrArg Clk.unf h3⟩

/-- What a bundle that takes no transfer and ends no task leaves: the next address, and one bundle more (R31, R101). -/
theorem State.retire_next {r : State} {c : CoreId} (pre : Core) (ys : List Syl) (hc : r.dev.cur.core = c)
    (ht : (r.core c).bun.taken = false) (he : (r.core c).bun.exiting = false) (hl : (r.core c).ctx.loops = [])
    (hp : (r.core c).bun.pushed = false) :
    ((r.retire pre [] ys).core c).ctx.pc = (r.core c).bun.next ∧
      ((r.retire pre [] ys).core c).clk.cycle = (r.core c).clk.cycle ∧ ((r.retire pre [] ys).core c).clk.unf = (r.core c).clk.unf := by
  subst hc
  have hm : r.core r.dev.cur.core = r.me := rfl
  rw [hm] at ht he hl hp ⊢
  unfold State.retire
  simp only [headerOf, State.me_modMe, ht, he, Bool.false_eq_true, ↓reduceIte, Bool.false_and]
  have hcore (f g : Core → Core) : ((r.modMe f).modMe g).core r.dev.cur.core = g (f r.me) :=
    (State.me_modMe (r.modMe f) g).trans (congrArg g (State.me_modMe r f))
  rw [hcore]
  refine Core.goesOn_next _ pre ys ?_ ?_
  · exact hl
  · exact hp

/-- R31, R119: a bundle that takes no transfer goes on at the next address, and the clock is counted. -/
theorem tick_retire {r v : State} {pre : Core} {c : CoreId} {ys : List Syl} (hc : r.dev.cur.core = c)
    (ht : (r.core c).bun.taken = false) (he : (r.core c).bun.exiting = false) (hl : (r.core c).ctx.loops = [])
    (hp : (r.core c).bun.pushed = false) (hv : v = (r.retire pre [] ys).tick c false) :
    (v.core c).ctx.pc = (r.core c).bun.next ∧ (v.core c).clk.cycle = (r.core c).clk.cycle + 1 ∧
      (v.core c).clk.unf = (r.core c).clk.unf + 1 := by
  obtain ⟨h1, h2, h3⟩ := State.retire_next pre ys hc ht he hl hp
  subst hv
  unfold State.tick
  rw [State.core_modCore_same]
  exact ⟨h1, congrArg (· + 1) h2, congrArg (· + 1) h3⟩

/-! ## A core's turn -/

/-- A clock at whose boundary nothing is taken, and in which nothing freezes the core, issues the bundle that it fetches. -/
theorem State.clock_issues {u : State} {c : CoreId} {ws : List (BitVec 32)} (hg : (u.core c).clk.gap = 0) (hb : u.boundary c = none)
    (hw : (u.core c).wents = [] ∨ (u.core c).frozen = false) (hl : (u.core c).lateLoad = false) (hr : (u.core c).run = .running)
    (hf : (clockOf u c).fetchBundle c (u.core c).ctx.pc.toNat = .words ws) :
    u.clock c = (clockOf u c).issueBundle (u.modCore c Core.landDue) u c ws := by
  have hs : u.unstick c = u := by
    have hk : u.stuck c = [] ∨ (u.core c).wents = [] := by
      refine hw.symm.imp (fun h => ?_) id
      simp [State.stuck, hr, h]
    unfold State.unstick
    obtain hk | hk := hk <;> simp [hk]
  have hd : u.readDue c = u := by
    unfold State.readDue
    rw [hl]
    rfl
  unfold State.clock
  have hu : (u.onDev fun s => (s.unstick c).readDue c) = u := by
    unfold State.onDev
    dsimp only
    rw [hs, hd]
  simp only [hu, hg, hb, ↓reduceIte]
  unfold State.clockOn
  simp only [hl, hg, Bool.false_eq_true, ne_eq, not_true_eq_false, ↓reduceIte]
  change (match (clockOf u c).fetchBundle c (u.core c).ctx.pc.toNat with
    | .fault _ _ => _
    | .wait _ => _
    | .words ws => (clockOf u c).issueBundle (u.modCore c Core.landDue) u c ws) = _
  rw [hf]

/-- What a bundle of one word leaves in the clock in which it issues. -/
theorem State.issueBundle_go {t u s r : State} {c : CoreId} {pc : W64} {w : BitVec 32} {own : List Syl}
    (hpc : (t.core c).ctx.pc = pc) (ho : bundleSyls pc [w] = own) (hh : (t.core c).held = .replicate 2 none)
    (hf : bundleFault pc [w] own [] = none) (hg : (opens t pc).tryBundle own [] = .go r) :
    t.issueBundle u s c [w] = ((r.retire (opens t pc).me [w] own).modImem c fun m => { m with waiting := none }).tick c false := by
  have hb : t.modBun (fun _ => { Reset.bundle with base := pc, next := pc + w64 (4 * [w].length), single := [w].length == 1 }) =
      opens t pc := rfl
  unfold State.issueBundle
  simp only [hpc, ho, Core.repeats_of_not_held hh, hf, hb, hg]

/-- A turn of a core that works is its clock, and what follows it. -/
theorem step_core {s u : State} {ts : List Turn} {c : CoreId} (ht : s.dev.turns = .core c :: ts) (ho : s.dev.board.off = false)
    (hu : u = turnOf s ts { s.dev.cur with core := c }) (hr : (u.core c).run = .running) :
    step s = .next ((((u.clock c).onDev fun s => s.pairUp c).onDev fun s => (s.releaseCore c).reapHalted c).flush) := by
  rw [step_of_on ht ho]
  subst hu
  change Host.Outcome.next (State.flush (State.coreTurn (turnOf s ts { s.dev.cur with core := c }) c)) = _
  unfold State.coreTurn
  rw [if_pos hr]

theorem clockOf_cur (u : State) (c : CoreId) : (clockOf u c).dev.cur = u.dev.cur := State.matTick_cur (u.modCore c Core.landDue) c

/-- A core's turn in which a bundle of one word issues, with the effects `r`. -/
theorem step_fetches {s u t r : State} {ts : List Turn} {c : CoreId} {pc : W64} {w : BitVec 32} {own : List Syl}
    (h : Fetches s u t ts c pc [w]) (ho : bundleSyls pc [w] = own) (hf : bundleFault pc [w] own [] = none)
    (hg : (opens t pc).tryBundle own [] = .go r) (q : State) (hq : r.retire (opens t pc).me [w] own = q.retire (opens t pc).me [] own) :
    step s = .next (clockEnds q (opens t pc).me c own) := by
  obtain ⟨hts, hoff, hu, hrun, hgap, hbd, hfz, hll, htt, hpc, hpc', hfb, hst, hheld⟩ := h
  have hk : u.core c = s.core c := by rw [hu]; rfl
  rw [step_core hts hoff hu (by rw [hk]; exact hrun)]
  rw [State.clock_issues (by rw [hk]; exact hgap) hbd (by rw [hk]; exact hfz) (by rw [hk]; exact hll) (by rw [hk]; exact hrun)
    (by rw [hk, ← hpc, ← htt]; exact hfb), ← htt]
  rw [State.issueBundle_go hpc' ho hheld hf hg, hq]
  rfl

end Sys2Proof.Machine
/-! A step runs the decoded instruction (R99, R269, R343, R349, R387, R411; log 1). -/

namespace Sys2Proof.Machine

open Sys2Proof.Claims

/-- The core of a turn is the one that its bundle issues on. -/
theorem cur_of_fetches {s u t : State} {ts : List Turn} {c : CoreId} {pc : W64} {ws : List (BitVec 32)}
    (h : Fetches s u t ts c pc ws) : t.dev.cur.core = c := by
  obtain ⟨-, -, rfl, -, -, -, -, -, rfl, -⟩ := h
  rw [clockOf_cur]
  rfl

/-- A core's turn runs the syllable of a bundle of one word. -/
theorem step_syllable {s u t e r : State} {ts : List Turn} {c : CoreId} {w : BitVec 32} {i : Instr} {pc : W64}
    (h : Fetches s u t ts c pc [w]) (hd : decodeSyllable w 0 = .ok i)
    (hy : holdBit w = true → ∀ f ∈ vsrcFields w, f ≠ 32 ∧ f ≠ 33)
    (he : e = ((opens t pc).readTable [loneSyl pc w i]).enter (loneSyl pc w i)) (hx : exec i e = .next r)
    (hr : ((r.core c).run = .running ∧ (r.core c).bun.hold = none) ∨ (∃ x, i = .halt x ∧ (r.core c).run = .halted)) :
    step s = .next (clockEnds r (opens t pc).me c [loneSyl pc w i]) := by
  have hst : stopped [w] = true := by
    obtain ⟨-, -, -, -, -, -, -, -, -, -, -, -, hst, -⟩ := h
    exact hst
  have hc : r.dev.cur.core = c := by
    rw [exec_cur (syl_of_decode hd).1 hx, he, State.enter_cur, State.readTable_cur]
    exact cur_of_fetches (t := t) h
  subst hc
  subst he
  exact step_fetches h (bundleSyls_lone hd) (bundleFault_lone hd hst hy) (State.tryBundle_single rfl hx hr) r
    (State.retire_syllable _ _ _ (headerOf_syllable hd))

/-- A core's turn runs the header of a bundle that is one alone. -/
theorem step_header {s u t r : State} {ts : List Turn} {c : CoreId} {w : BitVec 32} {i : Instr} {pc : W64}
    (h : Fetches s u t ts c pc [w]) (hd : decodeHeader w = .ok i) (hx : exec i (opens t pc) = .next r) :
    step s = .next (clockEnds r (opens t pc).me c []) := by
  have hst : stopped [w] = true := by
    obtain ⟨-, -, -, -, -, -, -, -, -, -, -, -, hst, -⟩ := h
    exact hst
  have hs : i.syl.isSome = true := by
    obtain ⟨rfl, -⟩ := nop_of_header hd
    rfl
  exact step_fetches h (bundleSyls_header hd) (bundleFault_header hd hst) (State.tryBundle_nil _) r
    (State.retire_header _ hd hx (exec_cur hs hx))

/-- Settles O56, turn by turn: what the turn's checks leave is `exec` of the decoded instruction (`step_queue`, `step_sampler`,
`step_event`, `step_syllable`, `step_header`). -/
theorem stepRunsDecoded : Obligations.StepRunsDecoded := by
  unfold Obligations.StepRunsDecoded
  refine ⟨?_, ?_, ?_, ?_, ?_, ?_, ?_, ?_⟩
  · rintro s ts t q n i ht ho hc hs hq hpc ⟨w, hw, h4, h12⟩ hd
    exact step_queue ht ho hc hs hq hpc hw h4 h12 hd
  · intro s ts t q ht ho h
    exact step_queue_idle ht ho h
  · intro s ts k j r i ht ho hc hh hj hr hs hd
    exact step_sampler ht ho hc hh hj hr hs hd
  · intro s ts i w ht ho hc hi
    exact step_event ht ho hc hi
  · intro s u t e r ts c w i pc h hd hy he hx hr
    exact step_syllable h hd hy he hx hr
  · intro s u t r ts c w i pc h hd hx
    exact step_header h hd hx
  · intro r v pre c ys hc ht he hl hp hv
    exact tick_retire hc ht he hl hp hv
  · intro s t ts ht ho
    exact step_off ht ho

end Sys2Proof.Machine
